-- ==== Sys2Proof/Word.lean ====
section
/-! DEFINITION. The word types of the machine and their plainest arithmetic (R3, R57, R64). -/

namespace Sys2Proof

/-- One byte of memory, of the pad or of a vector. -/
abbrev Byte := BitVec 8

/-- A scalar, an instruction word, a control register: 64 bits (R57, R64). -/
abbrev Word := BitVec 64

/-- A vector value: 4096 bits (R64, R211). -/
abbrev Vec := BitVec 4096

/-- Bits [lo + w - 1 : lo] of a bit vector, as a number (R3). -/
def bitsNat {n : Nat} (x : BitVec n) (lo w : Nat) : Nat := (x.toNat >>> lo) % 2 ^ w

/-- `x` with bits [lo + w - 1 : lo] replaced by the low `w` bits of `v` (R3). -/
def setBits {n : Nat} (x : BitVec n) (lo w v : Nat) : BitVec n :=
  BitVec.ofNat n (x.toNat - (bitsNat x lo w <<< lo) + ((v % 2 ^ w) <<< lo))

/-- A number read as a two's complement integer of `w` bits (R23). -/
def toSigned (w v : Nat) : Int :=
  let u := v % 2 ^ w
  if 2 * u < 2 ^ w then (u : Int) else (u : Int) - (2 ^ w : Nat)

/-- The low `w` bits of an integer, as a number (R24). -/
def wrapNat (w : Nat) (i : Int) : Nat := (i % (2 ^ w : Nat)).toNat

/-- Little-endian: the number held by a list of bytes, lowest address first (R3). -/
def bytesToNat : List Byte → Nat
  | [] => 0
  | b :: bs => b.toNat + 256 * bytesToNat bs

/-- Little-endian: the `n` bytes of a number, lowest address first (R3). -/
def natToBytes : Nat → Nat → List Byte
  | 0, _ => []
  | n + 1, v => BitVec.ofNat 8 (v % 256) :: natToBytes n (v / 256)

/-- The number rounded up to a multiple of `m` (`m` positive). -/
def ceilDiv (a m : Nat) : Nat := (a + m - 1) / m

end Sys2Proof
end

