-- ==== Sys2Proof/Syntax.lean ====
section
/-! DEFINITION. The syntax of the machine's steps: `Instr` has one constructor for every row of
spec/opcode_table.json. The encoded instructions carry the fields of their word form (R57, R58); the other rows,
which have no encoding, act on the agent in focus (`Agent`) and carry what else the step names: a second unit, a
value that arrives from outside, a choice of the service. The constructors with fields come first. -/

namespace Sys2Proof

/-- Base form (R57) without OP and FN, which the constructor fixes. -/
structure BaseF where
  ty : BitVec 4
  a : BitVec 8
  b : BitVec 8
  c : BitVec 8
  mod : BitVec 24
  deriving DecidableEq, Repr

/-- Form I (R58). `fn` is kept where FN holds options (`ld`, `st`). -/
structure ImmF where
  fn : BitVec 4
  ty : BitVec 4
  a : BitVec 8
  b : BitVec 8
  imm : BitVec 32
  deriving DecidableEq, Repr

/-- Form B (R58) with the specifiers of its CARRY words (R62); NC is the length of `carry`. -/
structure BrF where
  cond : BitVec 8
  off : BitVec 32
  carry : List (BitVec 8)
  deriving DecidableEq, Repr

/-- Form E (R58, R59). `fn` is kept where FN holds options. -/
structure EngF where
  fn : BitVec 4
  ty : BitVec 4
  a : BitVec 8
  b : BitVec 8
  c : BitVec 8
  wf : BitVec 5
  wn : BitVec 3
  sf : BitVec 5
  sn : BitVec 3
  efl : BitVec 8
  deriving DecidableEq, Repr

/-- Who takes a step: core `g` (0 to 127 are the user cores, die × 16 + core, R11; 128 + d is the service core of
die d), the stream front end of partition `p` (R15), die `d` as a whole (its translator, its service, its root of
trust), or window entry `n` of partition `p` (R92). -/
inductive Agent where
  | core (g : Nat)
  | sfe (p : Nat)
  | die (d : Nat)
  | entry (p n : Nat)
  deriving DecidableEq, Repr

/-- The three engines and their queues (R183). -/
inductive Eng where
  | m | v | c
  deriving DecidableEq, Repr

/-- A fault of the translator (R148), with the checks of R68 and R75 that a code word can fail. -/
inductive CodeFault where
  | heap | illegal | operand | carry | cls | notPresent | integrity | patch | priv | prot
  deriving DecidableEq, Repr

/-- A cache whose sectors the ordering machine may move (R253, R256). -/
inductive CacheId where
  | lsc (g : Nat)
  | rdc (d : Nat)
  | l2
  deriving DecidableEq, Repr

/-- Where a blocking wait stands: in the sequencer, or at the head of a queue (R184, R225, R309). -/
inductive WaitSite where
  | seq
  | head (q : Eng)
  deriving DecidableEq, Repr

/-- A 64-bit word of SRAM in which a double error is found (R346, R347): of a core's pad, of its local-store cache,
of a die's RDC, of an L2 (`sec` numbers a 64-byte sector and `k` a word of it), or of entry `i` of a channel or of an
engine queue of a core. -/
inductive SramWord where
  | chan (g ch i k : Nat)
  | cmd (g : Nat) (q : Eng) (i : Nat)
  | acc (g i : Nat)
  | pad (g sec k : Nat)
  | lsc (g sec k : Nat)
  | rdc (d sec k : Nat)
  | l2 (d sec k : Nat)
  deriving DecidableEq, Repr

/-- The choices of the service when it loads a code object (R46, R48): the object id (R142), the address bias, and
the page-table entries it writes (physical address, entry). -/
structure LoadPlan where
  objId : Nat
  bias : Nat
  ptes : List (Nat × Word)
  deriving DecidableEq, Repr

/-- The choices of the service when it maps pages for system calls 2 and 4 (R371): the address it returns and the
page-table entries it writes. -/
structure AllocPlan where
  va : Nat
  ptes : List (Nat × Word)
  deriving DecidableEq, Repr

/-- What a die's boot finds (R364): the mask of physical cores that pass the test, the bytes of its ROM and of the fuses
beside part number and stepping, the digests of service image and configuration, and the image's signature. -/
structure BootInfo where
  passed : BitVec 17
  rom : List Byte
  imageDigest : BitVec 256
  signature : List Byte
  configDigest : BitVec 256
  deriving DecidableEq, Repr

/-- Every step of the machine: one constructor per row of spec/opcode_table.json. -/
inductive Instr where
  /-- LAUNCH_RECORD (R370). A 128-byte launch record and its code object arrive on the control endpoint; the service checks them and accepts or refuses the launch. -/
  | launchRecord (msg : List Byte) (plan : LoadPlan)
  /-- TRANSLATION_FAULT (R74). Control reaches an instruction that faulted in translation, and its fault is reported as a trap. -/
  | translationFault (f : CodeFault)
  /-- EMULATE_CALL (R156). An execution of an instruction matched by an EMULATE slot runs the slot's routine in its place. -/
  | emulateCall (slot : Nat) (w : Word)
  /-- ENGINE_COMMAND_START (R184). The command at the head of MQ, VQ or CQ is examined for its wait and starts, subtracting WN, once it may. -/
  | engineCommandStart (g : Nat) (q : Eng)
  /-- COMMAND_COMPLETE (R185). An engine command whose reads and writes have all performed completes. -/
  | commandComplete (g : Nat) (q : Eng) (k : Nat)
  /-- COMMAND_KILL (R186). An engine command that meets an uncorrectable error or poison is killed and completes with the error signal. -/
  | commandKill (g : Nat) (q : Eng) (k : Nat) (ecode : BitVec 6)
  /-- GANG_FORMED (R208). When every member's mm.gang has reached its MQ head, the gang forms and its bridle latches open. -/
  | gangFormed (d row : Nat)
  /-- COPY_FAULT (R268). A copy element access that faults PAGE, PROT or POISON stops the command with its tag STOPPED, and the task traps. -/
  | copyFault (g k : Nat)
  /-- WAIT_BOUND_EXPIRY (R309). A blocking wait's stall counter exceeds 2^B and the wait traps WAITBOUND. -/
  | waitBoundExpiry (g : Nat) (site : WaitSite)
  /-- TEAM_BAR_COMPLETE (R290). A team barrier generation completes when the last member arrives, and every waiter acquires. -/
  | teamBarComplete (p : Nat) (key : Nat)
  /-- STORE_MOVE (R256). A store that has left SQ moves into the next cache on its path. -/
  | storeMove (c : CacheId) (sec : Nat)
  /-- CACHE_WRITE_BACK (R256). A dirty sector of a local-store cache or RDC is written back toward its home. -/
  | cacheWriteBack (c : CacheId) (sec : Nat)
  /-- CACHE_LINE_DROP (R256). A clean line is dropped from a cache. -/
  | cacheLineDrop (c : CacheId) (sec : Nat)
  /-- PAGE_WALK (R259). A walk reads PTEs at their home L2 and resolves the access, or traps PAGE, PROT or POISON. -/
  | pageWalk (g : Nat) (va : Word)
  /-- SHOOTDOWN (R261). A write of SHOOT start invalidates the partition's TLBs and queues a tlb.inv marker at each core's CQ tail. -/
  | shootdown (d : Nat) (v : Word)
  /-- EVENT_DELIVERY (R315). An event arises and is delivered to the stream handler or the service, or is logged while the partition is descheduled. -/
  | eventDelivery (p : Nat) (typ : BitVec 8) (data : Word)
  /-- PARTITION_SCHEDULE (R311). A PSCHED write with SCHED = 1 schedules the partition, and its logged events are delivered. -/
  | partitionSchedule (p : Nat) (v : Word)
  /-- PARTITION_DESCHEDULE (R311). A PSCHED write with SCHED = 0 stops dispatch and every bound of the partition. -/
  | partitionDeschedule (p : Nat) (v : Word)
  /-- OWN_WRITE (R132). A write of OWN changes core and sector ownership, or traps OPERAND when a core or sector would have two owners. -/
  | ownWrite (p d : Nat) (v : Word)
  /-- XHEAP_WRITE (R144). A write of XHEAP resizes or moves the code heap, discarding translations when BASE changes or SIZE falls. -/
  | xheapWrite (d : Nat) (v : Word)
  /-- SPIN_WRITE (R377). A write of SPIN sets the pinned service memory, and traps after the die's first patch.ld. -/
  | spinWrite (d : Nat) (v : Word)
  /-- KEY_LOAD (R369). KEYCTL OP 1 loads 64 bytes of key material into a slot on every base die and increments its generation. -/
  | keyLoad (d : Nat) (k : BitVec 7)
  /-- KEY_CLEAR (R369). KEYCTL OP 2 clears a key slot and increments its generation. -/
  | keyClear (d : Nat) (k : BitVec 7)
  /-- ERRINJ_ARM (R357). A write of ERRINJ with ARM = 1 arms an injected error for one engine. -/
  | errinjArm (g : Nat) (v : Word)
  /-- ERRINJ_CANCEL (R357). A write of ERRINJ with ARM = 0 cancels a pending injection. -/
  | errinjCancel (g : Nat) (v : Word)
  /-- MEM_ALLOC (R371). System call 2 allocates zeroed pages with the given home and class. -/
  | memAlloc (plan : AllocPlan)
  /-- VIEW_MAP (R371). System call 4 returns a second, read-only mapping of an allocated region. -/
  | viewMap (plan : AllocPlan)
  /-- ENDPOINT_OPEN (R371). System call 5 opens an Ultra Ethernet endpoint and returns its handle. -/
  | endpointOpen (h : Nat)
  /-- ENDPOINT_MESSAGE_ARRIVAL (R315). A message arrives at an open endpoint, is queued and posts a TYPE 2 event. -/
  | endpointMessageArrival (h : Nat) (msg : List Byte)
  /-- SEND_DELIVERY_COMPLETE (R128). The endpoint's delivery service reports a t.send message complete, or reports a transport failure. -/
  | sendDeliveryComplete (p n : Nat) (ok : Bool)
  /-- GET_MEASUREMENTS (R367). The SPDM responder returns MEAS registers by index, or ERROR InvalidRequest. -/
  | getMeasurements (d : Nat) (idx : BitVec 8)
  /-- SPDM_UNSUPPORTED_REQUEST (R367). Any other SPDM request receives ERROR UnsupportedRequest. -/
  | spdmUnsupportedRequest (d : Nat) (code : BitVec 8)
  /-- WARM_RESET_READMIT (R352). The die reboots its service, retrains and is re-admitted, and its partitions receive TYPE 5 events. -/
  | warmResetReadmit (boot : BootInfo)
  /-- COLD_RESET (R364). Each die tests its cores, chooses a service core, measures and verifies its images, and starts the service. -/
  | coldReset (d : Nat) (boot : BootInfo)
  /-- UCIE_FLIT_FAILURE (R347). A flit that fails 16 retries fails its request with ECODE 2, and the link starts retraining. -/
  | ucieFlitFailure (d e : Nat) (g : Nat)
  /-- LINK_RETRAIN_END (R347). A failed UCIe link finishes retraining, and traffic on the edge resumes. -/
  | linkRetrainEnd (d e : Nat)
  /-- SRAM_UNCORRECTED_ERROR (R347). A double-bit SRAM error poisons the word and is counted in SRAMUE. -/
  | sramUncorrectedError (w : SramWord)
  /-- HBM_UNCORRECTED_ERROR (R347). An uncorrectable HBM error returns the sector poisoned, with ECODE 1. -/
  | hbmUncorrectedError (sec : Nat)
  /-- TIMING_REPLAY (R348). A shadow-latch detector sees a late transition, and the stage repeats its cycle at half clock. `q` is
  the queue, and the number in program order, of the command whose stage it is. -/
  | timingReplay (g : Nat) (q : Eng × Nat) (trips : Nat)
  /-- CLAIMED_INSTRUCTION (R154). A word with an opcode claimed by a patch slot executes as that slot defines it. -/
  | claimedInstruction (w : Word)
  /-- ENTER (R164). Begins a block, whose arguments take positions 0 to NARG − 1. -/
  | enter (f : BaseF)
  /-- BR (R165). Branches when COND is 0x00 or nonzero, carrying values to the target block. -/
  | br (f : BrF)
  /-- BR_Z (R165). Branches when COND is zero, carrying values to the target block. -/
  | brZ (f : BrF)
  /-- CALL (R166). Enters a block and pushes the return point onto the return stack. -/
  | call (f : BrF)
  /-- RET (R167). Pops the return stack and enters the return block with the carried values. -/
  | ret (f : BrF)
  /-- HALT (R163). Ends the task by draining its accesses and queues; in stream text it ends the stream. -/
  | halt (f : BaseF)
  /-- NOP (R168). Does nothing. -/
  | nop (f : BaseF)
  /-- KEEP (R168). Gives a value a new position. -/
  | keep (f : BaseF)
  /-- TRAP (R305). Raises a SOFT trap with an immediate and a value. -/
  | trap (f : ImmF)
  /-- SVC (R306). Traps SVC so that the service performs the system call and resumes. -/
  | svc (f : ImmF)
  /-- ADD (R170). Integer add, wrapping or saturating. -/
  | add (f : BaseF)
  /-- SUB (R170). Integer subtract. -/
  | sub (f : BaseF)
  /-- MUL (R170). Integer multiply. -/
  | mul (f : BaseF)
  /-- MULH (R170). High half of the integer product. -/
  | mulh (f : BaseF)
  /-- DIV (R170). Integer divide, truncating. -/
  | div (f : BaseF)
  /-- REM (R170). Integer remainder. -/
  | rem (f : BaseF)
  /-- MIN (R170). Integer minimum. -/
  | min (f : BaseF)
  /-- MAX (R170). Integer maximum. -/
  | max (f : BaseF)
  /-- ABS (R170). Integer absolute value. -/
  | abs (f : BaseF)
  /-- NEG (R170). Integer negation. -/
  | neg (f : BaseF)
  /-- AND (R171). Bitwise and. -/
  | and (f : BaseF)
  /-- OR (R171). Bitwise or. -/
  | or (f : BaseF)
  /-- XOR (R171). Bitwise xor. -/
  | xor (f : BaseF)
  /-- ANDN (R171). A and not B. -/
  | andn (f : BaseF)
  /-- NOT (R171). Bitwise not. -/
  | not (f : BaseF)
  /-- SHL (R172). Shift left. -/
  | shl (f : BaseF)
  /-- SHR (R172). Logical shift right. -/
  | shr (f : BaseF)
  /-- SAR (R172). Arithmetic shift right. -/
  | sar (f : BaseF)
  /-- ROT (R172). Rotate left. -/
  | rot (f : BaseF)
  /-- CLZ (R172). Count leading zeros. -/
  | clz (f : BaseF)
  /-- FFS (R172). Index of the lowest set bit. -/
  | ffs (f : BaseF)
  /-- POPC (R172). Count of set bits. -/
  | popc (f : BaseF)
  /-- EXT (R173). Extracts a bit field. -/
  | ext (f : BaseF)
  /-- CMP_EQ (R174). Integer compare for equality. -/
  | cmpEq (f : BaseF)
  /-- CMP_NE (R174). Integer compare for inequality. -/
  | cmpNe (f : BaseF)
  /-- CMP_LT (R174). Integer compare, less than. -/
  | cmpLt (f : BaseF)
  /-- CMP_LE (R174). Integer compare, less or equal. -/
  | cmpLe (f : BaseF)
  /-- CMP_GT (R174). Integer compare, greater than. -/
  | cmpGt (f : BaseF)
  /-- CMP_GE (R174). Integer compare, greater or equal. -/
  | cmpGe (f : BaseF)
  /-- SEL (R175). Selects B or C by A. -/
  | sel (f : BaseF)
  /-- LI (R176). Loads a sign-extended 32-bit immediate. -/
  | li (f : ImmF)
  /-- LI_Z (R176). Loads a zero-extended 32-bit immediate. -/
  | liZ (f : ImmF)
  /-- LI64 (R176). Loads a 64-bit literal with its LIT64 word. -/
  | li64 (f : BaseF) (lit : BitVec 56)
  /-- LD (R178). Loads from device memory or the pad. -/
  | ld (f : ImmF)
  /-- ST (R178). Stores to device memory or the pad. -/
  | st (f : ImmF)
  /-- LD_D (R179). Loads one element through a descriptor slot. -/
  | ldD (f : BaseF)
  /-- ST_D (R179). Stores one element through a descriptor slot. -/
  | stD (f : BaseF)
  /-- AMO_ADD (R283). Atomic add. -/
  | amoAdd (f : BaseF)
  /-- AMO_MIN (R283). Atomic minimum. -/
  | amoMin (f : BaseF)
  /-- AMO_MAX (R283). Atomic maximum. -/
  | amoMax (f : BaseF)
  /-- AMO_AND (R283). Atomic and. -/
  | amoAnd (f : BaseF)
  /-- AMO_OR (R283). Atomic or. -/
  | amoOr (f : BaseF)
  /-- AMO_XOR (R283). Atomic xor. -/
  | amoXor (f : BaseF)
  /-- AMO_SWAP (R283). Atomic swap. -/
  | amoSwap (f : BaseF)
  /-- CAS (R283). Atomic compare and swap. -/
  | cas (f : BaseF)
  /-- FENCE_ACQ (R280). Acquire fence at a scope. -/
  | fenceAcq (f : BaseF)
  /-- FENCE_REL (R280). Release fence at a scope. -/
  | fenceRel (f : BaseF)
  /-- FENCE_AR (R280). Release then acquire fence at a scope. -/
  | fenceAr (f : BaseF)
  /-- ALIGN (R281). Orders the task's accesses without moving them past their first storage. -/
  | align (f : BaseF)
  /-- CWB (R180). Writes back an address range at a scope. -/
  | cwb (f : BaseF)
  /-- CINV (R180). Writes back and invalidates an address range at a scope. -/
  | cinv (f : BaseF)
  /-- SEM_SIG (R189). Adds to a flag word's count. -/
  | semSig (f : BaseF)
  /-- SEM_SIG_ERR (R189). Signals an error on a flag word. -/
  | semSigErr (f : BaseF)
  /-- SEM_WAIT (R190). Waits on a flag word, subtracts n and yields the word. -/
  | semWait (f : BaseF)
  /-- SEM_WAIT_T (R190). As sem.wait, but traps ERRBIT when ERR is set. -/
  | semWaitT (f : BaseF)
  /-- SEM_CLR (R191). Clears ERR and ECODE of a flag word. -/
  | semClr (f : BaseF)
  /-- SEM_CLR_ALL (R191). Clears a whole flag word. -/
  | semClrAll (f : BaseF)
  /-- BAR_ARR (R285). Releases and arrives at a barrier word. -/
  | barArr (f : BaseF)
  /-- BAR_ARR_ERR (R285). Arrives at a barrier word and reports an error. -/
  | barArrErr (f : BaseF)
  /-- BAR_WAIT (R286). Waits for a barrier generation to complete, then acquires. -/
  | barWait (f : BaseF)
  /-- BAR_WAIT_T (R286). As bar.wait, but traps ERRBIT on ERR. -/
  | barWaitT (f : BaseF)
  /-- TEAM_JOIN (R288). Joins or creates a team record and waits for n members. -/
  | teamJoin (f : BaseF)
  /-- TEAM_LEAVE (R289). Leaves the task's team. -/
  | teamLeave (f : BaseF)
  /-- TEAM_BAR (R290). Releases and arrives at the team barrier. -/
  | teamBar (f : BaseF)
  /-- TRIG (R291). Lets dependents of an early t.map issue. -/
  | trig (f : BaseF)
  /-- SLEEP_GT (R272). Waits for a promised time and checks the copy, trapping PROMISE or ERRBIT. -/
  | sleepGt (f : BaseF)
  /-- SLEEP_GT_NT (R272). Waits for a promised time and the copy, and returns lateness and error. -/
  | sleepGtNt (f : BaseF)
  /-- VSEM_SIG (R228). Signals a flag word in VQ order. -/
  | vsemSig (f : BaseF)
  /-- VSEM_SIG_ERR (R228). Signals an error on a flag word in VQ order. -/
  | vsemSigErr (f : BaseF)
  /-- VSEM_WAIT (R229). Waits on a flag word in VQ order. -/
  | vsemWait (f : BaseF)
  /-- TD_SET (R87). Sets one descriptor field. -/
  | tdSet (f : BaseF)
  /-- TD_SET_REC (R87). Loads a whole 32-byte descriptor record into a slot. -/
  | tdSetRec (f : BaseF)
  /-- TD_GET (R87). Reads one descriptor field. -/
  | tdGet (f : BaseF)
  /-- PORT_SET (R218). Binds a read port to a slot and walk. -/
  | portSet (f : BaseF)
  /-- PORT_SET_W (R218). Binds a write port to a slot and walk. -/
  | portSetW (f : BaseF)
  /-- PORT_RST (R219). Rewinds a port to walk position 0. -/
  | portRst (f : BaseF)
  /-- PORT_RST_OFF (R219). Unbinds a port. -/
  | portRstOff (f : BaseF)
  /-- CHAN_CFG (R223). Configures a channel's formats and conversion. -/
  | chanCfg (f : BaseF)
  /-- PHASE (R252). Changes the split of the local store between pad and cache. -/
  | phase (f : BaseF)
  /-- VADD (R231). Lane-wise add. -/
  | vadd (f : BaseF)
  /-- VSUB (R231). Lane-wise subtract. -/
  | vsub (f : BaseF)
  /-- VMUL (R231). Lane-wise multiply. -/
  | vmul (f : BaseF)
  /-- VMIN (R231). Lane-wise minimum. -/
  | vmin (f : BaseF)
  /-- VMAX (R231). Lane-wise maximum. -/
  | vmax (f : BaseF)
  /-- VABS (R231). Lane-wise absolute value. -/
  | vabs (f : BaseF)
  /-- VNEG (R231). Lane-wise negation. -/
  | vneg (f : BaseF)
  /-- VFMA (R232). Fused A × B + C. -/
  | vfma (f : BaseF)
  /-- VFMS (R232). Fused A × B − C. -/
  | vfms (f : BaseF)
  /-- VFNMA (R232). Fused −(A × B) + C. -/
  | vfnma (f : BaseF)
  /-- VFNMS (R232). Fused −(A × B) − C. -/
  | vfnms (f : BaseF)
  /-- VAND (R233). Lane-wise and. -/
  | vand (f : BaseF)
  /-- VOR (R233). Lane-wise or. -/
  | vor (f : BaseF)
  /-- VXOR (R233). Lane-wise xor. -/
  | vxor (f : BaseF)
  /-- VANDN (R233). Lane-wise A and not B. -/
  | vandn (f : BaseF)
  /-- VNOT (R233). Lane-wise not. -/
  | vnot (f : BaseF)
  /-- VSHL (R234). Lane-wise shift left. -/
  | vshl (f : BaseF)
  /-- VSHR (R234). Lane-wise logical shift right. -/
  | vshr (f : BaseF)
  /-- VSAR (R234). Lane-wise arithmetic shift right. -/
  | vsar (f : BaseF)
  /-- VCLZ (R234). Lane-wise leading zero count. -/
  | vclz (f : BaseF)
  /-- VFFS (R234). Lane-wise index of the lowest set bit. -/
  | vffs (f : BaseF)
  /-- VPOPC (R234). Lane-wise count of set bits. -/
  | vpopc (f : BaseF)
  /-- VCMP_EQ (R235). Lane-wise compare for equality, giving a mask. -/
  | vcmpEq (f : BaseF)
  /-- VCMP_NE (R235). Lane-wise compare for inequality. -/
  | vcmpNe (f : BaseF)
  /-- VCMP_LT (R235). Lane-wise compare, less than. -/
  | vcmpLt (f : BaseF)
  /-- VCMP_LE (R235). Lane-wise compare, less or equal. -/
  | vcmpLe (f : BaseF)
  /-- VCMP_GT (R235). Lane-wise compare, greater than. -/
  | vcmpGt (f : BaseF)
  /-- VCMP_GE (R235). Lane-wise compare, greater or equal. -/
  | vcmpGe (f : BaseF)
  /-- VSEL (R236). Lane-wise select by A. -/
  | vsel (f : BaseF)
  /-- VMULH (R237). Lane-wise high half of the product. -/
  | vmulh (f : BaseF)
  /-- VBC (R238). Broadcasts a scalar to every lane. -/
  | vbc (f : BaseF)
  /-- VBC_LANE (R238). Broadcasts one lane of a vector to every lane. -/
  | vbcLane (f : BaseF)
  /-- VEXT (R239). Extracts a lane as a scalar. -/
  | vext (f : BaseF)
  /-- VINS (R240). Inserts a scalar into a lane. -/
  | vins (f : BaseF)
  /-- VPERM (R241). Permutes lanes by index. -/
  | vperm (f : BaseF)
  /-- VROT (R242). Rotates lanes. -/
  | vrot (f : BaseF)
  /-- VRED_SUM (R243). Tree sum of lanes. -/
  | vredSum (f : BaseF)
  /-- VRED_MIN (R243). Minimum of lanes. -/
  | vredMin (f : BaseF)
  /-- VRED_MAX (R243). Maximum of lanes. -/
  | vredMax (f : BaseF)
  /-- VRED_AND (R243). And of lanes. -/
  | vredAnd (f : BaseF)
  /-- VRED_OR (R243). Or of lanes. -/
  | vredOr (f : BaseF)
  /-- VRED_XOR (R243). Xor of lanes. -/
  | vredXor (f : BaseF)
  /-- VSCAN_SUM (R244). Prefix sum of lanes. -/
  | vscanSum (f : BaseF)
  /-- VSCAN_MIN (R244). Prefix minimum of lanes. -/
  | vscanMin (f : BaseF)
  /-- VSCAN_MAX (R244). Prefix maximum of lanes. -/
  | vscanMax (f : BaseF)
  /-- VPUT (R245). Writes a vector to a write port or pushes it to q1 or q3, blocking. -/
  | vput (f : BaseF)
  /-- VPUT_NB (R245). Writes or pushes a vector without waiting, and reports success. -/
  | vputNb (f : BaseF)
  /-- VTRY (R246). Pops a port or channel without waiting. -/
  | vtry (f : BaseF)
  /-- VCVT (R248). Converts lanes between types of equal width. -/
  | vcvt (f : BaseF)
  /-- VWID (R248). Converts lanes to a wider type, giving several results. -/
  | vwid (f : BaseF)
  /-- VNAR (R248). Converts lanes of several sources to a narrower type. -/
  | vnar (f : BaseF)
  /-- VEXP2 (R249). Correctly rounded 2^x per lane. -/
  | vexp2 (f : BaseF)
  /-- VLOG2 (R249). Correctly rounded log2 x per lane. -/
  | vlog2 (f : BaseF)
  /-- VRCP (R249). Correctly rounded 1/x per lane. -/
  | vrcp (f : BaseF)
  /-- VRSQ (R249). Correctly rounded 1/√x per lane. -/
  | vrsq (f : BaseF)
  /-- VSQRT (R249). Correctly rounded √x per lane. -/
  | vsqrt (f : BaseF)
  /-- VTANH (R249). Correctly rounded tanh x per lane. -/
  | vtanh (f : BaseF)
  /-- MM (R199). Multiplies two pad operands into an accumulator bank. -/
  | mm (f : EngF)
  /-- MM_DRAIN (R203). Drains a bank through the epilogue into the pad. -/
  | mmDrain (f : EngF)
  /-- MM_DRAIN_Q0 (R204). Drains a bank through the epilogue into channel q0. -/
  | mmDrainQ0 (f : EngF)
  /-- MM_GANG (R207). Forms a gang of 2 or 4 sectors. -/
  | mmGang (f : EngF)
  /-- MM_GANG_OFF (R210). Dissolves a gang. -/
  | mmGangOff (f : EngF)
  /-- CP (R267). Copies one tensor's elements to another, with conversion, and returns a promise. -/
  | cp (f : EngF)
  /-- CP_Q2 (R267). Copies a tensor into channel q2. -/
  | cpQ2 (f : EngF)
  /-- CP_Q3 (R267). Copies from channel q3 into a tensor. -/
  | cpQ3 (f : EngF)
  /-- CP_FILL (R269). Fills a tensor with one bit pattern. -/
  | cpFill (f : EngF)
  /-- CP_GATHER (R270). Gathers rows by index. -/
  | cpGather (f : EngF)
  /-- TLB_INV (R271). Invalidates cached translations for a range in CQ order. -/
  | tlbInv (f : EngF)
  /-- TLB_INV_ALL (R271). Invalidates every cached translation in CQ order. -/
  | tlbInvAll (f : EngF)
  /-- T_NEW (R115). Creates a logical tensor on a fresh PB. -/
  | tNew (f : BaseF)
  /-- T_FREE (R116). Frees a logical tensor. -/
  | tFree (f : BaseF)
  /-- T_VIEW (R117). Binds a logical tensor to a memory region. -/
  | tView (f : BaseF)
  /-- T_MAP (R120). Launches N tasks of a kernel. -/
  | tMap (n : BitVec 4) (f : BaseF) (tl args : List (BitVec 8))
  /-- T_COPY (R121). Copies and converts one logical tensor into another. -/
  | tCopy (n : BitVec 4) (f : BaseF)
  /-- T_FILL (R122). Fills a logical tensor. -/
  | tFill (f : BaseF)
  /-- T_READ (R123). Reads one element into the stream. -/
  | tRead (f : BaseF)
  /-- T_FENCE (R124). Waits for older entries and bounds speculation. -/
  | tFence (f : BaseF)
  /-- T_SYNC (R125). Stops decode until every older entry has retired. -/
  | tSync (f : BaseF)
  /-- T_SIGNAL_ADD (R126). Atomically adds to a word at its home L2. -/
  | tSignalAdd (f : BaseF)
  /-- T_SIGNAL_STORE (R126). Atomically writes a word at its home L2. -/
  | tSignalStore (f : BaseF)
  /-- T_SVC (R127). Makes a system call from the window. -/
  | tSvc (f : BaseF)
  /-- T_SEND (R128). Sends a tensor as one message on an endpoint. -/
  | tSend (f : BaseF)
  /-- T_RECV (R129). Takes the next message of an endpoint into a tensor. -/
  | tRecv (f : BaseF)
  /-- T_WAIT_EQ (R130). Waits until a word equals a value. -/
  | tWaitEq (f : BaseF)
  /-- T_WAIT_NE (R130). Waits until a word differs from a value. -/
  | tWaitNe (f : BaseF)
  /-- T_WAIT_GE (R130). Waits until a word is at least a value. -/
  | tWaitGe (f : BaseF)
  /-- ERET (R307). Returns from service code or an EMULATE routine with results. -/
  | eret (f : BaseF) (carry : List (BitVec 8))
  /-- ERET_RETRY (R307). Returns from a service trap handler and re-executes the instruction. -/
  | eretRetry (f : BaseF)
  /-- CSR_R (R304). Reads a control register. -/
  | csrR (f : BaseF)
  /-- CSR_W (R304). Writes a control register that has no behaviour of its own. -/
  | csrW (f : BaseF)
  /-- CODE_INV (R150). Discards translations overlapping a range of an object. -/
  | codeInv (f : BaseF)
  /-- CODE_INV_OBJ (R150). Discards every translation of an object. -/
  | codeInvObj (f : BaseF)
  /-- CODE_INV_ALL (R150). Discards every translation. -/
  | codeInvAll (f : BaseF)
  /-- SCAN_FRZ (R325). Freezes a widened set of sectors and their cores at once. -/
  | scanFrz (f : BaseF)
  /-- SCAN_FRZ_AT (R325). Freezes a set after n clk of the current mm. -/
  | scanFrzAt (f : BaseF)
  /-- SCAN_OUT (R327). Writes a scan image of a core. -/
  | scanOut (f : BaseF)
  /-- SCAN_IN (R328). Loads a scan image into a core. -/
  | scanIn (f : BaseF)
  /-- SCAN_RUN (R329). Thaws frozen sectors. -/
  | scanRun (f : BaseF)
  /-- PATCH_LD (R159). Verifies and loads a signed patch image into the die's slots. -/
  | patchLd (f : BaseF)
  /-- CTX_SCRUB (R318). Runs the drogue sequence and returns a core to IDLE. -/
  | ctxScrub (f : BaseF)
  /-- STREAM_END (R89). A stream end requested in stream text takes effect once every window entry has retired, and the exit status is reported. -/
  | streamEnd
  /-- ENTRY_ISSUE (R93). A window entry in WAIT issues in the first clk in which its issue condition holds, oldest first. -/
  | entryIssue
  /-- ENTRY_DONE (R92). An issued entry reaches DONE once its tasks have halted, its fills are done and its release has completed. -/
  | entryDone
  /-- ENTRY_FAULT (R92). An issued entry goes to FAULT when no task runs any more and a task trapped, a fill failed or a group can never be placed. -/
  | entryFault
  /-- ENTRY_RETIRE (R106). The oldest DONE entry retires, at most one per clk, and publishes its fresh destinations. -/
  | entryRetire
  /-- STREAM_TRAP (R106). The oldest entry in FAULT, or a deferred scalar-stream trap, discards younger work, restores the rename table and writes the stream trap record. -/
  | streamTrap
  /-- STREAM_COMPLETE (R108). The service re-dispatches only the tasks missing from the completed-task bitmap, and keeps the shadow PBs. -/
  | streamComplete
  /-- STREAM_RESTART (R108). The service frees the entry's PBs, draws new ones and issues the faulting instruction again from its start. -/
  | streamRestart
  /-- STREAM_KILL (R108). The service ends the stream after a stream trap. -/
  | streamKill
  /-- GLOBAL_DISPATCH (R133). With no transfer in progress, the global dispatcher selects a stream and a die and starts sending a batch of tasks. -/
  | globalDispatch
  /-- BATCH_ARRIVAL (R134). A batch transfer ends and its tasks enter the die dispatcher's ready queue for the stream. -/
  | batchArrival
  /-- TASK_START (R136). An idle owned user core takes the head task of its partition's ready queue and starts it. -/
  | taskStart
  /-- HALT_DRAIN_END (R163). Once halt's drain of LQ, SQ and the engine queues ends, it checks flag errors, counts as trig, leaves the team and completes the task. -/
  | haltDrainEnd
  /-- BLOCK_LOWER (R142). A first transfer of control to an untranslated block starts the die translator lowering that block. -/
  | blockLower
  /-- BLOCK_INSTALL (R143). A lowered block is installed in the translation index atomically, and the waiting cores run it. -/
  | blockInstall
  /-- QUEUE_PUSH (R183). A push waiting on a full MQ, VQ or CQ, or on a free copy tag, is made once there is room. -/
  | queuePush
  /-- PROMISE_TIME_REACHED (R272). The GTC reaches a sleep.gt's promised time; a copy not yet done traps PROMISE, or is waited for. -/
  | promiseTimeReached
  /-- SEM_WAIT_SATISFIED (R190). A waiting sem.wait finds COUNT ≥ n or ERR set, yields the word and acquires. -/
  | semWaitSatisfied
  /-- BAR_WAIT_POLL (R286). A bar.wait reads its barrier word again, at most 256 clk after the last read, and passes when the generation has changed. -/
  | barWaitPoll
  /-- T_WAIT_POLL (R130). A t.wait entry reads its word again at its home L2, at most 256 clk after the last read, and completes when its condition holds. -/
  | tWaitPoll
  /-- TEAM_JOIN_COMPLETE (R288). A waiting join completes when the team record holds n members, which fixes the ranks. -/
  | teamJoinComplete
  /-- TRIG_RELEASE (R291). Once older accesses and commands have completed, trig releases and marks the task triggered. -/
  | trigRelease
  /-- CHAN_CFG_PERFORM (R224). A chan.cfg at the VQ head performs once its channel is empty and the older users of the channel have completed. -/
  | chanCfgPerform
  /-- PHASE_MOVE (R252). After its drain, phase moves units between the pad and the cache and sets the new pad extent. -/
  | phaseMove
  /-- LOAD_PERFORM (R181). A load in LQ performs, by forwarding from SQ or from the first storage on its path that holds its bytes. -/
  | loadPerform
  /-- STORE_LEAVE_SQ (R181). The oldest store leaves SQ into the first storage on its path. -/
  | storeLeaveSq
  /-- RELEASE_COMPLETE (R275). A release moves the writes ordered before it to its scope point and completes. -/
  | releaseComplete
  /-- ACQUIRE_COMPLETE (R275). An acquire empties the storage below its scope point and completes. -/
  | acquireComplete
  /-- ATOMIC_PERFORM (R255). An atomic, barrier arrival or barrier read is performed as one access at the storage its scope and class select. -/
  | atomicPerform
  /-- SHOOTDOWN_COMPLETE (R261). The shootdown completes when every marker has completed on every core. -/
  | shootdownComplete
  /-- TQPOP (R299). A read of TQPOP pops the oldest trap record or note into TQBUF, or returns 0 when the queue is empty. -/
  | tqpop
  /-- EVPOP (R315). A read of EVPOP pops the oldest record of the partition's event log. -/
  | evpop
  /-- SLICE_EXPIRY (R311). The partition's slice timer reaches the effective slice, queues a SLICE note and restarts. -/
  | sliceExpiry
  /-- CCTL_RETRY (R302). CCTL RETRY re-executes the trapped instruction, or re-offers or continues the trapped command. -/
  | cctlRetry
  /-- CCTL_RESUME (R302). CCTL RESUME counts the trapped instruction or command as completed, with results from CRES. -/
  | cctlResume
  /-- CCTL_KILL (R302). CCTL KILL ends the task without completing, and it counts as trapped. -/
  | cctlKill
  /-- CCTL_DRAIN (R312). CCTL DRAIN stops the sequencer at its next boundary and lets started commands complete. -/
  | cctlDrain
  /-- CCTL_RELEASE (R300). CCTL RELEASE returns a saved or frozen core to IDLE, leaving its task detached. -/
  | cctlRelease
  /-- CCTL_START (R300). CCTL START runs a context loaded into an IDLE core. -/
  | cctlStart
  /-- DRAIN_END (R312). When every started command has completed, the draining core becomes SAVED. -/
  | drainEnd
  /-- DRAIN_LIMIT_FREEZE (R312). Under MODE 2, a drain that has not ended within DRAINLIM × 256 clk freezes the core's sector. -/
  | drainLimitFreeze
  /-- PREEMPTION_HOLD_END (R314). A held DRAIN or freeze takes effect when the context's QUANT reaches the effective slice. -/
  | preemptionHoldEnd
  /-- STREAM_CONTEXT_RESET (R317). Writing SCTL GO stops the SFE, discards the window, kills the partition's tasks and abandons its sends. -/
  | streamContextReset
  /-- STREAM_RESET_DONE (R317). Once every write of the context has been acknowledged, PGEN increments and DONE is set. -/
  | streamResetDone
  /-- KEY_OPERATION_END (R369). A key load or clear completes and BUSY clears. -/
  | keyOperationEnd
  /-- SCAN_FREEZE_DEFERRED (R325). A scan.frz.at freezes its set at the chosen wavefront clk, or at once with PASSED when the point is missed. -/
  | scanFreezeDeferred
  /-- SCAN_FREEZE_COMPLETE (R326). A freeze completes once every memory request sent by the frozen engines has been answered. -/
  | scanFreezeComplete
  /-- EXIT (R371). System call 0 ends the stream, at once by a stream-context reset when a task makes it. -/
  | exit
  /-- WRITE_LOG (R371). System call 1 writes up to 4,096 bytes to the log. -/
  | writeLog
  /-- MEM_FREE (R371). System call 3 frees an allocation and shoots it down. -/
  | memFree
  /-- ENDPOINT_CLOSE (R371). System call 6 closes an endpoint and drops its queued messages. -/
  | endpointClose
  /-- CTL_RECV (R371). System call 7 takes a waiting control message, or returns 0. -/
  | ctlRecv
  /-- CTL_SEND (R371). System call 8 sends a control message. -/
  | ctlSend
  /-- TOPOLOGY_QUERY (R378). System call 9 writes the 64-byte topology record. -/
  | topologyQuery
  /-- TIME_QUERY (R371). System call 10 returns the GTC, with bit 63 set in holdover. -/
  | timeQuery
  /-- SET_STREAM_HANDLER (R353). System call 11 sets or removes the stream handler and its buffer. -/
  | setStreamHandler
  /-- TASK_REPORT (R379). System call 12 writes the faulting entry's completed-task bitmap and ECODE. -/
  | taskReport
  /-- YIELD (R371). System call 13 gives up the rest of the slice. -/
  | yield
  /-- PATCH_QUERY (R371). System call 14 writes SEQ and the valid-slot mask of each die. -/
  | patchQuery
  /-- EVENT_POST (R371). System call 15 posts a TYPE 3 event to a partition. -/
  | eventPost
  /-- GET_VERSION (R367). The SPDM responder answers GET_VERSION. -/
  | getVersion
  /-- GET_CAPABILITIES (R367). The SPDM responder answers GET_CAPABILITIES. -/
  | getCapabilities
  /-- NEGOTIATE_ALGORITHMS (R367). The SPDM responder negotiates ML-DSA-44 and SHA3-256. -/
  | negotiateAlgorithms
  /-- GET_DIGESTS (R367). The SPDM responder answers GET_DIGESTS. -/
  | getDigests
  /-- GET_CERTIFICATE (R367). The SPDM responder answers GET_CERTIFICATE. -/
  | getCertificate
  /-- CHALLENGE (R367). The SPDM responder answers CHALLENGE. -/
  | challenge
  /-- READ_TEMPERATURE (R368). The board manager reads a die's temperature over MCTP. -/
  | readTemperature
  /-- READ_POWER (R368). The board manager reads a die's power over MCTP. -/
  | readPower
  /-- READ_RELIABILITY_RECORD (R349). The board manager reads a die's reliability counters over MCTP. -/
  | readReliabilityRecord
  /-- WARM_RESET (R351). An MCTP request starts a warm reset of a die, which quiesces its request sources. -/
  | warmReset
  /-- WARM_RESET_WRITE_BACK (R351). After quiesce, the RDCs and the die's L2 write back dirty sectors homed on the die. -/
  | warmResetWriteBack
  /-- WARM_RESET_LOGIC_RESET (R351). The die's logic is reset, with HBM and key slots kept, and requests to it get error replies. -/
  | warmResetLogicReset
  /-- DIE_ADMISSION (R365). CD0's service admits another die once it has reached step 4 of its boot. -/
  | dieAdmission
  /-- CALIBRATION_END (R365). Thermal calibration ends, the clocks rise to the adaptive range and the ports train at 1.6 Tb/s. -/
  | calibrationEnd
  /-- REFCLK_LOSS (R361). The loss of the reference clock is detected, the device enters holdover and TYPE 4 events are posted. -/
  | refclkLoss
  /-- REFCLK_RETURN (R361). The reference clock returns, correction resumes by slewing and TYPE 4 events are posted. -/
  | refclkReturn
  /-- GTC_CORRECTION (R362). Every 1,024 reference periods each die slews its GTC copy toward the reference. -/
  | gtcCorrection
  /-- SUPPLY_DROOP (R360). An oscillator slows within one cycle on supply droop, changing only timing. -/
  | supplyDroop
  /-- UCIE_FLIT_RETRY (R347). A flit that fails its CRC is retried at link level and counted. -/
  | ucieFlitRetry
  /-- SRAM_CORRECTED_ERROR (R347). A single-bit SRAM error is corrected and counted in SRAMCE. -/
  | sramCorrectedError
  /-- WINDOW_WAIT_BOUND_PASSED (R129). A t.recv or t.wait entry whose wait passes 2^BOUND clk, counted only while the partition is scheduled, goes to FAULT with CAUSE WAITBOUND and KIND 1, taking no message. -/
  | windowWaitBoundPassed
  deriving DecidableEq, Repr

end Sys2Proof
end

