-- ==== Sys2Proof/Config.lean ====
section
/-! DEFINITION. What stays fixed for one device: the free values (opaque: no proof can see what they are), the named
functions the spec uses without defining them, and what an implementation fixes. Beside them the type of one step of
the agenda, which the free scheduling choice ranges over. -/

namespace Sys2Proof

/-- One item of the agenda: which agent moves next, or what arrives from outside (R22, R277). Assumption 3. -/
inductive Action where
  /-- the agent executes its next instruction -/
  | run (a : Agent)
  /-- a step without an encoding is taken, with the agent in focus -/
  | event (a : Agent) (i : Instr)
  /-- engine `q` of core `g` advances its command number `k` by one element, row or clk -/
  | engine (g : Nat) (q : Eng) (k : Nat)
  /-- command number `k` of engine `q` of core `g`, under way, does something ahead of its turn: an `mm` reads operand
  element `n` (A first, then B), a copy takes the translations of its element `n` (R192, R199, R261) -/
  | early (g : Nat) (q : Eng) (k n : Nat)
  /-- the copy engines move one element of the work of window entry `n` of partition `p` (R98, R112): `write` the next one
  read, else read the next -/
  | advance (p n : Nat) (write : Bool)
  /-- `n` clk pass -/
  | clk (n : Nat)
  /-- the service gives a pool of a partition more physical buffers (R95, R96): home, class, base addresses -/
  | pool (p home cls : Nat) (bases : List Nat)
  /-- the service gives a partition a key slot (R13, R369) -/
  | keyOf (p k : Nat)
  /-- the service pauses a partition for migration, or ends the pause (R20, R315) -/
  | pause (p : Nat) (on : Bool)
  /-- the service makes the page of the patch data window present at which a PAGE trap of core `g` waits (R335) -/
  | window (g : Nat)
  /-- port E`n` repeats `k` link-level transfers (R347, R366) -/
  | portRetry (n k : Nat)
  /-- a control message arrives on the control endpoint (R366, R371) -/
  | message (msg : List Byte)
  /-- the service points its page table of a die at a root (R377) -/
  | svcRoot (d root : Nat)
  /-- the service starts code on the service core of a die at a block -/
  | svcStart (d : Nat) (vpc : Word) (args : List Word)
  deriving DecidableEq, Repr, Inhabited

namespace Config

/-- Free value: which step is taken next once the agenda is empty (R22). Assumption 3. -/
opaque choose : Nat → Action
/-- Free value: a scalar the spec leaves open, by the counter `fresh`. Assumption 4. -/
opaque freeWord : Nat → Word
/-- Free value: TIME of a promise as the device estimates it (R263): how many ticks past the earliest legal time.
Assumption 6. -/
opaque promiseSlack : Nat → Nat
/-- Free value: the bits of an f32 element that a pass holds in a PE latch (R321). Assumption 7. -/
opaque passPiece : Nat → BitVec 16

/-- Free value: the element that an f32 element (times 8, plus the number of the pass) becomes as a `scan.in` replaces that
pass's piece of it by another (R321). Assumption 7. -/
opaque pieceElem : Nat → BitVec 16 → BitVec 32
/-- Free value: a byte of SEG0 to SEG6 of an image of a frozen core, by snapshot, segment and offset (R319).
Assumption 8. -/
opaque imageByte : Nat → Nat → Nat → Byte
/-- Named, not defined by the spec: SHA3-256 (FIPS 202). Assumption 9. -/
opaque sha3 : List Byte → BitVec 256
/-- Named, not defined by the spec: the ML-DSA-44 check of a signature over a digest under the fuse key (R158).
Assumption 9. -/
opaque mldsaVerify : BitVec 256 → List Byte → Bool
/-- Free value: a reply of the SPDM responder whose content the spec names and does not lay out (R367), by request
code, die and counter. Assumption 10. -/
opaque spdmReply : Nat → Nat → Nat → List Byte
/-- Free value: a temperature or power reading (R368), by die and counter. Assumption 10. -/
opaque reading : Nat → Nat → Word
/-- Free value: how many bytes of the code heap a lowered block of `n` words takes (R145). Assumption 11. -/
opaque loweredBytes : Nat → Nat
/-- Free value: a vsfu result whose rounding the model's search does not settle (R249), by function and operand.
Assumption 12. -/
opaque sfuBits : Nat → Nat → Nat
/-- Free value: what the special operands that name a user core or its task read as on a service core (R63), by die
and specifier. Assumption 14. -/
opaque svcSpecial : Nat → Nat → Word
/-- Free value: which line a full local-store cache or RDC slice evicts (R253), by counter. Assumption 45. -/
opaque victim : Nat → Nat
/-- Free value: whether the traffic between two dies that are not adjacent uses an edge, by the two dies and the edge
(R347). Assumption 44. -/
opaque onRoute : Nat → Nat → Nat × Nat → Bool
/-- The fuse minimum of the patch sequence number (R159). Assumption 9. -/
opaque fuseMin : Nat

end Config

end Sys2Proof
end

