-- ==== Sys2Proof/WellFormed.lean ====
section
/-! DEFINITION. Which field values an encoded instruction may have: everything of R59, R60, R62, R67, R69 to R71 and of
the instruction entries whose breach is the translation fault ILLEGAL. A row without an encoding has nothing to check. -/

namespace Sys2Proof

/-- Integer types (R23, R69). -/
def intTys : List Nat := [1, 2, 3, 4, 5]
/-- b64 and the integer types (R171, R175). -/
def scalTys : List Nat := [0, 1, 2, 3, 4, 5]
/-- Types of the floating lane arithmetic: f16, bf16, f32 (R230, R232, R249). -/
def fltTys : List Nat := [9, 10, 11]
/-- Types of lane arithmetic (R230, R243). -/
def arithTys : List Nat := [1, 2, 3, 4, 5, 9, 10, 11]
/-- Any type of R211. -/
def vecTys : List Nat := [1, 2, 3, 4, 5, 6, 7, 8, 9, 10, 11, 12, 14]
/-- Types of `vperm` (R241). -/
def permTys : List Nat := [3, 4, 5, 9, 10, 11]
/-- Sink formats of a channel (R223). -/
def chanTys : List Nat := [1, 2, 3, 4, 6, 7, 8, 9, 10, 11, 12, 14]
/-- Types of the conversions (R247). -/
def cvtTys : List Nat := [1, 2, 3, 4, 5, 6, 7, 8, 9, 10, 11, 12, 14]

/-- Width in bits of a type code (R23, R26, R34, R211); 0 for the codes that name no lane type. -/
def tyWidth (t : Nat) : Nat :=
  match t with
  | 0 => 64 | 1 => 4 | 2 => 8 | 3 => 16 | 4 => 32 | 5 => 64 | 6 => 4 | 7 => 8 | 8 => 8
  | 9 => 16 | 10 => 16 | 11 => 32 | 12 => 8 | 13 => 80 | 14 => 8 | _ => 0

/-- Whether a type code is an integer type. -/
def isIntTy (t : Nat) : Bool := 1 ≤ t && t ≤ 5

/-- The shape shared by base-form entries: TY in the list, unused specifiers 0x00, no MOD bit outside the mask. -/
def baseOk (tys : List Nat) (ua ub uc : Bool) (mask : BitVec 24) (f : BaseF) : Bool :=
  tys.contains f.ty.toNat && (ua || f.a == 0) && (ub || f.b == 0) && (uc || f.c == 0) && (f.mod &&& ~~~mask) == 0

/-- MOD mask that depends on whether the type is an integer type (R230, R235, R243). -/
def maskFor (f : BaseF) (mi mf : BitVec 24) : BitVec 24 := if isIntTy f.ty.toNat then mi else mf

/-- UNS only with an integer type (R69). -/
def unsOk (f : BaseF) : Bool := !f.mod.getLsbD 0 || isIntTy f.ty.toNat
/-- RM 0 to 5 (R70, R71). -/
def rmOk (f : BaseF) : Bool := bitsNat f.mod 2 3 ≤ 5
/-- SCOPE between `lo` and 4 (R70, R71). -/
def scopeOk (lo : Nat) (f : BaseF) : Bool := lo ≤ bitsNat f.mod 8 3 && bitsNat f.mod 8 3 ≤ 4
/-- SCOPE 2 or 3 (R150). -/
def dieScope (f : BaseF) : Bool := bitsNat f.mod 8 3 == 2 || bitsNat f.mod 8 3 == 3
/-- `enter`: NARG at most 16 and no KINDS bit at or above it (R67). -/
def enterOk (f : BaseF) : Bool :=
  bitsNat f.mod 0 5 ≤ 16 && bitsNat f.mod 5 16 < 2 ^ bitsNat f.mod 0 5
/-- `ext`: POS + LEN ≤ w (R173). -/
def extOk (f : BaseF) : Bool := bitsNat f.mod 16 6 + bitsNat f.mod 8 6 + 1 ≤ tyWidth f.ty.toNat
/-- Descriptor field codes 0 to 11 (R87). -/
def fldOk (f : BaseF) : Bool := bitsNat f.mod 0 4 ≤ 11
/-- `phase`: K at most 24 (R252). -/
def phaseOk (f : BaseF) : Bool := bitsNat f.mod 16 5 ≤ 24
/-- `vput` targets p0 to p7, q1 and q3 (R245). -/
def tgtOk (f : BaseF) : Bool :=
  let t := bitsNat f.mod 16 5
  t ≤ 7 || t == 9 || t == 11
/-- Width ratio 1, 2 or 4 either way. -/
def ratioOk (a b : Nat) : Bool := a == b || a == 2 * b || a == 4 * b || b == 2 * a || b == 4 * a
/-- `chan.cfg` (R223). -/
def chanOk (f : BaseF) : Bool :=
  let sf := bitsNat f.mod 16 4
  let ch := bitsNat f.mod 22 2
  chanTys.contains sf && ratioOk (tyWidth f.ty.toNat) (tyWidth sf) && rmOk f
    && (bitsNat f.mod 2 3 ≤ 4 || ch == 0 || ch == 2)
    && (!f.mod.getLsbD 0 || isIntTy f.ty.toNat || isIntTy sf)
/-- STY of a conversion (R247). -/
def styOf (f : BaseF) : Nat := bitsNat f.mod 6 4
/-- Conversions: STY, UNS, SUNS and RM (R247). -/
def cvtOk (f : BaseF) : Bool :=
  cvtTys.contains (styOf f) && rmOk f && unsOk f && (!f.mod.getLsbD 10 || isIntTy (styOf f))
/-- 1 when the widths of TY and STY are equal. -/
def widthR (f : BaseF) : Nat := if tyWidth f.ty.toNat == tyWidth (styOf f) then 1 else 0
/-- `vwid`: TY is 2 or 4 times as wide as STY (R247). -/
def wideOk (f : BaseF) : Bool :=
  tyWidth f.ty.toNat == 2 * tyWidth (styOf f) || tyWidth f.ty.toNat == 4 * tyWidth (styOf f)
/-- `vnar`: STY is 2 or 4 times as wide as TY; by 2, C and D are unused (R247). -/
def narrowOk (f : BaseF) : Bool :=
  (tyWidth (styOf f) == 2 * tyWidth f.ty.toNat && f.c == 0 && bitsNat f.mod 16 8 == 0)
    || tyWidth (styOf f) == 4 * tyWidth f.ty.toNat
/-- REL and ACQ of a stream instruction are 0 to 4 (R109). -/
def scopesOk (f : BaseF) : Bool := bitsNat f.mod 0 3 ≤ 4 && bitsNat f.mod 3 3 ≤ 4
/-- DMODE 1 or 2 (R111). -/
def dmodeOk (f : BaseF) : Bool := bitsNat f.mod 6 2 == 1 || bitsNat f.mod 6 2 == 2

/-- R59: no flag index without an amount. -/
def engOk (f : EngF) : Bool := (f.wn != 0 || f.wf == 0) && (f.sn != 0 || f.sf == 0)
/-- A holds a slot number (R197, R265). -/
def slotA (f : EngF) : Bool := f.a.toNat < 64
/-- B holds a slot number. -/
def slotB (f : EngF) : Bool := f.b.toNat < 64
/-- C holds a slot number. -/
def slotC (f : EngF) : Bool := f.c.toNat < 64
/-- EFL of `cp` and `cp.gather`: RM 0 to 5, [1:0] zero (R265). -/
def cpEfl (f : EngF) : Bool := bitsNat f.efl 2 3 ≤ 5 && bitsNat f.efl 0 2 == 0
/-- TY, and where asked A, B, C, are zero, and EFL is zero. -/
def engZero (f : EngF) (za zb zc : Bool) : Bool :=
  (!za || f.a == 0) && (!zb || f.b == 0) && (!zc || f.c == 0) && f.efl == 0
/-- `mm` (R197). -/
def mmOk (f : EngF) : Bool :=
  f.ty == 13 && f.c == 0 && slotA f && slotB f && bitsNat f.fn 1 3 == 0 && !f.efl.getLsbD 7 && bitsNat f.efl 2 2 == 0
/-- `mm.drain` in both forms (R201). -/
def drainOk (f : EngF) : Bool :=
  let t := f.ty.toNat
  ((1 ≤ t && t ≤ 4) || (6 ≤ t && t ≤ 11)) && f.c == 0 && slotA f && slotB f
    && (f.fn.getLsbD 3 || f.b == 0) && (!f.fn.getLsbD 1 || f.a == 0)
    && bitsNat f.efl 2 3 ≤ 5 && (!f.efl.getLsbD 7 || isIntTy t)
    && (!f.fn.getLsbD 2 || (t == 11 && !f.fn.getLsbD 1)) && !f.efl.getLsbD 0
/-- `mm.gang` (R207). -/
def gangOk (f : EngF) : Bool := f.b == 0 && f.c == 0 && (f.efl == 1 || f.efl == 2)
/-- TY is zero in every form E instruction but `mm` and `mm.drain`. -/
def engTy0 (f : EngF) : Bool := f.ty == 0

/-- `ld` and `st` option bits in FN (R177): UNS bit 3, SP bit 2, HINT bits 1:0. -/
def memFnOk (f : ImmF) : Bool :=
  [0, 2, 3, 4, 5].contains f.ty.toNat && bitsNat f.fn 0 2 != 3 && (!f.fn.getLsbD 2 || bitsNat f.fn 0 2 == 0)

/-- `t.map` (R62, R118). -/
def tMapOk (n : BitVec 4) (f : BaseF) (tl args : List (BitVec 8)) : Bool :=
  n.toNat ≤ 8 && f.ty.toNat ≤ 7 && tl.length == f.ty.toNat && args.length == n.toNat && !f.mod.getLsbD 23
    && bitsNat f.mod 9 14 < 4 ^ f.ty.toNat && bitsNat f.mod 6 2 != 3 && scopesOk f

/-- Whether an instruction's fields are legal: the negation is the translation fault ILLEGAL (R71, R73). -/
def Instr.wf : Instr → Bool
  | .launchRecord _ _ => true
  | .translationFault _ => true
  | .emulateCall _ _ => true
  | .engineCommandStart _ _ => true
  | .commandComplete _ _ _ => true
  | .commandKill _ _ _ _ => true
  | .gangFormed _ _ => true
  | .copyFault _ _ => true
  | .waitBoundExpiry _ _ => true
  | .teamBarComplete _ _ => true
  | .storeMove _ _ => true
  | .cacheWriteBack _ _ => true
  | .cacheLineDrop _ _ => true
  | .pageWalk _ _ => true
  | .shootdown _ _ => true
  | .eventDelivery _ _ _ => true
  | .partitionSchedule _ _ => true
  | .partitionDeschedule _ _ => true
  | .ownWrite _ _ _ => true
  | .xheapWrite _ _ => true
  | .spinWrite _ _ => true
  | .keyLoad _ _ => true
  | .keyClear _ _ => true
  | .errinjArm _ _ => true
  | .errinjCancel _ _ => true
  | .memAlloc _ => true
  | .viewMap _ => true
  | .endpointOpen _ => true
  | .endpointMessageArrival _ _ => true
  | .sendDeliveryComplete _ _ _ => true
  | .getMeasurements _ _ => true
  | .spdmUnsupportedRequest _ _ => true
  | .warmResetReadmit _ => true
  | .coldReset _ _ => true
  | .ucieFlitFailure _ _ _ => true
  | .linkRetrainEnd _ _ => true
  | .sramUncorrectedError _ => true
  | .hbmUncorrectedError _ => true
  | .timingReplay _ _ _ => true
  | .claimedInstruction w => 0xF0 ≤ bitsNat w 56 8
  | .enter f => baseOk [0] false false false 0x1FFFFF f && enterOk f
  | .br f => f.carry.length ≤ 16
  | .brZ f => f.carry.length ≤ 16 && f.cond != 0
  | .call f => f.carry.length ≤ 16 && f.cond == 0
  | .ret f => f.carry.length ≤ 16 && f.cond == 0 && f.off == 0
  | .halt f => baseOk [0] false false false 0x0 f
  | .nop f => baseOk [0] false false false 0x0 f
  | .keep f => baseOk [0] true false false 0x0 f
  | .trap f => f.fn == 0 && f.ty == 0 && f.b == 0
  | .svc f => f.fn == 0 && f.ty == 0 && bitsNat f.imm 8 24 == 0
  | .add f => baseOk intTys true true false 0x3 f
  | .sub f => baseOk intTys true true false 0x3 f
  | .mul f => baseOk intTys true true false 0x3 f
  | .mulh f => baseOk intTys true true false 0x1 f
  | .div f => baseOk intTys true true false 0x3 f
  | .rem f => baseOk intTys true true false 0x3 f
  | .min f => baseOk intTys true true false 0x1 f
  | .max f => baseOk intTys true true false 0x1 f
  | .abs f => baseOk intTys true false false 0x2 f
  | .neg f => baseOk intTys true false false 0x2 f
  | .and f => baseOk scalTys true true false 0x1 f && unsOk f
  | .or f => baseOk scalTys true true false 0x1 f && unsOk f
  | .xor f => baseOk scalTys true true false 0x1 f && unsOk f
  | .andn f => baseOk scalTys true true false 0x1 f && unsOk f
  | .not f => baseOk scalTys true false false 0x1 f && unsOk f
  | .shl f => baseOk intTys true true false 0x1 f
  | .shr f => baseOk intTys true true false 0x1 f
  | .sar f => baseOk intTys true true false 0x0 f
  | .rot f => baseOk intTys true true false 0x1 f
  | .clz f => baseOk intTys true false false 0x1 f
  | .ffs f => baseOk intTys true false false 0x1 f
  | .popc f => baseOk intTys true false false 0x1 f
  | .ext f => baseOk intTys true false false 0x3F3F01 f && extOk f
  | .cmpEq f => baseOk intTys true true false 0x1 f
  | .cmpNe f => baseOk intTys true true false 0x1 f
  | .cmpLt f => baseOk intTys true true false 0x1 f
  | .cmpLe f => baseOk intTys true true false 0x1 f
  | .cmpGt f => baseOk intTys true true false 0x1 f
  | .cmpGe f => baseOk intTys true true false 0x1 f
  | .sel f => baseOk scalTys true true true 0x1 f && unsOk f
  | .li f => f.fn == 0 && f.ty == 0 && f.a == 0 && f.b == 0
  | .liZ f => f.fn == 1 && f.ty == 0 && f.a == 0 && f.b == 0
  | .li64 f _ => baseOk [0] false false false 0xFF f
  | .ld f => memFnOk f && f.b == 0 && (!f.fn.getLsbD 3 || f.ty != 0)
  | .st f => memFnOk f && !f.fn.getLsbD 3
  | .ldD f => baseOk [0] true false false 0x3F0001 f
  | .stD f => baseOk [0] true true false 0x3F0000 f
  | .amoAdd f => baseOk [4, 5] true true false 0x7C1 f && scopeOk 0 f
  | .amoMin f => baseOk [4, 5] true true false 0x7C1 f && scopeOk 0 f
  | .amoMax f => baseOk [4, 5] true true false 0x7C1 f && scopeOk 0 f
  | .amoAnd f => baseOk [4, 5] true true false 0x7C1 f && scopeOk 0 f
  | .amoOr f => baseOk [4, 5] true true false 0x7C1 f && scopeOk 0 f
  | .amoXor f => baseOk [4, 5] true true false 0x7C1 f && scopeOk 0 f
  | .amoSwap f => baseOk [4, 5] true true false 0x7C1 f && scopeOk 0 f
  | .cas f => baseOk [4, 5] true true true 0x7C1 f && scopeOk 0 f
  | .fenceAcq f => baseOk [0] false false false 0x700 f && scopeOk 0 f
  | .fenceRel f => baseOk [0] false false false 0x700 f && scopeOk 0 f
  | .fenceAr f => baseOk [0] false false false 0x700 f && scopeOk 0 f
  | .align f => baseOk [0] false false false 0x0 f
  | .cwb f => baseOk [0] true true false 0x700 f && scopeOk 0 f
  | .cinv f => baseOk [0] true true false 0x700 f && scopeOk 0 f
  | .semSig f => baseOk [0] true false false 0x1F0000 f
  | .semSigErr f => baseOk [0] true false false 0x1F0000 f
  | .semWait f => baseOk [0] true false false 0x1FF800 f
  | .semWaitT f => baseOk [0] true false false 0x1FF800 f
  | .semClr f => baseOk [0] false false false 0x1F0000 f
  | .semClrAll f => baseOk [0] false false false 0x1F0000 f
  | .barArr f => baseOk [0] true true false 0x700 f && scopeOk 1 f
  | .barArrErr f => baseOk [0] true true true 0x700 f && scopeOk 1 f
  | .barWait f => baseOk [0] true true false 0xFF00 f && scopeOk 1 f
  | .barWaitT f => baseOk [0] true true false 0xFF00 f && scopeOk 1 f
  | .teamJoin f => baseOk [0] true true false 0xF800 f
  | .teamLeave f => baseOk [0] false false false 0x0 f
  | .teamBar f => baseOk [0] false false false 0xFF00 f && scopeOk 1 f
  | .trig f => baseOk [0] false false false 0x0 f
  | .sleepGt f => baseOk [0] true false false 0xF800 f
  | .sleepGtNt f => baseOk [0] true false false 0xF800 f
  | .vsemSig f => baseOk [0] true false false 0x1F0000 f
  | .vsemSigErr f => baseOk [0] true false false 0x1F0000 f
  | .vsemWait f => baseOk [0] true false false 0x1FF800 f
  | .tdSet f => baseOk [0] true false false 0x3F000F f && fldOk f
  | .tdSetRec f => baseOk [0] true false false 0x3F0000 f
  | .tdGet f => baseOk [0] false false false 0x3F000F f && fldOk f
  | .portSet f => baseOk [0] true false false 0x3F0007 f
  | .portSetW f => baseOk [0] true false false 0x3F0007 f
  | .portRst f => baseOk [0] false false false 0x7 f
  | .portRstOff f => baseOk [0] false false false 0x7 f
  | .chanCfg f => baseOk chanTys false false false 0xCFF83F f && chanOk f
  | .phase f => baseOk [0] false false false 0x1F0000 f && phaseOk f
  | .vadd f => baseOk arithTys true true true (maskFor f 0xF803 0xF83E) f && rmOk f
  | .vsub f => baseOk arithTys true true true (maskFor f 0xF803 0xF83E) f && rmOk f
  | .vmul f => baseOk arithTys true true true (maskFor f 0xF803 0xF83E) f && rmOk f
  | .vmin f => baseOk arithTys true true true (maskFor f 0xF801 0xF820) f && rmOk f
  | .vmax f => baseOk arithTys true true true (maskFor f 0xF801 0xF820) f && rmOk f
  | .vabs f => baseOk arithTys true false true (maskFor f 0xF802 0xF820) f && rmOk f
  | .vneg f => baseOk arithTys true false true (maskFor f 0xF802 0xF820) f && rmOk f
  | .vfma f => baseOk fltTys true true true 0xF83E f && rmOk f
  | .vfms f => baseOk fltTys true true true 0xF83E f && rmOk f
  | .vfnma f => baseOk fltTys true true true 0xF83E f && rmOk f
  | .vfnms f => baseOk fltTys true true true 0xF83E f && rmOk f
  | .vand f => baseOk intTys true true true 0xF800 f
  | .vor f => baseOk intTys true true true 0xF800 f
  | .vxor f => baseOk intTys true true true 0xF800 f
  | .vandn f => baseOk intTys true true true 0xF800 f
  | .vnot f => baseOk intTys true false true 0xF800 f
  | .vshl f => baseOk intTys true true true 0xF800 f
  | .vshr f => baseOk intTys true true true 0xF800 f
  | .vsar f => baseOk intTys true true true 0xF800 f
  | .vclz f => baseOk intTys true false true 0xF800 f
  | .vffs f => baseOk intTys true false true 0xF800 f
  | .vpopc f => baseOk intTys true false true 0xF800 f
  | .vcmpEq f => baseOk arithTys true true true (maskFor f 0xF801 0xF820) f
  | .vcmpNe f => baseOk arithTys true true true (maskFor f 0xF801 0xF820) f
  | .vcmpLt f => baseOk arithTys true true true (maskFor f 0xF801 0xF820) f
  | .vcmpLe f => baseOk arithTys true true true (maskFor f 0xF801 0xF820) f
  | .vcmpGt f => baseOk arithTys true true true (maskFor f 0xF801 0xF820) f
  | .vcmpGe f => baseOk arithTys true true true (maskFor f 0xF801 0xF820) f
  | .vsel f => baseOk vecTys true true true 0xF800 f
  | .vmulh f => baseOk intTys true true true 0xF801 f
  | .vbc f => baseOk vecTys true false true 0xF800 f
  | .vbcLane f => baseOk vecTys true true true 0xF800 f
  | .vext f => baseOk vecTys true true false 0xF801 f && unsOk f
  | .vins f => baseOk vecTys true true true 0xF800 f
  | .vperm f => baseOk permTys true true true 0xF800 f
  | .vrot f => baseOk vecTys true true true 0xF800 f
  | .vredSum f => baseOk arithTys true false true (maskFor f 0xF803 0xF83E) f && rmOk f
  | .vredMin f => baseOk arithTys true false true (maskFor f 0xF801 0xF820) f && rmOk f
  | .vredMax f => baseOk arithTys true false true (maskFor f 0xF801 0xF820) f && rmOk f
  | .vredAnd f => baseOk intTys true false true 0xF800 f
  | .vredOr f => baseOk intTys true false true 0xF800 f
  | .vredXor f => baseOk intTys true false true 0xF800 f
  | .vscanSum f => baseOk arithTys true false true (maskFor f 0xF803 0xF83E) f && rmOk f
  | .vscanMin f => baseOk arithTys true false true (maskFor f 0xF801 0xF820) f && rmOk f
  | .vscanMax f => baseOk arithTys true false true (maskFor f 0xF801 0xF820) f && rmOk f
  | .vput f => baseOk vecTys true false true 0x1FF800 f && tgtOk f
  | .vputNb f => baseOk vecTys true false true 0x1FF800 f && tgtOk f
  | .vtry f => baseOk vecTys true false false 0xF800 f
  | .vcvt f => baseOk cvtTys true false true 0xFFFF f && cvtOk f && widthR f == 1
  | .vwid f => baseOk cvtTys true false true 0xFFFF f && cvtOk f && wideOk f
  | .vnar f => baseOk cvtTys true true true 0xFFFFFF f && cvtOk f && narrowOk f
  | .vexp2 f => baseOk fltTys true false true 0xF83E f && rmOk f
  | .vlog2 f => baseOk fltTys true false true 0xF83E f && rmOk f
  | .vrcp f => baseOk fltTys true false true 0xF83E f && rmOk f
  | .vrsq f => baseOk fltTys true false true 0xF83E f && rmOk f
  | .vsqrt f => baseOk fltTys true false true 0xF83E f && rmOk f
  | .vtanh f => baseOk fltTys true false true 0xF83E f && rmOk f
  | .mm f => engOk f && mmOk f
  | .mmDrain f => engOk f && drainOk f && !f.fn.getLsbD 1
  | .mmDrainQ0 f => engOk f && drainOk f && f.fn.getLsbD 1
  | .mmGang f => engOk f && f.fn == 0 && engTy0 f && gangOk f
  | .mmGangOff f => engOk f && f.fn == 1 && engTy0 f && engZero f true true true
  | .cp f => engOk f && f.fn == 0 && engTy0 f && slotA f && slotB f && f.c == 0 && cpEfl f
  | .cpQ2 f => engOk f && f.fn == 1 && engTy0 f && f.a == 0 && slotB f && f.c == 0 && f.efl == 0
  | .cpQ3 f => engOk f && f.fn == 2 && engTy0 f && slotA f && f.b == 0 && f.c == 0 && f.efl == 0
  | .cpFill f => engOk f && f.fn == 0 && engTy0 f && slotA f && f.c == 0 && f.efl == 0
  | .cpGather f => engOk f && f.fn == 0 && engTy0 f && slotA f && slotB f && slotC f && cpEfl f
  | .tlbInv f => engOk f && f.fn == 0 && engTy0 f && engZero f false false true
  | .tlbInvAll f => engOk f && f.fn == 1 && engTy0 f && engZero f true true true
  | .tNew f => baseOk [0] true false false 0xFFF03F f && scopesOk f
  | .tFree f => baseOk [0] false false false 0xFF003F f && scopesOk f
  | .tView f => baseOk [0] true true false 0xFF003F f && scopesOk f
  | .tMap n f tl args => tMapOk n f tl args
  | .tCopy n f => bitsNat n 0 3 ≤ 4 && f.ty.toNat ≤ 3 && f.a == 0 && f.b == 0 && f.c == 0 && scopesOk f && dmodeOk f
  | .tFill f => baseOk [0] true false false 0xFF00FF f && scopesOk f && dmodeOk f
  | .tRead f => baseOk [0] true true true 0xFF003F f && scopesOk f
  | .tFence f => baseOk [0] false false false 0x3F f && scopesOk f
  | .tSync f => baseOk [0] false false false 0x3F f && scopesOk f
  | .tSignalAdd f => baseOk [0] true true false 0x3F f && scopesOk f
  | .tSignalStore f => baseOk [0] true true false 0x3F f && scopesOk f
  | .tSvc f => baseOk [0] true true true 0xF003F f && scopesOk f
  | .tSend f => baseOk [0] true false false 0xFF003F f && scopesOk f
  | .tRecv f => baseOk [0] true false false 0xFFF8FF f && scopesOk f && dmodeOk f
  | .tWaitEq f => baseOk [0] true true false 0xF83F f && scopesOk f
  | .tWaitNe f => baseOk [0] true true false 0xF83F f && scopesOk f
  | .tWaitGe f => baseOk [0] true true false 0xF83F f && scopesOk f
  | .eret f carry => baseOk [0] false false false 0x1F f && carry.length == bitsNat f.mod 0 5 && carry.length ≤ 16
  | .eretRetry f => baseOk [0] false false false 0x0 f
  | .csrR f => baseOk [0] true false false 0x0 f
  | .csrW f => baseOk [0] true true false 0x0 f
  | .codeInv f => baseOk [0] true true true 0x700 f && dieScope f
  | .codeInvObj f => baseOk [0] true false false 0x700 f && dieScope f
  | .codeInvAll f => baseOk [0] false false false 0x700 f && dieScope f
  | .scanFrz f => baseOk [0] true true false 0xF f
  | .scanFrzAt f => baseOk [0] true true true 0xF f
  | .scanOut f => baseOk [0] true true false 0xFFFFFF f
  | .scanIn f => baseOk [0] true true false 0xFFFFFF f
  | .scanRun f => baseOk [0] true true false 0x0 f
  | .patchLd f => baseOk [0] true true true 0x0 f
  | .ctxScrub f => baseOk [0] true false false 0x0 f
  | .streamEnd => true
  | .entryIssue => true
  | .entryDone => true
  | .entryFault => true
  | .entryRetire => true
  | .streamTrap => true
  | .streamComplete => true
  | .streamRestart => true
  | .streamKill => true
  | .globalDispatch => true
  | .batchArrival => true
  | .taskStart => true
  | .haltDrainEnd => true
  | .blockLower => true
  | .blockInstall => true
  | .queuePush => true
  | .promiseTimeReached => true
  | .semWaitSatisfied => true
  | .barWaitPoll => true
  | .tWaitPoll => true
  | .teamJoinComplete => true
  | .trigRelease => true
  | .chanCfgPerform => true
  | .phaseMove => true
  | .loadPerform => true
  | .storeLeaveSq => true
  | .releaseComplete => true
  | .acquireComplete => true
  | .atomicPerform => true
  | .shootdownComplete => true
  | .tqpop => true
  | .evpop => true
  | .sliceExpiry => true
  | .cctlRetry => true
  | .cctlResume => true
  | .cctlKill => true
  | .cctlDrain => true
  | .cctlRelease => true
  | .cctlStart => true
  | .drainEnd => true
  | .drainLimitFreeze => true
  | .preemptionHoldEnd => true
  | .streamContextReset => true
  | .streamResetDone => true
  | .keyOperationEnd => true
  | .scanFreezeDeferred => true
  | .scanFreezeComplete => true
  | .exit => true
  | .writeLog => true
  | .memFree => true
  | .endpointClose => true
  | .ctlRecv => true
  | .ctlSend => true
  | .topologyQuery => true
  | .timeQuery => true
  | .setStreamHandler => true
  | .taskReport => true
  | .yield => true
  | .patchQuery => true
  | .eventPost => true
  | .getVersion => true
  | .getCapabilities => true
  | .negotiateAlgorithms => true
  | .getDigests => true
  | .getCertificate => true
  | .challenge => true
  | .readTemperature => true
  | .readPower => true
  | .readReliabilityRecord => true
  | .warmReset => true
  | .warmResetWriteBack => true
  | .warmResetLogicReset => true
  | .dieAdmission => true
  | .calibrationEnd => true
  | .refclkLoss => true
  | .refclkReturn => true
  | .gtcCorrection => true
  | .supplyDroop => true
  | .ucieFlitRetry => true
  | .sramCorrectedError => true
  | .windowWaitBoundPassed => true

end Sys2Proof
end

