-- ==== Sys2Proof/Decode.lean ====
section
/-! DEFINITION. The decoder (R57 to R62, R72, R73) and, after it, the encoder written from the same tables.
A word that is no instruction is refused by name, with the translation fault of R73. -/

namespace Sys2Proof

/-- The base-form fields of a word (R57). -/
def unpackBase (w : Word) : BaseF :=
  { ty := w.extractLsb' 48 4, a := w.extractLsb' 40 8, b := w.extractLsb' 32 8, c := w.extractLsb' 24 8,
    mod := w.extractLsb' 0 24 }

/-- The form I fields of a word (R58). -/
def unpackImm (w : Word) : ImmF :=
  { fn := w.extractLsb' 52 4, ty := w.extractLsb' 48 4, a := w.extractLsb' 40 8, b := w.extractLsb' 32 8,
    imm := w.extractLsb' 0 32 }

/-- The form E fields of a word (R58). -/
def unpackEng (w : Word) : EngF :=
  { fn := w.extractLsb' 52 4, ty := w.extractLsb' 48 4, a := w.extractLsb' 40 8, b := w.extractLsb' 32 8,
    c := w.extractLsb' 24 8, wf := w.extractLsb' 19 5, wn := w.extractLsb' 16 3, sf := w.extractLsb' 11 5,
    sn := w.extractLsb' 8 3, efl := w.extractLsb' 0 8 }

/-- OP of a word, bits [63:56]. -/
def opOf (w : Word) : BitVec 8 := w.extractLsb' 56 8
/-- FN of a word, bits [55:52]. -/
def fnOf (w : Word) : BitVec 4 := w.extractLsb' 52 4

/-- The specifiers of the words that hold `n` of them in a spec list (R62): seven to a word, the lowest byte first,
OP 0x0F, unused slots zero. Words after the list are left alone. -/
def readSpecs : List Word → Nat → Except CodeFault (List (BitVec 8))
  | _, 0 => .ok []
  | [], _ + 1 => .error .notPresent
  | w :: ws, n + 1 =>
    let here := natToBytes 7 (w.toNat % 2 ^ 56)
    if opOf w != 0x0F || (here.drop (n + 1)).any (· != 0) then .error .illegal
    else
      match readSpecs ws (n + 1 - 7) with
      | .ok rest => .ok (here.take (n + 1) ++ rest)
      | .error e => .error e

/-- How many spec-list words hold `n` specifiers (R62). -/
def specWordCount (n : Nat) : Nat := ceilDiv n 7

/-- The base-form and form E instructions whose constructor OP and FN fix (R72, R376). -/
def decodeFixed (op : BitVec 8) (fn : BitVec 4) (w : Word) : Option Instr :=
  match op.toNat, fn.toNat with
  | 0x01, 0 => some (.enter (unpackBase w))
  | 0x06, 0 => some (.halt (unpackBase w))
  | 0x07, 0 => some (.nop (unpackBase w))
  | 0x08, 0 => some (.keep (unpackBase w))
  | 0x10, 0 => some (.add (unpackBase w))
  | 0x10, 1 => some (.sub (unpackBase w))
  | 0x10, 2 => some (.mul (unpackBase w))
  | 0x10, 3 => some (.mulh (unpackBase w))
  | 0x10, 4 => some (.div (unpackBase w))
  | 0x10, 5 => some (.rem (unpackBase w))
  | 0x10, 6 => some (.min (unpackBase w))
  | 0x10, 7 => some (.max (unpackBase w))
  | 0x10, 8 => some (.abs (unpackBase w))
  | 0x10, 9 => some (.neg (unpackBase w))
  | 0x11, 0 => some (.and (unpackBase w))
  | 0x11, 1 => some (.or (unpackBase w))
  | 0x11, 2 => some (.xor (unpackBase w))
  | 0x11, 3 => some (.andn (unpackBase w))
  | 0x11, 4 => some (.not (unpackBase w))
  | 0x12, 0 => some (.shl (unpackBase w))
  | 0x12, 1 => some (.shr (unpackBase w))
  | 0x12, 2 => some (.sar (unpackBase w))
  | 0x12, 3 => some (.rot (unpackBase w))
  | 0x12, 4 => some (.clz (unpackBase w))
  | 0x12, 5 => some (.ffs (unpackBase w))
  | 0x12, 6 => some (.popc (unpackBase w))
  | 0x12, 7 => some (.ext (unpackBase w))
  | 0x13, 0 => some (.cmpEq (unpackBase w))
  | 0x13, 1 => some (.cmpNe (unpackBase w))
  | 0x13, 2 => some (.cmpLt (unpackBase w))
  | 0x13, 3 => some (.cmpLe (unpackBase w))
  | 0x13, 4 => some (.cmpGt (unpackBase w))
  | 0x13, 5 => some (.cmpGe (unpackBase w))
  | 0x14, 0 => some (.sel (unpackBase w))
  | 0x32, 0 => some (.ldD (unpackBase w))
  | 0x33, 0 => some (.stD (unpackBase w))
  | 0x34, 0 => some (.amoAdd (unpackBase w))
  | 0x34, 1 => some (.amoMin (unpackBase w))
  | 0x34, 2 => some (.amoMax (unpackBase w))
  | 0x34, 3 => some (.amoAnd (unpackBase w))
  | 0x34, 4 => some (.amoOr (unpackBase w))
  | 0x34, 5 => some (.amoXor (unpackBase w))
  | 0x34, 6 => some (.amoSwap (unpackBase w))
  | 0x35, 0 => some (.cas (unpackBase w))
  | 0x36, 1 => some (.fenceAcq (unpackBase w))
  | 0x36, 2 => some (.fenceRel (unpackBase w))
  | 0x36, 3 => some (.fenceAr (unpackBase w))
  | 0x37, 0 => some (.align (unpackBase w))
  | 0x38, 0 => some (.cwb (unpackBase w))
  | 0x39, 0 => some (.cinv (unpackBase w))
  | 0x40, 0 => some (.semSig (unpackBase w))
  | 0x40, 1 => some (.semSigErr (unpackBase w))
  | 0x41, 0 => some (.semWait (unpackBase w))
  | 0x41, 1 => some (.semWaitT (unpackBase w))
  | 0x42, 0 => some (.semClr (unpackBase w))
  | 0x42, 1 => some (.semClrAll (unpackBase w))
  | 0x43, 0 => some (.barArr (unpackBase w))
  | 0x43, 1 => some (.barArrErr (unpackBase w))
  | 0x44, 0 => some (.barWait (unpackBase w))
  | 0x44, 1 => some (.barWaitT (unpackBase w))
  | 0x45, 0 => some (.teamJoin (unpackBase w))
  | 0x46, 0 => some (.teamLeave (unpackBase w))
  | 0x47, 0 => some (.teamBar (unpackBase w))
  | 0x48, 0 => some (.trig (unpackBase w))
  | 0x49, 0 => some (.sleepGt (unpackBase w))
  | 0x49, 1 => some (.sleepGtNt (unpackBase w))
  | 0x4A, 0 => some (.vsemSig (unpackBase w))
  | 0x4A, 1 => some (.vsemSigErr (unpackBase w))
  | 0x4B, 0 => some (.vsemWait (unpackBase w))
  | 0x50, 0 => some (.tdSet (unpackBase w))
  | 0x50, 1 => some (.tdSetRec (unpackBase w))
  | 0x51, 0 => some (.tdGet (unpackBase w))
  | 0x52, 0 => some (.portSet (unpackBase w))
  | 0x52, 1 => some (.portSetW (unpackBase w))
  | 0x53, 0 => some (.portRst (unpackBase w))
  | 0x53, 1 => some (.portRstOff (unpackBase w))
  | 0x54, 0 => some (.chanCfg (unpackBase w))
  | 0x55, 0 => some (.phase (unpackBase w))
  | 0x60, 0 => some (.vadd (unpackBase w))
  | 0x60, 1 => some (.vsub (unpackBase w))
  | 0x60, 2 => some (.vmul (unpackBase w))
  | 0x60, 3 => some (.vmin (unpackBase w))
  | 0x60, 4 => some (.vmax (unpackBase w))
  | 0x60, 5 => some (.vabs (unpackBase w))
  | 0x60, 6 => some (.vneg (unpackBase w))
  | 0x61, 0 => some (.vfma (unpackBase w))
  | 0x61, 1 => some (.vfms (unpackBase w))
  | 0x61, 2 => some (.vfnma (unpackBase w))
  | 0x61, 3 => some (.vfnms (unpackBase w))
  | 0x62, 0 => some (.vand (unpackBase w))
  | 0x62, 1 => some (.vor (unpackBase w))
  | 0x62, 2 => some (.vxor (unpackBase w))
  | 0x62, 3 => some (.vandn (unpackBase w))
  | 0x62, 4 => some (.vnot (unpackBase w))
  | 0x63, 0 => some (.vshl (unpackBase w))
  | 0x63, 1 => some (.vshr (unpackBase w))
  | 0x63, 2 => some (.vsar (unpackBase w))
  | 0x63, 3 => some (.vclz (unpackBase w))
  | 0x63, 4 => some (.vffs (unpackBase w))
  | 0x63, 5 => some (.vpopc (unpackBase w))
  | 0x64, 0 => some (.vcmpEq (unpackBase w))
  | 0x64, 1 => some (.vcmpNe (unpackBase w))
  | 0x64, 2 => some (.vcmpLt (unpackBase w))
  | 0x64, 3 => some (.vcmpLe (unpackBase w))
  | 0x64, 4 => some (.vcmpGt (unpackBase w))
  | 0x64, 5 => some (.vcmpGe (unpackBase w))
  | 0x65, 0 => some (.vsel (unpackBase w))
  | 0x66, 0 => some (.vmulh (unpackBase w))
  | 0x70, 0 => some (.vbc (unpackBase w))
  | 0x70, 1 => some (.vbcLane (unpackBase w))
  | 0x71, 0 => some (.vext (unpackBase w))
  | 0x72, 0 => some (.vins (unpackBase w))
  | 0x73, 0 => some (.vperm (unpackBase w))
  | 0x74, 0 => some (.vrot (unpackBase w))
  | 0x75, 0 => some (.vredSum (unpackBase w))
  | 0x75, 1 => some (.vredMin (unpackBase w))
  | 0x75, 2 => some (.vredMax (unpackBase w))
  | 0x75, 3 => some (.vredAnd (unpackBase w))
  | 0x75, 4 => some (.vredOr (unpackBase w))
  | 0x75, 5 => some (.vredXor (unpackBase w))
  | 0x76, 0 => some (.vscanSum (unpackBase w))
  | 0x76, 1 => some (.vscanMin (unpackBase w))
  | 0x76, 2 => some (.vscanMax (unpackBase w))
  | 0x77, 0 => some (.vput (unpackBase w))
  | 0x77, 1 => some (.vputNb (unpackBase w))
  | 0x78, 0 => some (.vtry (unpackBase w))
  | 0x80, 0 => some (.vcvt (unpackBase w))
  | 0x81, 0 => some (.vwid (unpackBase w))
  | 0x82, 0 => some (.vnar (unpackBase w))
  | 0x83, 0 => some (.vexp2 (unpackBase w))
  | 0x83, 1 => some (.vlog2 (unpackBase w))
  | 0x83, 2 => some (.vrcp (unpackBase w))
  | 0x83, 3 => some (.vrsq (unpackBase w))
  | 0x83, 4 => some (.vsqrt (unpackBase w))
  | 0x83, 5 => some (.vtanh (unpackBase w))
  | 0x92, 0 => some (.mmGang (unpackEng w))
  | 0x92, 1 => some (.mmGangOff (unpackEng w))
  | 0x93, 0 => some (.cp (unpackEng w))
  | 0x93, 1 => some (.cpQ2 (unpackEng w))
  | 0x93, 2 => some (.cpQ3 (unpackEng w))
  | 0x94, 0 => some (.cpFill (unpackEng w))
  | 0x95, 0 => some (.cpGather (unpackEng w))
  | 0x96, 0 => some (.tlbInv (unpackEng w))
  | 0x96, 1 => some (.tlbInvAll (unpackEng w))
  | 0xA0, 0 => some (.tNew (unpackBase w))
  | 0xA1, 0 => some (.tFree (unpackBase w))
  | 0xA2, 0 => some (.tView (unpackBase w))
  | 0xA5, 0 => some (.tFill (unpackBase w))
  | 0xA6, 0 => some (.tRead (unpackBase w))
  | 0xA7, 0 => some (.tFence (unpackBase w))
  | 0xA8, 0 => some (.tSync (unpackBase w))
  | 0xA9, 0 => some (.tSignalAdd (unpackBase w))
  | 0xA9, 1 => some (.tSignalStore (unpackBase w))
  | 0xAA, 0 => some (.tSvc (unpackBase w))
  | 0xAB, 0 => some (.tSend (unpackBase w))
  | 0xAC, 0 => some (.tRecv (unpackBase w))
  | 0xAD, 0 => some (.tWaitEq (unpackBase w))
  | 0xAD, 1 => some (.tWaitNe (unpackBase w))
  | 0xAD, 2 => some (.tWaitGe (unpackBase w))
  | 0xB0, 1 => some (.eretRetry (unpackBase w))
  | 0xB1, 0 => some (.csrR (unpackBase w))
  | 0xB2, 0 => some (.csrW (unpackBase w))
  | 0xB3, 0 => some (.codeInv (unpackBase w))
  | 0xB3, 1 => some (.codeInvObj (unpackBase w))
  | 0xB3, 2 => some (.codeInvAll (unpackBase w))
  | 0xB4, 0 => some (.scanFrz (unpackBase w))
  | 0xB4, 1 => some (.scanFrzAt (unpackBase w))
  | 0xB5, 0 => some (.scanOut (unpackBase w))
  | 0xB6, 0 => some (.scanIn (unpackBase w))
  | 0xB7, 0 => some (.scanRun (unpackBase w))
  | 0xB8, 0 => some (.patchLd (unpackBase w))
  | 0xB9, 0 => some (.ctxScrub (unpackBase w))
  | 0x90, _ => some (.mm (unpackEng w))
  | 0x91, _ => some (if (unpackEng w).fn.getLsbD 1 then .mmDrainQ0 (unpackEng w) else .mmDrain (unpackEng w))
  | 0x09, 0 => some (.trap (unpackImm w))
  | 0x0A, 0 => some (.svc (unpackImm w))
  | 0x15, 0 => some (.li (unpackImm w))
  | 0x15, 1 => some (.liZ (unpackImm w))
  | 0x30, _ => some (.ld (unpackImm w))
  | 0x31, _ => some (.st (unpackImm w))
  | 0xA4, _ => some (.tCopy fn (unpackBase w))
  | _, _ => none

/-- The form B instructions (R58, R165 to R167): FN selects among `br` and `brZ`. -/
def decodeBranch (op : BitVec 8) (fn : BitVec 4) (f : BrF) : Option Instr :=
  match op.toNat, fn.toNat with
  | 0x02, 0 => some (.br f)
  | 0x02, 1 => some (.brZ f)
  | 0x03, 0 => some (.call f)
  | 0x04, 0 => some (.ret f)
  | _, _ => none

/-- Accept an instruction when its fields are legal, else ILLEGAL (R71, R73). -/
def accept (i : Option Instr) (n : Nat) : Except CodeFault (Instr × Nat) :=
  match i with
  | some i => if i.wf then .ok (i, n) else .error .illegal
  | none => .error .illegal

/-- The instruction that begins at the head of a list of code words, and how many words it takes (R60). A list
that ends inside the instruction is NOTPRESENT, whatever else is wrong with it (R74): the caller knows why the words end
(R67, R148). -/
def decode : List Word → Except CodeFault (Instr × Nat)
  | [] => .error .notPresent
  | w :: ws =>
    let op := opOf w
    let fn := fnOf w
    let f := unpackBase w
    if 0xF0 ≤ op.toNat then accept (some (.claimedInstruction w)) 1
    else if op == 0x02 || op == 0x03 || op == 0x04 then
      let nc := (w.extractLsb' 32 8).toNat
      if 16 < nc then .error .illegal
      else if ws.length < specWordCount nc then .error .notPresent
      else if f.ty != 0 then .error .illegal
      else
        match readSpecs ws nc with
        | .error e => .error e
        | .ok carry =>
          accept (decodeBranch op fn { cond := w.extractLsb' 40 8, off := w.extractLsb' 0 32, carry := carry })
            (1 + specWordCount nc)
    else if op == 0x15 && fn == 2 then
      match ws with
      | [] => .error .notPresent
      | x :: _ => if opOf x == 0x0E then accept (some (.li64 f (x.extractLsb' 0 56))) 2 else .error .illegal
    else if op == 0xA3 then
      if 8 < fn.toNat || 7 < f.ty.toNat then .error .illegal
      else if ws.length < specWordCount f.ty.toNat + specWordCount fn.toNat then .error .notPresent
      else
        match readSpecs ws f.ty.toNat with
        | .error e => .error e
        | .ok tl =>
          match readSpecs (ws.drop (specWordCount f.ty.toNat)) fn.toNat with
          | .error e => .error e
          | .ok args =>
            accept (some (.tMap fn f tl args)) (1 + specWordCount f.ty.toNat + specWordCount fn.toNat)
    else if op == 0xB0 && fn == 0 then
      let nc := bitsNat f.mod 0 5
      if 16 < nc then .error .illegal
      else if ws.length < specWordCount nc then .error .notPresent
      else
        match readSpecs ws nc with
        | .error e => .error e
        | .ok carry => accept (some (.eret f carry)) (1 + specWordCount nc)
    else accept (decodeFixed op fn w) 1

/-- The little-endian words of a list of code bytes (R3); a last part shorter than a word is left out. -/
def wordsOfBytes : List Byte → List Word
  | b0 :: b1 :: b2 :: b3 :: b4 :: b5 :: b6 :: b7 :: bs =>
    BitVec.ofNat 64 (bytesToNat [b0, b1, b2, b3, b4, b5, b6, b7]) :: wordsOfBytes bs
  | _ => []

/-- Decode the instruction at the head of a list of code bytes. -/
def decodeBytes (bs : List Byte) : Except CodeFault (Instr × Nat) := decode (wordsOfBytes bs)

/-- The longest instruction is a `t.map`: its word, one TLIST word and two ARGS words, or a branch with three CARRY
words (R62). -/
def maxInstrWords : Nat := 4

/-- The instruction the decoder reads from bits numbered as spec/opcode_table.json numbers them: bit 0 is the least
significant bit of the first word; bits above `nbits` are 0. -/
def decodeTableWord (nbits w : Nat) : Option Instr :=
  match decodeBytes (natToBytes (8 * maxInstrWords) (w % 2 ^ nbits)) with
  | .ok (i, _) => some i
  | .error _ => none

/-! The encoder. -/

/-- A base-form word (R57). -/
def packBase (op : BitVec 8) (fn : BitVec 4) (f : BaseF) : Word :=
  op ++ fn ++ f.ty ++ f.a ++ f.b ++ f.c ++ f.mod

/-- A form I word (R58). -/
def packImm (op : BitVec 8) (f : ImmF) : Word := op ++ f.fn ++ f.ty ++ f.a ++ f.b ++ f.imm

/-- A form E word (R58). -/
def packEng (op : BitVec 8) (f : EngF) : Word :=
  op ++ f.fn ++ f.ty ++ f.a ++ f.b ++ f.c ++ f.wf ++ f.wn ++ f.sf ++ f.sn ++ f.efl

/-- A form B word (R58). -/
def packBr (op : BitVec 8) (fn : BitVec 4) (f : BrF) : Word :=
  op ++ fn ++ (0 : BitVec 4) ++ f.cond ++ BitVec.ofNat 8 f.carry.length ++ f.off

/-- The first `k` spec-list words of a list of specifiers (R62). -/
def specWordsN : Nat → List (BitVec 8) → List Word
  | 0, _ => []
  | k + 1, l => BitVec.ofNat 64 (0x0F * 2 ^ 56 + bytesToNat (l.take 7)) :: specWordsN k (l.drop 7)

/-- The spec-list words of a list of specifiers (R62). -/
def specWords (l : List (BitVec 8)) : List Word := specWordsN (specWordCount l.length) l

/-- The code words of an instruction; none for a row without an encoding. -/
def encode : Instr → Option (List Word)
  | .launchRecord _ _ => none
  | .translationFault _ => none
  | .emulateCall _ _ => none
  | .engineCommandStart _ _ => none
  | .commandComplete _ _ _ => none
  | .commandKill _ _ _ _ => none
  | .gangFormed _ _ => none
  | .copyFault _ _ => none
  | .waitBoundExpiry _ _ => none
  | .teamBarComplete _ _ => none
  | .storeMove _ _ => none
  | .cacheWriteBack _ _ => none
  | .cacheLineDrop _ _ => none
  | .pageWalk _ _ => none
  | .shootdown _ _ => none
  | .eventDelivery _ _ _ => none
  | .partitionSchedule _ _ => none
  | .partitionDeschedule _ _ => none
  | .ownWrite _ _ _ => none
  | .xheapWrite _ _ => none
  | .spinWrite _ _ => none
  | .keyLoad _ _ => none
  | .keyClear _ _ => none
  | .errinjArm _ _ => none
  | .errinjCancel _ _ => none
  | .memAlloc _ => none
  | .viewMap _ => none
  | .endpointOpen _ => none
  | .endpointMessageArrival _ _ => none
  | .sendDeliveryComplete _ _ _ => none
  | .getMeasurements _ _ => none
  | .spdmUnsupportedRequest _ _ => none
  | .warmResetReadmit _ => none
  | .coldReset _ _ => none
  | .ucieFlitFailure _ _ _ => none
  | .linkRetrainEnd _ _ => none
  | .sramUncorrectedError _ => none
  | .hbmUncorrectedError _ => none
  | .timingReplay _ _ _ => none
  | .claimedInstruction w => some [w]
  | .enter f => some [packBase 0x01 0 f]
  | .br f => some (packBr 0x02 0 f :: specWords f.carry)
  | .brZ f => some (packBr 0x02 1 f :: specWords f.carry)
  | .call f => some (packBr 0x03 0 f :: specWords f.carry)
  | .ret f => some (packBr 0x04 0 f :: specWords f.carry)
  | .halt f => some [packBase 0x06 0 f]
  | .nop f => some [packBase 0x07 0 f]
  | .keep f => some [packBase 0x08 0 f]
  | .trap f => some [packImm 0x09 f]
  | .svc f => some [packImm 0x0A f]
  | .add f => some [packBase 0x10 0 f]
  | .sub f => some [packBase 0x10 1 f]
  | .mul f => some [packBase 0x10 2 f]
  | .mulh f => some [packBase 0x10 3 f]
  | .div f => some [packBase 0x10 4 f]
  | .rem f => some [packBase 0x10 5 f]
  | .min f => some [packBase 0x10 6 f]
  | .max f => some [packBase 0x10 7 f]
  | .abs f => some [packBase 0x10 8 f]
  | .neg f => some [packBase 0x10 9 f]
  | .and f => some [packBase 0x11 0 f]
  | .or f => some [packBase 0x11 1 f]
  | .xor f => some [packBase 0x11 2 f]
  | .andn f => some [packBase 0x11 3 f]
  | .not f => some [packBase 0x11 4 f]
  | .shl f => some [packBase 0x12 0 f]
  | .shr f => some [packBase 0x12 1 f]
  | .sar f => some [packBase 0x12 2 f]
  | .rot f => some [packBase 0x12 3 f]
  | .clz f => some [packBase 0x12 4 f]
  | .ffs f => some [packBase 0x12 5 f]
  | .popc f => some [packBase 0x12 6 f]
  | .ext f => some [packBase 0x12 7 f]
  | .cmpEq f => some [packBase 0x13 0 f]
  | .cmpNe f => some [packBase 0x13 1 f]
  | .cmpLt f => some [packBase 0x13 2 f]
  | .cmpLe f => some [packBase 0x13 3 f]
  | .cmpGt f => some [packBase 0x13 4 f]
  | .cmpGe f => some [packBase 0x13 5 f]
  | .sel f => some [packBase 0x14 0 f]
  | .li f => some [packImm 0x15 f]
  | .liZ f => some [packImm 0x15 f]
  | .li64 f lit => some [packBase 0x15 2 f, (0x0E : BitVec 8) ++ lit]
  | .ld f => some [packImm 0x30 f]
  | .st f => some [packImm 0x31 f]
  | .ldD f => some [packBase 0x32 0 f]
  | .stD f => some [packBase 0x33 0 f]
  | .amoAdd f => some [packBase 0x34 0 f]
  | .amoMin f => some [packBase 0x34 1 f]
  | .amoMax f => some [packBase 0x34 2 f]
  | .amoAnd f => some [packBase 0x34 3 f]
  | .amoOr f => some [packBase 0x34 4 f]
  | .amoXor f => some [packBase 0x34 5 f]
  | .amoSwap f => some [packBase 0x34 6 f]
  | .cas f => some [packBase 0x35 0 f]
  | .fenceAcq f => some [packBase 0x36 1 f]
  | .fenceRel f => some [packBase 0x36 2 f]
  | .fenceAr f => some [packBase 0x36 3 f]
  | .align f => some [packBase 0x37 0 f]
  | .cwb f => some [packBase 0x38 0 f]
  | .cinv f => some [packBase 0x39 0 f]
  | .semSig f => some [packBase 0x40 0 f]
  | .semSigErr f => some [packBase 0x40 1 f]
  | .semWait f => some [packBase 0x41 0 f]
  | .semWaitT f => some [packBase 0x41 1 f]
  | .semClr f => some [packBase 0x42 0 f]
  | .semClrAll f => some [packBase 0x42 1 f]
  | .barArr f => some [packBase 0x43 0 f]
  | .barArrErr f => some [packBase 0x43 1 f]
  | .barWait f => some [packBase 0x44 0 f]
  | .barWaitT f => some [packBase 0x44 1 f]
  | .teamJoin f => some [packBase 0x45 0 f]
  | .teamLeave f => some [packBase 0x46 0 f]
  | .teamBar f => some [packBase 0x47 0 f]
  | .trig f => some [packBase 0x48 0 f]
  | .sleepGt f => some [packBase 0x49 0 f]
  | .sleepGtNt f => some [packBase 0x49 1 f]
  | .vsemSig f => some [packBase 0x4A 0 f]
  | .vsemSigErr f => some [packBase 0x4A 1 f]
  | .vsemWait f => some [packBase 0x4B 0 f]
  | .tdSet f => some [packBase 0x50 0 f]
  | .tdSetRec f => some [packBase 0x50 1 f]
  | .tdGet f => some [packBase 0x51 0 f]
  | .portSet f => some [packBase 0x52 0 f]
  | .portSetW f => some [packBase 0x52 1 f]
  | .portRst f => some [packBase 0x53 0 f]
  | .portRstOff f => some [packBase 0x53 1 f]
  | .chanCfg f => some [packBase 0x54 0 f]
  | .phase f => some [packBase 0x55 0 f]
  | .vadd f => some [packBase 0x60 0 f]
  | .vsub f => some [packBase 0x60 1 f]
  | .vmul f => some [packBase 0x60 2 f]
  | .vmin f => some [packBase 0x60 3 f]
  | .vmax f => some [packBase 0x60 4 f]
  | .vabs f => some [packBase 0x60 5 f]
  | .vneg f => some [packBase 0x60 6 f]
  | .vfma f => some [packBase 0x61 0 f]
  | .vfms f => some [packBase 0x61 1 f]
  | .vfnma f => some [packBase 0x61 2 f]
  | .vfnms f => some [packBase 0x61 3 f]
  | .vand f => some [packBase 0x62 0 f]
  | .vor f => some [packBase 0x62 1 f]
  | .vxor f => some [packBase 0x62 2 f]
  | .vandn f => some [packBase 0x62 3 f]
  | .vnot f => some [packBase 0x62 4 f]
  | .vshl f => some [packBase 0x63 0 f]
  | .vshr f => some [packBase 0x63 1 f]
  | .vsar f => some [packBase 0x63 2 f]
  | .vclz f => some [packBase 0x63 3 f]
  | .vffs f => some [packBase 0x63 4 f]
  | .vpopc f => some [packBase 0x63 5 f]
  | .vcmpEq f => some [packBase 0x64 0 f]
  | .vcmpNe f => some [packBase 0x64 1 f]
  | .vcmpLt f => some [packBase 0x64 2 f]
  | .vcmpLe f => some [packBase 0x64 3 f]
  | .vcmpGt f => some [packBase 0x64 4 f]
  | .vcmpGe f => some [packBase 0x64 5 f]
  | .vsel f => some [packBase 0x65 0 f]
  | .vmulh f => some [packBase 0x66 0 f]
  | .vbc f => some [packBase 0x70 0 f]
  | .vbcLane f => some [packBase 0x70 1 f]
  | .vext f => some [packBase 0x71 0 f]
  | .vins f => some [packBase 0x72 0 f]
  | .vperm f => some [packBase 0x73 0 f]
  | .vrot f => some [packBase 0x74 0 f]
  | .vredSum f => some [packBase 0x75 0 f]
  | .vredMin f => some [packBase 0x75 1 f]
  | .vredMax f => some [packBase 0x75 2 f]
  | .vredAnd f => some [packBase 0x75 3 f]
  | .vredOr f => some [packBase 0x75 4 f]
  | .vredXor f => some [packBase 0x75 5 f]
  | .vscanSum f => some [packBase 0x76 0 f]
  | .vscanMin f => some [packBase 0x76 1 f]
  | .vscanMax f => some [packBase 0x76 2 f]
  | .vput f => some [packBase 0x77 0 f]
  | .vputNb f => some [packBase 0x77 1 f]
  | .vtry f => some [packBase 0x78 0 f]
  | .vcvt f => some [packBase 0x80 0 f]
  | .vwid f => some [packBase 0x81 0 f]
  | .vnar f => some [packBase 0x82 0 f]
  | .vexp2 f => some [packBase 0x83 0 f]
  | .vlog2 f => some [packBase 0x83 1 f]
  | .vrcp f => some [packBase 0x83 2 f]
  | .vrsq f => some [packBase 0x83 3 f]
  | .vsqrt f => some [packBase 0x83 4 f]
  | .vtanh f => some [packBase 0x83 5 f]
  | .mm f => some [packEng 0x90 f]
  | .mmDrain f => some [packEng 0x91 f]
  | .mmDrainQ0 f => some [packEng 0x91 f]
  | .mmGang f => some [packEng 0x92 f]
  | .mmGangOff f => some [packEng 0x92 f]
  | .cp f => some [packEng 0x93 f]
  | .cpQ2 f => some [packEng 0x93 f]
  | .cpQ3 f => some [packEng 0x93 f]
  | .cpFill f => some [packEng 0x94 f]
  | .cpGather f => some [packEng 0x95 f]
  | .tlbInv f => some [packEng 0x96 f]
  | .tlbInvAll f => some [packEng 0x96 f]
  | .tNew f => some [packBase 0xA0 0 f]
  | .tFree f => some [packBase 0xA1 0 f]
  | .tView f => some [packBase 0xA2 0 f]
  | .tMap n f tl args => some (packBase 0xA3 n f :: (specWords tl ++ specWords args))
  | .tCopy n f => some [packBase 0xA4 n f]
  | .tFill f => some [packBase 0xA5 0 f]
  | .tRead f => some [packBase 0xA6 0 f]
  | .tFence f => some [packBase 0xA7 0 f]
  | .tSync f => some [packBase 0xA8 0 f]
  | .tSignalAdd f => some [packBase 0xA9 0 f]
  | .tSignalStore f => some [packBase 0xA9 1 f]
  | .tSvc f => some [packBase 0xAA 0 f]
  | .tSend f => some [packBase 0xAB 0 f]
  | .tRecv f => some [packBase 0xAC 0 f]
  | .tWaitEq f => some [packBase 0xAD 0 f]
  | .tWaitNe f => some [packBase 0xAD 1 f]
  | .tWaitGe f => some [packBase 0xAD 2 f]
  | .eret f carry => some (packBase 0xB0 0 f :: specWords carry)
  | .eretRetry f => some [packBase 0xB0 1 f]
  | .csrR f => some [packBase 0xB1 0 f]
  | .csrW f => some [packBase 0xB2 0 f]
  | .codeInv f => some [packBase 0xB3 0 f]
  | .codeInvObj f => some [packBase 0xB3 1 f]
  | .codeInvAll f => some [packBase 0xB3 2 f]
  | .scanFrz f => some [packBase 0xB4 0 f]
  | .scanFrzAt f => some [packBase 0xB4 1 f]
  | .scanOut f => some [packBase 0xB5 0 f]
  | .scanIn f => some [packBase 0xB6 0 f]
  | .scanRun f => some [packBase 0xB7 0 f]
  | .patchLd f => some [packBase 0xB8 0 f]
  | .ctxScrub f => some [packBase 0xB9 0 f]
  | .streamEnd => none
  | .entryIssue => none
  | .entryDone => none
  | .entryFault => none
  | .entryRetire => none
  | .streamTrap => none
  | .streamComplete => none
  | .streamRestart => none
  | .streamKill => none
  | .globalDispatch => none
  | .batchArrival => none
  | .taskStart => none
  | .haltDrainEnd => none
  | .blockLower => none
  | .blockInstall => none
  | .queuePush => none
  | .promiseTimeReached => none
  | .semWaitSatisfied => none
  | .barWaitPoll => none
  | .tWaitPoll => none
  | .teamJoinComplete => none
  | .trigRelease => none
  | .chanCfgPerform => none
  | .phaseMove => none
  | .loadPerform => none
  | .storeLeaveSq => none
  | .releaseComplete => none
  | .acquireComplete => none
  | .atomicPerform => none
  | .shootdownComplete => none
  | .tqpop => none
  | .evpop => none
  | .sliceExpiry => none
  | .cctlRetry => none
  | .cctlResume => none
  | .cctlKill => none
  | .cctlDrain => none
  | .cctlRelease => none
  | .cctlStart => none
  | .drainEnd => none
  | .drainLimitFreeze => none
  | .preemptionHoldEnd => none
  | .streamContextReset => none
  | .streamResetDone => none
  | .keyOperationEnd => none
  | .scanFreezeDeferred => none
  | .scanFreezeComplete => none
  | .exit => none
  | .writeLog => none
  | .memFree => none
  | .endpointClose => none
  | .ctlRecv => none
  | .ctlSend => none
  | .topologyQuery => none
  | .timeQuery => none
  | .setStreamHandler => none
  | .taskReport => none
  | .yield => none
  | .patchQuery => none
  | .eventPost => none
  | .getVersion => none
  | .getCapabilities => none
  | .negotiateAlgorithms => none
  | .getDigests => none
  | .getCertificate => none
  | .challenge => none
  | .readTemperature => none
  | .readPower => none
  | .readReliabilityRecord => none
  | .warmReset => none
  | .warmResetWriteBack => none
  | .warmResetLogicReset => none
  | .dieAdmission => none
  | .calibrationEnd => none
  | .refclkLoss => none
  | .refclkReturn => none
  | .gtcCorrection => none
  | .supplyDroop => none
  | .ucieFlitRetry => none
  | .sramCorrectedError => none
  | .windowWaitBoundPassed => none

/-- Whether a row of the table is an event of the machine, which no code word encodes. -/
def Instr.isEvent (i : Instr) : Bool := (encode i).isNone

end Sys2Proof
end

