-- ==== Sys2Proof/Machine/Tab.lean ====
section
/-! DEFINITION. Sparse tables: a list of key and value pairs in one canonical form (keys strictly rising, no entry
equal to the default), so that equal tables are equal data. Every key reads as something: an unlisted one as the
default. Memory itself is such a table of bytes. -/

namespace Sys2Proof.Machine

/-- A sparse table from numbers to `α`. -/
abbrev Tab (α : Type) := List (Nat × α)

/-- The value at a key; `d` where the key is not listed. -/
def tget {α : Type} (d : α) : Tab α → Nat → α
  | [], _ => d
  | (j, w) :: t, k => if k = j then w else tget d t k

/-- The table with the value at `k` replaced; the default is stored by removing the entry. Whatever the table, the key
then reads as `v` and every other key as before. -/
def tput {α : Type} [DecidableEq α] (d : α) : Tab α → Nat → α → Tab α
  | [], k, v => if v = d then [] else [(k, v)]
  | (j, w) :: t, k, v =>
    if k = j then (if v = d then tput d t k v else (k, v) :: t)
    else if k < j ∧ v ≠ d then (k, v) :: (j, w) :: t
    else (j, w) :: tput d t k v

/-- Whether every key of the table is above `lo`, keys rise strictly, and no entry is the default. -/
def tabWfFrom {α : Type} [DecidableEq α] (d : α) (lo : Option Nat) : Tab α → Bool
  | [] => true
  | (j, w) :: t =>
    (match lo with
      | none => true
      | some l => decide (l < j)) && decide (w ≠ d) && tabWfFrom d (some j) t

/-- The canonical form of a table. -/
def tabWf {α : Type} [DecidableEq α] (d : α) (t : Tab α) : Bool := tabWfFrom d none t

/-- The table with every key in [lo, lo + n) back at the default. -/
def tclear {α : Type} (t : Tab α) (lo n : Nat) : Tab α :=
  t.filter (fun kv => !(decide (lo ≤ kv.1) && decide (kv.1 < lo + n)))

/-- The listed entries with keys in [lo, lo + n). -/
def trange {α : Type} (t : Tab α) (lo n : Nat) : Tab α :=
  t.filter (fun kv => decide (lo ≤ kv.1) && decide (kv.1 < lo + n))

/-- Write the values at `k`, `k + 1`, … -/
def tputs {α : Type} [DecidableEq α] (d : α) (t : Tab α) (k : Nat) : List α → Tab α
  | [] => t
  | v :: vs => tputs d (tput d t k v) (k + 1) vs

/-- Read `n` values at `k`, `k + 1`, … -/
def tgets {α : Type} (d : α) (t : Tab α) (k n : Nat) : List α := (List.range n).map (fun i => tget d t (k + i))

end Sys2Proof.Machine
end

