-- ==== Sys2Proof/Machine/State.lean ====
section
/-! DEFINITION. The state of the whole device as plain data, and the state right after cold reset. INVENTORY.md lists
every field with the rule that names it. -/

namespace Sys2Proof.Machine

/-- Why the machine stops with a fault. -/
inductive Fault where
  /-- Raised by the step when an item of the agenda names a unit the device does not have (R10). Safe: the hardware
  has no such unit to take a step. -/
  | noSuchUnit
  /-- Raised by the step when an item of the agenda offers an encoded instruction as an event. Safe: the hardware
  takes no such step. -/
  | notAnEvent
  deriving DecidableEq, Repr

/-- Why the machine refuses an instruction. -/
inductive Refusal where
  /-- Raised by `exec` for an instruction that has no meaning yet. Safe: the model stops. -/
  | notModelled (mnemonic : String)
  deriving DecidableEq, Repr

/-! Values, blocks and contexts (R64 to R68). -/

/-- A value of a position: a scalar, a vector, or a poisoned value with the kind it was to have and its ECODE
(R226). -/
inductive Val where
  | scalar (w : Word)
  | vector (v : Vec)
  | poisoned (isVec : Bool) (ecode : BitVec 6)
  deriving DecidableEq, Repr, Inhabited

/-- A position: its value, or the kind of a value not produced yet and the number its producer delivers it under
(R161). -/
inductive Slot where
  | ready (v : Val)
  | pending (isVec : Bool) (id : Nat)
  deriving DecidableEq, Repr, Inhabited

/-- What a KIND 0 patch slot does with an instruction of a block (R153). -/
structure PatchAct where
  slot : Nat
  action : Nat
  deriving DecidableEq, Repr, Inhabited

/-- A patch slot (R151), with the template area of the image that loaded it, and where that image's routine area lies
and how many bytes it has (R158, R159). -/
structure Patch where
  mval : Word
  mmask : Word
  ctrl : Word
  target : Word
  tarea : List Word
  rbase : Nat
  rlen : Nat
  deriving DecidableEq, Repr, Inhabited

/-- A lowered block (R142, R143, R149): its key and the code words it was lowered from, from its `enter` up to the next
`enter` (the word `next`) or the end of the text section; which words could not be read, and why; the patch slots it was
lowered under (R152). Object id 0 is service code, `routine` says of an EMULATE routine (R336). `stale` says that a
NOTPRESENT or INTEGRITY fault of it has been taken, so that it is lowered afresh when its context resumes. -/
structure Block where
  obj : Nat
  vpc : Nat
  part : Nat
  words : List Word
  bad : List (Nat × CodeFault)
  next : Option Word
  slots : Tab Patch
  routine : Bool
  stale : Bool
  deriving DecidableEq, Repr

/-- An entry of a return stack: a virtual PC, or the mark beneath which a stream handler runs (R166, R354). -/
inductive RetEntry where
  | pc (v : Nat)
  | mark
  deriving DecidableEq, Repr, Inhabited

/-- A REWRITE template under way (R155): the words still to run, the matched instruction's word and length, how many
values the template has produced, how many results the matched instruction has, and whether its words are matched
once more. -/
structure Tmpl where
  rest : List Word
  matched : Word
  len : Nat
  made : Nat
  kinds : List Bool
  again : Bool
  deriving DecidableEq, Repr, Inhabited

/-- The virtual architected state of a program counter (R9): virtual PC, current block, the next free position, the
values newest first, the return stack (top first), and the REWRITE templates under way (innermost first, R155). `head` holds
NARG and KINDS of the block's `enter`, as MOD[20:0] of its word does (R68, R332). -/
structure Ctx where
  vpc : Nat
  blk : Option Block
  head : BitVec 21
  pos : Nat
  vals : List Slot
  rets : List RetEntry
  tmpl : List Tmpl
  deriving DecidableEq, Repr, Inhabited

/-! Traps (R295 to R299). -/

/-- A TRAPINFO record (R298), or a note of the trap queue (R299). -/
structure TrapInfo where
  note : Bool
  vpc : Nat
  npc : Nat
  cause : Nat
  sub : Nat
  ocause : Nat
  osub : Nat
  slot : Option Nat
  ecode : Nat
  res : Nat
  qpos : Nat
  core : Nat
  part : Nat
  task : Nat
  mqn : Nat
  vqn : Nat
  cqn : Nat
  done : Nat
  started : Nat
  addr : Nat
  gtc : Nat
  deriving DecidableEq, Repr, Inhabited

/-- The pending trap of a stopped context (R296, R302): its record, the queue and command that trapped if an engine
did, and how many results the instruction has and of which kinds. -/
structure TrapPend where
  info : TrapInfo
  queue : Option Eng
  cmdSeq : Nat
  kinds : List Bool
  len : Nat
  deriving DecidableEq, Repr, Inhabited

/-! Accesses of the sequencer (R21, R181). -/

/-- What an access in LQ or SQ does. -/
inductive AccOp where
  /-- a load of `size` bytes, sign-extended from `bits` bits when `sx`; `hi` picks the high nibble of a 4-bit element -/
  | load (bits : Nat) (sx hi : Bool)
  /-- a store; a 4-bit element writes one nibble (R179) -/
  | store (nib : Option Bool)
  /-- `td.set.rec` (R87) -/
  | tdRec (slot : Nat)
  /-- an atomic (R283): function 0 to 6 as FN of `amo`, 7 for `cas` -/
  | amo (fn : Nat) (uns : Bool) (scope : Nat) (rel acq : Bool) (new : Nat)
  /-- a barrier arrival (R285) -/
  | barArr (n : Nat) (err : Option Nat) (scope : Nat)
  /-- a fence (R280) -/
  | fence (rel acq : Bool) (scope : Nat)
  /-- the acquire of a satisfied `bar.wait` (R286) -/
  | acquire (scope : Nat)
  /-- `align` (R281) -/
  | align
  /-- `cwb` and `cinv` (R180) over runs of physical sectors: first and count -/
  | cacheOp (inval : Bool) (scope : Nat) (runs : List (Nat × Nat))
  deriving DecidableEq, Repr, Inhabited

/-- How far a scoped access has come: not begun, its release done, performed and its acquire still to come. -/
inductive AccStage where
  | waiting | released | performed
  deriving DecidableEq, Repr, Inhabited

/-- The path of a translated device-memory access (R254, R258). -/
structure Path where
  pa : Nat
  home : Nat
  ccls : Nat
  key : Nat
  deriving DecidableEq, Repr, Inhabited

/-- An access in program order. `hint` is its HINT (R178). `committed` says that a younger effect has been made (R147);
`early` is then what a load would read at that moment, and of a performed `td.set.rec` what it has read; `snap` is the
context at the access, to which a trap of it returns; `bad` is the error of a word of its entry of LQ or SQ (R346). -/
structure Acc where
  op : AccOp
  pad : Bool
  addr : Nat
  size : Nat
  path : Path
  data : Nat
  dest : Nat
  stage : AccStage
  committed : Bool
  early : Option Nat
  hint : Nat
  snap : Ctx
  bad : Option (BitVec 6)
  deriving DecidableEq, Repr, Inhabited

/-! Engines (R183 to R186). -/

/-- An engine command: one entry of MQ, VQ or CQ. `seq` is its place in program order; `desc` the descriptors copied
at push (R86); `dest` numbers its first result (results are delivered under `dest`, `dest + 1`, …) and `kinds` gives their kinds; `ops` the operand values and
`srcs` the specifiers of those that pop; `prog` how far it has come; `sr` the stochastic state a copy began with; `rpos` the
clks each row of an `mm` with AQ1 has taken; `gang` the gang a matrix command started in (R209) and `secs` the sectors it
drives (R132, R208); `aBuf` and `bBuf` the elements it has read and has yet to use; `col` the column a drain has come to in
its row (R203); `rows` the channel entries under way; `lateErr` an error it has recorded and not signalled; `maps` the
translations a copy has taken ahead (R261); `stall` the clks its wait for RES `stallAt` has lasted (R309); `bad` the error
of a word of its entry (R346); `marker` says that the service placed it (R261). -/
structure Cmd where
  instr : Instr
  word : Word
  vpc : Nat
  seq : Nat
  dest : Nat
  kinds : List Bool
  desc : List (BitVec 256)
  ops : List Slot
  srcs : List Nat
  tag : Option Nat
  started : Bool
  done : Bool
  prog : Nat
  clk : Nat
  bytes : Nat
  sr : BitVec 32
  rpos : Tab Nat
  gang : Option (Nat × Nat)
  aBuf : Tab (Option Nat)
  bBuf : Tab (Option Nat)
  /-- what a `scan.in` has put into latches in place of elements of A and of B: the place of the latch, and the element that
  those behind it take, none where it is not valid (R321) -/
  aOver : Tab (Option (Nat × Option Nat))
  bOver : Tab (Option (Nat × Option Nat))
  out : List Val
  rows : List Vec
  lateErr : Option (BitVec 6)
  secs : List Nat
  col : Nat
  maps : List (Nat × Nat × Word)
  stall : Nat
  stallAt : Nat
  bad : Option (BitVec 6)
  marker : Bool
  skipped : Bool
  killed : Bool
  stopped : Bool
  deriving DecidableEq, Repr

/-- Configuration of a channel (R223). -/
structure ChanCfg where
  snk : Nat
  mod : BitVec 24
  deriving DecidableEq, Repr, Inhabited

/-- A channel (R221, R222): configuration, entries oldest first, the held converted sink vector, and the sink vectors
already popped from the head entry; `spoilt` marks the poisoned 64-bit words of its entries, the head entry at 0 (R346). -/
structure Chan where
  cfg : Option ChanCfg
  ents : List Val
  held : Option Val
  popped : Nat
  spoilt : Tab (BitVec 64)
  deriving DecidableEq, Repr, Inhabited

/-- Direction of a port. -/
inductive PortDir where
  | unbound | read | write
  deriving DecidableEq, Repr, Inhabited

/-- A port (R215): EXHAUSTED when the walk position has reached the end of the walk. -/
structure Port where
  dir : PortDir
  slot : BitVec 256
  walk : Word
  pos : Nat
  deriving DecidableEq, Repr, Inhabited

/-- State of a copy tag (R264). -/
inductive TagState where
  | free | queued | active | stopped | done
  deriving DecidableEq, Repr, Inhabited

/-- A copy tag (R264). -/
structure Tag where
  st : TagState
  err : Bool
  ecode : BitVec 6
  bytes : Nat
  time : Nat
  deriving DecidableEq, Repr, Inhabited

/-- Mode of an accumulator bank (R39, R195). -/
inductive BankMode where
  | fp | int | scaled
  deriving DecidableEq, Repr, Inhabited

/-- SCALED, SCALEFMT and SCALEBASE of an operand (R195). -/
structure ScaleRef where
  scaled : Bool
  fmt32 : Bool
  base : Nat
  deriving DecidableEq, Repr, Inhabited

/-- The bank state of R195 but the accumulators: what the task's `mm` and `mm.drain` act through. Sums are in units
of 2^−320: e_j at j, s_j at 256 + j, g_i at 512 + i, u_i at 640 + i (R206, R332); in a gang columns go on past 255
at key 1000 + j and 3000 + j; the steps K of the commands at 900. -/
structure Bank where
  mode : Option BankMode
  m : Nat
  n : Nat
  refA : ScaleRef
  refB : ScaleRef
  ovf : Bool
  poison : Bool
  chkVoid : Bool
  chkOn : Bool
  chkNan : Bool
  sums : Tab Int
  deriving DecidableEq, Repr, Inhabited

/-- The latches of a PE and its BUSY bit, as a `scan.in` has loaded them (R321). -/
structure PeLat where
  a : Option (BitVec 16)
  b : Option (BitVec 16)
  busy : Bool
  deriving DecidableEq, Repr, Inhabited

/-- The accumulators and latches of one sector: a PE's accumulator is listed exactly when its valid bit is set. `lats` holds
the latches that a `scan.in` has loaded, until the PE's row takes its next clk; the others are what the running `mm` has
put there (R321). -/
structure Sector where
  acc0 : Tab (Option (BitVec 80))
  acc1 : Tab (Option (BitVec 80))
  latch : Tab (Option (BitVec 16))
  lats : Tab (Option PeLat)
  frozen : Bool
  deriving DecidableEq, Repr, Inhabited

/-- What the sequencer knows of a bank from its own pushes (R202). -/
structure BankView where
  mode : Option BankMode
  m : Nat
  n : Nat
  refA : ScaleRef
  refB : ScaleRef
  deriving DecidableEq, Repr, Inhabited

/-! Waits (R309). -/

/-- A wait of the sequencer; that of `scan.frz` keeps the clk `at?` it freezes at, the core and number of the current
`mm`, and the clk left to wait for its start (R325); `pops` is that of an instruction of the sequencer for what its operands pop, their specifiers (R66, R337). -/
inductive WaitKind where
  | sem (flag n : Nat) (t : Bool)
  | barWait (acc : Acc) (gen : Nat) (t : Bool) (scope : Nat)
  | teamJoin (key : Nat)
  | teamBar (key gen scope : Nat)
  | sleep (time tag : Nat) (nt finishing : Bool)
  | push (q : Eng) (cmd : Cmd)
  | halt
  | phase (k : Nat)
  | trig
  | scrub (core : Nat) (left : Nat)
  | frz (die mask part : Nat) (at? : Option Nat) (cur : Option (Nat × Nat)) (left : Nat)
  | patchLd (img : List Byte) (ebase : Nat)
  | pops (srcs : List Nat)
  deriving DecidableEq, Repr, Inhabited

/-- A wait, its stall counter and its bound 2^B (R309). -/
structure Wait where
  kind : WaitKind
  stall : Nat
  bound : Option Nat
  deriving DecidableEq, Repr, Inhabited

/-! Tasks and cores. -/

/-- The task of a core (R16, R53, R120): its window entry and the identity of that entry's launch, its index, the
count, the kernel's entry, EARLY, the release scope, and the kernel's default bounds. -/
structure Task where
  entry : Nat
  uid : Nat
  idx : Nat
  count : Nat
  kern : Nat
  early : Bool
  rel : Nat
  bpush : Nat
  bchan : Nat
  bsleep : Nat
  bbar : Nat
  bflag : Nat
  deriving DecidableEq, Repr, Inhabited

/-- Context states of R300. -/
inductive CState where
  | idle | run | trapped | draining | frozen | saved | killed
  deriving DecidableEq, Repr, Inhabited

/-- An EMULATE routine under way (R156, R157, R337): the slot, the matched word and its length, the kept context, the
result kinds, what an abandoned routine puts back (the stochastic states; each channel popped, as it was, with how many
entries were taken; each port popped with its earlier walk position), the record of a KIND 1 match, and the wait of the sequencer that the match of a command's
trap found. -/
structure Emul where
  slot : Nat
  word : Word
  len : Nat
  kept : Ctx
  kinds : List Bool
  sr : BitVec 96
  chans : List (Nat × Chan × Nat)
  ports : List (Nat × Nat)
  seq : Nat
  fault : Option TrapPend
  wait : Option Wait
  deriving DecidableEq, Repr, Inhabited

/-- A sector of a cache or a 64-byte sector in transit: bytes, which nibbles of them are held and which are dirty (R179),
poison of each 64-bit word with its ECODE, the key slot and generation (R253, R346), the home die, and the partition
whose access brought it, 16 for the service. -/
structure CSec where
  data : BitVec 512
  valid : BitVec 128
  dirty : BitVec 128
  poison : BitVec 8
  ecode : BitVec 6
  key : Nat
  gen : Nat
  home : Nat
  owner : Nat
  deriving DecidableEq, Repr, Inhabited

/-- A 128-byte line of an L2: its way, and the partition that allocated it, 16 for the service (R139). -/
structure L2Line where
  line : Nat
  way : Nat
  owner : Nat
  deriving DecidableEq, Repr, Inhabited

/-- A cached translation (R260): the leaf PTE of a page, keyed by virtual page. -/
structure TlbEntry where
  vpn : Nat
  bits : Nat
  pte : Word
  deriving DecidableEq, Repr, Inhabited

/-- One core: user core or service core (R10, R16, R160). `lscFirst` lists the lines of its local-store cache that are the
first candidates for eviction (R178); `iced` holds of a core whose engines a freeze of
its sectors stops while it is not FROZEN itself (R325); `flagTurn` says, for a flag word updated in this clk, whose turn it has come
to (R188); `pendErr` holds the errors of R186 still to be taken: place in program order, virtual PC, ECODE; `svcCmd` names
the engine command whose trap the handler of a service core deals with (queue, place in program order, virtual PC), `svcSeq` the
place in program order at which the handler began (R308), and `svcLate` keeps `late` of the block that it interrupted (R272). -/
structure Core where
  cstate : CState
  frozenFrom : CState
  quant : Nat
  part : Nat
  task : Option Task
  ctx : Ctx
  serials : Nat
  slots : Tab (BitVec 256)
  flags : Tab (BitVec 32)
  flagTurn : Tab Nat
  acc : List Acc
  mq : List Cmd
  vq : List Cmd
  cq : List Cmd
  seq : Nat
  ports : Tab Port
  pview : Tab PortDir
  chans : Tab Chan
  cview : Tab (Option ChanCfg)
  bank0 : Bank
  bank1 : Bank
  bview0 : BankView
  bview1 : BankView
  vqErr : Option (BitVec 6)
  srv : BitVec 32
  srm : BitVec 32
  src : BitVec 32
  padUnits : Nat
  pad : Tab Byte
  padW : Tab Bool
  padP : Tab (Option (BitVec 6))
  tags : Tab Tag
  lastTag : Nat
  lastTime : Option Nat
  late : Bool
  wait : Option Wait
  team : Option (Nat × Nat)
  teamKey : Option Nat
  trigd : Bool
  cres : Tab Word
  errinj : Word
  trap : Option TrapPend
  pendErr : List (Nat × Nat × BitVec 6)
  tlb : List TlbEntry
  lsc : Tab (Option CSec)
  lscFirst : List Nat
  sysSecs : List Nat
  loaded : Bool
  stopped : Bool
  iced : Bool
  emul : Option Emul
  hold : Bool
  drainT : Nat
  gang : Option (Nat × Nat)
  gview : Option (Nat × Nat)
  gangOff : Bool
  stvec : Word
  sepc : Word
  scause : Word
  saddr : Word
  svcKept : Option Ctx
  svcKinds : List Bool
  svcLen : Nat
  svcCmd : Option (Eng × Nat × Nat)
  svcSeq : Nat
  svcLate : Bool
  svcStop : Bool
  deriving DecidableEq, Repr, Inhabited

/-- Free value: the state that a frozen image's SEG0 to SEG6 load as where no die of this device has written them: their
content is bound to the layout, and only the device interprets it (R319). Assumption 8. -/
opaque foreignCore : List (Nat × List Byte) → Core

/-! Dies. -/

/-- An installed block with the heap generation that holds it (R142, R145); `pinned` says that its generation has been
evicted while the block was being executed. -/
structure Installed where
  blk : Block
  gen : Nat
  size : Nat
  pinned : Bool
  deriving DecidableEq, Repr

/-- A gang: sector row, west column, width, and whether it is formed (R208). -/
structure Gang where
  row : Nat
  west : Nat
  width : Nat
  members : List Nat
  deriving DecidableEq, Repr, Inhabited

/-- A task on its way to a core: in a ready queue or in a batch (R133 to R136); `core` is the reserved core of a
group's task. -/
structure Ready where
  entry : Nat
  uid : Nat
  idx : Nat
  core : Option Nat
  deriving DecidableEq, Repr, Inhabited

/-- One die. `booted` says that its boot of R364 has run, `slewAt` what its GTC was at the last correction by a tick
and `slow` whether that was a slowing that the next clk makes (R362), `holdStop` that a warm reset has stopped its requests (R351), `report` what the ROM reports (R368). -/
structure Die where
  gtc : Nat
  trapq : List TrapInfo
  tqbuf : List Word
  tqdrop : Nat
  xheap : Word
  blocksN : Nat
  evictN : Nat
  heapF : Nat
  index : List Installed
  lowering : List Block
  curGen : Nat
  spin : Word
  patched : Bool
  shoot : Word
  shootva : Word
  shootlen : Word
  shootLeft : List (Nat × Nat)
  keyctl : Word
  keysrc : Word
  patches : Tab Patch
  patchSeq : Nat
  rdc : Tab (Option CSec)
  meas : Tab (BitVec 256)
  stepping : Nat
  layout : Nat
  svcCore : Nat
  admitted : Bool
  romOnly : Bool
  replay : Nat
  repfail : Nat
  sramce : Nat
  uciefail : Nat
  sramue : Nat
  uciertry : Nat
  ready : Tab (List Ready)
  gangs : List Gang
  svcRoot : Nat
  booted : Bool
  slewAt : Nat
  slow : Bool
  holdStop : Bool
  report : List Byte
  deriving DecidableEq, Repr, Inhabited

/-! Partitions, streams and the window. -/

/-- A logical tensor (R85, R113): its descriptor (BASE filled in), whether it is a view, its home and class, and the
physical buffer it maps to. -/
structure LTensor where
  desc : BitVec 256
  view : Bool
  home : Nat
  cls : Nat
  pb : Nat
  deriving DecidableEq, Repr, Inhabited

/-- States of a physical buffer (R97). -/
inductive PbState where
  | free | shadow | mapped | unmapped
  deriving DecidableEq, Repr, Inhabited

/-- A physical buffer, keyed by its base address (R94, R97). -/
structure Pb where
  home : Nat
  cls : Nat
  st : PbState
  reads : Nat
  ballast : Bool
  deriving DecidableEq, Repr, Inhabited

/-- A tensor of a window entry (R92, R98): its logical number, mode, descriptor with the BASE this entry uses, the
buffer it reads and the buffer it draws, and what the rename table held before. -/
structure ETensor where
  lt : Nat
  mode : Nat
  desc : BitVec 256
  view : Bool
  srcPb : Option Nat
  dstPb : Option Nat
  before : Option LTensor
  after : Option LTensor
  deriving DecidableEq, Repr, Inhabited

/-- A recorded region (R102). -/
structure Region where
  lo : Nat
  hi : Nat
  write : Bool
  deriving DecidableEq, Repr, Inhabited

/-- States of a window entry (R92). -/
inductive EState where
  | empty | wait | issued | done | fault | held
  deriving DecidableEq, Repr, Inhabited

/-- A window entry (R92). `args` are its operand values in order; `bitmap` the tasks that completed, `trapped` those
that trapped with their records, `next` the lowest task index not considered for sending yet, `out` the tasks started
and not ended, `trigs` the tasks that have executed `trig` or halted (R105), `ran` the cores that ran tasks (R103);
`snap` is the stream's context at the instruction (R106). `buf` holds the elements its work has read, `prog` counts those it has
written, `got` says that its message has been taken (R112, R129). -/
structure Entry where
  st : EState
  instr : Instr
  uid : Nat
  spc : Nat
  len : Nat
  dest : Nat
  args : List Word
  tens : List ETensor
  regions : List Region
  unbounded : Bool
  rel : Nat
  acq : Nat
  visible : Bool
  ntask : Nat
  team : Nat
  gang : Nat
  kern : Nat
  early : Bool
  bitmap : Tab Bool
  trapped : List (Nat × TrapInfo)
  /-- the tasks that have ever trapped: their bits of the bitmap stay clear (R340) -/
  failed : List Nat
  /-- those of them that Complete has run again and that have completed -/
  redone : List Nat
  next : Nat
  out : List Nat
  trigs : Tab Bool
  issueFault : Option (Nat × BitVec 6)
  ecode : BitVec 6
  cause : Nat
  stall : Nat
  ckpt : Bool
  snap : Ctx
  ran : List Nat
  prog : Nat
  buf : List Nat
  got : Bool
  deriving DecidableEq, Repr

/-- Why a stream front end decodes nothing (R90, R91, R125): a stream that ends once its window is empty, a trap that
waits for it, a `t.sync`, a system call, a stream trap not yet taken on (R106). -/
inductive SfeWait where
  | none
  | endStream (status : Word)
  | trap (kind cause sub : Nat) (spc : Nat) (ecode : BitVec 6)
  | sync
  | svc (num : Nat) (a b : Word)
  | held
  deriving DecidableEq, Repr, Inhabited

/-- What handler mode keeps (R354 to R356): the event TYPE, the stream's context beneath the mark, and the entry and
record of a stream trap. -/
structure HMode where
  typ : Nat
  kept : Ctx
  entry : Option Nat
  kind : Nat
  deriving DecidableEq, Repr, Inhabited

/-- The stream front end of a stream context (R88 to R91); `stores` are the sectors it has written since its last system
release (R275). -/
structure Sfe where
  running : Bool
  ctx : Ctx
  serials : Nat
  wait : SfeWait
  handler : Option (Nat × Nat)
  hmode : Option HMode
  reqid : Word
  stores : List Nat
  deriving DecidableEq, Repr, Inhabited

/-- A stream trap record (R107). -/
structure StreamRec where
  spc : Nat
  cause : Nat
  sub : Nat
  kind : Nat
  entry : Nat
  ftask : Nat
  nfault : Nat
  ndone : Nat
  ntask : Nat
  gtc : Nat
  info : Option TrapInfo
  deriving DecidableEq, Repr, Inhabited

/-- A kernel with its metadata (R52). -/
structure Kernel where
  addr : Nat
  size : Nat
  ntens : Nat
  nargs : Nat
  initpad : Nat
  bpush : Nat
  bchan : Nat
  bsleep : Nat
  bbar : Nat
  bflag : Nat
  deriving DecidableEq, Repr, Inhabited

/-- A loaded code object (R45 to R55); `bytes` are those of the pages it takes. -/
structure Obj where
  id : Nat
  streamLo : Nat
  streamHi : Nat
  kernLo : Nat
  kernHi : Nat
  bytes : Nat
  entry : Nat
  kernels : List Kernel
  deriving DecidableEq, Repr, Inhabited

/-- A team record (R287, R290): key, count, members by global core id, generation, arrivals at it, whether it became
complete, and whether it is broken. -/
structure Team where
  key : Nat
  count : Nat
  members : List Nat
  gen : Nat
  arrived : List Nat
  complete : Bool
  ranks : List Nat
  deriving DecidableEq, Repr, Inhabited

/-- An event (R315). -/
structure Event where
  typ : Nat
  data : Word
  gen : Nat
  time : Nat
  deriving DecidableEq, Repr, Inhabited

/-- One partition with its stream context. `evlog` is the log of R315, `evq` the events that wait for the stream
handler (R354), `evsvc` those handed to the service. -/
structure Part where
  own : Tab Word
  share : Tab Word
  psched : Word
  pswap : Word
  seed : Word
  ptroot : Word
  sctl : Word
  pgen : Nat
  sliceT : Nat
  evlog : List Event
  evdrop : Nat
  evstale : Nat
  evbuf : List Word
  evq : List Event
  evsvc : List Event
  wstallCkpt : Nat
  wstallFull : Nat
  wstallPool : Nat
  pbs : Tab (Option Pb)
  pools : List (Nat × Nat)
  rename : Tab (Option LTensor)
  committed : Tab (Option LTensor)
  window : Tab (Option Entry)
  whead : Nat
  wcount : Nat
  uids : Nat
  sfe : Sfe
  srec : Option StreamRec
  srecNew : Bool
  teams : List Team
  obj : Option Obj
  allocs : List (Nat × Nat × Nat)
  paused : Bool
  lastDie : Nat
  keySlot : Nat
  deriving DecidableEq, Repr, Inhabited

/-- A batch in transfer (R133, R134): partition, entry, target die, tasks. -/
structure Batch where
  part : Nat
  die : Nat
  tasks : List Ready
  deriving DecidableEq, Repr, Inhabited

/-- The metadata the base die keeps for a 64-byte sector (R262, R346). -/
structure HMeta where
  poison : Bool
  ecode : BitVec 6
  key : Nat
  gen : Nat
  /-- a write has reached the sector since power-on -/
  written : Bool
  deriving DecidableEq, Repr, Inhabited

/-- A key slot (R369). -/
structure KeySlot where
  loaded : Bool
  gen : Nat
  mat : List Byte
  deriving DecidableEq, Repr, Inhabited

/-- An open network endpoint (R371): its owner, the peer's address, the delivery service, queued messages. -/
structure Endpoint where
  handle : Nat
  part : Nat
  peer : Word
  service : Nat
  queue : List (List Byte)
  deriving DecidableEq, Repr, Inhabited

/-- An Ultra Ethernet port (R10, R365, R366): the rate in Gb/s it has trained at, 0 while it has not, and the retries that
it has counted (R347). -/
structure UePort where
  rate : Nat
  retried : Nat
  deriving DecidableEq, Repr, Inhabited

/-- What an image of a context stands for (R319, R332): the core it was written from, whether it is the portable form,
and that core's state. -/
structure Shot where
  id : Nat
  g : Nat
  portable : Bool
  core : Core
  deriving DecidableEq, Repr, Inhabited

/-- The state of the device. -/
structure State where
  /-- the agent whose step is taken: the model's own field. Assumption 3. -/
  focus : Agent
  /-- the steps and outside inputs to come: the model's own field. Assumption 3. -/
  agenda : List Action
  /-- counter the free scheduling choice is applied to: the model's own field. Assumption 3. -/
  clock : Nat
  /-- counter the free values are applied to: the model's own field. Assumption 4. -/
  fresh : Nat
  cores : Tab Core
  sectors : Tab Sector
  dies : Tab Die
  parts : Tab Part
  hbm : List Host.Cell
  hbmMeta : Tab HMeta
  l2 : Tab (Option CSec)
  /-- the lines of each set of each L2 slice (R139, R140), the eviction end first -/
  l2sets : Tab (List L2Line)
  keys : Tab KeySlot
  /-- the batches that the global dispatcher has selected, the one in transfer first (R133, R135) -/
  xfer : List Batch
  /-- whether the first of them is in transfer -/
  sending : Bool
  lastPart : Tab Nat
  endpoints : List Endpoint
  ctlIn : List (List Byte)
  ctlOut : List (List Byte)
  log : List (List Byte)
  outbox : List (Nat × Nat × List Byte)
  sent : List (Nat × List Byte)
  spdm : List (List Byte)
  board : List (List Byte)
  holdover : Bool
  reduced : Bool
  warm : Option (Nat × Nat)
  warmQueue : List Nat
  warmParts : List Nat
  edges : List (Nat × Nat)
  /-- the ports E0 to E15, port E(2d) and E(2d+1) on die d (R10) -/
  ports : Tab UePort
  shots : List Shot
  deriving DecidableEq, Repr

/-! Reset values. -/

/-- No block, no values, empty return stack (R160). Assumption 2 for the PC of an idle core. -/
def Ctx.reset : Ctx := { vpc := 0, blk := none, head := 0, pos := 0, vals := [], rets := [], tmpl := [] }

/-- SCALED clear (R195). -/
def ScaleRef.reset : ScaleRef := { scaled := false, fmt32 := false, base := 0 }

/-- A bank with no mode (R195); its shape stands for the whole sector until an `mm` sets one. -/
def Bank.reset : Bank :=
  { mode := none, m := 128, n := 256, refA := ScaleRef.reset, refB := ScaleRef.reset, ovf := false, poison := false,
    chkVoid := false, chkOn := false, chkNan := false, sums := [] }

/-- The sequencer's view of a bank with no mode. -/
def BankView.reset : BankView :=
  { mode := none, m := 128, n := 256, refA := ScaleRef.reset, refB := ScaleRef.reset }

/-- An unbound port (R215). -/
def Port.reset : Port := { dir := .unbound, slot := 0, walk := 0, pos := 0 }

/-- An unconfigured, empty channel (R221). -/
def Chan.reset : Chan := { cfg := none, ents := [], held := none, popped := 0, spoilt := [] }

/-- A FREE tag (R264). -/
def Tag.reset : Tag := { st := .free, err := false, ecode := 0, bytes := 0, time := 0 }

/-- A sector with no valid accumulator and no valid latch (R195, R324). -/
def Sector.reset : Sector := { acc0 := [], acc1 := [], latch := [], lats := [], frozen := false }

/-- A core after reset: IDLE (R300), as `ctx.scrub` leaves it (R318). Assumption 2 names the values the spec does not
give. -/
def Core.reset : Core :=
  { cstate := .idle, frozenFrom := .idle, quant := 0, part := 0, task := none, ctx := Ctx.reset, serials := 0,
    slots := [], flags := [], flagTurn := [], acc := [], mq := [], vq := [], cq := [], seq := 1, ports := [], pview := [], chans := [],
    cview := [], bank0 := Bank.reset, bank1 := Bank.reset, bview0 := BankView.reset, bview1 := BankView.reset,
    vqErr := none, srv := 1, srm := 1, src := 1, padUnits := 0, pad := [], padW := [], padP := [], tags := [],
    lastTag := 31, lastTime := none, late := false, wait := none,
    team := none, teamKey := none, trigd := false, cres := [], errinj := 0, trap := none, pendErr := [], tlb := [],
    lsc := [], lscFirst := [], sysSecs := [], loaded := false, stopped := false, iced := false, emul := none, hold := false, drainT := 0,
    gang := none, gview := none, gangOff := false, stvec := 0, sepc := 0, scause := 0, saddr := 0, svcKept := none, svcKinds := [],
    svcLen := 0, svcCmd := none, svcSeq := 0, svcLate := false, svcStop := false }

/-- An empty patch slot (R151). -/
def Patch.reset : Patch := { mval := 0, mmask := 0, ctrl := 0, target := 0, tarea := [], rbase := 0, rlen := 0 }

/-- A die after cold reset, before its boot has run (R364): stepping 0x00A0, layout 0x0001_0000 (R319). -/
def Die.reset : Die :=
  { gtc := 0, trapq := [], tqbuf := [], tqdrop := 0, xheap := 0, blocksN := 0, evictN := 0, heapF := 0, index := [],
    lowering := [], curGen := 0, spin := 0, patched := false, shoot := 0, shootva := 0, shootlen := 0,
    shootLeft := [], keyctl := 0, keysrc := 0, patches := [],
    patchSeq := 0, rdc := [], meas := [], stepping := 0x00A0, layout := 0x00010000, svcCore := 0, admitted := false,
    romOnly := false, replay := 0, repfail := 0, sramce := 0, uciefail := 0, sramue := 0, uciertry := 0, ready := [],
    gangs := [], svcRoot := 0, booted := false, slewAt := 0, slow := false, holdStop := false, report := [] }

/-- A stream front end that runs no stream (R88). -/
def Sfe.reset : Sfe :=
  { running := false, ctx := Ctx.reset, serials := 0, wait := .none, handler := none, hmode := none, reqid := 0, stores := [] }

/-- A partition after reset: registers 0 but SEED (R29, R303). -/
def Part.reset : Part :=
  { own := [], share := [], psched := 0, pswap := 0, seed := 1, ptroot := 0, sctl := 0, pgen := 0, sliceT := 0,
    evlog := [], evdrop := 0, evstale := 0, evbuf := [], evq := [], evsvc := [], wstallCkpt := 0, wstallFull := 0, wstallPool := 0,
    pbs := [], pools := [], rename := [], committed := [], window := [], whead := 0, wcount := 0, uids := 0,
    sfe := Sfe.reset, srec := none, srecNew := false, teams := [], obj := none, allocs := [], paused := false,
    lastDie := 7, keySlot := 0 }

/-- A sector never written (assumption 1). -/
def HMeta.reset : HMeta := { poison := false, ecode := 0, key := 0, gen := 0, written := false }

/-- A port not trained (R365). -/
def UePort.reset : UePort := { rate := 0, retried := 0 }

/-- A key slot not loaded (assumption 2). -/
def KeySlot.reset : KeySlot := { loaded := false, gen := 0, mat := [] }

/-- What a byte of memory that nothing has written reads as (assumption 1). -/
def unlistedByte : Byte := 0

/-- The machine right after cold reset (R364): every table at its default. -/
def State.reset : State :=
  { focus := .core 0, agenda := [], clock := 0, fresh := 0, cores := [], sectors := [], dies := [], parts := [],
    hbm := [], hbmMeta := [], l2 := [], l2sets := [], keys := [], xfer := [], sending := false, lastPart := [], endpoints := [], ctlIn := [],
    ctlOut := [], log := [], outbox := [], sent := [], spdm := [], board := [], holdover := false, reduced := true, warm := none,
    warmQueue := [], warmParts := [], edges := [], ports := [], shots := [] }

/-- The canonical form of memory: addresses strictly rising, no entry equal to what an unlisted address reads as. -/
def Memory.wf (m : List Host.Cell) : Bool := tabWf unlistedByte m

end Sys2Proof.Machine
end

