-- ==== Sys2Proof/Machine/Access.lean ====
section
/-! DEFINITION. Reading and writing the units of the device: one accessor and one update for each table of the state,
used by every operation. -/

namespace Sys2Proof.Machine

/-- Core `g` (R11). -/
def State.core (s : State) (g : Nat) : Core := tget Core.reset s.cores g
/-- Replace core `g`. -/
def State.setCore (s : State) (g : Nat) (c : Core) : State := { s with cores := tput Core.reset s.cores g c }
/-- Change core `g`. -/
def State.modCore (s : State) (g : Nat) (f : Core → Core) : State := s.setCore g (f (s.core g))

/-- The sector of user core `g`. -/
def State.sector (s : State) (g : Nat) : Sector := tget Sector.reset s.sectors g
/-- Replace the sector of user core `g`. -/
def State.setSector (s : State) (g : Nat) (x : Sector) : State :=
  { s with sectors := tput Sector.reset s.sectors g x }

/-- Die `d`. -/
def State.die (s : State) (d : Nat) : Die := tget Die.reset s.dies d
/-- Replace die `d`. -/
def State.setDie (s : State) (d : Nat) (x : Die) : State := { s with dies := tput Die.reset s.dies d x }
/-- Change die `d`. -/
def State.modDie (s : State) (d : Nat) (f : Die → Die) : State := s.setDie d (f (s.die d))

/-- Partition `p`. -/
def State.part (s : State) (p : Nat) : Part := tget Part.reset s.parts p
/-- Replace partition `p`. -/
def State.setPart (s : State) (p : Nat) (x : Part) : State := { s with parts := tput Part.reset s.parts p x }
/-- Change partition `p`. -/
def State.modPart (s : State) (p : Nat) (f : Part → Part) : State := s.setPart p (f (s.part p))

/-- Window entry `n` of partition `p`. -/
def State.entry (s : State) (p n : Nat) : Option Entry := tget none (s.part p).window n
/-- Replace a window entry. -/
def State.setEntry (s : State) (p n : Nat) (e : Option Entry) : State :=
  s.modPart p (fun q => { q with window := tput none q.window n e })
/-- Change a window entry that is there. -/
def State.modEntry (s : State) (p n : Nat) (f : Entry → Entry) : State :=
  match s.entry p n with
  | some e => s.setEntry p n (some (f e))
  | none => s

/-- Key slot `k` (R369). -/
def State.keySlot (s : State) (k : Nat) : KeySlot := tget KeySlot.reset s.keys k

/-- The die of a core: user core g / 16; service cores are numbered from 128 (R11). -/
def dieOf (g : Nat) : Nat := if g < 128 then g / 16 else g - 128
/-- The user-core number within its die. -/
def coreNo (g : Nat) : Nat := g % 16
/-- The service core of a die. -/
def svcOf (d : Nat) : Nat := 128 + d
/-- Whether a core runs service code: the service cores do (R11). -/
def isSvc (g : Nat) : Bool := decide (128 ≤ g)
/-- The die that hosts a partition's stream context (R142). -/
def hostDie (p : Nat) : Nat := p % 8
/-- Sector row and column of a user core (R11). -/
def sectRow (g : Nat) : Nat := (g % 16) / 4
/-- Sector column of a user core (R11). -/
def sectCol (g : Nat) : Nat := g % 4
/-- The user core at a die, row and column. -/
def coreAt (d row col : Nat) : Nat := d * 16 + row * 4 + col

/-- Queue `q` of a core. -/
def Core.queue (c : Core) : Eng → List Cmd
  | .m => c.mq
  | .v => c.vq
  | .c => c.cq
/-- Replace queue `q` of a core. -/
def Core.setQueue (c : Core) (q : Eng) (l : List Cmd) : Core :=
  match q with
  | .m => { c with mq := l }
  | .v => { c with vq := l }
  | .c => { c with cq := l }
/-- How many commands a queue holds (R183). -/
def qDepth : Eng → Nat
  | .m => 16
  | .v => 32
  | .c => 16

/-- Flag word f of a core (R187). -/
def Core.flag (c : Core) (f : Nat) : BitVec 32 := tget 0 c.flags f
/-- Write flag word f. -/
def Core.setFlag (c : Core) (f : Nat) (w : BitVec 32) : Core := { c with flags := tput 0 c.flags f w }
/-- Whether an update of a flag word may still be made in this clk (R188). Turn 0 is the sequencer's `sem.sig` or `sem.clr`,
1 to 3 the signals of the matrix, vector and copy engines, 4 the sequencer's wait, 5 to 7 the waits of the heads of MQ, VQ
and CQ. An update that comes too late for its turn is made in a later clk. -/
def Core.turnOpen (c : Core) (f turn : Nat) : Bool := tget 0 c.flagTurn f ≤ turn
/-- Write flag word f in its turn of this clk (R188). -/
def Core.setFlagAt (c : Core) (f turn : Nat) (w : BitVec 32) : Core :=
  { c.setFlag f w with flagTurn := tput 0 c.flagTurn f turn }
/-- The turn of an engine's signals (R188). -/
def engTurn : Eng → Nat
  | .m => 1
  | .v => 2
  | .c => 3
/-- Descriptor slot d of a core (R84). -/
def Core.slot (c : Core) (d : Nat) : BitVec 256 := tget 0 c.slots d
/-- Write descriptor slot d. -/
def Core.setSlot (c : Core) (d : Nat) (w : BitVec 256) : Core := { c with slots := tput 0 c.slots d w }
/-- Port n of a core. -/
def Core.port (c : Core) (n : Nat) : Port := tget Port.reset c.ports n
/-- Write port n. -/
def Core.setPort (c : Core) (n : Nat) (x : Port) : Core := { c with ports := tput Port.reset c.ports n x }
/-- Channel n of a core. -/
def Core.chan (c : Core) (n : Nat) : Chan := tget Chan.reset c.chans n
/-- Write channel n. -/
def Core.setChan (c : Core) (n : Nat) (x : Chan) : Core := { c with chans := tput Chan.reset c.chans n x }
/-- Copy tag t. -/
def Core.tag (c : Core) (t : Nat) : Tag := tget Tag.reset c.tags t
/-- Write copy tag t. -/
def Core.setTag (c : Core) (t : Nat) (x : Tag) : Core := { c with tags := tput Tag.reset c.tags t x }
/-- CRESn (R302). -/
def Core.cresN (c : Core) (n : Nat) : Word := tget 0 c.cres n
/-- Bank 0 or 1. -/
def Core.bank (c : Core) (b : Bool) : Bank := if b then c.bank1 else c.bank0
/-- Write a bank. -/
def Core.setBank (c : Core) (b : Bool) (x : Bank) : Core := if b then { c with bank1 := x } else { c with bank0 := x }
/-- The view of a bank. -/
def Core.bview (c : Core) (b : Bool) : BankView := if b then c.bview1 else c.bview0
/-- Write the view of a bank. -/
def Core.setBview (c : Core) (b : Bool) (x : BankView) : Core :=
  if b then { c with bview1 := x } else { c with bview0 := x }

/-- The core of an agent, if it is one. -/
def agentCore : Agent → Option Nat
  | .core g => some g
  | _ => none

/-- Whether a partition is scheduled: PSCHED.SCHED and not paused (R20, R311). -/
def State.scheduled (s : State) (p : Nat) : Bool := (s.part p).psched.getLsbD 0 && !(s.part p).paused

/-- OWN of a partition for a die (R131). -/
def State.own (s : State) (p d : Nat) : Word := tget 0 (s.part p).own d
/-- Whether the partition owns core `g` in CORES: never a service core (R11). -/
def State.ownsCore (s : State) (p g : Nat) : Bool := !isSvc g && (s.own p (dieOf g)).getLsbD (coreNo g)
/-- Whether the partition owns the sector of core `g` in SECT: never that of a service core (R11). -/
def State.ownsSect (s : State) (p g : Nat) : Bool := !isSvc g && (s.own p (dieOf g)).getLsbD (16 + coreNo g)
/-- How many user cores a partition owns. -/
def State.coresOwned (s : State) (p : Nat) : Nat := ((List.range 128).filter (fun g => s.ownsCore p g)).length

/-- The effective slice of a partition (R314), in clk. -/
def State.effSlice (s : State) (p : Nat) : Nat :=
  let q := s.part p
  max (bitsNat q.psched 40 24 * 1024) (2 * (bitsNat q.pswap 32 32 + bitsNat q.pswap 0 32))

/-- Whether a context has run for its effective slice. -/
def State.sliceRun (s : State) (g : Nat) : Bool := s.effSlice (s.core g).part ≤ (s.core g).quant

/-- A port trains at a rate, or the last it trained at stands (R365). -/
def State.trainPort (s : State) (n rate : Nat) : State :=
  { s with ports := tput UePort.reset s.ports n { tget UePort.reset s.ports n with rate := rate } }

/-- The port of the control endpoint: the lowest-numbered that has trained (R366). -/
def State.ctlPort (s : State) : Option Nat := (List.range 16).find? (fun n => (tget UePort.reset s.ports n).rate != 0)

/-- A port counts link-level retries (R347). -/
def State.countRetry (s : State) (n k : Nat) : State :=
  { s with ports := tput UePort.reset s.ports n { tget UePort.reset s.ports n with retried := (tget UePort.reset s.ports n).retried + k } }

/-- The next free value (assumption 4). -/
def State.freeValue (s : State) : Word × State := (Config.freeWord s.fresh, { s with fresh := s.fresh + 1 })

end Sys2Proof.Machine
end

