-- ==== Sys2Proof/Machine/Mem.lean ====
section
/-! DEFINITION. Device memory (R250 to R262, R346): HBM behind the base dies, the three kinds of cache, the paths of an
access, page walks and translation, and the pad. -/

namespace Sys2Proof.Machine

/-! Sectors. -/

/-- Every nibble of a sector. -/
def wholeSec : BitVec 128 := BitVec.allOnes 128

/-- The bit mask of a mask of the 128 nibbles of a sector. -/
def expandMask (m : BitVec 128) : BitVec 512 :=
  BitVec.ofNat 512 ((List.range 128).foldl (fun a i => if m.getLsbD i then a + (0xF <<< (4 * i)) else a) 0)

/-- The nibbles of `len` bytes at `off`. -/
def byteMask (off len : Nat) : BitVec 128 := BitVec.ofNat 128 ((2 ^ (2 * len) - 1) <<< (2 * off))

/-- One nibble of the byte at `off` (R179). -/
def nibMask (off : Nat) (hi : Bool) : BitVec 128 := BitVec.ofNat 128 (1 <<< (2 * off + hi.toNat))

/-- The 64-bit words (as a mask of 8) all of whose nibbles are in a mask. -/
def wholeWords (m : BitVec 128) : BitVec 8 :=
  BitVec.ofNat 8 ((List.range 8).foldl (fun a i => if bitsNat m (16 * i) 16 = 65535 then a + 2 ^ i else a) 0)

/-- The 64-bit words with some nibble in a mask. -/
def someWords (m : BitVec 128) : BitVec 8 :=
  BitVec.ofNat 8 ((List.range 8).foldl (fun a i => if bitsNat m (16 * i) 16 = 0 then a else a + 2 ^ i) 0)

/-- A sector that holds nothing. -/
def CSec.empty (key gen home owner : Nat) : CSec :=
  { data := 0, valid := 0, dirty := 0, poison := 0, ecode := 0, key := key, gen := gen, home := home, owner := owner }

/-- Write the nibbles of a mask into a cached sector: they become valid and dirty; a word written whole loses its poison, and gains
it when the written word is poisoned (R346). -/
def CSec.write (c : CSec) (mask : BitVec 128) (data : BitVec 512) (poison : BitVec 8) (ecode : BitVec 6) : CSec :=
  let bm := expandMask mask
  { c with
    data := (c.data &&& ~~~bm) ||| (data &&& bm), valid := c.valid ||| mask, dirty := c.dirty ||| mask,
    poison := (c.poison &&& ~~~(wholeWords mask)) ||| (poison &&& someWords mask),
    ecode := if poison &&& someWords mask = 0 then c.ecode else ecode }

/-- A cached sector filled up with the bytes it does not hold. -/
def CSec.fill (c y : CSec) : CSec :=
  let bm := expandMask c.valid
  let keep := wholeWords c.valid
  { c with
    data := (c.data &&& bm) ||| (y.data &&& ~~~bm), valid := wholeSec,
    poison := c.poison ||| (y.poison &&& ~~~keep),
    ecode := if y.poison &&& ~~~keep = 0 then c.ecode else y.ecode }

/-- `len` bytes of a sector at `off`, as a number. -/
def CSec.bytes (c : CSec) (off len : Nat) : Nat := bitsNat c.data (8 * off) (8 * len)

/-- The ECODE of the poison that `len` bytes at `off` carry, if any. -/
def CSec.poisonAt (c : CSec) (off len : Nat) : Option (BitVec 6) :=
  if c.poison &&& someWords (byteMask off len) = 0 then none else some c.ecode

/-! HBM (R262). -/

/-- Metadata of a sector at the base die. -/
def State.hmeta (s : State) (sec : Nat) : HMeta := tget HMeta.reset s.hbmMeta sec

/-- The generation of a key slot. -/
def State.keyGen (s : State) (k : Nat) : Nat := (s.keySlot k).gen

/-- The 512 bits of a sector in HBM. -/
def State.hbmData (s : State) (sec : Nat) : BitVec 512 :=
  BitVec.ofNat 512 (bytesToNat (tgets unlistedByte s.hbm (sec * 64) 64))

/-- A read of a sector through a key slot: another slot or generation gives poison with ECODE 8. Every physical address is taken
to be memory (assumption 46). -/
def State.hbmRead (s : State) (sec key home : Nat) : CSec :=
  let m := s.hmeta sec
  let wrong := m.key != key || m.gen != s.keyGen key
  { data := if wrong then 0 else s.hbmData sec, valid := wholeSec, dirty := 0,
    poison := if wrong || m.poison then BitVec.allOnes 8 else 0,
    ecode := if wrong then 8 else m.ecode, key := key, gen := s.keyGen key, home := home, owner := 0 }

/-- A byte of which a write replaces the nibbles of a mask: 1 the low one, 2 the high one, 3 both. -/
def mergeByte (m : Nat) (old new : Byte) : Byte :=
  match m with
  | 0 => old
  | 1 => (old &&& 0xF0) ||| (new &&& 0x0F)
  | 2 => (old &&& 0x0F) ||| (new &&& 0xF0)
  | _ => new

/-- Store the nibbles of a mask into the byte list of HBM: the base die keeps the rest of each byte (R262). -/
def hbmStore (m : List Host.Cell) (sec : Nat) (mask : BitVec 128) (data : BitVec 512) : List Host.Cell :=
  (List.range 64).foldl
    (fun m i =>
      let k := bitsNat mask (2 * i) 2
      if k = 0 then m
      else
        let a := sec * 64 + i
        tput unlistedByte m a (mergeByte k (tget unlistedByte m a) (data.extractLsb' (8 * i) 8))) m

/-- A write of the nibbles of a mask under a key slot and generation, at any physical address (assumption 46); `poison` marks poisoned words among them. A sector that
a partial write under another key has spoiled reads with ECODE 8 until it is written whole (R262). -/
def State.hbmWrite (s : State) (sec : Nat) (mask : BitVec 128) (data : BitVec 512) (poison : BitVec 8)
    (ecode : BitVec 6) (key gen : Nat) : State :=
  if mask = 0 then s
  else
    let m := s.hmeta sec
    let bad := poison &&& someWords mask != 0
    let m' : HMeta :=
      if mask = wholeSec then { poison := bad, ecode := if bad then ecode else 0, key := key, gen := gen, written := true }
      else if m.key != key || m.gen != gen then { poison := true, ecode := 8, key := key, gen := gen, written := true }
      else if bad && !(m.poison && m.ecode == 8) then { m with poison := true, ecode := ecode, written := true }
      else { m with written := true }
    { s with hbm := hbmStore s.hbm sec mask data, hbmMeta := tput HMeta.reset s.hbmMeta sec m' }

/-! Caches (R253 to R256). -/

/-- The sector a cache holds. -/
def State.cached (s : State) (c : CacheId) (sec : Nat) : Option CSec :=
  match c with
  | .lsc g => tget none (s.core g).lsc sec
  | .rdc d => tget none (s.die d).rdc sec
  | .l2 => tget none s.l2 sec

/-- Replace the sector a cache holds. -/
def State.setCached (s : State) (c : CacheId) (sec : Nat) (x : Option CSec) : State :=
  match c with
  | .lsc g => s.modCore g (fun k => { k with lsc := tput none k.lsc sec x })
  | .rdc d => s.modDie d (fun k => { k with rdc := tput none k.rdc sec x })
  | .l2 => { s with l2 := tput none s.l2 sec x }

/-- Whether requests to a home die are answered with an error (R351 phase 3), also while the die stays in ROM and has
not trained its HBM (R364). -/
def State.unreachable (s : State) (home : Nat) : Bool := s.warm == some (home, 3) || (s.die home).romOnly

/-! The links between dies (R10, R347). -/

/-- The edge between two dies. -/
def edge (d e : Nat) : Nat × Nat := (min d e, max d e)

/-- Whether two dies are adjacent in a row or a column of the package, die `d` at row d/4 and column d mod 4: ten pairs
(R10). -/
def adjacentDies (d e : Nat) : Bool :=
  (d / 4 == e / 4 && (d % 4 + 1 == e % 4 || e % 4 + 1 == d % 4)) || (d % 4 == e % 4 && (d / 4 + 1 == e / 4 || e / 4 + 1 == d / 4))

/-- Whether the traffic between two dies uses an edge. -/
def usesEdge (d e : Nat) (x : Nat × Nat) : Bool :=
  d != e && (if adjacentDies d e then x == edge d e else Config.onRoute d e x)

/-- Whether the traffic between two dies is held, because an edge it uses retrains (R347). -/
def State.linkHeld (s : State) (d e : Nat) : Bool := s.edges.any (usesEdge d e)

/-- Whether an access along a list of caches leaves its die: a write to no cache of the die, a read of a sector that no
cache of the die holds. -/
def State.crosses (s : State) (p : Path) (write : Bool) (cs : List CacheId) : Bool :=
  cs.head? == some .l2 || (!write && !(cs.any (fun c => c != .l2 && (s.cached c (p.pa / 64)).isSome)))

/-- Whether an access of an agent on die `d` waits for a link (R347). -/
def State.held (s : State) (d : Nat) (p : Path) (write : Bool) (cs : List CacheId) : Bool :=
  s.linkHeld d p.home && s.crosses p write cs

/-- Whether the dirty sectors of a home that a cache holds cannot leave it now: the home answers with an error (R351), or a
link holds an RDC's traffic (R347). -/
def State.stays (s : State) (c : CacheId) (home : Nat) : Bool :=
  match c with
  | .lsc g => home == dieOf g && s.unreachable home
  | .rdc d => s.unreachable home || s.linkHeld d home
  | .l2 => false

/-- Write into the sector of a cache, or into HBM past the last cache. -/
def State.putBytes (s : State) (c : Option CacheId) (sec : Nat) (mask : BitVec 128) (data : BitVec 512)
    (poison : BitVec 8) (ecode : BitVec 6) (key gen home owner : Nat) : State :=
  match c with
  | none => s.hbmWrite sec mask data poison ecode key gen
  | some c =>
    let x := (s.cached c sec).getD (CSec.empty key gen home owner)
    s.setCached c sec (some (x.write mask data poison ecode))

/-- The next storage below a cache for a sector (R253, R256). -/
def nextStore (c : CacheId) (home : Nat) : Option CacheId :=
  match c with
  | .lsc g => if home = dieOf g then some .l2 else some (.rdc (dieOf g))
  | .rdc _ => some .l2
  | .l2 => none

/-! Sets and ways of the L2 slices (R138 to R140). -/

/-- The L2 slice of a sector in its home die (R138). -/
def l2Slice (sec : Nat) : Nat :=
  let pa := sec * 64
  ((pa / 128) % 16) ^^^ ((pa / 2048) % 16) ^^^ ((pa / 32768) % 16)

/-- The set of a sector: 4 MiB of 16 ways of 128-byte lines are 2,048 sets a slice (R2); PA[21:11] numbers them
(assumption 45). -/
def l2Set (home sec : Nat) : Nat := (home * 16 + l2Slice sec) * 2048 + sec / 32 % 2048

/-- The ways a partition may allocate into, and whether it is guaranteed (R139); an access of the service or the device
itself may use every way, at the eviction end (assumption 45). -/
def State.waysOf (s : State) (part : Option Nat) (home sec : Nat) : Nat × Bool :=
  match part with
  | none => (0xFFFF, false)
  | some p =>
    let w := tget 0 (s.part p).share (home * 16 + l2Slice sec)
    (bitsNat w 0 16, w.getLsbD 16)

/-- The lines of a set. -/
def State.l2Lines (s : State) (k : Nat) : List L2Line := tget [] s.l2sets k

/-- The occupancy counter of a slice for a partition (R139): the lines of the slice that it owns. -/
def State.occupancy (s : State) (d slice p : Nat) : Nat :=
  (((s.l2sets.filter (fun x => x.1 / 2048 == d * 16 + slice)).map (fun x => (x.2.filter (·.owner == p)).length)).sum) % 2 ^ 32

/-- Take a line out of its set, once no sector of it is left. -/
def State.l2Forget (s : State) (home sec : Nat) : State :=
  if ((s.cached .l2 (sec / 2 * 2)).isSome || (s.cached .l2 (sec / 2 * 2 + 1)).isSome) then s
  else
    let k := l2Set home sec
    { s with l2sets := tput [] s.l2sets k ((s.l2Lines k).filter (·.line != sec / 2)) }

/-- A sector leaves a cache; the line of an L2 goes with its last sector. -/
def State.uncache (s : State) (c : CacheId) (sec : Nat) (x : CSec) : State :=
  let s := s.setCached c sec none
  if c == .l2 then s.l2Forget x.home sec else s

/-- The dirty bytes of an L2 sector reach HBM under their own key, and the sector leaves the L2. -/
def State.l2Evict (s : State) (sec : Nat) : State :=
  match s.cached .l2 sec with
  | none => s
  | some x => (s.setCached .l2 sec none).hbmWrite sec x.dirty x.data x.poison x.ecode x.key x.gen

/-- A request of a partition at an L2 slice (R140): whether the slice holds the line now. A miss takes a free way, else
the victim nearest the eviction end among the partition's ways; a hit moves the line to the protected end if the
partition owns it or is guaranteed. -/
def State.l2Request (s : State) (part : Option Nat) (home sec : Nat) : Bool × State :=
  let k := l2Set home sec
  let line := sec / 2
  let set := s.l2Lines k
  let (ways, guar) := s.waysOf part home sec
  let put (s : State) (l : List L2Line) : State := { s with l2sets := tput [] s.l2sets k l }
  match set.find? (·.line == line) with
  | some x =>
    let up := x.owner == part.getD 16 || guar
    (true, if up then put s (set.filter (·.line != line) ++ [x]) else s)
  | none =>
    if ways = 0 then (false, s)
    else
      let new (w : Nat) : L2Line := { line := line, way := w, owner := part.getD 16 }
      let place (l : List L2Line) (w : Nat) : List L2Line := if guar then l ++ [new w] else new w :: l
      match (List.range 16).find? (fun w => ways.testBit w && set.all (·.way != w)) with
      | some w => (true, put s (place set w))
      | none =>
        match set.find? (fun x => ways.testBit x.way) with
        | none => (false, s)
        | some v =>
          (true, put ((s.l2Evict (2 * v.line)).l2Evict (2 * v.line + 1)) (place (set.filter (·.line != v.line)) v.way))

/-- A request of a partition that allocates nothing: it moves a line that the slice holds (R140, R286). -/
def State.l2Touch (s : State) (part : Option Nat) (home sec : Nat) : State :=
  if (s.l2Lines (l2Set home sec)).any (·.line == sec / 2) then (s.l2Request part home sec).2 else s

/-- The sectors a cache holds. -/
def State.cachedSecs (s : State) (c : CacheId) : List Nat :=
  match c with
  | .lsc g => (s.core g).lsc.map (·.1)
  | .rdc d => (s.die d).rdc.map (·.1)
  | .l2 => s.l2.map (·.1)

/-- The 128-byte lines of a store of a cache: a whole local-store cache, or the RDC slice PA[9:7] of a sector (R253). -/
def State.storeLines (s : State) (c : CacheId) (sec : Nat) : List Nat :=
  let l := (s.cachedSecs c).map (· / 2)
  (match c with
    | .rdc _ => l.filter (fun x => x % 8 == sec / 2 % 8)
    | _ => l).eraseDups

/-- How many lines such a store has room for (R2, R253): 256 KiB for each cache unit of a local store, 2 MiB a slice of an
RDC. -/
def State.storeRoom (s : State) (c : CacheId) : Nat :=
  match c with
  | .lsc g => (24 - (s.core g).padUnits) * 2048
  | _ => 16384

/-- Whether such a store holds a line or has room for it. -/
def State.hasRoom (s : State) (c : CacheId) (sec : Nat) : Bool :=
  (s.storeLines c sec).contains (sec / 2) || (s.storeLines c sec).length < s.storeRoom c

/-- Move the dirty bytes of a sector that a cache held to the next storage, under their own key. A sector that the next
cache holds under another key or generation leaves it first, in the same way (R253); an L2 that may not allocate the
line passes them on as a partial write (R140), and so does a full RDC to the home L2. `fuel` is the caches on the way. -/
def State.pushDown (s : State) (c : CacheId) (sec : Nat) (x : CSec) : Nat → State
  | 0 => s
  | fuel + 1 =>
    match nextStore c x.home with
    | none => s.hbmWrite sec x.dirty x.data x.poison x.ecode x.key x.gen
    | some n =>
      let t :=
        match s.cached n sec with
        | none => s
        | some y => if y.key = x.key ∧ y.gen = x.gen then s else (s.uncache n sec y).pushDown n sec y fuel
      if x.dirty = 0 then t
      else if n == .l2 then
        let (held, t) := t.l2Request (if x.owner < 16 then some x.owner else none) x.home sec
        t.putBytes (if held then some n else none) sec x.dirty x.data x.poison x.ecode x.key x.gen x.home x.owner
      else if t.hasRoom n sec then
        t.putBytes (some n) sec x.dirty x.data x.poison x.ecode x.key x.gen x.home x.owner
      else t.pushDown n sec x fuel

/-- Bring a cache to hold a sector only under the given key and generation: a sector under another one is written
back under its own and dropped (R253). -/
def State.dropOther (s : State) (c : CacheId) (sec key gen : Nat) : State :=
  match s.cached c sec with
  | none => s
  | some x =>
    if x.key = key ∧ x.gen = gen then s
    else if x.dirty = 0 then s.uncache c sec x
    else (s.uncache c sec x).pushDown c sec x 3

/-- Write back the dirty bytes of a cached sector to the next storage (R256); the sector stays, clean. -/
def State.writeBack (s : State) (c : CacheId) (sec : Nat) : State :=
  match s.cached c sec with
  | none => s
  | some x =>
    if x.dirty = 0 then s
    else if s.stays c x.home then s
    else (s.setCached c sec (some { x with dirty := 0 })).pushDown c sec x 3

/-- Drop a cached sector that is clean; a line of an L2 goes with its last sector. -/
def State.dropClean (s : State) (c : CacheId) (sec : Nat) : State :=
  match s.cached c sec with
  | some x => if x.dirty = 0 then s.uncache c sec x else s
  | none => s

/-- Write back, then drop. -/
def State.flushSec (s : State) (c : CacheId) (sec : Nat) : State := (s.writeBack c sec).dropClean c sec

/-- Whether a cache of a die holds a dirty sector that cannot reach its home now: a link holds it (R347), or the home answers
with an error until it is re-admitted (R351). -/
def State.unsettled (s : State) (c : CacheId) : Bool :=
  (s.cachedSecs c).any (fun x =>
    match s.cached c x with
    | some y =>
      y.dirty != 0 &&
        (match c with
          | .lsc g => s.unreachable y.home || s.linkHeld (dieOf g) y.home
          | _ => s.stays c y.home)
    | none => false)

/-- Whether the dirty sectors of a core's path cannot all reach their homes now. What waits for them, a release or an acquire
of a scope (R275), waits until they can. -/
def State.releaseHeld (s : State) (g sc : Nat) : Bool := 3 ≤ sc && (s.unsettled (.lsc g) || s.unsettled (.rdc (dieOf g)))

/-- Write back every dirty sector of a cache. -/
def State.writeBackAll (s : State) (c : CacheId) : State := (s.cachedSecs c).foldl (fun s x => s.writeBack c x) s

/-- Write back and drop every sector of a cache. -/
def State.flushAll (s : State) (c : CacheId) : State := (s.cachedSecs c).foldl (fun s x => s.flushSec c x) s

/-- One of some lines of a local-store cache or an RDC is evicted, a first candidate (R178) if there is one and else a free
choice (assumption 45); false where none can leave. -/
def State.evictLine (s : State) (c : CacheId) (lines : List Nat) : Bool × State :=
  let stuck (x : Nat) : Bool :=
    match s.cached c x with
    | some y => y.dirty != 0 && s.stays c y.home
    | none => false
  let can := lines.filter (fun l => !stuck (2 * l) && !stuck (2 * l + 1))
  let first := match c with
    | .lsc g => can.filter (fun l => (s.core g).lscFirst.contains l)
    | _ => []
  let from' := if first.isEmpty then can else first
  match from'[Config.victim s.fresh % from'.length]? with
  | none => (false, s)
  | some v => (true, ({ s with fresh := s.fresh + 1 }.flushSec c (2 * v)).flushSec c (2 * v + 1))

/-- Make room for a line in a local-store cache or an RDC: a full one evicts another line. -/
def State.lineRoom (s : State) (c : CacheId) (sec : Nat) : Bool × State :=
  if s.hasRoom c sec then (true, s) else s.evictLine c (s.storeLines c sec)

/-- Bring a cache to where it can take a line of a request: whether it holds or may hold it now. -/
def State.claimLine (s : State) (part : Option Nat) (c : CacheId) (home sec : Nat) : Bool × State :=
  if c == .l2 then s.l2Request part home sec else s.lineRoom c sec

/-- What a request to a home die answers where the die replies with an error (R351). -/
def errorSec (key gen home : Nat) : CSec :=
  { CSec.empty key gen home 16 with poison := BitVec.allOnes 8, ecode := 1, valid := wholeSec }

/-- Read a sector through a list of caches with HBM behind them. The nibbles of `need` come from the first storage that
holds them valid (R256); a miss fills the caches passed that may take the line. -/
def State.fetch (s : State) (part : Option Nat) (sec key home : Nat) (need : BitVec 128) : List CacheId → CSec × State
  | [] => (s.hbmRead sec key home, s)
  | c :: cs =>
    let gen := s.keyGen key
    if s.unreachable home && c == .l2 then (errorSec key gen home, s)
    else
      let s := s.dropOther c sec key gen
      match s.cached c sec with
      | some x =>
        let s := if c == .l2 then (s.l2Request part home sec).2 else s
        if x.valid &&& need = need then (x, s)
        else
          let (y, s) := s.fetch part sec key home wholeSec cs
          let z := x.fill y
          (z, s.setCached c sec (some z))
      | none =>
        let (y, s) := s.fetch part sec key home wholeSec cs
        let z := { y with dirty := 0, owner := part.getD 16 }
        if s.unreachable home then (z, s)
        else
          match s.claimLine part c home sec with
          | (true, s) => (z, s.setCached c sec (some z))
          | (false, s) => (z, s)

/-- Whether a write along a list of caches is answered with an error: its first storage is the L2 of a die that a warm
reset has in its third phase (R351). -/
def State.refused (s : State) (home : Nat) (cs : List CacheId) : Bool := s.unreachable home && cs.head? == some .l2

/-- Write the nibbles of a mask at the first of a list of caches that may take the line, or at HBM: an L2 in which the
partition may not allocate and that does not hold the line passes them on as a partial write (R140). -/
def State.store (s : State) (part : Option Nat) (sec key home : Nat) (mask : BitVec 128) (data : BitVec 512) :
    List CacheId → State
  | [] => s.hbmWrite sec mask data 0 0 key (s.keyGen key)
  | c :: cs =>
    let gen := s.keyGen key
    if s.refused home (c :: cs) then s
    else
      match (s.dropOther c sec key gen).claimLine part c home sec with
      | (true, s) => s.putBytes (some c) sec mask data 0 0 key gen home (part.getD 16)
      | (false, s) => s.store part sec key home mask data cs

/-- Write the nibbles of a mask where a read of the sector along the same list of caches has just been served: at the first
that holds it, else at HBM, without another request (R140, R255). -/
def State.storeHeld (s : State) (sec key home : Nat) (mask : BitVec 128) (data : BitVec 512) : List CacheId → State
  | [] => s.hbmWrite sec mask data 0 0 key (s.keyGen key)
  | c :: cs =>
    if (s.cached c sec).isSome then s.putBytes (some c) sec mask data 0 0 key (s.keyGen key) home 16
    else s.storeHeld sec key home mask data cs

/-- Poison words of a sector where a write along a list of caches has just put them: in the first cache that holds the
sector, else the whole sector in HBM (R346). -/
def State.spoilAt (s : State) (sec : Nat) (w : BitVec 8) (e : BitVec 6) : List CacheId → State
  | [] =>
    let m := s.hmeta sec
    if m.poison && m.ecode == 8 then s
    else { s with hbmMeta := tput HMeta.reset s.hbmMeta sec { m with poison := true, ecode := e } }
  | c :: cs =>
    match s.cached c sec with
    | some x => s.setCached c sec (some { x with poison := x.poison ||| w, ecode := e })
    | none => s.spoilAt sec w e cs

/-! Paths (R254). -/

/-- The home die of a line (R138). -/
def homeDie (home pa : Nat) : Nat := if home ≤ 7 then home else ((pa / 4096) % 8) ^^^ ((pa / 32768) % 8)

/-- Whether a core has local-store cache units (R250); a service core has the local store of every core (R2, R10). -/
def State.hasLsc (s : State) (g : Nat) : Bool := (s.core g).padUnits < 24

/-- The caches on the path of a core's access by class and home (R254). -/
def State.pathOf (s : State) (g : Nat) (p : Path) : List CacheId :=
  (if p.ccls = 0 && s.hasLsc g then [CacheId.lsc g] else [])
    ++ (if p.ccls ≤ 1 && p.home != dieOf g then [CacheId.rdc (dieOf g)] else []) ++ [.l2]

/-- The path of an access that does not allocate in the local-store cache: that is used only when it holds the sector
under the access's key slot and generation (R178 bypass, R253 copy engine). -/
def State.pathNoAlloc (s : State) (g : Nat) (p : Path) : List CacheId :=
  let ps := s.pathOf g p
  match s.cached (.lsc g) (p.pa / 64) with
  | some x => if x.key = p.key ∧ x.gen = s.keyGen p.key then ps else ps.filter (· != .lsc g)
  | none => ps.filter (· != .lsc g)

/-- Before such an access a sector that the local-store cache holds under another key leaves it, its dirty bytes written
back under their own (R253). -/
def State.beforeNoAlloc (s : State) (g : Nat) (p : Path) : State :=
  if (s.pathOf g p).contains (.lsc g) then s.dropOther (.lsc g) (p.pa / 64) p.key (s.keyGen p.key) else s

/-! Trap causes. -/

/-- Trap causes by name (R295). -/
def cILLEGAL : Nat := 0x01
/-- OPERAND -/
def cOPERAND : Nat := 0x02
/-- PRIV -/
def cPRIV : Nat := 0x03
/-- ALIGN -/
def cALIGN : Nat := 0x04
/-- PAGE -/
def cPAGE : Nat := 0x05
/-- PROT -/
def cPROT : Nat := 0x06
/-- BOUNDS -/
def cBOUNDS : Nat := 0x07
/-- WAITBOUND -/
def cWAITBOUND : Nat := 0x08
/-- PROMISE -/
def cPROMISE : Nat := 0x09
/-- ERRBIT -/
def cERRBIT : Nat := 0x0A
/-- POISON -/
def cPOISON : Nat := 0x0B
/-- PATCHTRAP -/
def cPATCHTRAP : Nat := 0x0C
/-- PATCHFAULT -/
def cPATCHFAULT : Nat := 0x0D
/-- TRANSLATE -/
def cTRANSLATE : Nat := 0x0E
/-- SVC -/
def cSVC : Nat := 0x0F
/-- SOFT -/
def cSOFT : Nat := 0x10
/-- SCANLAYOUT -/
def cSCANLAYOUT : Nat := 0x11
/-- CHAN -/
def cCHAN : Nat := 0x12
/-- TEAM -/
def cTEAM : Nat := 0x13

/-- A cause with the ECODE and address it carries: what a check that traps answers. `noData` says of a PAGE or PROT that no
access to data met it (R157). -/
structure Cause where
  code : Nat
  sub : Nat := 0
  ecode : Nat := 0
  addr : Nat := 0
  noData : Bool := false
  deriving DecidableEq, Repr

/-! Page tables (R257 to R259). -/

/-- Eight bytes of a sector, read without changing any cache. -/
def CSec.word (c : CSec) (off : Nat) : Word := BitVec.ofNat 64 (c.bytes off 8)

/-- A word read at its home L2 without allocation: a cached sector, else HBM. Table lines are under key slot K0
(assumption 13). A die that answers requests with an error gives poison for the lines its L2 holds (R351). -/
def State.peekWord (s : State) (pa : Nat) : Except (BitVec 6) Word :=
  let sec := pa / 64
  let off := pa % 64
  let x :=
    match s.cached .l2 sec with
    | some x =>
      if s.unreachable x.home then errorSec x.key x.gen x.home
      else if x.valid &&& byteMask off 8 = byteMask off 8 then x else x.fill (s.hbmRead sec x.key x.home)
    | none => s.hbmRead sec 0 0
  match x.poisonAt off 8 with
  | some e => .error e
  | none => .ok (x.word off)

/-- Why a walk fails: the entry does not map the page, or a table line is poisoned (R259). -/
inductive WalkErr where
  | page
  | poison
  deriving DecidableEq, Repr

/-- What a failed walk makes of the access it served; a poisoned table line is reported with ECODE 1 (R259). -/
def WalkErr.cause (e : WalkErr) (va : Nat) : Cause :=
  match e with
  | .page => { code := cPAGE, addr := va }
  | .poison => { code := cPOISON, addr := va, ecode := 1 }

/-- Whether the reserved fields of a leaf are zero and its class, home and alignment legal (R259 step 2). -/
def leafOk (pte : Word) (level : Nat) : Bool :=
  bitsNat pte 8 1 == 0 && bitsNat pte 5 2 == 0 && bitsNat pte 9 2 != 3
    && (bitsNat pte 52 4 ≤ 7 || bitsNat pte 52 4 == 15) && bitsNat pte 12 (9 * (4 - level)) == 0

/-- log2 of the page size of a leaf at a level. -/
def leafBits (level : Nat) : Nat := 12 + 9 * (4 - level)

/-- The contiguous-16 check (R259 step 3): `base` is the address of the group's first entry. -/
def State.c16Ok (s : State) (base : Nat) (level : Nat) : Except WalkErr Bool :=
  match s.peekWord base with
  | .error _ => .error .poison
  | .ok first =>
    let pfn := bitsNat first 12 40
    let unit := 2 ^ (leafBits level - 12)
    let rest (w : Word) : Word := w &&& ~~~(BitVec.ofNat 64 ((2 ^ 40 - 1) <<< 12))
    (List.range 16).foldl
      (fun r i =>
        match r with
        | .error e => .error e
        | .ok b =>
          match s.peekWord (base + 8 * i) with
          | .error _ => .error .poison
          | .ok w => .ok (b && rest w == rest first && bitsNat w 12 40 == pfn + i * unit))
      (.ok (pfn % (16 * unit) == 0))

/-- A page walk (R257 to R259, steps 1 to 3): the leaf and log2 of its page size, sixteen leaves being one page under C16.
`fuel` is the levels left. -/
def State.walkFrom (s : State) (table va level : Nat) : Nat → Except WalkErr (Word × Nat)
  | 0 => .error .page
  | fuel + 1 =>
    let idx := (va / 2 ^ leafBits level) % 512
    match s.peekWord (table + 8 * idx) with
    | .error _ => .error .poison
    | .ok pte =>
      if !pte.getLsbD 0 then .error .page
      else if pte.getLsbD 7 then
        if level = 1 || !leafOk pte level then .error .page
        else if pte.getLsbD 11 then
          match s.c16Ok (table + 8 * (idx - idx % 16)) level with
          | .error e => .error e
          | .ok b => if b then .ok (pte, leafBits level + 4) else .error .page
        else .ok (pte, leafBits level)
      else if level = 4 then .error .page
      else if pte &&& ~~~(BitVec.ofNat 64 ((2 ^ 40 - 1) <<< 12) ||| 1) != 0 then .error .page
      else s.walkFrom (bitsNat pte 12 40 * 4096) va (level + 1) fuel

/-- A walk from a root. -/
def State.walk (s : State) (root va : Nat) : Except WalkErr (Word × Nat) := s.walkFrom root va 1 4

/-- What an access needs of a page. -/
structure Need where
  r : Bool
  w : Bool
  x : Bool
  user : Bool
  deriving DecidableEq, Repr

/-- A load. -/
def Need.load : Need := { r := true, w := false, x := false, user := true }
/-- A store. -/
def Need.store : Need := { r := false, w := true, x := false, user := true }
/-- An atomic (R259). -/
def Need.both : Need := { r := true, w := true, x := false, user := true }
/-- A code fetch. -/
def Need.code : Need := { r := false, w := false, x := true, user := true }

/-- Permissions and PSN (R259 steps 4 and 5). -/
def permCheck (pte : Word) (n : Need) (va : Nat) : Option Cause :=
  if (n.user && !pte.getLsbD 4) || (n.r && !pte.getLsbD 1) || (n.w && !pte.getLsbD 2) || (n.x && !pte.getLsbD 3) then
    some { code := cPROT, addr := va }
  else if pte.getLsbD 63 then some { code := cPOISON, addr := va, ecode := 1 }
  else none

/-- The path a leaf gives an address. -/
def leafPath (pte : Word) (bits va : Nat) : Path :=
  let pa := (bitsNat pte 12 40 * 4096) / 2 ^ bits * 2 ^ bits + va % 2 ^ bits
  { pa := pa, home := homeDie (bitsNat pte 52 4) pa, ccls := bitsNat pte 9 2, key := bitsNat pte 56 7 }

/-- Translate by a fresh walk, without a TLB. -/
def State.xlate (s : State) (root va : Nat) (n : Need) : Except Cause Path :=
  match s.walk root va with
  | .error e => .error (e.cause va)
  | .ok (pte, bits) =>
    match permCheck pte n va with
    | some c => .error c
    | none => .ok (leafPath pte bits va)

/-- The pinned service memory of a die (R377). -/
def State.pinned (s : State) (d pa : Nat) : Bool :=
  let spin := (s.die d).spin
  let base := bitsNat spin 40 24 * 2 ^ 28
  decide (base ≤ pa) && decide (pa < base + 2 ^ (28 + bitsNat spin 0 2))

/-- The root of the page table a core's accesses use: its partition's, or the service's (R257, R377). -/
def State.rootOf (s : State) (g : Nat) : Nat :=
  if isSvc g then (s.die (dieOf g)).svcRoot else (s.part (s.core g).part).ptroot.toNat

/-- The leaf of an address as a core meets it: from its TLB where that holds it, else by a walk (R260, R261). -/
def State.coreLeaf (s : State) (g va : Nat) : Except WalkErr (Word × Nat) :=
  match (s.core g).tlb.find? (fun e => va / 2 ^ e.bits = e.vpn) with
  | some e => .ok (e.pte, e.bits)
  | none => s.walk (s.rootOf g) va

/-- The TLB of a core keeps the leaf that an access has passed R259 with (R260). -/
def State.keepLeaf (s : State) (g va : Nat) (pte : Word) (bits : Nat) : State :=
  if (s.core g).tlb.any (fun e => va / 2 ^ e.bits == e.vpn) then s
  else s.modCore g (fun c => { c with tlb := { vpn := va / 2 ^ bits, bits := bits, pte := pte } :: c.tlb })

/-- The routine area of the image whose routine a core runs: first byte and length (R156). -/
def State.routineArea (s : State) (g : Nat) : Nat × Nat :=
  match (s.core g).emul with
  | none => (0, 0)
  | some e => let p := tget Patch.reset (s.die (dieOf g)).patches e.slot; (p.rbase, p.rlen)

/-- Whether an address lies in the routine area a core runs in (R156). -/
def State.inRoutines (s : State) (g va : Nat) : Bool :=
  decide ((s.routineArea g).1 ≤ va) && decide (va < (s.routineArea g).1 + (s.routineArea g).2)

/-- The path that a leaf gives an access of a core, once it passes R259. A service page that lies in pinned memory is HOME this
die, CCLS 2 and KEY 0 whatever its PTE holds (R377). -/
def State.leafAccess (s : State) (g : Nat) (pte : Word) (bits va : Nat) (n : Need) : Except Cause Path :=
  match permCheck pte { n with user := n.user && !isSvc g } va with
  | some c => .error c
  | none =>
    let p := leafPath pte bits va
    .ok (if isSvc g && s.pinned (dieOf g) p.pa then { p with home := dieOf g, ccls := 2, key := 0 } else p)

/-- Translate an address for an access of a core: the path or the cause it traps with, and the state with its TLB. A
service page that lies in pinned memory takes the path of R377. Inside an EMULATE routine user data is reached through
the task's own table, and the routine area without it: its place in pinned memory is fixed (R156). -/
def State.translate (s : State) (g va : Nat) (n : Need) : Except Cause Path × State :=
  if s.inRoutines g va then
    match s.walk (s.die (dieOf g)).svcRoot va with
    | .ok (pte, bits) => (.ok { leafPath pte bits va with home := dieOf g, ccls := 2, key := 0 }, s)
    | .error _ => (.error { code := cPAGE, addr := va, noData := true }, s)
  else
  match s.coreLeaf g va with
  | .error e => (.error (e.cause va), s)
  | .ok (pte, bits) =>
    match s.leafAccess g pte bits va n with
    | .error c => (.error c, s)
    | .ok p => (.ok p, s.keepLeaf g va pte bits)

/-! Device-memory accesses of up to one sector. -/

/-- The partition an agent's L2 allocations are owned by (R139). -/
def State.partOf (s : State) (g : Nat) : Option Nat := if isSvc g then none else some (s.core g).part

/-- Read `len` bytes at a translated address along a list of caches: the value, or the ECODE of its poison. -/
def State.readPath (s : State) (part : Option Nat) (p : Path) (len : Nat) (cs : List CacheId) :
    Except (BitVec 6) Nat × State :=
  let off := p.pa % 64
  let (x, s) := s.fetch part (p.pa / 64) p.key p.home (byteMask off len) cs
  match x.poisonAt off len with
  | some e => (.error e, s)
  | none => (.ok (x.bytes off len), s)

/-- Write the low `len` bytes of a value at a translated address along a list of caches. -/
def State.writePath (s : State) (part : Option Nat) (p : Path) (len v : Nat) (cs : List CacheId) : State :=
  let off := p.pa % 64
  s.store part (p.pa / 64) p.key p.home (byteMask off len) (BitVec.ofNat 512 ((v % 2 ^ (8 * len)) <<< (8 * off))) cs

/-- Write the low `len` bytes of a value at the storage that has just served a read of them, without another request. -/
def State.writeHeld (s : State) (p : Path) (len v : Nat) (cs : List CacheId) : State :=
  let off := p.pa % 64
  s.storeHeld (p.pa / 64) p.key p.home (byteMask off len) (BitVec.ofNat 512 ((v % 2 ^ (8 * len)) <<< (8 * off))) cs

/-- Write one nibble of a byte (R179): a masked write that never disturbs the other nibble. -/
def State.writeNibble (s : State) (part : Option Nat) (p : Path) (hi : Bool) (v : Nat) (cs : List CacheId) : State :=
  let off := p.pa % 64
  s.store part (p.pa / 64) p.key p.home (nibMask off hi) (BitVec.ofNat 512 ((v % 16 * (1 + 16)) <<< (8 * off))) cs

/-- A word of a barrier read at its home L2 without a fill of it (R286): the value, or the ECODE of its poison. -/
def State.readHome (s : State) (part : Option Nat) (p : Path) (len : Nat) : Except (BitVec 6) Nat × State :=
  let s := (s.dropOther .l2 (p.pa / 64) p.key (s.keyGen p.key)).l2Touch part p.home (p.pa / 64)
  let off := p.pa % 64
  let x :=
    if s.unreachable p.home then errorSec p.key (s.keyGen p.key) p.home
    else
      match s.cached .l2 (p.pa / 64) with
      | some x => if x.valid &&& byteMask off len = byteMask off len then x else x.fill (s.hbmRead (p.pa / 64) p.key p.home)
      | none => s.hbmRead (p.pa / 64) p.key p.home
  match x.poisonAt off len with
  | some e => (.error e, s)
  | none => (.ok (x.bytes off len), s)

/-! Whole ranges at the home L2, as the stream front end and the service reach memory (R182, R377). -/

/-- Read `n` bytes at a virtual address under a root, each at its home L2. -/
def State.readVirt (s : State) (root : Nat) (part : Option Nat) (need : Need) (va : Nat) :
    Nat → Except Cause (List Byte) × State
  | 0 => (.ok [], s)
  | n + 1 =>
    match s.xlate root va need with
    | .error c => (.error c, s)
    | .ok p =>
      match s.readPath part p 1 [.l2] with
      | (.error e, s) => (.error { code := cPOISON, addr := va, ecode := e.toNat }, s)
      | (.ok v, s) =>
        match s.readVirt root part need (va + 1) n with
        | (.ok vs, s) => (.ok (BitVec.ofNat 8 v :: vs), s)
        | (.error c, s) => (.error c, s)

/-- Write bytes at a virtual address under a root, each at its home L2; the cause of the first page that does not
allow it, or an error reply of a home (R351), stops the write there. -/
def State.writeVirt (s : State) (root : Nat) (part : Option Nat) (need : Need) (va : Nat) :
    List Byte → Except Cause Unit × State
  | [] => (.ok (), s)
  | b :: bs =>
    match s.xlate root va need with
    | .error c => (.error c, s)
    | .ok p =>
      if s.refused p.home [.l2] then (.error { code := cPOISON, addr := va, ecode := 1 }, s)
      else (s.writePath part p 1 b.toNat [.l2]).writeVirt root part need (va + 1) bs

/-- Whether every page of [va, va + n) allows an access. -/
def State.mapped (s : State) (root : Nat) (need : Need) (va n : Nat) : Bool :=
  (List.range ((va % 4096 + n + 4095) / 4096)).all (fun i =>
    match s.xlate root (va / 4096 * 4096 + 4096 * i) need with
    | .ok _ => true
    | .error _ => false)

/-- Whether every page of [va, va + n) has the permissions of an access: PSN is another field (R258, R346). -/
def State.permits (s : State) (root : Nat) (need : Need) (va n : Nat) : Bool :=
  (List.range ((va % 4096 + n + 4095) / 4096)).all (fun i =>
    match s.walk root (va / 4096 * 4096 + 4096 * i) with
    | .ok (pte, _) => (permCheck (pte &&& ~~~(BitVec.ofNat 64 (2 ^ 63))) need va).isNone
    | .error _ => false)

/-! The pad (R250, R251). -/

/-- Bytes of the pad. -/
def padBytes (c : Core) : Nat := c.padUnits * 262144

/-- Read `n` bytes of the pad at `off`: a never-written sector reads as zero. -/
def Core.padRead (c : Core) (off n : Nat) : Nat := bytesToNat (tgets 0 c.pad off n)

/-- The ECODE of the poison of pad bytes (R346). -/
def Core.padPoison (c : Core) (off n : Nat) : Option (BitVec 6) :=
  (List.range ((off % 8 + n + 7) / 8)).findSome? (fun i => tget none c.padP (off / 8 + i))

/-- The sectors a byte range touches. -/
def secsOf (lo n : Nat) : List Nat := if n = 0 then [] else (List.range ((lo % 64 + n + 63) / 64)).map (fun i => lo / 64 + i)

/-- Write bytes into the pad: the first write to a sector clears it and sets its written bit (R251); a word written
whole loses its poison (R346). -/
def Core.padWrite (c : Core) (off : Nat) (bs : List Byte) : Core :=
  let words := (List.range ((off % 8 + bs.length + 7) / 8)).map (fun i => off / 8 + i)
  let fresh := (secsOf off bs.length).filter (fun x => !tget false c.padW x)
  let base := fresh.foldl (fun p x => tclear p (x * 64) 64) c.pad
  { c with
    pad := tputs 0 base off bs,
    padW := (secsOf off bs.length).foldl (fun t x => tput false t x true) c.padW,
    padP := words.foldl (fun t w => if off ≤ 8 * w && 8 * w + 8 ≤ off + bs.length then tput none t w none else t) c.padP }

/-- Clear the written bits of pad units [lo, hi): every byte of them reads as zero again. -/
def Core.padClear (c : Core) (lo hi : Nat) : Core :=
  let a := lo * 262144
  let n := (hi - lo) * 262144
  { c with pad := tclear c.pad a n, padW := tclear c.padW (a / 64) (n / 64), padP := tclear c.padP (a / 8) (n / 8) }

end Sys2Proof.Machine
end

