-- ==== Sys2Proof/Machine/Numbers.lean ====
section
/-! DEFINITION. The numbers of the machine (R23 to R43): integers, the floating formats, rounding, overflow,
conversion, ds8, e8m0 and a80. Every value is exact (an integer, or a sign with a ratio of two naturals) until one
rounding step takes it into a format. -/

namespace Sys2Proof.Machine

/-! Integers (R23 to R25). -/

/-- The number held in the low `w` bits, signed or unsigned (R23). -/
def readInt (w : Nat) (uns : Bool) (v : Nat) : Int := if uns then ((v % 2 ^ w : Nat) : Int) else toSigned w v

/-- Smallest value of a type (R23). -/
def intMin (w : Nat) (uns : Bool) : Int := if uns then 0 else -((2 ^ (w - 1) : Nat) : Int)

/-- Largest value of a type (R23). -/
def intMax (w : Nat) (uns : Bool) : Int :=
  if uns then ((2 ^ w : Nat) : Int) - 1 else ((2 ^ (w - 1) : Nat) : Int) - 1

/-- The exact value clamped to the type's range (R24). -/
def clampInt (w : Nat) (uns : Bool) (i : Int) : Int := min (max i (intMin w uns)) (intMax w uns)

/-- The exact value stored in `w` bits: clamped with SAT, else wrapped (R24). -/
def storeInt (w : Nat) (uns sat : Bool) (i : Int) : Nat :=
  wrapNat w (if sat then clampInt w uns i else i)

/-- Quotient (R25): toward zero; divisor 0 gives all ones; signed MIN ÷ −1 by SAT. -/
def intDiv (w : Nat) (uns sat : Bool) (x y : Int) : Nat :=
  if y = 0 then 2 ^ w - 1 else storeInt w uns sat (x.tdiv y)

/-- Remainder (R25): sign of the dividend; divisor 0 gives the dividend. -/
def intRem (w : Nat) (x y : Int) : Nat := if y = 0 then wrapNat w x else wrapNat w (x.tmod y)

/-- The high `w` bits of the exact product (R25). -/
def intMulh (w : Nat) (x y : Int) : Nat := wrapNat w ((x * y) / ((2 ^ w : Nat) : Int))

/-- Left shift (R25): amount `w` or more gives 0. -/
def shlNat (w v k : Nat) : Nat := if w ≤ k then 0 else ((v % 2 ^ w) <<< k) % 2 ^ w

/-- Logical right shift (R25): amount `w` or more gives 0. -/
def shrNat (w v k : Nat) : Nat := if w ≤ k then 0 else (v % 2 ^ w) >>> k

/-- Arithmetic right shift (R25): amount `w` or more gives copies of the sign bit. -/
def sarNat (w v k : Nat) : Nat := wrapNat w (toSigned w v / ((2 ^ (min k w) : Nat) : Int))

/-- Left rotation by the amount mod `w` (R25, R172). -/
def rotNat (w v k : Nat) : Nat :=
  let r := k % w
  ((v % 2 ^ w) <<< r) % 2 ^ w + (v % 2 ^ w) >>> (w - r)

/-- Count of leading zeros (R25): `w` for 0. -/
def clzNat (w v : Nat) : Nat := if v % 2 ^ w = 0 then w else w - 1 - Nat.log2 (v % 2 ^ w)

/-- Index of the lowest set bit among the first `w` (R25): `w` for 0. -/
def ffsNat (w v : Nat) : Nat := ((List.range w).find? (fun i => v.testBit i)).getD w

/-- Number of set bits among the first `w` (R25). -/
def popcNat (w v : Nat) : Nat := (List.range w).foldl (fun n i => n + (if v.testBit i then 1 else 0)) 0

/-! Exact values. -/

/-- A floating value, exact: NaN (all alike, R27), an infinity, or sign and magnitude `num / den` (a zero keeps its
sign). -/
inductive Fp where
  | nan
  | inf (neg : Bool)
  | fin (neg : Bool) (num den : Nat)
  deriving DecidableEq, Repr

/-- The value `± n × 2^k`. -/
def dyadic (neg : Bool) (n : Nat) (k : Int) : Fp :=
  if 0 ≤ k then .fin neg (n * 2 ^ k.toNat) 1 else .fin neg n (2 ^ (-k).toNat)

/-- The exact value of an integer; zero is +0. -/
def ofInt (i : Int) : Fp := .fin (decide (i < 0)) i.natAbs 1

/-- A zero with the given sign. -/
def zeroFp (neg : Bool) : Fp := .fin neg 0 1

/-- Whether the value is a zero. -/
def isZeroFp : Fp → Bool
  | .fin _ n _ => n == 0
  | _ => false

/-- Whether the value is NaN. -/
def isNanFp (x : Fp) : Bool := x == .nan

/-- Whether the sign is set; NaN counts as positive. -/
def signFp : Fp → Bool
  | .nan => false
  | .inf s => s
  | .fin s _ _ => s

/-- Negation flips the sign; NaN stays. -/
def negFp : Fp → Fp
  | .nan => .nan
  | .inf s => .inf (!s)
  | .fin s n d => .fin (!s) n d

/-- Magnitude. -/
def absFp : Fp → Fp
  | .nan => .nan
  | .inf _ => .inf false
  | .fin _ n d => .fin false n d

/-- The signed numerator. -/
def sgnNum (neg : Bool) (n : Nat) : Int := if neg then -(n : Int) else n

/-- Exact sum; `rdn` says that the mode is RDN, which signs a cancelled sum −0 (R28). Inf − Inf is NaN (R40). -/
def addFp (rdn : Bool) : Fp → Fp → Fp
  | .nan, _ => .nan
  | _, .nan => .nan
  | .inf s, .inf t => if s = t then .inf s else .nan
  | .inf s, .fin _ _ _ => .inf s
  | .fin _ _ _, .inf t => .inf t
  | .fin s n d, .fin t m c =>
    let r := sgnNum s n * (c : Int) + sgnNum t m * (d : Int)
    if r = 0 then zeroFp (if s = t then s else rdn) else .fin (decide (r < 0)) r.natAbs (d * c)

/-- Exact product; Inf × 0 is NaN (R39). -/
def mulFp : Fp → Fp → Fp
  | .nan, _ => .nan
  | _, .nan => .nan
  | .inf s, .inf t => .inf (s != t)
  | .inf s, .fin t n _ => if n = 0 then .nan else .inf (s != t)
  | .fin s n _, .inf t => if n = 0 then .nan else .inf (s != t)
  | .fin s n d, .fin t m c => .fin (s != t) (n * m) (d * c)

/-- `x < y` for values that are not NaN; −0 and +0 are equal. -/
def ltFp : Fp → Fp → Bool
  | .nan, _ => false
  | _, .nan => false
  | .inf s, .inf t => s && !t
  | .inf s, .fin _ _ _ => s
  | .fin _ _ _, .inf t => !t
  | .fin s n d, .fin t m c => decide (sgnNum s n * (c : Int) < sgnNum t m * (d : Int))

/-- `x = y` for values that are not NaN; −0 and +0 are equal. -/
def eqFp (x y : Fp) : Bool := !isNanFp x && !isNanFp y && !ltFp x y && !ltFp y x

/-! Rounding (R28). -/

/-- Rounding modes, MOD code 0 to 5 (R28, R70). -/
inductive Rm where
  | rne | rna | rtz | rdn | rup | sr
  deriving DecidableEq, Repr

/-- The mode of an RM code; codes 6 and 7 never reach here (they are ILLEGAL). -/
def rmOf (c : Nat) : Rm :=
  match c with
  | 0 => .rne | 1 => .rtz | 2 => .rdn | 3 => .rup | 4 => .rna | _ => .sr

/-- floor(log2(n / d)) for positive n and d. -/
def ilog2 (n d : Nat) : Int :=
  let k : Int := (Nat.log2 n : Int) - (Nat.log2 d : Int)
  let lt := if 0 ≤ k then n < d * 2 ^ k.toNat else n * 2 ^ (-k).toNat < d
  if lt then k - 1 else k

/-- Whether the magnitude `q + r / d` (0 ≤ r < d) of a number with sign `neg` rounds up in magnitude; `g` is the draw
of a stochastic rounding (R28). -/
def roundUp (rm : Rm) (g : Nat) (neg : Bool) (q r d : Nat) : Bool :=
  if r = 0 then false
  else
    match rm with
    | .rne => decide (d < 2 * r) || (2 * r == d && q % 2 == 1)
    | .rna => decide (d ≤ 2 * r)
    | .rtz => false
    | .rdn => neg
    | .rup => !neg
    | .sr =>
      if neg then !(decide (g < (d - r) * 2 ^ 32 / d)) else decide (g < r * 2 ^ 32 / d)

/-- The magnitude `n / d` measured in units of 2^`se` and rounded to an integer. -/
def roundUnits (rm : Rm) (g : Nat) (neg : Bool) (n d : Nat) (se : Int) : Nat :=
  let n' := if se < 0 then n * 2 ^ (-se).toNat else n
  let d' := if se < 0 then d else d * 2 ^ se.toNat
  n' / d' + (if roundUp rm g neg (n' / d') (n' % d') d' then 1 else 0)

/-- How a format treats its top exponent (R26). -/
inductive Top where
  | ieee | e4m3 | e2m1
  deriving DecidableEq, Repr

/-- A binary floating format (R26, R37). -/
structure FFmt where
  ebits : Nat
  pbits : Nat
  bias : Nat
  top : Top
  deriving DecidableEq, Repr

/-- e2m1 (R26). -/
def e2m1F : FFmt := ⟨2, 1, 1, .e2m1⟩
/-- e4m3 (R26). -/
def e4m3F : FFmt := ⟨4, 3, 7, .e4m3⟩
/-- e5m2 (R26). -/
def e5m2F : FFmt := ⟨5, 2, 15, .ieee⟩
/-- f16 (R26). -/
def f16F : FFmt := ⟨5, 10, 15, .ieee⟩
/-- bf16 (R26). -/
def bf16F : FFmt := ⟨8, 7, 127, .ieee⟩
/-- f32 (R26). -/
def f32F : FFmt := ⟨8, 23, 127, .ieee⟩
/-- a80 in FP mode (R37). -/
def a80F : FFmt := ⟨15, 64, 16383, .ieee⟩

/-- The format of a type code, for the codes of R26 with sign, exponent and fraction. -/
def fmtOf (t : Nat) : Option FFmt :=
  match t with
  | 6 => some e2m1F | 7 => some e4m3F | 8 => some e5m2F | 9 => some f16F | 10 => some bf16F | 11 => some f32F
  | _ => none

/-- FTZ acts only on f16, bf16 and f32 (R31). -/
def ftzTy (t : Nat) : Bool := t == 9 || t == 10 || t == 11

/-- The encoding with the given sign, exponent field and fraction. -/
def packF (f : FFmt) (neg : Bool) (e m : Nat) : Nat :=
  (if neg then 2 ^ (f.ebits + f.pbits) else 0) + e * 2 ^ f.pbits + m

/-- Canonical NaN of a format (R27); e2m1 has none and takes +0 (R32). -/
def canonNan (f : FFmt) : Nat :=
  match f.top with
  | .ieee => packF f false (2 ^ f.ebits - 1) (2 ^ (f.pbits - 1))
  | .e4m3 => 0x7F
  | .e2m1 => 0

/-- ±Inf of an IEEE-style format. -/
def infBits (f : FFmt) (neg : Bool) : Nat := packF f neg (2 ^ f.ebits - 1) 0

/-- The largest finite value of a format (R26). -/
def maxBits (f : FFmt) (neg : Bool) : Nat :=
  match f.top with
  | .ieee => packF f neg (2 ^ f.ebits - 2) (2 ^ f.pbits - 1)
  | .e4m3 => packF f neg 15 6
  | .e2m1 => packF f neg 3 1

/-- The value an encoding holds (R26, R37). -/
def decodeF (f : FFmt) (v : Nat) : Fp :=
  let m := v % 2 ^ f.pbits
  let e := (v / 2 ^ f.pbits) % 2 ^ f.ebits
  let neg := v.testBit (f.ebits + f.pbits)
  let isTop := e == 2 ^ f.ebits - 1
  match f.top with
  | .ieee =>
    if isTop then (if m = 0 then .inf neg else .nan)
    else if e = 0 then dyadic neg m (1 - (f.bias : Int) - f.pbits)
    else dyadic neg (2 ^ f.pbits + m) ((e : Int) - f.bias - f.pbits)
  | .e4m3 =>
    if isTop && m == 7 then .nan
    else if e = 0 then dyadic neg m (1 - (f.bias : Int) - f.pbits)
    else dyadic neg (2 ^ f.pbits + m) ((e : Int) - f.bias - f.pbits)
  | .e2m1 =>
    if e = 0 then dyadic neg m (1 - (f.bias : Int) - f.pbits)
    else dyadic neg (2 ^ f.pbits + m) ((e : Int) - f.bias - f.pbits)

/-- Whether an encoding is subnormal. -/
def isSubnormal (f : FFmt) (v : Nat) : Bool :=
  (v / 2 ^ f.pbits) % 2 ^ f.ebits == 0 && v % 2 ^ f.pbits != 0

/-- The result of an overflow (R30). -/
def overflowBits (f : FFmt) (rm : Rm) (sat neg : Bool) : Nat :=
  match f.top with
  | .e4m3 => if sat then maxBits f neg else canonNan f
  | .e2m1 => maxBits f neg
  | .ieee =>
    if f == a80F then infBits f neg
    else if sat then maxBits f neg
    else
      match rm with
      | .rtz => maxBits f neg
      | .rdn => if neg then infBits f neg else maxBits f neg
      | .rup => if neg then maxBits f neg else infBits f neg
      | _ => infBits f neg

/-- An Inf taken into a format (R30); `conv` says that this is a conversion. -/
def infInto (f : FFmt) (conv sat neg : Bool) : Nat :=
  match f.top with
  | .e2m1 => maxBits f neg
  | .e4m3 => if sat then maxBits f neg else canonNan f
  | .ieee => if conv && sat && f != a80F then maxBits f neg else infBits f neg

/-- One rounding step into a format (R28, R30, R31): `g` is the draw, `ftz` flushes a subnormal result. -/
def roundF (f : FFmt) (conv : Bool) (rm : Rm) (g : Nat) (sat ftz : Bool) : Fp → Nat
  | .nan => canonNan f
  | .inf neg => infInto f conv sat neg
  | .fin neg n d =>
    if n = 0 then packF f neg 0 0
    else
      let e := max (ilog2 n d) (1 - (f.bias : Int))
      let r := roundUnits rm g neg n d (e - f.pbits)
      -- r units of 2^(e - p): renormalise when the rounding carried out of the fraction
      let carry := r == 2 ^ (f.pbits + 1)
      let m := if carry then 2 ^ f.pbits else r
      let e := if carry then e + 1 else e
      let ef : Nat := if m < 2 ^ f.pbits then 0 else (e + f.bias).toNat
      let mf := if m < 2 ^ f.pbits then m else m - 2 ^ f.pbits
      let ovf :=
        match f.top with
        | .ieee => decide (2 ^ f.ebits - 1 ≤ ef)
        | .e4m3 => decide (15 < ef) || (ef == 15 && mf == 7)
        | .e2m1 => decide (3 < ef)
      if ovf then overflowBits f rm sat neg
      else if ftz && ef == 0 && mf != 0 then packF f neg 0 0
      else packF f neg ef mf

/-- rnd80 (R37). -/
def rnd80 (x : Fp) : Nat := roundF a80F false .rne 0 false false x

/-- rnd80 as a value. -/
def rnd80V (x : Fp) : Fp := decodeF a80F (rnd80 x)

/-- A float rounded to an integer (R28 with spacing 1, R32); the value is finite. -/
def roundInt (rm : Rm) (g : Nat) (neg : Bool) (n d : Nat) : Int :=
  sgnNum neg (roundUnits rm g neg n d 0)

/-! e8m0 and ds8. -/

/-- The value of an e8m0 code (R26). -/
def decodeE8m0 (v : Nat) : Fp := if v % 256 = 255 then .nan else dyadic false 1 ((v % 256 : Nat) - 127 : Int)

/-- Conversion to e8m0 (R33). +Inf, which the rule does not name, goes as a result above 2^127 (assumption 44). -/
def toE8m0 (rm : Rm) (g : Nat) (sat : Bool) : Fp → Nat
  | .nan => 0xFF
  | .inf neg => if neg then 0xFF else if sat then 0xFE else 0xFF
  | .fin neg n d =>
    if neg || n == 0 then 0xFF
    else
      let k := ilog2 n d
      -- x = 2^k × (1 + f): f = (n - d 2^k) / (d 2^k)
      let n' := if k < 0 then n * 2 ^ (-k).toNat else n
      let d' := if k < 0 then d else d * 2 ^ k.toNat
      let code : Int := k + 127
      let up := roundUp rm g false (code % 2).toNat (n' - d') d'
      let c := if up then code + 1 else code
      if 254 < c then (if sat then 0xFE else 0xFF) else if c < 0 then 0x00 else c.toNat

/-- A term of a ds8 byte in units of 2^−6 (R34). -/
def ds8Term (s : Bool) (c : Nat) : Int := if c = 7 then 0 else sgnNum s (2 ^ (6 - c))

/-- The value of a ds8 byte in units of 2^−6 (R34). -/
def ds8Units (v : Nat) : Int :=
  ds8Term (v.testBit 7) ((v / 16) % 8) + ds8Term (v.testBit 3) (v % 8)

/-- The value of a ds8 byte; ds8 has no signed zero (R34). -/
def decodeDs8 (v : Nat) : Fp :=
  let u := ds8Units v
  .fin (decide (u < 0)) u.natAbs 64

/-- Conversion to ds8 (R35): nearest value, ties toward zero, the smallest byte among its encodings. -/
def toDs8 : Fp → Nat
  | .nan => 0x08
  | .inf neg => if neg then 0x88 else 0x00
  | .fin neg n d =>
    let dist (v : Nat) : Nat := (64 * sgnNum neg n - ds8Units v * (d : Int)).natAbs
    let better (v w : Nat) : Bool :=
      decide (dist v < dist w) || (dist v == dist w && decide ((ds8Units v).natAbs < (ds8Units w).natAbs))
    (List.range 256).foldl (fun w v => if better v w then v else w) 0

/-! Conversion (R32). -/

/-- A source of a conversion: an exact integer with the width it was held in, or a floating value. -/
inductive Num where
  | int (w : Nat) (i : Int)
  | fp (x : Fp)
  deriving DecidableEq, Repr

/-- The value held by `bits` in type `t`, with the input flush of R31 when `ftz` is set. -/
def numOf (t : Nat) (uns ftz : Bool) (bits : Nat) : Num :=
  if t ≤ 5 then .int (tyWidth t) (readInt (tyWidth t) uns bits)
  else
    match fmtOf t with
    | some f =>
      let v := bits % 2 ^ tyWidth t
      if ftz && ftzTy t && isSubnormal f v then .fp (zeroFp (signFp (decodeF f v))) else .fp (decodeF f v)
    | none =>
      if t = 12 then .fp (decodeDs8 (bits % 256))
      else if t = 14 then .fp (decodeE8m0 bits)
      else .fp (decodeF a80F (bits % 2 ^ 80))

/-- The floating value of a source. -/
def numFp : Num → Fp
  | .int _ i => ofInt i
  | .fp x => x

/-- Float to integer (R32): SAT clamps and takes NaN to 0; without SAT an out-of-range value or NaN is indefinite. -/
def fpToInt (w : Nat) (uns : Bool) (rm : Rm) (g : Nat) (sat : Bool) (x : Fp) : Nat :=
  let indefinite := if uns then 2 ^ w - 1 else 2 ^ (w - 1)
  match x with
  | .nan => if sat then 0 else indefinite
  | .inf neg => if sat then wrapNat w (if neg then intMin w uns else intMax w uns) else indefinite
  | .fin neg n d =>
    let i := roundInt rm g neg n d
    if intMin w uns ≤ i && i ≤ intMax w uns then wrapNat w i
    else if sat then wrapNat w (clampInt w uns i)
    else indefinite

/-- Integer to integer (R32): a widening extends the source; a narrowing keeps the low bits, or clamps under SAT. The rule
does not speak of equal widths: the model takes them as a narrowing (assumption 44). -/
def intToInt (w : Nat) (uns sat : Bool) (ws : Nat) (i : Int) : Nat :=
  if ws < w then wrapNat w i else storeInt w uns sat i

/-- cvt (R32): the exact source taken into type `t`. -/
def cvtTo (t : Nat) (uns : Bool) (rm : Rm) (g : Nat) (sat ftz : Bool) (x : Num) : Nat :=
  if t ≤ 5 then
    match x with
    | .int ws i => intToInt (tyWidth t) uns sat ws i
    | .fp y => fpToInt (tyWidth t) uns rm g sat y
  else
    match fmtOf t with
    | some f => roundF f true rm g sat (ftz && ftzTy t) (numFp x)
    | none => if t = 12 then toDs8 (numFp x) else if t = 14 then toE8m0 rm g sat (numFp x) else rnd80 (numFp x)

/-! The stochastic generator (R29). -/

/-- sr_draw: the next state, which is also the draw. -/
def srDraw (s : BitVec 32) : BitVec 32 :=
  let s := s ^^^ (s <<< 13)
  let s := s ^^^ (s >>> 17)
  s ^^^ (s <<< 5)

/-- The state after some draws. -/
def drawN : Nat → BitVec 32 → BitVec 32
  | 0, sr => sr
  | n + 1, sr => drawN n (srDraw sr)

/-- A rounding step under `rm` draws only when the mode is SR (R29). -/
def drawFor (rm : Rm) (s : BitVec 32) : BitVec 32 := if rm = .sr then srDraw s else s

/-- The state number `n` of a task at its start (R29). -/
def srSeed (seed : Nat) (task n : Nat) : BitVec 32 :=
  let v := BitVec.ofNat 32 (seed + task * 0x9E3779B9 + n * 0x85EBCA6B)
  if v = 0 then 1 else v

end Sys2Proof.Machine
end

