-- ==== Sys2Proof/Machine/Operands.lean ====
section
/-! DEFINITION. Operands: specifiers and constants (R63, R64), positions (R65), lanes of a vector (R211), and tensor
descriptors with their element addressing (R78 to R83, R87, R94). -/

namespace Sys2Proof.Machine

/-! Lanes (R211). -/

/-- Lane count of a type. -/
def lanes (t : Nat) : Nat := 4096 / tyWidth t

/-- Lane `i` of a vector at width `w`. -/
def lane (w : Nat) (v : Vec) (i : Nat) : Nat := bitsNat v (w * i) w

/-- The vector with the given lanes, lane 0 first. -/
def ofLanes (w : Nat) (l : List Nat) : Vec :=
  BitVec.ofNat 4096 (l.foldr (fun x a => a * 2 ^ w + x % 2 ^ w) 0)

/-- The lanes of a vector at width `w`. -/
def toLanes (w : Nat) (v : Vec) : List Nat := (List.range (4096 / w)).map (lane w v)

/-- Whether lane `i` is active under a mask read at width `w` (R214). -/
def active (mask : Option Vec) (w i : Nat) : Bool :=
  match mask with
  | none => true
  | some m => m.getLsbD (w * i)

/-! Constants (R64). -/

/-- The bits of constant `n` at a type, when `n` is exactly representable there. -/
def constBits (t : Nat) (uns : Bool) (n : Nat) : Option Nat :=
  if t = 1 then (if uns || n ≤ 7 then some n else none)
  else if t ≤ 5 then some n
  else
    match fmtOf t with
    | some f =>
      let b := roundF f false .rne 0 false false (ofInt n)
      if eqFp (decodeF f b) (ofInt n) then some b else none
    | none =>
      if t = 12 then (if n ≤ 2 then some (toDs8 (ofInt n)) else none)
      else if t = 14 then (if n = 1 || n = 2 || n = 4 || n = 8 then some (toE8m0 .rne 0 false (ofInt n)) else none)
      else none

/-- How an operand reads its specifier: a scalar read as an integer, a scalar that carries an element of a type, a
vector of a type, any value of an instruction of a claimed opcode, `keep`'s operand of either kind, a carry of either kind,
which alone of those without a type may pop (R66, R168), or nothing (the specifier must be 0x00). -/
inductive Want where
  | int
  | elem (t : Nat) (uns : Bool)
  | vec (t : Nat) (uns : Bool)
  | any
  | noPop
  | carry
  | none
  deriving DecidableEq, Repr

/-- The kind of the value at distance `d`: `none` when there is no such position. -/
def Ctx.kindAt (c : Ctx) (d : Nat) : Option Bool :=
  match c.vals[d - 1]? with
  | some (.ready (.scalar _)) => some false
  | some (.ready (.vector _)) => some true
  | some (.ready (.poisoned v _)) => some v
  | some (.pending v _) => some v
  | Option.none => Option.none

/-- What a specifier names (R63). -/
inductive SpecKind where
  | zero
  | dist (d : Nat)
  | port (n : Nat)
  | pop (q : Nat)
  | peek (q : Nat)
  | laneIdx
  | special (n : Nat)
  | const (n : Nat)
  | tmplOp (i : Nat)
  | reserved
  deriving DecidableEq, Repr

/-- The kind of a specifier; 0xDA to 0xDC name the matched operands inside a template (R155). -/
def specKind (sp : Nat) : SpecKind :=
  if sp = 0 then .zero
  else if sp ≤ 0xBF then .dist sp
  else if sp ≤ 0xC7 then .port (sp - 0xC0)
  else if sp ≤ 0xCB then .pop (sp - 0xC8)
  else if sp ≤ 0xCF then .peek (sp - 0xCC)
  else if sp = 0xD0 then .laneIdx
  else if sp ≤ 0xD9 then .special sp
  else if sp ≤ 0xDC then .tmplOp (sp - 0xDA)
  else if 0xE0 ≤ sp && sp ≤ 0xEF then .const (sp - 0xE0)
  else .reserved

/-- A specifier as it stands inside the templates under way: an operand of the matched word, counted on past the
values the template has made (R155). Distances counted on are carried from 0x100 upward. -/
def expandIn : List Tmpl → Nat → Nat
  | [], x => x
  | t :: ts, x =>
    match specKind x with
    | .tmplOp i =>
      let y := expandIn ts (bitsNat t.matched (40 - 8 * i) 8)
      if 0x100 ≤ y then y + t.made
      else
        match specKind y with
        | .dist d => 0x100 + d + t.made
        | _ => y
    | _ => x

/-- A specifier in a context. -/
def Ctx.expand (c : Ctx) (sp : BitVec 8) : Nat := expandIn c.tmpl sp.toNat

/-- The kind of an expanded specifier. -/
def xKind (x : Nat) : SpecKind := if 0x100 ≤ x then .dist (x - 0x100) else specKind x

/-- Whether a specifier is legal for a want, by R63, R64, R65 and R212: `stream` says that the text is stream text. -/
def specOk (c : Ctx) (stream : Bool) (w : Want) (sp : BitVec 8) : Bool :=
  let wantsVec := match w with
    | .vec _ _ => true
    | _ => false
  let isInt := match w with
    | .vec t _ => isIntTy t
    | _ => false
  let mayPop := wantsVec || w == .any || w == .carry
  match w with
  | .none => sp == 0
  | _ =>
    match xKind (c.expand sp) with
    | .zero => true
    | .dist d =>
      match c.kindAt d with
      | Option.none => false
      | some v =>
        match w with
        | .any => true
        | .noPop => true
        | .carry => true
        | _ => v == wantsVec
    | .port _ => !stream && mayPop
    | .pop q => !stream && mayPop && (q == 0 || q == 2)
    | .peek q => !stream && mayPop && (q == 0 || q == 2)
    | .laneIdx => !stream && ((wantsVec && isInt) || w == .any)
    | .special n => !wantsVec && (!stream || n == 0xD8 || n == 0xD9)
    | .const n =>
      match w with
      | .elem t u => (constBits t u n).isSome
      | .vec t u => (constBits t u n).isSome
      | _ => true
    | .tmplOp _ => false
    | .reserved => false

/-- Whether a specifier pops or peeks. -/
def isPop (c : Ctx) (sp : BitVec 8) : Bool :=
  match xKind (c.expand sp) with
  | .port _ => true
  | .pop _ => true
  | .peek _ => true
  | _ => false

/-- The lane index vector at a width (R64). -/
def laneIndex (w : Nat) : Vec := ofLanes w ((List.range (4096 / w)).map (fun i => i % 2 ^ w))

/-- A scalar broadcast to every lane. -/
def broadcast (w v : Nat) : Vec := ofLanes w (List.replicate (4096 / w) v)

/-- The value of a special operand (R63). -/
def State.special (s : State) (a : Agent) (sp : Nat) : Word :=
  match a with
  | .core g =>
    let c := s.core g
    if sp = 0xD8 then BitVec.ofNat 64 (s.die (dieOf g)).gtc
    else if sp = 0xD4 then BitVec.ofNat 64 (dieOf g)
    else if isSvc g then Config.svcSpecial (dieOf g) sp
    else if sp = 0xD1 then BitVec.ofNat 64 ((c.task.map (·.idx)).getD 0)
    else if sp = 0xD2 then BitVec.ofNat 64 ((c.task.map (·.count)).getD 0)
    else if sp = 0xD3 then BitVec.ofNat 64 g
    else if sp = 0xD5 then BitVec.ofNat 64 (coreNo g)
    else if sp = 0xD6 then BitVec.ofNat 64 ((c.team.map (·.1)).getD 0)
    else if sp = 0xD7 then BitVec.ofNat 64 ((c.team.map (·.2)).getD 0)
    else BitVec.ofNat 64 c.part
  | .sfe p => if sp = 0xD8 then BitVec.ofNat 64 (s.die (hostDie p)).gtc else BitVec.ofNat 64 p
  | _ => 0

/-- The slot an operand resolves to; in place of one that pops or peeks, which is taken later, stands a vector. A 0x00 whose kind
nothing asks for is a scalar, and a lane index whose lanes nothing sizes has 64-bit lanes (assumption 46). -/
def State.operand (s : State) (a : Agent) (c : Ctx) (w : Want) (sp : BitVec 8) : Slot :=
  let wantsVec := match w with
    | .vec _ _ => true
    | _ => false
  match xKind (c.expand sp) with
  | .zero => if wantsVec then .ready (.vector 0) else .ready (.scalar 0)
  | .dist d => (c.vals[d - 1]?).getD (.ready (.scalar 0))
  | .laneIdx =>
    match w with
    | .vec t _ => .ready (.vector (laneIndex (tyWidth t)))
    | _ => .ready (.vector (laneIndex 64))
  | .special n => .ready (.scalar (s.special a n))
  | .const n =>
    match w with
    | .elem t u => .ready (.scalar (BitVec.ofNat 64 ((constBits t u n).getD 0)))
    | .vec t u => .ready (.vector (broadcast (tyWidth t) ((constBits t u n).getD 0)))
    | _ => .ready (.scalar (BitVec.ofNat 64 n))
  | .port _ => .ready (.vector 0)
  | .pop _ => .ready (.vector 0)
  | .peek _ => .ready (.vector 0)
  | _ => .ready (.scalar 0)

/-- The 64 bits of a value read as a scalar. -/
def Val.word : Val → Word
  | .scalar w => w
  | _ => 0

/-- The vector of a value read as a vector. -/
def Val.vec : Val → Vec
  | .vector v => v
  | _ => 0

/-- The kind of a value. -/
def Val.isVec : Val → Bool
  | .scalar _ => false
  | .vector _ => true
  | .poisoned v _ => v

/-- The result of a scalar operation at width `w`, extended to 64 bits (R64). -/
def extend (w : Nat) (uns : Bool) (v : Nat) : Word :=
  if uns then BitVec.ofNat 64 (v % 2 ^ w) else BitVec.ofNat 64 (wrapNat 64 (toSigned w v))

/-! Descriptors (R78 to R83). -/

/-- The fields of a tensor descriptor (R78), extents as counts. -/
structure Desc where
  base : Nat
  fmt : Nat
  space : Nat
  bchk : Nat
  scaled : Bool
  scale32 : Bool
  resv : Nat
  n0 : Nat
  n1 : Nat
  n2 : Nat
  stride1 : Nat
  stride2 : Nat
  scalebase : Nat
  deriving DecidableEq, Repr

/-- Read a descriptor record. -/
def Desc.of (b : BitVec 256) : Desc :=
  { base := bitsNat b 0 64, fmt := bitsNat b 64 4, space := bitsNat b 68 2, bchk := bitsNat b 70 2,
    scaled := b.getLsbD 72, scale32 := b.getLsbD 73, resv := bitsNat b 74 6, n0 := bitsNat b 80 20 + 1,
    n1 := bitsNat b 100 20 + 1, n2 := bitsNat b 120 16, stride1 := bitsNat b 136 32, stride2 := bitsNat b 168 40,
    scalebase := bitsNat b 208 48 }

/-- A record with another BASE (R115, R117). -/
def setBase (b : BitVec 256) (base : Nat) : BitVec 256 := setBits b 0 64 base

/-- Whether a descriptor is valid (R79). -/
def Desc.valid (d : Desc) : Bool :=
  d.fmt != 0xD && d.fmt != 0xF && d.space ≤ 1 && d.bchk != 3 && d.n2 != 0 && d.resv == 0

/-- Whether a valid descriptor is misaligned (R79). -/
def Desc.misaligned (d : Desc) : Bool :=
  let e := tyWidth d.fmt / 8
  d.space == 0 && 2 ≤ e && (d.base % e != 0 || d.stride1 % e != 0 || d.stride2 % e != 0)

/-- Element size in bits (R79). -/
def Desc.ebits (d : Desc) : Nat := tyWidth d.fmt

/-- Bytes that `n` contiguous elements take, rounded up. -/
def Desc.rowBytes (d : Desc) (n : Nat) : Nat := ceilDiv (n * d.ebits) 8

/-- The footprint (R94). -/
def Desc.footprint (d : Desc) : Nat := d.rowBytes d.n0 + (d.n1 - 1) * d.stride1 + (d.n2 - 1) * d.stride2

/-- The smallest class whose buffers hold a footprint (R94): 64 KiB × 2^c. -/
def sizeClass (fp : Nat) : Nat := if fp ≤ 65536 then 0 else Nat.log2 (ceilDiv fp 65536 - 1) + 1

/-- What `locate` answers (R80). -/
inductive Loc where
  | at (byte : Nat) (hi : Option Bool)
  | zero
  | drop
  | bounds
  deriving DecidableEq, Repr

/-- An index clamped into [0, n). -/
def clampIdx (e : Int) (n : Nat) : Nat := (min (max e 0) ((n : Int) - 1)).toNat

/-- `locate` (R80). -/
def Desc.locate (d : Desc) (e0 e1 e2 : Int) (isWrite : Bool) : Loc :=
  let inb := decide (0 ≤ e0 ∧ e0 < d.n0 ∧ 0 ≤ e1 ∧ e1 < d.n1 ∧ 0 ≤ e2 ∧ e2 < d.n2)
  let at' (i0 i1 i2 : Nat) : Loc :=
    if d.ebits = 4 then .at (d.base + i0 / 2 + i1 * d.stride1 + i2 * d.stride2) (some (i0 % 2 == 1))
    else .at (d.base + i0 * (d.ebits / 8) + i1 * d.stride1 + i2 * d.stride2) none
  if inb then at' e0.toNat e1.toNat e2.toNat
  else if d.bchk = 0 then .bounds
  else if isWrite then .drop
  else if d.bchk = 1 then .zero
  else at' (clampIdx e0 d.n0) (clampIdx e1 d.n1) (clampIdx e2 d.n2)

/-- Width of a descriptor field by its code (R87). -/
def fieldWidth (f : Nat) : Nat :=
  match f with
  | 0 => 64 | 1 => 4 | 2 => 2 | 3 => 2 | 4 => 1 | 5 => 1 | 6 => 20 | 7 => 20 | 8 => 16 | 9 => 32 | 10 => 40 | _ => 48

/-- Lowest bit of a descriptor field by its code (R78, R87). -/
def fieldLow (f : Nat) : Nat :=
  match f with
  | 0 => 0 | 1 => 64 | 2 => 68 | 3 => 70 | 4 => 72 | 5 => 73 | 6 => 80 | 7 => 100 | 8 => 120 | 9 => 136 | 10 => 168
  | _ => 208

/-- Whether every pad byte of a descriptor's elements lies inside an extent (R80). -/
def Desc.inPad (d : Desc) (extent : Nat) : Bool := d.base + d.footprint ≤ extent

end Sys2Proof.Machine
end

