-- ==== Sys2Proof/Machine/Flags.lean ====
section
/-! DEFINITION. Flag words (R187) and the relations a compare evaluates (R174, R235). -/

namespace Sys2Proof.Machine

/-- COUNT of a flag word. -/
def flagCount (w : BitVec 32) : Nat := bitsNat w 0 24
/-- ERR of a flag word. -/
def flagErr (w : BitVec 32) : Bool := w.getLsbD 31
/-- ECODE of a flag word. -/
def flagEcode (w : BitVec 32) : Nat := bitsNat w 24 6

/-- A flag word from its fields. -/
def mkFlag (err : Bool) (ecode count : Nat) : BitVec 32 :=
  BitVec.ofNat 32 ((if err then 2 ^ 31 else 0) + (ecode % 64) * 2 ^ 24 + count % 2 ^ 24)

/-- Add to COUNT, saturating at 0xFF_FFFF (R187). -/
def flagAdd (w : BitVec 32) (n : Nat) : BitVec 32 :=
  mkFlag (flagErr w) (flagEcode w) (min (flagCount w + n) 0xFFFFFF)

/-- Signal an error: ECODE is set when ERR was 0 (R185, R189). -/
def flagSetErr (w : BitVec 32) (code : Nat) : BitVec 32 :=
  mkFlag true (if flagErr w then flagEcode w else code) (flagCount w)

/-- Take `n` from COUNT (R184, R190). -/
def flagSub (w : BitVec 32) (n : Nat) : BitVec 32 := mkFlag (flagErr w) (flagEcode w) (flagCount w - n)

/-- Clear ERR and ECODE (R191). -/
def flagClrErr (w : BitVec 32) : BitVec 32 := mkFlag false 0 (flagCount w)

/-- What a wait for `n` finds (R190, R229): satisfied, stopped by an error, or not yet. -/
inductive FlagWait where
  | ok | err | no
  deriving DecidableEq, Repr

/-- The wait of `sem.wait` and `vsem.wait`: ERR ends it, else COUNT ≥ n does. -/
def flagWait (w : BitVec 32) (n : Nat) : FlagWait :=
  if flagErr w then .err else if n ≤ flagCount w then .ok else .no

/-- The relations of `cmp` and `vcmp` in FN order. -/
inductive Rel where
  | eq | ne | lt | le | gt | ge
  deriving DecidableEq, Repr

/-- A relation on integers (R174). -/
def relInt (r : Rel) (x y : Int) : Bool :=
  match r with
  | .eq => decide (x = y)
  | .ne => decide (x ≠ y)
  | .lt => decide (x < y)
  | .le => decide (x ≤ y)
  | .gt => decide (x > y)
  | .ge => decide (x ≥ y)

/-- A relation on floats (R235): −0 equals +0; with NaN only `ne` holds. -/
def relFp (r : Rel) (x y : Fp) : Bool :=
  if isNanFp x || isNanFp y then r == .ne
  else
    match r with
    | .eq => eqFp x y
    | .ne => !eqFp x y
    | .lt => ltFp x y
    | .le => !ltFp y x
    | .gt => ltFp y x
    | .ge => !ltFp x y

end Sys2Proof.Machine
end

