-- ==== Sys2Proof/Machine/Sfu.lean ====
section
/-! DEFINITION. The special functions of `vsfu` (R249), correctly rounded: the exact value is enclosed between two
rationals until both ends round alike. -/

namespace Sys2Proof.Machine

/-- A non-negative rational: numerator and denominator. -/
abbrev Q := Nat × Nat

/-- Round both ends of an enclosure, in a precision that doubles until they agree; when the search does not settle it
the result is the free value of assumption 12. -/
def roundBetween (f : FFmt) (rm : Rm) (g : Nat) (sat ftz neg : Bool) (enc : Nat → Q × Q) (dflt : Nat) : Nat → Nat → Nat
  | 0, _ => dflt
  | fuel + 1, n =>
    let (lo, hi) := enc n
    let a := roundF f false rm g sat ftz (.fin neg lo.1 lo.2)
    let b := roundF f false rm g sat ftz (.fin neg hi.1 hi.2)
    if a = b then a else roundBetween f rm g sat ftz neg enc dflt fuel (2 * n)

/-- Enclosure of ln 2 times 2^n: Σ 1 / (k 2^k), each term rounded down; `n` terms leave less than `n + 2` units. -/
def ln2Units (n : Nat) : Nat := ((List.range n).map (fun k => 2 ^ n / ((k + 1) * 2 ^ (k + 1)))).sum

/-- Terms of e^y − 1 for y = u / 2^n < 1, each rounded down: the sum and the number of terms. -/
def expTerms (n u : Nat) : Nat → Nat → Nat → Nat
  | 0, _, _ => 0
  | fuel + 1, k, t => let t' := t * u / (k * 2 ^ n); t' + expTerms n u fuel (k + 1) t'

/-- Enclosure of e^y − 1 in units of 2^−n for y between `u` and `v` units, both below 2^n. -/
def expm1Units (n u v : Nat) : Nat × Nat := (expTerms n u (n + 2) 1 (2 ^ n), expTerms n v (n + 2) 1 (2 ^ n) + n + 4)

/-- Enclosure of 2^x for x = ± num / den. -/
def exp2Enc (neg : Bool) (num den n : Nat) : Q × Q :=
  let e : Int := sgnNum neg num / (den : Int)
  let fr := (sgnNum neg num - e * den).toNat
  let l := ln2Units n
  let (a, b) := if fr = 0 then (0, 0) else expm1Units n (l * fr / den) ((l + n + 2) * fr / den + 1)
  if 0 ≤ e then (((2 ^ n + a) * 2 ^ e.toNat, 2 ^ n), ((2 ^ n + b) * 2 ^ e.toNat, 2 ^ n))
  else ((2 ^ n + a, 2 ^ n * 2 ^ (-e).toNat), (2 ^ n + b, 2 ^ n * 2 ^ (-e).toNat))

/-- Terms of atanh z = Σ z^(2k+1) / (2k+1) for z = zn / zd, in units of 2^−n, each rounded down. -/
def atanhTerms (zn zd : Nat) : Nat → Nat → Nat → Nat
  | 0, _, _ => 0
  | fuel + 1, k, p => p / k + atanhTerms zn zd fuel (k + 2) (p * zn * zn / (zd * zd))

/-- Enclosure of |log2 (num / den)|, with its sign: the power of two is taken out so that what is left lies between
2/3 and 4/3. -/
def log2Parts (num den : Nat) : Int × Bool × Nat × Nat :=
  let e := ilog2 num den
  let (a, b) := if 0 ≤ e then (num, den * 2 ^ e.toNat) else (num * 2 ^ (-e).toNat, den)
  let (e, a, b) := if 4 * b < 3 * a then (e + 1, a, 2 * b) else (e, a, b)
  (e, decide (a < b), (if a < b then b - a else a - b), a + b)

/-- Enclosure of |log2| of num / den, and whether it is negative. -/
def log2Enc (num den n : Nat) : Bool × Q × Q :=
  let (e, below, zn, zd) := log2Parts num den
  let l := ln2Units n
  let t := 2 * atanhTerms zn zd (n + 2) 1 (2 ^ n * zn / zd)
  let lo := if zn = 0 then 0 else t * 2 ^ n / (l + n + 2)
  let hi := if zn = 0 then 0 else (t + 4 * n + 8) * 2 ^ n / l + 1
  let u : Int := 2 ^ n
  let (x, y) : Int × Int := if below then (e * u - hi, e * u - lo) else (e * u + lo, e * u + hi)
  if 0 ≤ x then (false, (x.toNat, 2 ^ n), (y.toNat, 2 ^ n)) else (true, ((-y).toNat, 2 ^ n), ((-x).toNat, 2 ^ n))

/-- Enclosure of √(num / den): exact when it is rational. -/
def sqrtEnc (num den n : Nat) : Q × Q :=
  let r := Nat.sqrt (num * den)
  if r * r = num * den then ((r, den), (r, den))
  else
    let s := Nat.sqrt (num * den * 4 ^ n)
    ((s, den * 2 ^ n), (s + 1, den * 2 ^ n))

/-- The tail from 2j − 1 on of the continued fraction x / (1 + x² / (3 + x² / (5 + …))) of tanh x, x = num / den, cut off after
some more levels: numerator and denominator. -/
def tanhTail (num den j : Nat) : Nat → Q
  | 0 => (2 * j - 1, 1)
  | m + 1 =>
    let (p, q) := tanhTail num den (j + 1) m
    ((2 * j - 1) * den * den * p + num * num * q, den * den * p)

/-- Enclosure of tanh (num / den) for positive num / den: for a small argument two successive convergents of its continued
fraction, one below and one above. -/
def tanhEnc (num den n : Nat) : Q × Q :=
  if 64 * den ≤ num then ((2 ^ 200 - 2 ^ 50, 2 ^ 200), (2 ^ 200 - 1, 2 ^ 200))
  else if 2 ^ 20 * num ≤ den then
    let at' (m : Nat) : Q := let (p, q) := tanhTail num den 1 m; (num * q, den * p)
    (at' (2 * (n / 64) + 1), at' (2 * (n / 64) + 2))
  else
    let k := 2 * num * 2 ^ n / den
    let e := k / 2 ^ n + 1
    let m := 4 * (Nat.log2 e + 1)
    let step (x : Nat × Nat) : Nat × Nat := (x.1 * x.1 / 2 ^ (n + 200), x.2 * x.2 / 2 ^ (n + 200) + 1)
    let u := 2 * num * 2 ^ (n + 200) / (den * 2 ^ m)
    let (a, b) := expm1Units (n + 200) u (u + 1)
    let (p, q) := (List.range m).foldl (fun x _ => step x) (2 ^ (n + 200) + a, 2 ^ (n + 200) + b)
    let one := 2 ^ (n + 200)
    ((p - one, p + one), (q - one, q + one))

/-- The special functions in FN order. -/
inductive Sfu where
  | exp2 | log2 | rcp | rsq | sqrt | tanh
  deriving DecidableEq, Repr

/-- One result of `vsfu` (R249). -/
def sfuEval (fn : Sfu) (f : FFmt) (rm : Rm) (g : Nat) (sat ftz : Bool) (x : Fp) : Nat :=
  let r (y : Fp) : Nat := roundF f false rm g sat ftz y
  let key (neg : Bool) (n d : Nat) : Nat :=
    Config.sfuBits ((if neg then 1 else 0) + 2 * (match fn with
      | .exp2 => 0 | .log2 => 1 | .rcp => 2 | .rsq => 3 | .sqrt => 4 | .tanh => 5)) (n * 2 ^ 400 / d)
  let go (neg : Bool) (enc : Nat → Q × Q) (n d : Nat) : Nat := roundBetween f rm g sat ftz neg enc (key neg n d) 6 64
  match fn, x with
  | _, .nan => r .nan
  | .exp2, .inf neg => if neg then r (zeroFp false) else r (.inf false)
  | .exp2, .fin neg n d =>
    if n = 0 then r (ofInt 1)
    else if 400 * d ≤ n then (if neg then go false (fun _ => ((1, 2 ^ 600), (1, 2 ^ 500))) n d else r (dyadic false 1 400))
    else go false (exp2Enc neg n d) n d
  | .log2, .inf neg => if neg then r .nan else r (.inf false)
  | .log2, .fin neg n d =>
    if n = 0 then r (.inf true)
    else if neg then r .nan
    else if n = d then r (zeroFp false)
    else go (log2Enc n d 64).1 (fun k => (log2Enc n d k).2) n d
  | .rcp, .inf neg => r (zeroFp neg)
  | .rcp, .fin neg n d => if n = 0 then r (.inf neg) else r (.fin neg d n)
  | .rsq, .inf neg => if neg then r .nan else r (zeroFp false)
  | .rsq, .fin neg n d =>
    if n = 0 then r (.inf neg) else if neg then r .nan else go false (sqrtEnc d n) n d
  | .sqrt, .inf neg => if neg then r .nan else r (.inf false)
  | .sqrt, .fin neg n d =>
    if n = 0 then r (zeroFp neg) else if neg then r .nan else go false (sqrtEnc n d) n d
  | .tanh, .inf neg => r (.fin neg 1 1)
  | .tanh, .fin neg n d => if n = 0 then r (zeroFp neg) else go neg (tanhEnc n d) n d

end Sys2Proof.Machine
end

