-- ==== Sys2Proof/Machine/Order.lean ====
section
/-! DEFINITION. The accesses in LQ and SQ (R181): their kinds, which may pass which, what one reads at its storage, and
the marks that a younger effect leaves on those it passes (R147; assumption 15). -/

namespace Sys2Proof.Machine

/-! Which queue an access stands in (R181, R280, R283). -/

/-- Whether an access occupies LQ. -/
def AccOp.inLq : AccOp → Bool
  | .store _ => false
  | _ => true
/-- Whether an access occupies SQ. -/
def AccOp.inSq : AccOp → Bool
  | .load _ _ _ => false
  | .tdRec _ => false
  | _ => true
/-- Whether an access performs as a load of LQ. -/
def AccOp.isLoad : AccOp → Bool
  | .load _ _ _ => true
  | .tdRec _ => true
  | _ => false
/-- Whether an access is a plain store. -/
def AccOp.isStore : AccOp → Bool
  | .store _ => true
  | _ => false
/-- Whether an access is an atomic (R255). -/
def AccOp.isAtomic : AccOp → Bool
  | .amo _ _ _ _ _ _ => true
  | .barArr _ _ _ => true
  | _ => false
/-- Whether an access is a write, which a release waits for (R275). -/
def AccOp.isWrite : AccOp → Bool
  | .store _ => true
  | .amo _ _ _ _ _ _ => true
  | .barArr _ _ _ => true
  | _ => false
/-- Whether no younger access performs before this one (R180, R280, R281, R283, R286). -/
def AccOp.blocks : AccOp → Bool
  | .fence _ _ _ => true
  | .acquire _ => true
  | .align => true
  | .cacheOp _ _ _ => true
  | .amo _ _ _ _ acq _ => acq
  | _ => false
/-- Whether no younger engine command is pushed before this one (R280). -/
def AccOp.holdsPush : AccOp → Bool
  | .fence _ acq _ => acq
  | .acquire _ => true
  | .amo _ _ _ _ acq _ => acq
  | _ => false

/-- Whether a release of an access is still to be made: no younger store leaves SQ before it (R277). -/
def Acc.releasing (x : Acc) : Bool :=
  x.stage == .waiting &&
    (match x.op with
      | .amo _ _ _ rel _ _ => rel
      | .barArr _ _ _ => true
      | _ => false)

/-- Whether LQ has no room. -/
def Core.lqFull (c : Core) : Bool := 32 ≤ (c.acc.filter (·.op.inLq)).length
/-- Whether SQ has no room. -/
def Core.sqFull (c : Core) : Bool := 32 ≤ (c.acc.filter (·.op.inSq)).length
/-- Whether every older access has performed. -/
def Core.quiet (c : Core) : Bool := c.acc.isEmpty
/-- Whether an acquire that holds back engine pushes is still to come (R280). -/
def Core.pushHeld (c : Core) : Bool := c.acc.any (·.op.holdsPush)

/-- Whether a load into a descriptor slot is still to perform: an instruction that names the slot waits for it (R87). -/
def Core.slotBusy (c : Core) (n : Nat) : Bool := c.acc.any (fun x => x.op == .tdRec n)

/-- Whether two accesses name a common byte. -/
def Acc.meets (x y : Acc) : Bool :=
  x.pad == y.pad && x.path.pa < y.path.pa + y.size && y.path.pa < x.path.pa + x.size

/-! Forwarding and order (R181, R277). -/

/-- What an access in SQ makes of an address: nothing, a byte of a store, or something that is known once it has left SQ (a
nibble, R179, or a poisoned word, R346). -/
inductive InSq where
  | no
  | byte (v : Nat)
  | later
  deriving DecidableEq, Repr

/-- What a store makes of an address. -/
def Acc.byteAt (x : Acc) (a : Nat) : InSq :=
  if x.path.pa ≤ a && a < x.path.pa + x.size then
    match x.op with
    | .store none => if x.bad.isSome then .later else .byte (x.data / 256 ^ (a - x.path.pa) % 256)
    | .store (some _) => .later
    | _ => .no
  else .no

/-- The bytes of a load forwarded from older stores, each from the youngest that writes it: none unless every byte is
written whole by it (R181). -/
def forwarded (older : List Acc) (x : Acc) : Option Nat :=
  let st := (older.filter (fun y => y.pad == x.pad && y.op.isStore)).reverse
  let at' (a : Nat) : InSq := ((st.map (fun y => y.byteAt a)).find? (· != .no)).getD .no
  (List.range x.size).foldr
    (fun i acc =>
      match acc, at' (x.path.pa + i) with
      | some v, .byte b => some (b + 256 * v)
      | _, _ => none)
    (some 0)

/-- Whether access `j` may perform past the older ones, `x` being it: no barrier of any kind among them, no atomic of
its bytes, and for a load no load still to perform (LQ order), for a store no store (SQ order). A store waits for the
older loads of its bytes (assumption 15), and for every older release (R277). -/
def mayPass (older : List Acc) (x : Acc) : Bool :=
  !(older.any (fun y => y.op.blocks || (y.op.isAtomic && y.meets x)
    || (x.op.isLoad && y.op.isLoad && y.stage != .performed)
    || (x.op.isStore && (y.op.isStore || y.releasing || (y.op.isLoad && y.stage != .performed && y.meets x)))))

/-- The caches of an access of a core; HINT 2 does not allocate (R178). -/
def State.accPath (s : State) (g : Nat) (x : Acc) : List CacheId :=
  if x.hint = 2 then s.pathNoAlloc g x.path else s.pathOf g x.path

/-- Whether a load or a store waits for a link that retrains (R347). -/
def State.accHeld (s : State) (g : Nat) (x : Acc) : Bool := !x.pad && s.held (dieOf g) x.path x.op.isStore (s.accPath g x)

/-- Before an access with HINT 2 its local-store cache gives up a sector it holds under another key (R253). -/
def State.beforeAcc (s : State) (g : Nat) (x : Acc) : State :=
  if x.hint = 2 && !x.pad then s.beforeNoAlloc g x.path else s

/-- A line that an access has brought into the local-store cache is a first candidate for eviction under HINT 1 (R178). -/
def State.noteHint (s : State) (g : Nat) (x : Acc) (had : Bool) : State :=
  let line := x.path.pa / 128
  if had || x.pad || (x.hint != 1 && (s.core g).lscFirst.isEmpty) then s
  else
    s.modCore g (fun c =>
      let l := c.lscFirst.filter (· != line)
      { c with lscFirst := if x.hint = 1 then line :: l else l })

/-- Whether the local-store cache of a core holds the line of an access. -/
def State.hasLine (s : State) (g : Nat) (x : Acc) : Bool :=
  (s.cached (.lsc g) (x.path.pa / 128 * 2)).isSome || (s.cached (.lsc g) (x.path.pa / 128 * 2 + 1)).isSome

/-- The bytes an access reads at its storage; a poisoned word of its LQ entry poisons them (R346). -/
def State.readAcc (s : State) (g : Nat) (x : Acc) : Except (BitVec 6) Nat × State :=
  if let some e := x.bad then (.error e, s)
  else if x.pad then
    match (s.core g).padPoison x.path.pa x.size with
    | some e => (.error e, s)
    | none => (.ok ((s.core g).padRead x.path.pa x.size), s)
  else
    let s := s.beforeAcc g x
    let (r, t) := s.readPath (s.partOf g) x.path x.size (s.accPath g x)
    (r, t.noteHint g x (s.hasLine g x))

/-! The storages of an atomic (R255). -/

/-- The storages an atomic at a scope sees, first the one it is performed at (R255). -/
def State.atomicPath (s : State) (g sc : Nat) (p : Path) : List CacheId :=
  if sc = 0 then s.pathOf g p
  else if sc = 2 && p.home != dieOf g && p.ccls ≤ 1 then [.rdc (dieOf g), .l2]
  else [.l2]

/-- Team scope resolves to die when every member runs on the task's die, else to device (R276). -/
def State.scopeOf (s : State) (g sc : Nat) : Nat :=
  if sc = 1 then
    match (s.core g).teamKey with
    | none => 3
    | some k =>
      match (s.part (s.core g).part).teams.find? (fun t => t.key = k) with
      | none => 3
      | some t => if t.members.all (fun m => dieOf m = dieOf g) then 2 else 3
  else sc

/-- A barrier word after an arrival (R284, R285), or none where its reserved bits are not zero. -/
def barNew (w n : Nat) (err : Option Nat) : Option Nat :=
  if w / 2 ^ 54 % 2 ^ 9 ≠ 0 then none
  else
    let count := w % 2 ^ 32
    let gen := w / 2 ^ 32 % 2 ^ 16
    let full := decide (n ≤ count + 1)
    let e := w / 2 ^ 63 % 2
    let ec := w / 2 ^ 48 % 64
    let (e', ec') := match err with
      | none => (e, ec)
      | some c => (1, if e = 0 then c else ec)
    some ((if full then 0 else count + 1) + (if full then (gen + 1) % 2 ^ 16 else gen) * 2 ^ 32 + ec' * 2 ^ 48 + e' * 2 ^ 63)

/-! Performing a store and an atomic. -/

/-- Record a sector as written since the last system release (R275). -/
def Core.noteSec (c : Core) (pa : Nat) : Core :=
  if c.sysSecs.contains (pa / 64) then c else { c with sysSecs := (pa / 64) :: c.sysSecs }

/-- A store whose word in SQ was poisoned has written poison (R346). -/
def State.spoilAcc (s : State) (g : Nat) (x : Acc) : State :=
  match x.bad with
  | none => s
  | some e =>
    if x.pad then s.modCore g (fun c => { c with padP := tput none c.padP (x.path.pa / 8) (some e) })
    else s.spoilAt (x.path.pa / 64) (someWords (byteMask (x.path.pa % 64) x.size)) e (s.accPath g x)

/-- The bytes of a store reach its storage. -/
def State.writeBytes (s : State) (g : Nat) (x : Acc) (nib : Option Bool) : State :=
  if x.pad then
    s.modCore g (fun c =>
      match nib with
      | none => c.padWrite x.path.pa (natToBytes x.size x.data)
      | some hi =>
        let old := c.padRead x.path.pa 1
        c.padWrite x.path.pa [BitVec.ofNat 8 (if hi then old % 16 + 16 * (x.data % 16) else old / 16 * 16 + x.data % 16)])
  else
    let s := s.beforeAcc g x
    let t := match nib with
      | none => s.writePath (s.partOf g) x.path x.size x.data (s.accPath g x)
      | some hi => s.writeNibble (s.partOf g) x.path hi x.data (s.accPath g x)
    (t.noteHint g x (s.hasLine g x)).modCore g (·.noteSec x.path.pa)

/-- The write of a store at its storage. -/
def State.writeAcc (s : State) (g : Nat) (x : Acc) (nib : Option Bool) : State := (s.writeBytes g x nib).spoilAcc g x

/-- What R255 writes back and invalidates before an atomic. -/
def State.beforeAtomic (s : State) (g sc sec : Nat) : State :=
  let s := if sc = 0 then s else s.flushSec (.lsc g) sec
  if 3 ≤ sc then s.writeBack (.rdc (dieOf g)) sec else s

/-- The new word of an atomic, if one is written (R283): `x` old, `y` value B, `z` value C. -/
def amoNew (fn : Nat) (uns : Bool) (w x y z : Nat) : Option Nat :=
  let sx := readInt w uns x
  let sy := readInt w uns y
  match fn with
  | 0 => some ((x + y) % 2 ^ w)
  | 1 => some (if sx ≤ sy then x else y)
  | 2 => some (if sx ≥ sy then x else y)
  | 3 => some (x &&& y)
  | 4 => some (x ||| y)
  | 5 => some (x ^^^ y)
  | 6 => some y
  | _ => if x = y then some z else none

/-- The scope of an atomic. -/
def AccOp.atomScope : AccOp → Nat
  | .amo _ _ sc _ _ _ => sc
  | .barArr _ _ sc => sc
  | _ => 0

/-- What an atomic makes of the old word: the word it writes, if it writes one; the reserved bits of a barrier word trap
(R283, R285). -/
def Acc.atomNew (x : Acc) (old : Nat) : Except Cause (Option Nat) :=
  match x.op with
  | .amo fn uns _ _ _ z => .ok (amoNew fn uns (8 * x.size) old (x.data % 2 ^ (8 * x.size)) (z % 2 ^ (8 * x.size)))
  | .barArr n err _ =>
    match barNew old n err with
    | none => .error { code := cOPERAND }
    | some v => .ok (some v)
  | _ => .ok none

/-- One access of an atomic at the storage of R255: the old word, and the state with the new one. An atomic that a younger
effect has passed takes the word it was to read then where the word traps by now (R147, assumption 15). -/
def State.atomicAt (s : State) (g : Nat) (x : Acc) : Except Cause Nat × State :=
  let sc := s.scopeOf g x.op.atomScope
  let t := s.beforeAtomic g sc (x.path.pa / 64)
  let cs := t.atomicPath g sc x.path
  let (r, t) := t.readPath (s.partOf g) x.path x.size cs
  let now : Except Cause (Nat × Option Nat) :=
    match x.bad, r with
    | some e, _ => .error { code := cPOISON, ecode := e.toNat, addr := x.addr }
    | none, .error e => .error { code := cPOISON, ecode := e.toNat, addr := x.addr }
    | none, .ok old => (x.atomNew old).map (fun v => (old, v))
  let got : Except Cause (Nat × Option Nat) :=
    match now, x.early with
    | .error _, some old => (x.atomNew old).map (fun v => (old, v))
    | r, _ => r
  match got with
  | .error c => (.error c, t)
  | .ok (old, none) => (.ok old, t)
  | .ok (old, some v) => (.ok old, (t.writeHeld x.path x.size v cs).modCore g (·.noteSec x.path.pa))

/-! No effect before an older instruction that traps (R147; assumption 15). -/

/-- What the older stores and atomics of its bytes will have made of the storages once access `x` performs. -/
def State.afterOlder (s : State) (g : Nat) (older : List Acc) (x : Acc) : State :=
  older.foldl (fun s y =>
    match y.op with
    | .store nib => if y.meets x then s.writeAcc g y nib else s
    | .amo _ _ _ _ _ _ => if y.meets x && y.stage != .performed then (s.atomicAt g y).2 else s
    | .barArr _ _ _ => if y.meets x then (s.atomicAt g y).2 else s
    | _ => s) s

/-- What access `x` behind some older ones would read, were they and it to perform now; none where it would trap. -/
def State.wouldRead (s : State) (g : Nat) (older : List Acc) (x : Acc) : Option Nat :=
  let t := s.afterOlder g older x
  if x.op.isLoad then
    match forwarded older x with
    | some v => some v
    | none =>
      match (t.readAcc g x).1 with
      | .ok v => some v
      | .error _ => none
  else if x.op.isAtomic then
    match (t.atomicAt g { x with early := none }).1 with
    | .ok v => some v
    | .error _ => none
  else some 0

/-- Whether an access has read what it reads. -/
def Acc.hasRead (x : Acc) : Bool := x.stage == .performed

/-- Whether access `x` behind some older ones could trap if it were performed now: never one that a younger effect has
passed. -/
def State.wouldTrap (s : State) (g : Nat) (older : List Acc) (x : Acc) : Bool :=
  match x.op with
  | .store _ => !x.committed && !x.pad && s.refused x.path.home (s.accPath g x)
  | _ => x.early.isNone && !x.hasRead && (s.wouldRead g older x).isNone

/-- Whether some access among the `n` oldest of a core could trap if it were performed now: no younger instruction makes an
effect until it has been. -/
def State.mustTrap (s : State) (g n : Nat) : Bool :=
  let l := (s.core g).acc.take n
  (l.zipIdx).any (fun x => s.wouldTrap g (l.take x.2) x.1)

/-- An access as one that a younger effect has passed or is about to pass: one that reads keeps what it would read now. -/
def State.marked (s : State) (g : Nat) (older : List Acc) (x : Acc) : Acc :=
  let x := { x with committed := true }
  if x.hasRead || !(x.op.isLoad || x.op.isAtomic) then x
  else
    match s.wouldRead g older x with
    | some v => { x with early := some v }
    | none => x

/-- The `n` oldest accesses of a core as ones past which a younger effect is about to be made, all as of one moment. -/
def State.commitFirst (s : State) (g n : Nat) : State :=
  let l := (s.core g).acc.take n
  if l.isEmpty then s
  else s.modCore g (fun k => { k with acc := (l.zipIdx).map (fun x => s.marked g (l.take x.2) x.1) ++ k.acc.drop n })

/-- Those that a younger effect has passed keep what they would read now: one that performs later reads nothing older than
one before it has read (R181). -/
def State.remark (s : State) (g : Nat) : State := s.commitFirst g ((s.core g).acc.takeWhile (·.committed)).length

end Sys2Proof.Machine
end

