-- ==== Sys2Proof/Machine/Ops.lean ====
section
/-! DEFINITION. The named operations every meaning is written over: positions and results, the checks an instruction
passes before it acts, taking an exception (R76, R152, R153, R295 to R299, R308), returning from one (R307), and
ending a task. -/

namespace Sys2Proof.Machine

/-- The answer of a meaning. -/
abbrev Out := Host.Outcome State Fault Refusal

/-! Contexts. -/

/-- Whether the results of an instruction find no position any more (R65). The words of a template take those of the matched
instruction, which has been asked (R155). -/
def Ctx.full (c : Ctx) (n : Nat) : Bool := c.tmpl.isEmpty && 65535 < c.pos + n

/-- Count values into the innermost template. -/
def countMade (n : Nat) : List Tmpl → List Tmpl
  | [] => []
  | t :: ts => { t with made := t.made + n } :: ts

/-- Append results, in the order the entry lists them (R65). -/
def Ctx.push (c : Ctx) (vs : List Slot) : Ctx :=
  { c with vals := vs.reverse ++ c.vals, pos := c.pos + vs.length, tmpl := countMade vs.length c.tmpl }

/-- Past the last word of a template its last results take the matched instruction's positions and the others take
none (R155). -/
def Ctx.endTmpl (c : Ctx) (t : Tmpl) (ts : List Tmpl) : Ctx :=
  { c with
    vals := c.vals.take t.kinds.length ++ c.vals.drop t.made, pos := c.pos - t.made + t.kinds.length,
    tmpl := countMade t.kinds.length ts }

/-- Go on past an instruction of `len` words: in a block, to the word after it; in a template, to the template's next
word, or past the matched instruction. Templates stand at most two deep (R155). -/
def Ctx.advance (c : Ctx) (len : Nat) : Ctx :=
  match c.tmpl with
  | [] => { c with vpc := c.vpc + 8 * len }
  | t :: ts =>
    match t.rest with
    | _ :: x :: xs => { c with tmpl := { t with rest := x :: xs } :: ts }
    | _ =>
      let c := c.endTmpl t ts
      match c.tmpl with
      | [] => { c with vpc := c.vpc + 8 * t.len }
      | u :: us =>
        match u.rest with
        | _ :: x :: xs => { c with tmpl := { u with rest := x :: xs } :: us }
        | _ => { c.endTmpl u us with vpc := c.vpc + 8 * u.len }

/-- The context with its templates abandoned: their values take no position (R155). -/
def Ctx.dropTmpl (c : Ctx) : Ctx :=
  let n := (c.tmpl.map (·.made)).sum
  { c with vals := c.vals.drop n, pos := c.pos - n, tmpl := [] }

/-- The record of a trap at a context's instruction, of `len` words and with results of `kinds`: inside a template it
is the matched instruction that traps (R155). -/
def Ctx.pend (c : Ctx) (info : TrapInfo) (kinds : List Bool) (len : Nat) : TrapPend :=
  match c.tmpl.getLast? with
  | some t => { info := info, queue := none, cmdSeq := 0, kinds := t.kinds, len := t.len }
  | none => { info := info, queue := none, cmdSeq := 0, kinds := kinds, len := len }

/-- Deliver a result to the position that waits for it under `id`. -/
def deliver (vals : List Slot) (id : Nat) (v : Val) : List Slot :=
  vals.map (fun x => match x with
    | .pending k i => if i = id then .ready v else .pending k i
    | x => x)

/-- Deliver a result in the context of a core, and in the contexts it keeps. -/
def Core.deliver (c : Core) (id : Nat) (v : Val) : Core :=
  { c with
    ctx := { c.ctx with vals := Machine.deliver c.ctx.vals id v },
    acc := c.acc.map (fun x => { x with snap := { x.snap with vals := Machine.deliver x.snap.vals id v } }),
    emul := c.emul.map (fun e => { e with kept := { e.kept with vals := Machine.deliver e.kept.vals id v } }),
    svcKept := c.svcKept.map (fun k => { k with vals := Machine.deliver k.vals id v }) }

/-- Deliver results under `id`, `id + 1`, … -/
def Core.deliverAll (c : Core) (id : Nat) : List Val → Core
  | [] => c
  | v :: vs => (c.deliver id v).deliverAll (id + 1) vs

/-- Whether a slot holds, or waits for, a vector. -/
def slotVec : Slot → Bool
  | .ready v => v.isVec
  | .pending k _ => k

/-- NARG and KINDS of a block entered with some values (R68). -/
def blockHead (args : List Slot) : BitVec 21 :=
  BitVec.ofNat 21 (args.length + 32 * ((args.zipIdx).map (fun x => if slotVec x.1 then 2 ^ x.2 else 0)).sum)

/-- Start a block at `vpc` with its arguments (R68). -/
def Ctx.enterBlock (c : Ctx) (vpc : Nat) (args : List Slot) : Ctx :=
  { c with vpc := vpc, blk := none, head := blockHead args, pos := args.length, vals := args.reverse, tmpl := [] }

/-- The context of an agent that executes instructions. -/
def State.ctxOf (s : State) (a : Agent) : Ctx :=
  match a with
  | .core g => (s.core g).ctx
  | .sfe p => (s.part p).sfe.ctx
  | _ => Ctx.reset

/-- Change the context of an agent. -/
def State.modCtx (s : State) (a : Agent) (f : Ctx → Ctx) : State :=
  match a with
  | .core g => s.modCore g (fun c => { c with ctx := f c.ctx })
  | .sfe p => s.modPart p (fun q => { q with sfe := { q.sfe with ctx := f q.sfe.ctx } })
  | _ => s

/-- Finish an instruction of `len` words: its results take the next positions and control goes on after it. -/
def State.retire (s : State) (a : Agent) (len : Nat) (vs : List Val) : State :=
  s.modCtx a (fun c => (c.push (vs.map .ready)).advance len)

/-- Values to be delivered later: one pending position for each kind, numbered from `id`. -/
def pendings (id : Nat) : List Bool → List Slot
  | [] => []
  | k :: ks => .pending k id :: pendings (id + 1) ks

/-! Patch slots (R151, R152). -/

/-- KIND of a slot. -/
def Patch.kind (p : Patch) : Nat := bitsNat p.ctrl 6 2
/-- PRIO of a slot. -/
def Patch.prio (p : Patch) : Nat := bitsNat p.ctrl 3 3
/-- ACTION of a slot. -/
def Patch.action (p : Patch) : Nat := bitsNat p.ctrl 8 4
/-- VALID of a slot. -/
def Patch.valid (p : Patch) : Bool := p.ctrl.getLsbD 0
/-- Whether PMASK holds a partition. -/
def Patch.forPart (p : Patch) (n : Nat) : Bool := p.ctrl.getLsbD (48 + n)
/-- Whether the slot matches a key. -/
def Patch.hits (p : Patch) (kind part : Nat) (key : Word) : Bool :=
  p.valid && p.kind == kind && p.forPart part && (key &&& p.mmask) == p.mval

/-- A slot of a die. -/
def State.patch (s : State) (d n : Nat) : Patch := tget Patch.reset (s.die d).patches n

/-- The slot of a table that acts on a key: highest PRIO, then lowest number (R152). -/
def slotFor (slots : Tab Patch) (part kind : Nat) (key : Word) : Option Nat :=
  let at' (n : Nat) : Patch := tget Patch.reset slots n
  (List.range 32).foldl
    (fun best n =>
      if (at' n).hits kind part key then
        match best with
        | none => some n
        | some b => if (at' b).prio < (at' n).prio then some n else best
      else best)
    none

/-- The slot of a die that acts on a key. -/
def State.patchFor (s : State) (d part kind : Nat) (key : Word) : Option Nat := slotFor (s.die d).patches part kind key

/-- The fault key of a KIND 1 match (R152). -/
def faultKey (vpc cause sub : Nat) : Word :=
  BitVec.ofNat 64 (((vpc / 8) % 2 ^ 45) * 2 ^ 16 + (sub % 256) * 256 + cause % 256)

/-- The event key of a KIND 2 match (R152): event 1 installed, 2 evicted, 3 HEAP fault, 4 discarded by `code.inv`. -/
def eventKey (vpc event : Nat) : Word := BitVec.ofNat 64 (((vpc / 8) % 2 ^ 45) * 2 ^ 16 + event)

/-! The trap queue (R299). -/

/-- Add to flag word f0 of the die's service core. -/
def State.svcSignal (s : State) (d : Nat) : State :=
  s.modCore (svcOf d) (fun c => c.setFlag 0 (flagAdd (c.flag 0) 1))

/-- A context's record always finds its place. -/
def State.queueRecord (s : State) (d : Nat) (t : TrapInfo) : State :=
  (s.modDie d (fun x => { x with trapq := x.trapq ++ [t] })).svcSignal d

/-- A note that finds the sixteen note places full is dropped and counted. -/
def State.queueNote (s : State) (d : Nat) (t : TrapInfo) : State :=
  if 16 ≤ ((s.die d).trapq.filter (·.note)).length then
    s.modDie d (fun x => { x with tqdrop := min (x.tqdrop + 1) 0xFFFF })
  else (s.modDie d (fun x => { x with trapq := x.trapq ++ [{ t with note := true }] })).svcSignal d

/-- A record with every field zero. -/
def TrapInfo.zero : TrapInfo :=
  { note := false, vpc := 0, npc := 0, cause := 0, sub := 0, ocause := 0, osub := 0, slot := none, ecode := 0, res := 0,
    qpos := 0, core := 0, part := 0, task := 0, mqn := 0, vqn := 0, cqn := 0, done := 0, started := 0, addr := 0,
    gtc := 0 }

/-- One bit for each command of a queue, head first. -/
def queueBits (f : Cmd → Bool) (l : List Cmd) : Nat :=
  l.foldr (fun c a => 2 * a + (if f c then 1 else 0)) 0

/-- A field of one bit per queue entry in the layout of R298. -/
def Core.qField (c : Core) (f : Cmd → Bool) : Nat :=
  queueBits f (c.mq.take 16) + queueBits f (c.vq.take 32) * 2 ^ 16 + queueBits f (c.cq.take 16) * 2 ^ 48

/-- The record of a trap of a user core, before a patch slot looks at it. A marker that waits behind a full CQ is not counted
(R298; assumption 44). -/
def State.mkInfo (s : State) (g : Nat) (c : Cause) (vpc npc res qpos : Nat) : TrapInfo :=
  let k := s.core g
  { note := false, vpc := vpc, npc := npc, cause := c.code, sub := if c.code = cTRANSLATE then c.sub else 0,
    ocause := 0, osub := 0, slot := none, ecode := c.ecode, res := res, qpos := qpos, core := g, part := k.part,
    task := (k.task.map (·.idx)).getD 0, mqn := k.mq.length, vqn := k.vq.length, cqn := min k.cq.length 16,
    done := k.qField (·.done), started := k.qField (·.started), addr := c.addr, gtc := (s.die (dieOf g)).gtc }

/-! What the sequencer knows of its engines (R202, R220, R224). -/

/-- The shape and references a bank takes from a command's matrix operands. -/
def scaleRef (d : Desc) : ScaleRef := { scaled := d.scaled, fmt32 := d.scale32, base := if d.scaled then d.scalebase else 0 }

/-- The accumulator mode of a format pair, none where R39 does not list it. -/
def mmModeOf (a b : Nat) : Option BankMode :=
  let narrow (t : Nat) : Bool := t == 7 || t == 8
  if (a = 2 && b = 2) || (a = 1 && b = 1) then some .int
  else if (a = 2 && b = 12) || (a = 12 && b = 2) then some .scaled
  else if (narrow a && b = 12) || (a = 12 && narrow b) then some .fp
  else if (narrow a && (narrow b || b = 2)) || (a = 2 && narrow b) then some .fp
  else if (a = 6 && b = 6) || (a = 11 && b = 11) then some .fp
  else if (a = 9 || a = 10) && (b = 9 || b = 10) then some .fp
  else none

/-- What the sequencer's view in program order takes from a push (R202, R220, R224). -/
def Core.noteView (c : Core) (k : Cmd) : Core :=
  match k.instr with
  | .portSet f => { c with pview := tput .unbound c.pview (bitsNat f.mod 0 3) .read }
  | .portSetW f => { c with pview := tput .unbound c.pview (bitsNat f.mod 0 3) .write }
  | .portRstOff f => { c with pview := tput .unbound c.pview (bitsNat f.mod 0 3) .unbound }
  | .chanCfg f => { c with cview := tput none c.cview (bitsNat f.mod 22 2) (some { snk := f.ty.toNat, mod := f.mod }) }
  | .mmGang f =>
    { c with gview := some ((match k.ops with
        | .ready (.scalar w) :: _ => w.toNat
        | _ => 0), 2 * bitsNat f.efl 0 2) }
  | .mmGangOff _ => { c with gview := none }
  | .mm f =>
    let a := Desc.of ((k.desc[0]?).getD 0)
    let b := Desc.of ((k.desc[1]?).getD 0)
    let mode := match mmModeOf a.fmt b.fmt with
      | some m => m
      | none => .fp
    c.setBview (f.efl.getLsbD 0) { mode := some mode, m := a.n1, n := b.n0, refA := scaleRef a, refB := scaleRef b }
  | _ => c

/-- The view of a bank that holds what the bank does. -/
def Bank.view (b : Bank) : BankView := { mode := b.mode, m := b.m, n := b.n, refA := b.refA, refB := b.refB }

/-- The sequencer's view once more, from what the engines hold and the commands still queued or in flight. -/
def Core.review (c : Core) : Core :=
  let c := { c with
    pview := (List.range 8).foldl (fun t n => tput .unbound t n (c.port n).dir) [],
    cview := (List.range 4).foldl (fun t n => tput none t n (c.chan n).cfg) [],
    bview0 := c.bank0.view, bview1 := c.bank1.view, gview := c.gang }
  ((c.mq ++ c.vq ++ c.cq).filter (fun k => !k.done)).foldl (fun c k => c.noteView k) c

/-! Gangs and teams (R210, R289). -/

/-- Seal the bridle columns of the sectors of a gang: their latches lose their valid bits (R324). -/
def State.sealGang (s : State) (d : Nat) (x : Gang) : State :=
  (List.range x.width).foldl
    (fun s i =>
      let g := coreAt d x.row (x.west + i)
      s.setSector g { s.sector g with latch := [] })
    s

/-- Whether a command is the running `mm` of a gang. -/
def Cmd.runsIn (k : Cmd) (gang : Option (Nat × Nat)) : Bool :=
  k.started && !k.done && k.gang.isSome && k.gang == gang && (match k.instr with
    | .mm _ => true
    | _ => false)

/-- The running `mm` of an east member keeps the elements of A that had come over the bridle columns when they were sealed:
what its west member reads from then on stays out of them (R210, R324). -/
def State.keepBridled (s : State) (d : Nat) (x : Gang) : State :=
  let west := coreAt d x.row x.west
  match (s.core west).mq.find? (·.runsIn (s.core west).gang) with
  | none => s
  | some kw =>
    (x.members.filter (· != west)).foldl (fun s m =>
      s.modCore m (fun c =>
        { c with mq := c.mq.map (fun k => if k.runsIn c.gang then { k with aBuf := kw.aBuf, aOver := kw.aOver } else k) })) s

/-- Dissolve the gang a core belongs to, if any: the other members' next ganged command traps TEAM (R210). -/
def State.dissolveGang (s : State) (g : Nat) : State :=
  let d := dieOf g
  match (s.die d).gangs.find? (fun x => x.members.contains g) with
  | none => s.modCore g (fun c => { c with gang := none })
  | some x =>
    let s := s.modDie d (fun k => { k with gangs := k.gangs.filter (fun y => y != x) })
    let s := (s.keepBridled d x).sealGang d x
    x.members.foldl (fun s m => s.modCore m (fun c => { c with gang := none, gangOff := m != g }.review)) s

/-- Whether a team is broken: it became complete and a member has left (R287). -/
def Team.broken (t : Team) : Bool := t.complete && t.members.length < t.count

/-- Take a core out of its team (R289); the record dies with its last member. Leaving dissolves its gang. -/
def State.leaveTeam (s : State) (g : Nat) : State :=
  let p := (s.core g).part
  let s := s.dissolveGang g
  let out (l : List Team) : List Team := l.map (fun t => { t with members := t.members.filter (· != g) })
  let s := s.modPart p (fun q => { q with teams := (out q.teams).filter (fun t => !t.members.isEmpty) })
  s.modCore g (fun c => { c with team := none, teamKey := none })

/-! Tasks of an entry (R92, R340). -/

/-- Change the window entry a core's task belongs to, if it is still there. -/
def State.modTaskEntry (s : State) (g : Nat) (f : Entry → Task → Entry) : State :=
  let c := s.core g
  match c.task with
  | none => s
  | some t =>
    match s.entry c.part t.entry with
    | some e => if e.uid = t.uid then s.setEntry c.part t.entry (some (f e t)) else s
    | none => s

/-- The task of a core completes (R163 step 7, R340): its bit is set unless it has ever trapped. -/
def State.taskDone (s : State) (g : Nat) : State :=
  s.modTaskEntry g (fun e t =>
    { e with bitmap := if e.failed.contains t.idx then e.bitmap else tput false e.bitmap t.idx true,
             redone := if e.failed.contains t.idx && !e.redone.contains t.idx then e.redone ++ [t.idx] else e.redone,
             out := e.out.filter (· != t.idx), trigs := tput false e.trigs t.idx true })

/-- The task of a core ends without completing: its entry counts it as trapped (R92, R302). -/
def State.taskTrapped (s : State) (g : Nat) (info : TrapInfo) : State :=
  s.modTaskEntry g (fun e t =>
    { e with trapped := e.trapped ++ [(t.idx, info)], failed := e.failed ++ [t.idx], out := e.out.filter (· != t.idx) })

/-- Kill the context of a core (R300, R302): the cause of a pending trap stands, else ERRBIT with ECODE 6. Commands
already started go on until the scrub; the copy tags become FREE (R264). -/
def State.killCore (s : State) (g : Nat) : State :=
  let c := s.core g
  let info := match c.trap with
    | some t => t.info
    | none => s.mkInfo g { code := cERRBIT, ecode := 6 } c.ctx.vpc c.ctx.vpc 0 0
  let s := s.taskTrapped g info
  let s := s.leaveTeam g
  s.modCore g (fun c =>
    { c with cstate := .killed, stopped := c.stopped || c.cstate == .frozen, wait := none, trap := none, tags := [],
             emul := none, hold := false, loaded := false })

/-! Taking an exception. -/

/-- Every access of a core as one past which a younger effect, or a report, is about to be made (R147). Assumption 15. -/
def State.commitAll (s : State) (g : Nat) : State := s.commitFirst g (s.core g).acc.length

/-- Whether a trap is one of a command: the sequencer then stops where it is, in a wait too, and goes on from there
(R296, R302). -/
def TrapPend.ofCmd (p : TrapPend) : Bool := p.queue.isSome

/-- Put a user core into TRAPPED with a record, which is queued to its die (R296, R299); the drain of a draining
core is abandoned, and a gang it is in dissolves (R210). An error that still waits to be taken goes on waiting. -/
def State.report (s : State) (g : Nat) (info : TrapInfo) (pend : TrapPend) (cres : List Word) : State :=
  let s := if pend.ofCmd then s else s.commitAll g
  let s := s.queueRecord (dieOf g) info
  let s := s.dissolveGang g
  s.modCore g (fun c =>
    { c with cstate := .trapped, wait := if pend.ofCmd then c.wait else none, trap := some pend,
             cres := tputs 0 [] 0 cres, ctx := if pend.ofCmd then c.ctx else c.ctx.dropTmpl })

/-- A zero of a kind. -/
def zeroVal (isVec : Bool) : Val := if isVec then .vector 0 else .scalar 0

/-- Remove a command from a queue. -/
def Core.dropCmd (c : Core) (q : Eng) (seq : Nat) : Core := c.setQueue q ((c.queue q).filter (fun k => k.seq != seq))

/-- Drop the completed commands at the head of a queue. -/
def Core.popDone (c : Core) (q : Eng) : Core := c.setQueue q ((c.queue q).dropWhile (·.done))

/-- Count a trapping command as completed with the given results: results already delivered keep their values; the tag of
a copy command goes to DONE without error (R302). -/
def Core.completeCmd (c : Core) (q : Eng) (seq : Nat) (vs : List Val) : Core :=
  match (c.queue q).find? (fun k => k.seq = seq) with
  | none => c
  | some k =>
    let c := match k.tag with
      | some t => c.setTag t { c.tag t with st := .done, err := false, ecode := 0 }
      | none => c
    (((c.deliverAll k.dest vs).dropCmd q seq).popDone q).review

/-- Count a trapping instruction or command as completed with the given results (R302 RESUME, R153 SUPPRESS). -/
def Core.complete (c : Core) (pend : TrapPend) (vs : List Val) : Core :=
  match pend.queue with
  | none => { c with ctx := (c.ctx.dropTmpl.push (vs.map .ready)).advance pend.len, late := false }
  | some q => c.completeCmd q pend.cmdSeq vs

/-- Pack the stochastic states an EMULATE routine puts back when it is abandoned (R337). -/
def Core.srPack (c : Core) : BitVec 96 := c.srv ++ c.srm ++ c.src

/-- What the operands of an emulated instruction took of the channels and the ports it names (R337): `c` before, `c'`
after. -/
def Core.taken (c c' : Core) : List (Nat × Chan × Nat) × List (Nat × Nat) :=
  (((List.range 4).filter (fun q => c.chan q != c'.chan q)).map
      (fun q => (q, c.chan q, (c.chan q).ents.length - (c'.chan q).ents.length)),
    ((List.range 8).filter (fun n => c.port n != c'.port n)).map (fun n => (n, (c.port n).pos)))

/-- Enter an EMULATE routine in place of an instruction or of a report (R156). The kept context is that of the
instruction, in its template where it is a template's word. -/
def Core.enterRoutine (c : Core) (slot : Nat) (word : Word) (len : Nat) (kinds : List Bool) (fault : Option TrapPend)
    (entry : Nat) (args : List Slot) : Core :=
  { c with
    emul := some { slot := slot, word := word, len := len, kinds := kinds, sr := c.srPack,
                   kept := if (fault.map (fun p => !p.ofCmd)).getD false then c.ctx.dropTmpl else c.ctx,
                   chans := [], ports := [], seq := c.seq, fault := fault,
                   wait := if (fault.map (·.ofCmd)).getD false then c.wait else none },
    ctx := { Ctx.reset with rets := [] }.enterBlock entry args, wait := none }

/-- The stopped commands go on, and the tags of stopped copies are ACTIVE again (R264, R302). -/
def Core.unstop (c : Core) : Core :=
  let on (l : List Cmd) : List Cmd := l.map (fun k => { k with stopped := false })
  let c := (c.cq.filterMap (·.tag)).foldl (fun c t =>
    if (c.tag t).st == TagState.stopped then c.setTag t { c.tag t with st := .active } else c) c
  { c with mq := on c.mq, vq := on c.vq, cq := on c.cq }

/-- A channel with the entries that operands took from it put back at its head (R337): `k` entries of `was`. -/
def Chan.giveBack (c was : Chan) (k : Nat) : Chan :=
  { c with
    ents := was.ents.take k ++ c.ents, held := was.held, popped := was.popped,
    spoilt := was.spoilt.filter (fun x => x.1 < k) ++ c.spoilt.map (fun x => (x.1 + k, x.2)) }

/-- The accesses of a core without the loads of its routine; those that stay return to the kept context when they trap
(R157). -/
def dropLoads (kept : Ctx) (l : List Acc) : List Acc :=
  (l.filter (fun x => !((x.snap.blk.map (·.routine)).getD false && (match x.op with
    | .load _ _ _ => true
    | _ => false)))).map (fun x => if (x.snap.blk.map (·.routine)).getD false then { x with snap := kept } else x)

/-- Abandon the routine of a core (R157, R337): the context is again at the matched instruction, what its operands
popped is back, its unstarted commands are gone with its loads, and the sequencer's view is that without them. A command whose
fault it stood for is offered again. -/
def Core.abandon (c : Core) : Core :=
  match c.emul with
  | none => c
  | some e =>
    let keep (l : List Cmd) : List Cmd := l.filter (fun k => k.seq < e.seq || k.started)
    let c := e.chans.foldl (fun c x =>
      c.setChan x.1 ((c.chan x.1).giveBack x.2.1 x.2.2)) c
    let c := e.ports.foldl (fun c x => c.setPort x.1 { c.port x.1 with pos := x.2 }) c
    let ofCmd := (e.fault.map (·.ofCmd)).getD false
    let c := if ofCmd then c.unstop else c
    Core.review { c with
      ctx := if ofCmd then e.kept else e.kept.dropTmpl, acc := dropLoads (if ofCmd then e.kept else e.kept.dropTmpl) c.acc,
      emul := none, wait := e.wait, mq := keep c.mq, vq := keep c.vq,
      cq := keep c.cq, srv := e.sr.extractLsb' 64 32, srm := e.sr.extractLsb' 32 32, src := e.sr.extractLsb' 0 32 }

/-- The service address of a routine of a slot: TARGET is its offset in the routine area (R151, R156). -/
def Patch.routine (p : Patch) : Nat := p.rbase + p.target.toNat

/-- A slot as the block of an agent was lowered under it (R152). -/
def State.slotAt (s : State) (a : Agent) (n : Nat) : Patch :=
  tget Patch.reset (((s.ctxOf a).blk.map (·.slots)).getD []) n

/-- NARG and KINDS of an `enter` word (R68). A word of OP 0x01 that is ILLEGAL as an `enter` is none, whatever its NARG and
KINDS, so that a branch to it is CARRY (assumption 44). -/
def enterKinds (w : Word) : Option (List Bool) :=
  match decode [w] with
  | .ok (.enter f, _) => some ((List.range (bitsNat f.mod 0 5)).map (fun i => f.mod.getLsbD (5 + i)))
  | _ => none

/-- The kinds a routine's entry block declares, read in pinned service memory (R156, R377). -/
def State.routineKinds (s : State) (d va : Nat) : Option (List Bool) :=
  match s.walk (s.die d).svcRoot va with
  | .error _ => none
  | .ok (pte, bits) =>
    match s.peekWord (leafPath pte bits va).pa with
    | .ok w => enterKinds w
    | .error _ => none

/-- PATCHFAULT (R157): the routine is abandoned, a record of it is queued, and the device kills the context. -/
def State.patchFault (s : State) (g : Nat) (e : Emul) (c : Cause) (vpc : Nat) : State :=
  let s := s.modCore g (·.abandon)
  let i := { s.mkInfo g { code := cPATCHFAULT, ecode := c.ecode, addr := vpc } e.kept.vpc e.kept.vpc 0 0 with
    ocause := c.code, osub := c.sub, slot := some e.slot }
  let s := s.queueRecord (dieOf g) i
  let s := s.modCore g (fun k =>
    { k with trap := some { info := i, queue := none, cmdSeq := 0, kinds := [], len := 0 }, cres := [] })
  s.killCore g

/-- Run a routine in place of an instruction or a report (R156). Arguments of other kinds than its entry block declares
are PATCHFAULT (R337). -/
def State.callRoutine (s : State) (g slot : Nat) (p : Patch) (word : Word) (len : Nat) (kinds : List Bool)
    (fault : Option TrapPend) (args : List Slot) : State :=
  let s := s.modCore g (fun c => c.enterRoutine slot word len kinds fault p.routine args)
  if s.routineKinds (dieOf g) p.routine == some (args.map (fun x => match x with
      | .ready v => v.isVec
      | .pending k _ => k)) then s
  else
    match (s.core g).emul with
    | some e => s.patchFault g e { code := cPATCHFAULT } (s.core g).ctx.vpc
    | none => s

/-- A trap of a user core (R76, R296), seen first by the KIND 1 slots of its die (R152, R153). `pend` carries the
report. An SVC trap is never matched (R306). -/
def State.trapMatched (s : State) (g : Nat) (pend : TrapPend) (cres : List Word) : State :=
  let d := dieOf g
  let i := pend.info
  match (if i.cause = cSVC then none else s.patchFor d i.part 1 (faultKey i.vpc i.cause i.sub)) with
  | none => s.report g i pend cres
  | some n =>
    let p := s.patch d n
    if p.action = 2 then
      let key := faultKey i.vpc i.cause i.sub
      let args : List Slot := [.ready (.scalar key), .ready (.scalar (BitVec.ofNat 64 i.vpc)), .ready (.scalar 0),
        .ready (.scalar 0), .ready (.scalar 0)]
      s.callRoutine g n p key pend.len pend.kinds (some pend) args
    else if p.action = 3 then
      s.modCore g (fun c => { c.complete pend (pend.kinds.map zeroVal) with wait := if pend.ofCmd then c.wait else none })
    else
      let i' :=
        if p.action = 4 then
          { i with cause := bitsNat p.target 0 8, sub := bitsNat p.target 8 8, ocause := i.cause, osub := i.sub,
                   slot := some n }
        else { i with cause := cPATCHTRAP, sub := 0, ocause := i.cause, osub := i.sub, slot := some n }
      s.report g i' { pend with info := i' } cres

/-- Trouble in an EMULATE routine (R157): a page or protection fault on user data is a trap of the matched instruction,
or of the one whose report the routine stood for; anything else is PATCHFAULT. -/
def State.routineTrouble (s : State) (g : Nat) (e : Emul) (c : Cause) (vpc : Nat) : State :=
  if (c.code = cPAGE || c.code = cPROT) && !c.noData then
    let s := s.modCore g (·.abandon)
    match e.fault with
    | some pend => s.trapMatched g { pend with info := s.mkInfo g c pend.info.vpc pend.info.npc 0 0 } []
    | none => s.trapMatched g (e.kept.pend (s.mkInfo g c e.kept.vpc e.kept.vpc 0 0) e.kinds e.len) []
  else s.patchFault g e c vpc

/-- A trap in service code (R308): SEPC, SCAUSE and SADDR are written, the block's state is kept, and the block at
STVEC starts. A trap inside the handler stops the service core, which is reported to the board manager. `vpc` is the
trapping instruction's; `cmd` its queue and place in program order where it is an engine command. -/
def State.svcTrap (s : State) (g : Nat) (c : Cause) (kinds : List Bool) (len vpc : Nat) (cmd : Option (Eng × Nat)) : State :=
  let k := s.core g
  match k.svcKept with
  | some _ =>
    { s.modCore g (fun k => { k with svcStop := true, wait := none }) with
      board := s.board ++ [[BitVec.ofNat 8 (dieOf g), BitVec.ofNat 8 c.code]] }
  | none =>
    (if cmd.isSome then s else s.commitAll g).modCore g (fun k =>
      { k with
        svcCmd := cmd.map (fun x => (x.1, x.2, vpc)), svcSeq := k.seq, svcLate := k.late, late := false,
        sepc := BitVec.ofNat 64 vpc, scause := BitVec.ofNat 64 (c.code % 256 + (c.sub % 256) * 256),
        saddr := BitVec.ofNat 64 c.addr, svcKept := some k.ctx.dropTmpl, svcKinds := kinds, svcLen := len, wait := none,
        ctx := Ctx.reset.enterBlock k.stvec.toNat [] })

/-- The exit status of a stream that the device ends (R355, R356). -/
def badExit : Word := BitVec.allOnes 64

/-- A stream instruction executed at decode meets a trap (R91): it is reported once every older window entry has
retired. In handler mode it ends the stream (R355). -/
def State.sfeTrap (s : State) (p : Nat) (c : Cause) : State :=
  s.modPart p (fun q =>
    { q with sfe := { q.sfe with
        ctx := q.sfe.ctx.dropTmpl,
        wait := if q.sfe.hmode.isSome then .endStream badExit
          else .trap 2 c.code (if c.code = cTRANSLATE then c.sub else 0) q.sfe.ctx.vpc (BitVec.ofNat 6 c.ecode) } })

/-- Taking an exception at the current instruction of an agent (R76): the instruction has no effect, and the context
stops. `kinds` are the kinds of its results and `len` its words, for SUPPRESS and RESUME; `cres` what CRES0 to CRES3
receive; `res` and `qpos` the fields of a WAITBOUND record. -/
def State.trapAt (s : State) (a : Agent) (c : Cause) (kinds : List Bool) (len : Nat) (cres : List Word)
    (res qpos : Nat) : State :=
  match a with
  | .core g =>
    if isSvc g then s.svcTrap g c kinds len (s.core g).ctx.vpc none
    else
      let k := s.core g
      match k.emul with
      | some e => s.routineTrouble g e c k.ctx.vpc
      | none =>
        let i := s.mkInfo g c k.ctx.vpc k.ctx.vpc res qpos
        s.trapMatched g (k.ctx.pend i kinds len) cres
  | .sfe p => s.sfeTrap p c
  | _ => s

/-- The plain case of an exception. -/
def State.trap (s : State) (a : Agent) (c : Cause) (kinds : List Bool) (len : Nat) : State :=
  s.trapAt a c kinds len [] 0 0

/-- A command that had started and traps stops where it is. -/
def State.stopCmd (s : State) (g : Nat) (q : Eng) (k : Cmd) : State :=
  if q == .v then s
  else
    s.modCore g (fun x =>
      x.setQueue q ((x.queue q).map (fun y => if y.seq = k.seq then { y with stopped := y.stopped || y.started } else y)))

/-- A trap found by an engine at a command of its queue (R296): the sequencer's next instruction is the resume
point, and the command stays queued; one that had started stops where it is until the context runs again. A context that
has stopped already takes no other trap: it arises again then (R297). An older command's trap abandons a routine that the
sequencer is in, as a pre-emption does (R157). On a service core the trap of a command that the handler did not push waits
until the handler has returned (R308; assumption 44). -/
def State.trapCmd (s : State) (g : Nat) (q : Eng) (k : Cmd) (c : Cause) (res qpos : Nat) : State :=
  let s := s.stopCmd g q k
  if isSvc g then
    (if (s.core g).svcKept.isSome && k.seq < (s.core g).svcSeq then s else s.svcTrap g c k.kinds 0 k.vpc (some (q, k.seq)))
  else
    let x := s.core g
    if x.cstate != .run && x.cstate != .draining then s
    else
      match x.emul.filter (fun e => e.seq ≤ k.seq) with
      | some e => s.routineTrouble g e c k.vpc
      | none =>
        let s := s.modCore g (·.abandon)
        let i := s.mkInfo g c k.vpc (s.core g).ctx.vpc res qpos
        s.trapMatched g { info := i, queue := some q, cmdSeq := k.seq, kinds := k.kinds, len := 0 } []

/-! What an instruction passes before it acts. -/

/-- Which text an instruction may stand in (R75). -/
inductive Cls where
  | both | kernel | stream | system
  deriving DecidableEq, Repr

/-- Whether the agent executes instructions now (R300): a user core in RUN, a service core that has not stopped, a
stream front end that runs. A core whose older accesses would trap now makes no further effect before they have (R147). -/
def State.canRun (s : State) (a : Agent) : Bool :=
  match a with
  | .core g =>
    (if isSvc g then
      g < 136 && !(s.core g).svcStop && !(s.die (dieOf g)).romOnly && !(s.die (dieOf g)).holdStop
    else (s.core g).cstate == .run && !(s.core g).iced && !(s.die (dieOf g)).holdStop)
    && !s.mustTrap g (s.core g).acc.length
  | .sfe p =>
    p < 16 && (s.part p).sfe.running && (s.part p).sfe.wait == .none && !(s.die (hostDie p)).holdStop
  | _ => false

/-- The fault of a class or privilege check (R75): CLASS, or PRIV for a system instruction in user mode. Routines and
service cores run in service mode (R156). -/
def State.clsFault (s : State) (a : Agent) (cl : Cls) : Option Cause :=
  match a, cl with
  | .sfe _, .both => none
  | .sfe _, .stream => none
  | .sfe _, _ => some { code := cTRANSLATE, sub := 5 }
  | .core _, .both => none
  | .core _, .kernel => none
  | .core _, .stream => some { code := cTRANSLATE, sub := 5 }
  | .core g, .system => if isSvc g || (s.core g).emul.isSome then none else some { code := cPRIV }
  | _, _ => none

/-- Whether the text is stream text. -/
def isStream : Agent → Bool
  | .sfe _ => true
  | _ => false

/-- The slots of a list of operands, or `none` where one is not produced yet. -/
inductive OpsR where
  | ok (vs : List Val)
  | wait
  | poison (e : BitVec 6)
  deriving DecidableEq, Repr

/-- Collect operand slots: a pending one makes the instruction wait (R161), a poisoned one traps (R226). -/
def collect : List Slot → OpsR
  | [] => .ok []
  | .pending _ _ :: _ => .wait
  | .ready (.poisoned _ e) :: xs =>
    match collect xs with
    | .wait => .wait
    | _ => .poison e
  | .ready v :: xs =>
    match collect xs with
    | .ok vs => .ok (v :: vs)
    | r => r

/-- What a bad operand is reported as: OPERAND, or PATCH inside a template (R155). -/
def operandFault (c : Ctx) : Cause :=
  if c.tmpl.isEmpty then { code := cOPERAND } else { code := cTRANSLATE, sub := 8 }

/-- The shared front of every encoded instruction (R74, R161): class and privilege, the operand checks of every
specifier before any is resolved, the positions its results need, then the operands. `k` acts on the values. -/
def withOps (s : State) (cl : Cls) (ops : List (Want × BitVec 8)) (kinds : List Bool) (len : Nat)
    (k : Agent → List Val → Out) : Out :=
  let a := s.focus
  if !s.canRun a then .next s
  else
    match s.clsFault a cl with
    | some c => .next (s.trap a c kinds len)
    | none =>
      let c := s.ctxOf a
      if !(ops.all (fun o => specOk c (isStream a) o.1 o.2)) || c.full kinds.length then
        .next (s.trap a (operandFault c) kinds len)
      else
        match collect (ops.map (fun o => s.operand a c o.1 o.2)) with
        | .wait => .next s
        | .poison e => .next (s.trap a { code := cERRBIT, ecode := e.toNat } kinds len)
        | .ok vs => k a vs

/-- Scalars of a list of values. -/
def w0 (vs : List Val) : Word := ((vs[0]?).map Val.word).getD 0
/-- Second scalar. -/
def w1 (vs : List Val) : Word := ((vs[1]?).map Val.word).getD 0
/-- Third scalar. -/
def w2 (vs : List Val) : Word := ((vs[2]?).map Val.word).getD 0

/-- An instruction that computes scalars from scalars and cannot trap once its operands are there. -/
def pureScalar (s : State) (ops : List (Want × BitVec 8)) (f : List Val → Word) : Out :=
  withOps s .both ops [false] 1 (fun a vs => .next (s.retire a 1 [.scalar (f vs)]))

/-- A younger instruction of an agent is about to make an effect (R147). Assumption 15. -/
def State.commit (s : State) (a : Agent) : State :=
  match a with
  | .core g => s.commitAll g
  | _ => s

/-! Bounds of waits (R53, R309). -/

/-- The bound exponent of a wait: its own field, else the kernel's default of its class, else 24. -/
def boundOf (own dflt : Nat) : Nat := if own != 0 then own else if dflt != 0 then dflt else 24

/-- A class default of a core's task. -/
def Core.dflt (c : Core) (f : Task → Nat) : Nat := (c.task.map f).getD 0

/-- Begin a wait, or go on with the one in progress (R309). -/
def State.waitOn (s : State) (g : Nat) (k : WaitKind) (bound : Option Nat) : State :=
  s.modCore g (fun c =>
    { c with wait := some { kind := k, stall := (c.wait.map (·.stall)).getD 0, bound := bound } })

/-! Returning from an exception (R307, R308). -/

/-- Return from an EMULATE routine with its results (R156): the context goes on after the matched instruction. -/
def Core.leaveRoutine (c : Core) (e : Emul) (vs : List Val) : Core :=
  match e.fault with
  | some pend => { ({ c with emul := none, ctx := e.kept }).complete pend vs with wait := e.wait }
  | none =>
    { c with emul := none, wait := none, ctx := ((e.kept.push (vs.map .ready)).advance e.len) }

/-- Return from the handler of an engine command's trap (R307, R308): the command is offered again, or else counts as
completed with results that are zero of their kinds; the interrupted block goes on where it was. -/
def Core.leaveForCmd (c : Core) (kept : Ctx) (q : Eng) (seq : Nat) (again : Bool) : Core :=
  let c := { c with svcKept := none, svcCmd := none, wait := none, ctx := kept, late := c.svcLate }
  if again then c.unstop
  else
    match (c.queue q).find? (fun k => k.seq = seq) with
    | none => c.unstop
    | some k => (c.completeCmd q seq (k.kinds.map zeroVal)).unstop

/-- Return from a service trap handler (R307): `again` executes the instruction at SEPC once more, else control goes
on after it with results that are zero of their kinds. `at'` is the context at SEPC with the kinds and the length of the
instruction there. -/
def Core.leaveHandler (c : Core) (at' : Ctx × List Bool × Nat) (again : Bool) : Core :=
  { c with
    svcKept := none, svcCmd := none, wait := none,
    late := again && c.svcLate && (c.svcKept.map (·.vpc)) == some at'.1.vpc,
    ctx := if again then at'.1 else (at'.1.push (at'.2.1.map (fun v => .ready (zeroVal v)))).advance at'.2.2 }

end Sys2Proof.Machine
end

