-- ==== Sys2Proof/Machine/Shape.lean ====
section
/-! DEFINITION. What a decoded instruction's encoding says of its operands and results (R63 to R65): which of its
fields are operand specifiers and how each is read, how many results it has and of which kinds, how many words it
takes, which queue it goes to, and whether it has an effect besides producing values (R147). -/

namespace Sys2Proof.Machine

/-- The integer type of a lane width. -/
def intOfWidth (w : Nat) : Nat := if w = 4 then 1 else if w = 8 then 2 else if w = 16 then 3 else if w = 32 then 4 else 5

/-- How an instruction reads its A, B and C fields. Slot numbers, FLAG fields and immediates are no operands. -/
def wantsOf : Instr → Want × Want × Want
  | .enter _ => (.none, .none, .none)
  | .halt _ => (.none, .none, .none)
  | .nop _ => (.none, .none, .none)
  | .keep _ => (.noPop, .none, .none)
  | .add f => (.elem f.ty.toNat (f.mod.getLsbD 0), .elem f.ty.toNat (f.mod.getLsbD 0), .none)
  | .sub f => (.elem f.ty.toNat (f.mod.getLsbD 0), .elem f.ty.toNat (f.mod.getLsbD 0), .none)
  | .mul f => (.elem f.ty.toNat (f.mod.getLsbD 0), .elem f.ty.toNat (f.mod.getLsbD 0), .none)
  | .mulh f => (.elem f.ty.toNat (f.mod.getLsbD 0), .elem f.ty.toNat (f.mod.getLsbD 0), .none)
  | .div f => (.elem f.ty.toNat (f.mod.getLsbD 0), .elem f.ty.toNat (f.mod.getLsbD 0), .none)
  | .rem f => (.elem f.ty.toNat (f.mod.getLsbD 0), .elem f.ty.toNat (f.mod.getLsbD 0), .none)
  | .min f => (.elem f.ty.toNat (f.mod.getLsbD 0), .elem f.ty.toNat (f.mod.getLsbD 0), .none)
  | .max f => (.elem f.ty.toNat (f.mod.getLsbD 0), .elem f.ty.toNat (f.mod.getLsbD 0), .none)
  | .abs f => (.elem f.ty.toNat (f.mod.getLsbD 0), .none, .none)
  | .neg f => (.elem f.ty.toNat (f.mod.getLsbD 0), .none, .none)
  | .and f => (.elem f.ty.toNat (f.mod.getLsbD 0), .elem f.ty.toNat (f.mod.getLsbD 0), .none)
  | .or f => (.elem f.ty.toNat (f.mod.getLsbD 0), .elem f.ty.toNat (f.mod.getLsbD 0), .none)
  | .xor f => (.elem f.ty.toNat (f.mod.getLsbD 0), .elem f.ty.toNat (f.mod.getLsbD 0), .none)
  | .andn f => (.elem f.ty.toNat (f.mod.getLsbD 0), .elem f.ty.toNat (f.mod.getLsbD 0), .none)
  | .not f => (.elem f.ty.toNat (f.mod.getLsbD 0), .none, .none)
  | .shl f => (.elem f.ty.toNat (f.mod.getLsbD 0), .int, .none)
  | .shr f => (.elem f.ty.toNat (f.mod.getLsbD 0), .int, .none)
  | .sar f => (.elem f.ty.toNat (f.mod.getLsbD 0), .int, .none)
  | .rot f => (.elem f.ty.toNat (f.mod.getLsbD 0), .int, .none)
  | .clz f => (.elem f.ty.toNat (f.mod.getLsbD 0), .none, .none)
  | .ffs f => (.elem f.ty.toNat (f.mod.getLsbD 0), .none, .none)
  | .popc f => (.elem f.ty.toNat (f.mod.getLsbD 0), .none, .none)
  | .ext f => (.elem f.ty.toNat (f.mod.getLsbD 0), .none, .none)
  | .cmpEq f => (.elem f.ty.toNat (f.mod.getLsbD 0), .elem f.ty.toNat (f.mod.getLsbD 0), .none)
  | .cmpNe f => (.elem f.ty.toNat (f.mod.getLsbD 0), .elem f.ty.toNat (f.mod.getLsbD 0), .none)
  | .cmpLt f => (.elem f.ty.toNat (f.mod.getLsbD 0), .elem f.ty.toNat (f.mod.getLsbD 0), .none)
  | .cmpLe f => (.elem f.ty.toNat (f.mod.getLsbD 0), .elem f.ty.toNat (f.mod.getLsbD 0), .none)
  | .cmpGt f => (.elem f.ty.toNat (f.mod.getLsbD 0), .elem f.ty.toNat (f.mod.getLsbD 0), .none)
  | .cmpGe f => (.elem f.ty.toNat (f.mod.getLsbD 0), .elem f.ty.toNat (f.mod.getLsbD 0), .none)
  | .sel f => (.int, .elem f.ty.toNat (f.mod.getLsbD 0), .elem f.ty.toNat (f.mod.getLsbD 0))
  | .li64 _ _ => (.none, .none, .none)
  | .ldD _ => (.int, .none, .none)
  | .stD _ => (.int, .int, .none)
  | .amoAdd _ => (.int, .int, .none)
  | .amoMin _ => (.int, .int, .none)
  | .amoMax _ => (.int, .int, .none)
  | .amoAnd _ => (.int, .int, .none)
  | .amoOr _ => (.int, .int, .none)
  | .amoXor _ => (.int, .int, .none)
  | .amoSwap _ => (.int, .int, .none)
  | .cas _ => (.int, .int, .int)
  | .fenceAcq _ => (.none, .none, .none)
  | .fenceRel _ => (.none, .none, .none)
  | .fenceAr _ => (.none, .none, .none)
  | .align _ => (.none, .none, .none)
  | .cwb _ => (.int, .int, .none)
  | .cinv _ => (.int, .int, .none)
  | .semSig _ => (.int, .none, .none)
  | .semSigErr _ => (.int, .none, .none)
  | .semWait _ => (.int, .none, .none)
  | .semWaitT _ => (.int, .none, .none)
  | .semClr _ => (.none, .none, .none)
  | .semClrAll _ => (.none, .none, .none)
  | .barArr _ => (.int, .int, .none)
  | .barArrErr _ => (.int, .int, .int)
  | .barWait _ => (.int, .int, .none)
  | .barWaitT _ => (.int, .int, .none)
  | .teamJoin _ => (.int, .int, .none)
  | .teamLeave _ => (.none, .none, .none)
  | .teamBar _ => (.none, .none, .none)
  | .trig _ => (.none, .none, .none)
  | .sleepGt _ => (.int, .none, .none)
  | .sleepGtNt _ => (.int, .none, .none)
  | .vsemSig _ => (.int, .none, .none)
  | .vsemSigErr _ => (.int, .none, .none)
  | .vsemWait _ => (.int, .none, .none)
  | .tdSet _ => (.int, .none, .none)
  | .tdSetRec _ => (.int, .none, .none)
  | .tdGet _ => (.none, .none, .none)
  | .portSet _ => (.int, .none, .none)
  | .portSetW _ => (.int, .none, .none)
  | .portRst _ => (.none, .none, .none)
  | .portRstOff _ => (.none, .none, .none)
  | .chanCfg _ => (.none, .none, .none)
  | .phase _ => (.none, .none, .none)
  | .vadd f => (.vec f.ty.toNat (f.mod.getLsbD 0), .vec f.ty.toNat (f.mod.getLsbD 0), (if f.c = 0 then .none else .vec f.ty.toNat (f.mod.getLsbD 0)))
  | .vsub f => (.vec f.ty.toNat (f.mod.getLsbD 0), .vec f.ty.toNat (f.mod.getLsbD 0), (if f.c = 0 then .none else .vec f.ty.toNat (f.mod.getLsbD 0)))
  | .vmul f => (.vec f.ty.toNat (f.mod.getLsbD 0), .vec f.ty.toNat (f.mod.getLsbD 0), (if f.c = 0 then .none else .vec f.ty.toNat (f.mod.getLsbD 0)))
  | .vmin f => (.vec f.ty.toNat (f.mod.getLsbD 0), .vec f.ty.toNat (f.mod.getLsbD 0), (if f.c = 0 then .none else .vec f.ty.toNat (f.mod.getLsbD 0)))
  | .vmax f => (.vec f.ty.toNat (f.mod.getLsbD 0), .vec f.ty.toNat (f.mod.getLsbD 0), (if f.c = 0 then .none else .vec f.ty.toNat (f.mod.getLsbD 0)))
  | .vabs f => (.vec f.ty.toNat (f.mod.getLsbD 0), .none, (if f.c = 0 then .none else .vec f.ty.toNat (f.mod.getLsbD 0)))
  | .vneg f => (.vec f.ty.toNat (f.mod.getLsbD 0), .none, (if f.c = 0 then .none else .vec f.ty.toNat (f.mod.getLsbD 0)))
  | .vfma f => (.vec f.ty.toNat false, .vec f.ty.toNat false, .vec f.ty.toNat false)
  | .vfms f => (.vec f.ty.toNat false, .vec f.ty.toNat false, .vec f.ty.toNat false)
  | .vfnma f => (.vec f.ty.toNat false, .vec f.ty.toNat false, .vec f.ty.toNat false)
  | .vfnms f => (.vec f.ty.toNat false, .vec f.ty.toNat false, .vec f.ty.toNat false)
  | .vand f => (.vec f.ty.toNat false, .vec f.ty.toNat false, (if f.c = 0 then .none else .vec f.ty.toNat (f.mod.getLsbD 0)))
  | .vor f => (.vec f.ty.toNat false, .vec f.ty.toNat false, (if f.c = 0 then .none else .vec f.ty.toNat (f.mod.getLsbD 0)))
  | .vxor f => (.vec f.ty.toNat false, .vec f.ty.toNat false, (if f.c = 0 then .none else .vec f.ty.toNat (f.mod.getLsbD 0)))
  | .vandn f => (.vec f.ty.toNat false, .vec f.ty.toNat false, (if f.c = 0 then .none else .vec f.ty.toNat (f.mod.getLsbD 0)))
  | .vnot f => (.vec f.ty.toNat false, .none, (if f.c = 0 then .none else .vec f.ty.toNat (f.mod.getLsbD 0)))
  | .vshl f => (.vec f.ty.toNat false, .vec f.ty.toNat true, (if f.c = 0 then .none else .vec f.ty.toNat (f.mod.getLsbD 0)))
  | .vshr f => (.vec f.ty.toNat false, .vec f.ty.toNat true, (if f.c = 0 then .none else .vec f.ty.toNat (f.mod.getLsbD 0)))
  | .vsar f => (.vec f.ty.toNat false, .vec f.ty.toNat true, (if f.c = 0 then .none else .vec f.ty.toNat (f.mod.getLsbD 0)))
  | .vclz f => (.vec f.ty.toNat false, .none, (if f.c = 0 then .none else .vec f.ty.toNat (f.mod.getLsbD 0)))
  | .vffs f => (.vec f.ty.toNat false, .none, (if f.c = 0 then .none else .vec f.ty.toNat (f.mod.getLsbD 0)))
  | .vpopc f => (.vec f.ty.toNat false, .none, (if f.c = 0 then .none else .vec f.ty.toNat (f.mod.getLsbD 0)))
  | .vcmpEq f => (.vec f.ty.toNat (f.mod.getLsbD 0), .vec f.ty.toNat (f.mod.getLsbD 0), (if f.c = 0 then .none else .vec f.ty.toNat (f.mod.getLsbD 0)))
  | .vcmpNe f => (.vec f.ty.toNat (f.mod.getLsbD 0), .vec f.ty.toNat (f.mod.getLsbD 0), (if f.c = 0 then .none else .vec f.ty.toNat (f.mod.getLsbD 0)))
  | .vcmpLt f => (.vec f.ty.toNat (f.mod.getLsbD 0), .vec f.ty.toNat (f.mod.getLsbD 0), (if f.c = 0 then .none else .vec f.ty.toNat (f.mod.getLsbD 0)))
  | .vcmpLe f => (.vec f.ty.toNat (f.mod.getLsbD 0), .vec f.ty.toNat (f.mod.getLsbD 0), (if f.c = 0 then .none else .vec f.ty.toNat (f.mod.getLsbD 0)))
  | .vcmpGt f => (.vec f.ty.toNat (f.mod.getLsbD 0), .vec f.ty.toNat (f.mod.getLsbD 0), (if f.c = 0 then .none else .vec f.ty.toNat (f.mod.getLsbD 0)))
  | .vcmpGe f => (.vec f.ty.toNat (f.mod.getLsbD 0), .vec f.ty.toNat (f.mod.getLsbD 0), (if f.c = 0 then .none else .vec f.ty.toNat (f.mod.getLsbD 0)))
  | .vsel f => (.vec f.ty.toNat false, .vec f.ty.toNat false, .vec f.ty.toNat false)
  | .vmulh f => (.vec f.ty.toNat (f.mod.getLsbD 0), .vec f.ty.toNat (f.mod.getLsbD 0), (if f.c = 0 then .none else .vec f.ty.toNat (f.mod.getLsbD 0)))
  | .vbc f => (.elem f.ty.toNat false, .none, (if f.c = 0 then .none else .vec f.ty.toNat (f.mod.getLsbD 0)))
  | .vbcLane f => (.vec f.ty.toNat false, .int, (if f.c = 0 then .none else .vec f.ty.toNat (f.mod.getLsbD 0)))
  | .vext f => (.vec f.ty.toNat (f.mod.getLsbD 0), .int, .none)
  | .vins f => (.vec f.ty.toNat false, .elem f.ty.toNat false, .int)
  | .vperm f => (.vec f.ty.toNat false, .vec (intOfWidth (tyWidth f.ty.toNat)) true, (if f.c = 0 then .none else .vec f.ty.toNat (f.mod.getLsbD 0)))
  | .vrot f => (.vec f.ty.toNat false, .int, (if f.c = 0 then .none else .vec f.ty.toNat (f.mod.getLsbD 0)))
  | .vredSum f => (.vec f.ty.toNat (f.mod.getLsbD 0), .none, (if f.c = 0 then .none else .vec f.ty.toNat (f.mod.getLsbD 0)))
  | .vredMin f => (.vec f.ty.toNat (f.mod.getLsbD 0), .none, (if f.c = 0 then .none else .vec f.ty.toNat (f.mod.getLsbD 0)))
  | .vredMax f => (.vec f.ty.toNat (f.mod.getLsbD 0), .none, (if f.c = 0 then .none else .vec f.ty.toNat (f.mod.getLsbD 0)))
  | .vredAnd f => (.vec f.ty.toNat (f.mod.getLsbD 0), .none, (if f.c = 0 then .none else .vec f.ty.toNat (f.mod.getLsbD 0)))
  | .vredOr f => (.vec f.ty.toNat (f.mod.getLsbD 0), .none, (if f.c = 0 then .none else .vec f.ty.toNat (f.mod.getLsbD 0)))
  | .vredXor f => (.vec f.ty.toNat (f.mod.getLsbD 0), .none, (if f.c = 0 then .none else .vec f.ty.toNat (f.mod.getLsbD 0)))
  | .vscanSum f => (.vec f.ty.toNat (f.mod.getLsbD 0), .none, (if f.c = 0 then .none else .vec f.ty.toNat (f.mod.getLsbD 0)))
  | .vscanMin f => (.vec f.ty.toNat (f.mod.getLsbD 0), .none, (if f.c = 0 then .none else .vec f.ty.toNat (f.mod.getLsbD 0)))
  | .vscanMax f => (.vec f.ty.toNat (f.mod.getLsbD 0), .none, (if f.c = 0 then .none else .vec f.ty.toNat (f.mod.getLsbD 0)))
  | .vput f => (.vec f.ty.toNat false, .none, (if f.c = 0 then .none else .vec f.ty.toNat (f.mod.getLsbD 0)))
  | .vputNb f => (.vec f.ty.toNat false, .none, (if f.c = 0 then .none else .vec f.ty.toNat (f.mod.getLsbD 0)))
  | .vtry f => (.vec f.ty.toNat false, .none, .none)
  | .vcvt f => (.vec (styOf f) (f.mod.getLsbD 10), .none, (if f.c = 0 then .none else .vec (styOf f) (f.mod.getLsbD 10)))
  | .vwid f => (.vec (styOf f) (f.mod.getLsbD 10), .none, (if f.c = 0 then .none else .vec (styOf f) (f.mod.getLsbD 10)))
  | .vnar f => (.vec (styOf f) (f.mod.getLsbD 10), .vec (styOf f) (f.mod.getLsbD 10), (if tyWidth (styOf f) = 2 * tyWidth f.ty.toNat then .none else .vec (styOf f) (f.mod.getLsbD 10)))
  | .vexp2 f => (.vec f.ty.toNat false, .none, (if f.c = 0 then .none else .vec f.ty.toNat (f.mod.getLsbD 0)))
  | .vlog2 f => (.vec f.ty.toNat false, .none, (if f.c = 0 then .none else .vec f.ty.toNat (f.mod.getLsbD 0)))
  | .vrcp f => (.vec f.ty.toNat false, .none, (if f.c = 0 then .none else .vec f.ty.toNat (f.mod.getLsbD 0)))
  | .vrsq f => (.vec f.ty.toNat false, .none, (if f.c = 0 then .none else .vec f.ty.toNat (f.mod.getLsbD 0)))
  | .vsqrt f => (.vec f.ty.toNat false, .none, (if f.c = 0 then .none else .vec f.ty.toNat (f.mod.getLsbD 0)))
  | .vtanh f => (.vec f.ty.toNat false, .none, (if f.c = 0 then .none else .vec f.ty.toNat (f.mod.getLsbD 0)))
  | .tNew _ => (.int, .none, .none)
  | .tFree _ => (.none, .none, .none)
  | .tView _ => (.int, .int, .none)
  | .tMap _ _ _ _ => (.int, .int, .int)
  | .tCopy _ _ => (.none, .none, .none)
  | .tFill _ => (.int, .none, .none)
  | .tRead _ => (.int, .int, .int)
  | .tFence _ => (.none, .none, .none)
  | .tSync _ => (.none, .none, .none)
  | .tSignalAdd _ => (.int, .int, .none)
  | .tSignalStore _ => (.int, .int, .none)
  | .tSvc _ => (.int, .int, .int)
  | .tSend _ => (.int, .none, .none)
  | .tRecv _ => (.int, .none, .none)
  | .tWaitEq _ => (.int, .int, .none)
  | .tWaitNe _ => (.int, .int, .none)
  | .tWaitGe _ => (.int, .int, .none)
  | .eret _ _ => (.none, .none, .none)
  | .eretRetry _ => (.none, .none, .none)
  | .csrR _ => (.int, .none, .none)
  | .csrW _ => (.int, .int, .none)
  | .codeInv _ => (.int, .int, .int)
  | .codeInvObj _ => (.int, .none, .none)
  | .codeInvAll _ => (.none, .none, .none)
  | .scanFrz _ => (.int, .int, .none)
  | .scanFrzAt _ => (.int, .int, .int)
  | .scanOut _ => (.int, .int, .none)
  | .scanIn _ => (.int, .int, .none)
  | .scanRun _ => (.int, .int, .none)
  | .patchLd _ => (.int, .int, .int)
  | .ctxScrub _ => (.int, .none, .none)
  | .trap _ => (.int, .none, .none)
  | .svc _ => (.int, .int, .none)
  | .ld _ => (.int, .none, .none)
  | .st _ => (.int, .int, .none)
  | .mmGang _ => (.int, .none, .none)
  | .cpFill _ => (.none, .int, .none)
  | .tlbInv _ => (.int, .int, .none)
  | .claimedInstruction _ => (.any, .any, .any)
  | _ => (.none, .none, .none)

/-- The kinds of an instruction's results, in order; `true` is a vector. `keep` has the kind of its operand. -/
def kindsOf : Instr → List Bool
  | .svc _ => [false]
  | .add _ => [false]
  | .sub _ => [false]
  | .mul _ => [false]
  | .mulh _ => [false]
  | .div _ => [false]
  | .rem _ => [false]
  | .min _ => [false]
  | .max _ => [false]
  | .abs _ => [false]
  | .neg _ => [false]
  | .and _ => [false]
  | .or _ => [false]
  | .xor _ => [false]
  | .andn _ => [false]
  | .not _ => [false]
  | .shl _ => [false]
  | .shr _ => [false]
  | .sar _ => [false]
  | .rot _ => [false]
  | .clz _ => [false]
  | .ffs _ => [false]
  | .popc _ => [false]
  | .ext _ => [false]
  | .cmpEq _ => [false]
  | .cmpNe _ => [false]
  | .cmpLt _ => [false]
  | .cmpLe _ => [false]
  | .cmpGt _ => [false]
  | .cmpGe _ => [false]
  | .sel _ => [false]
  | .li _ => [false]
  | .liZ _ => [false]
  | .li64 _ _ => [false]
  | .ld _ => [false]
  | .ldD _ => [false]
  | .amoAdd _ => [false]
  | .amoMin _ => [false]
  | .amoMax _ => [false]
  | .amoAnd _ => [false]
  | .amoOr _ => [false]
  | .amoXor _ => [false]
  | .amoSwap _ => [false]
  | .cas _ => [false]
  | .semWait _ => [false]
  | .semWaitT _ => [false]
  | .barArr _ => [false]
  | .barArrErr _ => [false]
  | .barWait _ => [false]
  | .barWaitT _ => [false]
  | .sleepGtNt _ => [false]
  | .tdGet _ => [false]
  | .vadd _ => [true]
  | .vsub _ => [true]
  | .vmul _ => [true]
  | .vmin _ => [true]
  | .vmax _ => [true]
  | .vabs _ => [true]
  | .vneg _ => [true]
  | .vfma _ => [true]
  | .vfms _ => [true]
  | .vfnma _ => [true]
  | .vfnms _ => [true]
  | .vand _ => [true]
  | .vor _ => [true]
  | .vxor _ => [true]
  | .vandn _ => [true]
  | .vnot _ => [true]
  | .vshl _ => [true]
  | .vshr _ => [true]
  | .vsar _ => [true]
  | .vclz _ => [true]
  | .vffs _ => [true]
  | .vpopc _ => [true]
  | .vcmpEq _ => [true]
  | .vcmpNe _ => [true]
  | .vcmpLt _ => [true]
  | .vcmpLe _ => [true]
  | .vcmpGt _ => [true]
  | .vcmpGe _ => [true]
  | .vsel _ => [true]
  | .vmulh _ => [true]
  | .vbc _ => [true]
  | .vbcLane _ => [true]
  | .vext _ => [false]
  | .vins _ => [true]
  | .vperm _ => [true]
  | .vrot _ => [true]
  | .vredSum _ => [false]
  | .vredMin _ => [false]
  | .vredMax _ => [false]
  | .vredAnd _ => [false]
  | .vredOr _ => [false]
  | .vredXor _ => [false]
  | .vscanSum _ => [true]
  | .vscanMin _ => [true]
  | .vscanMax _ => [true]
  | .vputNb _ => [false]
  | .vcvt _ => [true]
  | .vnar _ => [true]
  | .vexp2 _ => [true]
  | .vlog2 _ => [true]
  | .vrcp _ => [true]
  | .vrsq _ => [true]
  | .vsqrt _ => [true]
  | .vtanh _ => [true]
  | .mmDrain _ => [false]
  | .mmDrainQ0 _ => [false]
  | .cp _ => [false]
  | .cpQ2 _ => [false]
  | .cpQ3 _ => [false]
  | .cpFill _ => [false]
  | .cpGather _ => [false]
  | .tRead _ => [false]
  | .csrR _ => [false]
  | .scanFrz _ => [false]
  | .scanFrzAt _ => [false]
  | .scanOut _ => [false]
  | .scanIn _ => [false]
  | .scanRun _ => [false]
  | .patchLd _ => [false]
  | .keep _ => [false]
  | .vwid f => List.replicate (tyWidth f.ty.toNat / tyWidth (styOf f)) true
  | .vtry _ => [true, false]
  | _ => []

/-- The words an instruction takes (R60, R62). -/
def lenOf : Instr → Nat
  | .br f => 1 + specWordCount f.carry.length
  | .brZ f => 1 + specWordCount f.carry.length
  | .call f => 1 + specWordCount f.carry.length
  | .ret f => 1 + specWordCount f.carry.length
  | .eret _ carry => 1 + specWordCount carry.length
  | .li64 _ _ => 2
  | .tMap _ _ tl args => 1 + specWordCount tl.length + specWordCount args.length
  | _ => 1

/-- Whether an instruction's encoding has extension words, or passes control on, so that a patch slot can only trap it
(R153). -/
def trapOnly : Instr → Bool
  | .enter _ => true
  | .br _ => true
  | .brZ _ => true
  | .call _ => true
  | .ret _ => true
  | .li64 _ _ => true
  | .tMap _ _ _ _ => true
  | .eret _ _ => true
  | _ => false

/-- The queue an instruction is pushed into, if it is an engine command (R183). -/
def queueOf : Instr → Option Eng
  | .vsemSig _ => some .v
  | .vsemSigErr _ => some .v
  | .vsemWait _ => some .v
  | .portSet _ => some .v
  | .portSetW _ => some .v
  | .portRst _ => some .v
  | .portRstOff _ => some .v
  | .chanCfg _ => some .v
  | .vadd _ => some .v
  | .vsub _ => some .v
  | .vmul _ => some .v
  | .vmin _ => some .v
  | .vmax _ => some .v
  | .vabs _ => some .v
  | .vneg _ => some .v
  | .vfma _ => some .v
  | .vfms _ => some .v
  | .vfnma _ => some .v
  | .vfnms _ => some .v
  | .vand _ => some .v
  | .vor _ => some .v
  | .vxor _ => some .v
  | .vandn _ => some .v
  | .vnot _ => some .v
  | .vshl _ => some .v
  | .vshr _ => some .v
  | .vsar _ => some .v
  | .vclz _ => some .v
  | .vffs _ => some .v
  | .vpopc _ => some .v
  | .vcmpEq _ => some .v
  | .vcmpNe _ => some .v
  | .vcmpLt _ => some .v
  | .vcmpLe _ => some .v
  | .vcmpGt _ => some .v
  | .vcmpGe _ => some .v
  | .vsel _ => some .v
  | .vmulh _ => some .v
  | .vbc _ => some .v
  | .vbcLane _ => some .v
  | .vext _ => some .v
  | .vins _ => some .v
  | .vperm _ => some .v
  | .vrot _ => some .v
  | .vredSum _ => some .v
  | .vredMin _ => some .v
  | .vredMax _ => some .v
  | .vredAnd _ => some .v
  | .vredOr _ => some .v
  | .vredXor _ => some .v
  | .vscanSum _ => some .v
  | .vscanMin _ => some .v
  | .vscanMax _ => some .v
  | .vput _ => some .v
  | .vputNb _ => some .v
  | .vtry _ => some .v
  | .vcvt _ => some .v
  | .vwid _ => some .v
  | .vnar _ => some .v
  | .vexp2 _ => some .v
  | .vlog2 _ => some .v
  | .vrcp _ => some .v
  | .vrsq _ => some .v
  | .vsqrt _ => some .v
  | .vtanh _ => some .v
  | .mm _ => some .m
  | .mmDrain _ => some .m
  | .mmDrainQ0 _ => some .m
  | .mmGang _ => some .m
  | .mmGangOff _ => some .m
  | .cp _ => some .c
  | .cpQ2 _ => some .c
  | .cpQ3 _ => some .c
  | .cpFill _ => some .c
  | .cpGather _ => some .c
  | .tlbInv _ => some .c
  | .tlbInvAll _ => some .c
  | _ => none

/-- Whether an instruction has none of the effects that R147 lists, pops of its operands apart. `trig` counts as one
(assumption 46). -/
def producesOnly : Instr → Bool
  | .nop _ => true
  | .keep _ => true
  | .add _ => true
  | .sub _ => true
  | .mul _ => true
  | .mulh _ => true
  | .div _ => true
  | .rem _ => true
  | .min _ => true
  | .max _ => true
  | .abs _ => true
  | .neg _ => true
  | .and _ => true
  | .or _ => true
  | .xor _ => true
  | .andn _ => true
  | .not _ => true
  | .shl _ => true
  | .shr _ => true
  | .sar _ => true
  | .rot _ => true
  | .clz _ => true
  | .ffs _ => true
  | .popc _ => true
  | .ext _ => true
  | .cmpEq _ => true
  | .cmpNe _ => true
  | .cmpLt _ => true
  | .cmpLe _ => true
  | .cmpGt _ => true
  | .cmpGe _ => true
  | .sel _ => true
  | .li _ => true
  | .liZ _ => true
  | .li64 _ _ => true
  | .ld _ => true
  | .ldD _ => true
  | .tdGet _ => true
  | .vadd _ => true
  | .vsub _ => true
  | .vmul _ => true
  | .vmin _ => true
  | .vmax _ => true
  | .vabs _ => true
  | .vneg _ => true
  | .vfma _ => true
  | .vfms _ => true
  | .vfnma _ => true
  | .vfnms _ => true
  | .vand _ => true
  | .vor _ => true
  | .vxor _ => true
  | .vandn _ => true
  | .vnot _ => true
  | .vshl _ => true
  | .vshr _ => true
  | .vsar _ => true
  | .vclz _ => true
  | .vffs _ => true
  | .vpopc _ => true
  | .vcmpEq _ => true
  | .vcmpNe _ => true
  | .vcmpLt _ => true
  | .vcmpLe _ => true
  | .vcmpGt _ => true
  | .vcmpGe _ => true
  | .vsel _ => true
  | .vmulh _ => true
  | .vbc _ => true
  | .vbcLane _ => true
  | .vext _ => true
  | .vins _ => true
  | .vperm _ => true
  | .vrot _ => true
  | .vredSum _ => true
  | .vredMin _ => true
  | .vredMax _ => true
  | .vredAnd _ => true
  | .vredOr _ => true
  | .vredXor _ => true
  | .vscanSum _ => true
  | .vscanMin _ => true
  | .vscanMax _ => true
  | .vcvt _ => true
  | .vwid _ => true
  | .vnar _ => true
  | .vexp2 _ => true
  | .vlog2 _ => true
  | .vrcp _ => true
  | .vrsq _ => true
  | .vsqrt _ => true
  | .vtanh _ => true
  | .csrR _ => true
  | .fenceAcq _ => true
  | .fenceRel _ => true
  | .fenceAr _ => true
  | .align _ => true
  | .cwb _ => true
  | .cinv _ => true
  | .barWait _ => true
  | .barWaitT _ => true
  | .sleepGt _ => true
  | .sleepGtNt _ => true
  | _ => false

/-- The base-form fields of an encoded instruction that has them. -/
def baseOf : Instr → BaseF
  | .enter f => f
  | .halt f => f
  | .nop f => f
  | .keep f => f
  | .add f => f
  | .sub f => f
  | .mul f => f
  | .mulh f => f
  | .div f => f
  | .rem f => f
  | .min f => f
  | .max f => f
  | .abs f => f
  | .neg f => f
  | .and f => f
  | .or f => f
  | .xor f => f
  | .andn f => f
  | .not f => f
  | .shl f => f
  | .shr f => f
  | .sar f => f
  | .rot f => f
  | .clz f => f
  | .ffs f => f
  | .popc f => f
  | .ext f => f
  | .cmpEq f => f
  | .cmpNe f => f
  | .cmpLt f => f
  | .cmpLe f => f
  | .cmpGt f => f
  | .cmpGe f => f
  | .sel f => f
  | .ldD f => f
  | .stD f => f
  | .amoAdd f => f
  | .amoMin f => f
  | .amoMax f => f
  | .amoAnd f => f
  | .amoOr f => f
  | .amoXor f => f
  | .amoSwap f => f
  | .cas f => f
  | .fenceAcq f => f
  | .fenceRel f => f
  | .fenceAr f => f
  | .align f => f
  | .cwb f => f
  | .cinv f => f
  | .semSig f => f
  | .semSigErr f => f
  | .semWait f => f
  | .semWaitT f => f
  | .semClr f => f
  | .semClrAll f => f
  | .barArr f => f
  | .barArrErr f => f
  | .barWait f => f
  | .barWaitT f => f
  | .teamJoin f => f
  | .teamLeave f => f
  | .teamBar f => f
  | .trig f => f
  | .sleepGt f => f
  | .sleepGtNt f => f
  | .vsemSig f => f
  | .vsemSigErr f => f
  | .vsemWait f => f
  | .tdSet f => f
  | .tdSetRec f => f
  | .tdGet f => f
  | .portSet f => f
  | .portSetW f => f
  | .portRst f => f
  | .portRstOff f => f
  | .chanCfg f => f
  | .phase f => f
  | .vadd f => f
  | .vsub f => f
  | .vmul f => f
  | .vmin f => f
  | .vmax f => f
  | .vabs f => f
  | .vneg f => f
  | .vfma f => f
  | .vfms f => f
  | .vfnma f => f
  | .vfnms f => f
  | .vand f => f
  | .vor f => f
  | .vxor f => f
  | .vandn f => f
  | .vnot f => f
  | .vshl f => f
  | .vshr f => f
  | .vsar f => f
  | .vclz f => f
  | .vffs f => f
  | .vpopc f => f
  | .vcmpEq f => f
  | .vcmpNe f => f
  | .vcmpLt f => f
  | .vcmpLe f => f
  | .vcmpGt f => f
  | .vcmpGe f => f
  | .vsel f => f
  | .vmulh f => f
  | .vbc f => f
  | .vbcLane f => f
  | .vext f => f
  | .vins f => f
  | .vperm f => f
  | .vrot f => f
  | .vredSum f => f
  | .vredMin f => f
  | .vredMax f => f
  | .vredAnd f => f
  | .vredOr f => f
  | .vredXor f => f
  | .vscanSum f => f
  | .vscanMin f => f
  | .vscanMax f => f
  | .vput f => f
  | .vputNb f => f
  | .vtry f => f
  | .vcvt f => f
  | .vwid f => f
  | .vnar f => f
  | .vexp2 f => f
  | .vlog2 f => f
  | .vrcp f => f
  | .vrsq f => f
  | .vsqrt f => f
  | .vtanh f => f
  | .tNew f => f
  | .tFree f => f
  | .tView f => f
  | .tFill f => f
  | .tRead f => f
  | .tFence f => f
  | .tSync f => f
  | .tSignalAdd f => f
  | .tSignalStore f => f
  | .tSvc f => f
  | .tSend f => f
  | .tRecv f => f
  | .tWaitEq f => f
  | .tWaitNe f => f
  | .tWaitGe f => f
  | .eretRetry f => f
  | .csrR f => f
  | .csrW f => f
  | .codeInv f => f
  | .codeInvObj f => f
  | .codeInvAll f => f
  | .scanFrz f => f
  | .scanFrzAt f => f
  | .scanOut f => f
  | .scanIn f => f
  | .scanRun f => f
  | .patchLd f => f
  | .ctxScrub f => f
  | .li64 f _ => f
  | .tMap _ f _ _ => f
  | .tCopy _ f => f
  | .eret f _ => f
  | .trap f => { ty := f.ty, a := f.a, b := f.b, c := 0, mod := 0 }
  | .svc f => { ty := f.ty, a := f.a, b := f.b, c := 0, mod := 0 }
  | .ld f => { ty := f.ty, a := f.a, b := f.b, c := 0, mod := 0 }
  | .st f => { ty := f.ty, a := f.a, b := f.b, c := 0, mod := 0 }
  | .mmGang f => { ty := f.ty, a := f.a, b := f.b, c := f.c, mod := 0 }
  | .cpFill f => { ty := f.ty, a := f.a, b := f.b, c := f.c, mod := 0 }
  | .tlbInv f => { ty := f.ty, a := f.a, b := f.b, c := f.c, mod := 0 }
  | .claimedInstruction w => unpackBase w
  | _ => { ty := 0, a := 0, b := 0, c := 0, mod := 0 }

/-- The instruction that OP and FN of a single word name, whatever its other fields hold. -/
def namedBy (w : Word) : Option Instr := decodeFixed (opOf w) (fnOf w) w

/-- The fields of an instruction that its encoding reads as specifiers or does not use, the others zero: slot numbers and the
bits of IMM32 are neither resolved nor checked (R156). -/
def specFields (i : Instr) : BaseF :=
  let spare (a b c : BitVec 8) : BaseF := { ty := 0, a := a, b := b, c := c, mod := 0 }
  match i with
  | .li f => spare f.a f.b 0
  | .liZ f => spare f.a f.b 0
  | .mm f => spare 0 0 f.c
  | .mmDrain f => spare 0 (if f.fn.getLsbD 3 then 0 else f.b) f.c
  | .mmDrainQ0 f => spare f.a (if f.fn.getLsbD 3 then 0 else f.b) f.c
  | .mmGangOff f => spare f.a f.b f.c
  | .cp f => spare 0 0 f.c
  | .cpQ2 f => spare f.a 0 f.c
  | .cpQ3 f => spare 0 f.b f.c
  | .cpFill f => spare 0 f.b f.c
  | .tlbInvAll f => spare f.a f.b f.c
  | i => baseOf i

/-- The A, B and C operands of an instruction as `withOps` reads them. -/
def opsOf (i : Instr) : List (Want × BitVec 8) :=
  let w := wantsOf i
  let f := baseOf i
  (if w.1 = .none then [] else [(w.1, f.a)]) ++ (if w.2.1 = .none then [] else [(w.2.1, f.b)])
    ++ (if w.2.2 = .none then [] else [(w.2.2, f.c)])

/-- The operands of an engine command: a `vnar` by 4 has a fourth (R247). -/
def pushOps (i : Instr) : List (Want × BitVec 8) :=
  opsOf i ++
    (match i with
      | .vnar f =>
        if tyWidth (styOf f) = 4 * tyWidth f.ty.toNat then [(.vec (styOf f) (f.mod.getLsbD 10), f.mod.extractLsb' 16 8)] else []
      | _ => [])

end Sys2Proof.Machine
end

