-- ==== Sys2Proof/Machine/Lanes.lean ====
section
/-! DEFINITION. What a vector instruction computes from the values of its operands and the stochastic state SRV: lane
arithmetic, moves, reductions, scans, conversions and special functions (R230 to R249). -/

namespace Sys2Proof.Machine

/-- The numeric fields of a vector instruction (R213). -/
structure VMod where
  ty : Nat
  rm : Rm
  sat : Bool
  ftz : Bool
  uns : Bool
  deriving DecidableEq, Repr

/-- The fields of a base-form instruction. -/
def vmodOf (f : BaseF) : VMod :=
  { ty := f.ty.toNat, rm := rmOf (bitsNat f.mod 2 3), sat := f.mod.getLsbD 1, ftz := f.mod.getLsbD 5, uns := f.mod.getLsbD 0 }

/-- The format of a floating TY; f32 where TY has none (it never reaches a use then). -/
def VMod.fmt (m : VMod) : FFmt := (fmtOf m.ty).getD f32F
/-- Lane width. -/
def VMod.w (m : VMod) : Nat := tyWidth m.ty

/-- A float lane read with the input flush of R31. -/
def VMod.fp (m : VMod) (bits : Nat) : Fp := numFp (numOf m.ty false m.ftz bits)
/-- An integer lane (R23). -/
def VMod.int (m : VMod) (bits : Nat) : Int := readInt m.w m.uns bits

/-- What the pops of an instruction draw in a lane before its operation does (R29): the state after them. -/
abbrev Pre := Nat → BitVec 32 → BitVec 32

/-- No operand draws. -/
def noPre : Pre := fun _ sr => sr

/-- Apply a lane function to every active lane in ascending order, inactive lanes being zero; the stochastic state runs
through it, past what the pops of each lane draw. -/
def mapLanes (pre : Pre) (n : Nat) (act : Nat → Bool) (f : Nat → BitVec 32 → Nat × BitVec 32) (sr : BitVec 32) :
    List Nat × BitVec 32 :=
  let r := (List.range n).foldl
    (fun (x : List Nat × BitVec 32) i =>
      let sr := pre i x.2
      if act i then let y := f i sr; (y.1 :: x.1, y.2) else (0 :: x.1, sr)) ([], sr)
  (r.1.reverse, r.2)

/-- A lane result rounded under R28, R30 and R31, with its draw (R29). -/
def VMod.round (m : VMod) (x : Fp) (sr : BitVec 32) : Nat × BitVec 32 :=
  let sr := drawFor m.rm sr
  (roundF m.fmt false m.rm sr.toNat m.sat m.ftz x, sr)

/-- An exact float written back: NaN canonical, subnormals flushed under FTZ. -/
def VMod.exact (m : VMod) (x : Fp) : Nat := roundF m.fmt false .rne 0 false m.ftz x

/-- The lesser or greater of two floats (R231). -/
def minMaxFp (mx : Bool) (x y : Fp) : Fp :=
  if isNanFp x || isNanFp y then .nan
  else
    let less := ltFp x y || (eqFp x y && signFp x && !signFp y)
    if less != mx then x else y

/-- Two-operand arithmetic of R231. -/
inductive VArith where
  | add | sub | mul | min | max | abs | neg
  deriving DecidableEq, Repr

/-- One lane of R231 at an integer type. -/
def VMod.arithInt (m : VMod) (op : VArith) (a b : Nat) : Nat :=
  let x := m.int a
  let y := m.int b
  storeInt m.w m.uns m.sat (match op with
    | .add => x + y | .sub => x - y | .mul => x * y | .min => min x y | .max => max x y | .abs => (x.natAbs : Int)
    | .neg => -x)

/-- One lane of R231. -/
def VMod.arith (m : VMod) (op : VArith) (a b : Nat) (sr : BitVec 32) : Nat × BitVec 32 :=
  if isIntTy m.ty then (m.arithInt op a b, sr)
  else
    let x := m.fp a
    let y := m.fp b
    let rdn := m.rm == .rdn
    match op with
    | .add => m.round (addFp rdn x y) sr
    | .sub => m.round (addFp rdn x (negFp y)) sr
    | .mul => m.round (mulFp x y) sr
    | .min => (m.exact (minMaxFp false x y), sr)
    | .max => (m.exact (minMaxFp true x y), sr)
    | .abs => (m.exact (absFp x), sr)
    | .neg => (m.exact (negFp x), sr)

/-- One lane of the fused family (R232). -/
def VMod.fused (m : VMod) (negP negC : Bool) (a b c : Nat) (sr : BitVec 32) : Nat × BitVec 32 :=
  let p := mulFp (m.fp a) (m.fp b)
  let p := if negP then negFp p else p
  let z := if negC then negFp (m.fp c) else m.fp c
  m.round (addFp (m.rm == .rdn) p z) sr

/-! Reductions and scans (R41, R42, R243, R244). -/

/-- The operations of `vred`. -/
inductive Red where
  | sum | min | max | and | or | xor
  deriving DecidableEq, Repr

/-- The identity an inactive lane takes. -/
def VMod.identity (m : VMod) (r : Red) : Nat :=
  if isIntTy m.ty then
    match r with
    | .sum => 0
    | .min => wrapNat m.w (intMax m.w m.uns)
    | .max => wrapNat m.w (intMin m.w m.uns)
    | .and => 2 ^ m.w - 1
    | .or => 0
    | .xor => 0
  else
    match r with
    | .sum => packF m.fmt true 0 0
    | .min => infBits m.fmt false
    | .max => infBits m.fmt true
    | _ => 0

/-- One node of a reduction. -/
def VMod.node (m : VMod) (r : Red) (a b : Nat) (sr : BitVec 32) : Nat × BitVec 32 :=
  match r with
  | .sum => m.arith .add a b sr
  | .min => m.arith .min a b sr
  | .max => m.arith .max a b sr
  | .and => (a &&& b, sr)
  | .or => (a ||| b, sr)
  | .xor => (a ^^^ b, sr)

/-- One level of the pairing tree, in ascending pair order. -/
def VMod.level (m : VMod) (r : Red) : List Nat → BitVec 32 → List Nat × BitVec 32
  | a :: b :: xs, sr =>
    let (v, sr) := m.node r a b sr
    let (vs, sr) := m.level r xs sr
    (v :: vs, sr)
  | l, sr => (l, sr)

/-- The pairing tree over 2^`levels` lanes (R41). -/
def VMod.tree (m : VMod) (r : Red) : Nat → List Nat → BitVec 32 → Nat × BitVec 32
  | 0, l, sr => ((l[0]?).getD 0, sr)
  | n + 1, l, sr => let (l', sr) := m.level r l sr; m.tree r n l' sr

/-- Lane 0 of a scan is its input taken as the result of an operation (R42). -/
def VMod.scanHead (m : VMod) (r : Red) (a : Nat) (sr : BitVec 32) : Nat × BitVec 32 :=
  if isIntTy m.ty then (a, sr)
  else
    match r with
    | .sum => m.round (m.fp a) sr
    | _ => (m.exact (m.fp a), sr)

/-- The running results of a scan from lane `i` on, `x` being the result before it; a masked lane, which is replaced by
the identity, draws nothing (R29, R244). -/
def VMod.scanFrom (m : VMod) (pre : Pre) (r : Red) (act : Nat → Bool) (i : Nat) (x : Option Nat) :
    List Nat → BitVec 32 → List Nat × BitVec 32
  | [], sr => ([], sr)
  | a :: xs, sr =>
    let sr := pre i sr
    let y := match x with
      | none => m.scanHead r a sr
      | some x => m.node r x a sr
    let z := m.scanFrom pre r act (i + 1) (some y.1) xs (if act i then y.2 else sr)
    (y.1 :: z.1, z.2)

/-- The running results of a scan. -/
def VMod.scan (m : VMod) (pre : Pre) (r : Red) (act : Nat → Bool) (l : List Nat) (sr : BitVec 32) : List Nat × BitVec 32 :=
  m.scanFrom pre r act 0 none l sr

/-! Conversions (R222, R248). -/

/-- What a conversion is told: the source and target types and the numeric fields. -/
structure Conv where
  src : Nat
  dst : Nat
  suns : Bool
  uns : Bool
  rm : Rm
  sat : Bool
  ftz : Bool
  deriving DecidableEq, Repr

/-- cvt of one lane, with its draw. -/
def Conv.one (c : Conv) (bits : Nat) (sr : BitVec 32) : Nat × BitVec 32 :=
  let sr := drawFor c.rm sr
  (cvtTo c.dst c.uns c.rm sr.toNat c.sat c.ftz (numOf c.src c.suns c.ftz bits), sr)

/-- A whole result vector of a conversion: lane `i` takes the source lane that `pick` gives, `none` for an inactive
one. -/
def Conv.vec (c : Conv) (pre : Pre) (pick : Nat → Option Nat) (sr : BitVec 32) : Vec × BitVec 32 :=
  let (l, sr) := mapLanes pre (lanes c.dst) (fun i => (pick i).isSome) (fun i sr => c.one ((pick i).getD 0) sr) sr
  (ofLanes (tyWidth c.dst) l, sr)

/-! The whole instruction. -/

/-- The mask of an instruction: none when its C is 0x00 (R214). -/
def maskOf (f : BaseF) (v : Option Val) : Option Vec := if f.c = 0 then none else v.map Val.vec

/-- A lane-wise instruction of two vector operands and a mask. -/
def lanewise (pre : Pre) (f : BaseF) (vs : List Val) (sr : BitVec 32) (two : Bool)
    (op : Nat → Nat → BitVec 32 → Nat × BitVec 32) : List Val × BitVec 32 :=
  let m := vmodOf f
  let a := ((vs[0]?).map Val.vec).getD 0
  let b := if two then ((vs[1]?).map Val.vec).getD 0 else 0
  let mk := maskOf f (if two then vs[2]? else vs[1]?)
  let (l, sr) := mapLanes pre (lanes m.ty) (active mk m.w) (fun i sr => op (lane m.w a i) (lane m.w b i) sr) sr
  ([.vector (ofLanes m.w l)], sr)

/-- A lane-wise instruction that draws nothing. -/
def lanePure (f : BaseF) (vs : List Val) (sr : BitVec 32) (two : Bool) (op : Nat → Nat → Nat) : List Val × BitVec 32 :=
  lanewise noPre f vs sr two (fun a b sr => (op a b, sr))

/-- The fused family: three vectors, no mask. -/
def fusedOp (pre : Pre) (f : BaseF) (vs : List Val) (sr : BitVec 32) (negP negC : Bool) : List Val × BitVec 32 :=
  let m := vmodOf f
  let v (k : Nat) : Vec := ((vs[k]?).map Val.vec).getD 0
  let (l, sr) := mapLanes pre (lanes m.ty) (fun _ => true)
    (fun i sr => m.fused negP negC (lane m.w (v 0) i) (lane m.w (v 1) i) (lane m.w (v 2) i) sr) sr
  ([.vector (ofLanes m.w l)], sr)

/-- `vcmp` (R235). -/
def cmpLanes (f : BaseF) (vs : List Val) (sr : BitVec 32) (r : Rel) : List Val × BitVec 32 :=
  let m := vmodOf f
  lanePure f vs sr true (fun a b =>
    if (if isIntTy m.ty then relInt r (m.int a) (m.int b) else relFp r (m.fp a) (m.fp b)) then 2 ^ m.w - 1 else 0)

/-- The lanes of a reduction or scan with identities in the inactive ones. -/
def redInput (f : BaseF) (r : Red) (vs : List Val) : List Nat :=
  let m := vmodOf f
  let a := ((vs[0]?).map Val.vec).getD 0
  let mk := maskOf f vs[1]?
  (List.range (lanes m.ty)).map (fun i => if active mk m.w i then lane m.w a i else m.identity r)

/-- `vred` (R243). -/
def redOp (f : BaseF) (vs : List Val) (sr : BitVec 32) (r : Red) : List Val × BitVec 32 :=
  let m := vmodOf f
  let (v, sr) := m.tree r (Nat.log2 (lanes m.ty)) (redInput f r vs) sr
  ([.scalar (extend m.w (m.uns || !isIntTy m.ty) v)], sr)

/-- `vscan` (R244). -/
def scanOp (pre : Pre) (f : BaseF) (vs : List Val) (sr : BitVec 32) (r : Red) : List Val × BitVec 32 :=
  let m := vmodOf f
  let (l, sr) := m.scan pre r (active (maskOf f vs[1]?) m.w) (redInput f r vs) sr
  ([.vector (ofLanes m.w l)], sr)

/-- `vsfu` (R249). -/
def sfuOp (pre : Pre) (f : BaseF) (vs : List Val) (sr : BitVec 32) (fn : Sfu) : List Val × BitVec 32 :=
  let m := vmodOf f
  lanewise pre f vs sr false (fun a _ sr =>
    let sr := drawFor m.rm sr
    (sfuEval fn m.fmt m.rm sr.toNat m.sat m.ftz (m.fp a), sr))

/-- The conversion fields of R247. -/
def convOf (f : BaseF) : Conv :=
  { src := bitsNat f.mod 6 4, dst := f.ty.toNat, suns := f.mod.getLsbD 10, uns := f.mod.getLsbD 0,
    rm := rmOf (bitsNat f.mod 2 3), sat := f.mod.getLsbD 1, ftz := f.mod.getLsbD 5 }

/-- `vcvt` and `vwid` (R248): `r` results, result `t` taking the source lanes from `t` L on. -/
def widen (pre : Pre) (f : BaseF) (vs : List Val) (sr : BitVec 32) (r : Nat) : List Val × BitVec 32 :=
  let c := convOf f
  let a := ((vs[0]?).map Val.vec).getD 0
  let mk := maskOf f vs[1]?
  let ws := tyWidth c.src
  let z := (List.range r).foldl
    (fun (x : List Val × BitVec 32) t =>
      let y := c.vec (fun i => pre (t * lanes c.dst + i)) (fun i =>
        let j := t * lanes c.dst + i
        if active mk ws j then some (lane ws a j) else none) x.2
      (.vector y.1 :: x.1, y.2)) ([], sr)
  (z.1.reverse, z.2)

/-- `vnar` (R248). -/
def narrow (pre : Pre) (f : BaseF) (vs : List Val) (sr : BitVec 32) : List Val × BitVec 32 :=
  let c := convOf f
  let ls := lanes c.src
  let (v, sr) := c.vec pre (fun i => some (lane (tyWidth c.src) (((vs[i / ls]?).map Val.vec).getD 0) (i % ls))) sr
  ([.vector v], sr)

/-- What a vector instruction that only computes yields from its operands (R230 to R244, R247 to R249), `pre` being what its
pops draw lane by lane. -/
def vecEvalAt (pre : Pre) (i : Instr) (vs : List Val) (sr : BitVec 32) : List Val × BitVec 32 :=
  match i with
  | .vadd f => lanewise pre f vs sr true ((vmodOf f).arith .add)
  | .vsub f => lanewise pre f vs sr true ((vmodOf f).arith .sub)
  | .vmul f => lanewise pre f vs sr true ((vmodOf f).arith .mul)
  | .vmin f => lanewise pre f vs sr true ((vmodOf f).arith .min)
  | .vmax f => lanewise pre f vs sr true ((vmodOf f).arith .max)
  | .vabs f => lanewise pre f vs sr false ((vmodOf f).arith .abs)
  | .vneg f => lanewise pre f vs sr false ((vmodOf f).arith .neg)
  | .vfma f => fusedOp pre f vs sr false false
  | .vfms f => fusedOp pre f vs sr false true
  | .vfnma f => fusedOp pre f vs sr true false
  | .vfnms f => fusedOp pre f vs sr true true
  | .vand f => lanePure f vs sr true (fun a b => a &&& b)
  | .vor f => lanePure f vs sr true (fun a b => a ||| b)
  | .vxor f => lanePure f vs sr true (fun a b => a ^^^ b)
  | .vandn f => lanePure f vs sr true (fun a b => a &&& (2 ^ (vmodOf f).w - 1 - b))
  | .vnot f => lanePure f vs sr false (fun a _ => 2 ^ (vmodOf f).w - 1 - a)
  | .vshl f => lanePure f vs sr true (shlNat (vmodOf f).w)
  | .vshr f => lanePure f vs sr true (shrNat (vmodOf f).w)
  | .vsar f => lanePure f vs sr true (sarNat (vmodOf f).w)
  | .vclz f => lanePure f vs sr false (fun a _ => clzNat (vmodOf f).w a)
  | .vffs f => lanePure f vs sr false (fun a _ => ffsNat (vmodOf f).w a)
  | .vpopc f => lanePure f vs sr false (fun a _ => popcNat (vmodOf f).w a)
  | .vcmpEq f => cmpLanes f vs sr .eq
  | .vcmpNe f => cmpLanes f vs sr .ne
  | .vcmpLt f => cmpLanes f vs sr .lt
  | .vcmpLe f => cmpLanes f vs sr .le
  | .vcmpGt f => cmpLanes f vs sr .gt
  | .vcmpGe f => cmpLanes f vs sr .ge
  | .vsel f =>
    let m := vmodOf f
    let v (k : Nat) : Vec := ((vs[k]?).map Val.vec).getD 0
    ([.vector (ofLanes m.w ((List.range (lanes m.ty)).map (fun i =>
      if (v 0).getLsbD (m.w * i) then lane m.w (v 1) i else lane m.w (v 2) i)))], sr)
  | .vmulh f => lanePure f vs sr true (fun a b => intMulh (vmodOf f).w ((vmodOf f).int a) ((vmodOf f).int b))
  | .vbc f =>
    let m := vmodOf f
    let mk := maskOf f vs[1]?
    ([.vector (ofLanes m.w ((List.range (lanes m.ty)).map (fun i => if active mk m.w i then (w0 vs).toNat % 2 ^ m.w else 0)))], sr)
  | .vbcLane f =>
    let m := vmodOf f
    let mk := maskOf f vs[2]?
    let x := lane m.w (((vs[0]?).map Val.vec).getD 0) ((w1 vs).toNat % lanes m.ty)
    ([.vector (ofLanes m.w ((List.range (lanes m.ty)).map (fun i => if active mk m.w i then x else 0)))], sr)
  | .vext f =>
    let m := vmodOf f
    let x := lane m.w (((vs[0]?).map Val.vec).getD 0) ((w1 vs).toNat % lanes m.ty)
    ([.scalar (extend m.w (m.uns || !isIntTy m.ty) x)], sr)
  | .vins f =>
    let m := vmodOf f
    let a := ((vs[0]?).map Val.vec).getD 0
    let k := (w2 vs).toNat % lanes m.ty
    ([.vector (setBits a (m.w * k) m.w (w1 vs).toNat)], sr)
  | .vperm f =>
    let m := vmodOf f
    let a := ((vs[0]?).map Val.vec).getD 0
    let b := ((vs[1]?).map Val.vec).getD 0
    let mk := maskOf f vs[2]?
    ([.vector (ofLanes m.w ((List.range (lanes m.ty)).map (fun i =>
      if active mk m.w i then lane m.w a (lane m.w b i % lanes m.ty) else 0)))], sr)
  | .vrot f =>
    let m := vmodOf f
    let a := ((vs[0]?).map Val.vec).getD 0
    let mk := maskOf f vs[2]?
    ([.vector (ofLanes m.w ((List.range (lanes m.ty)).map (fun i =>
      if active mk m.w i then lane m.w a ((i + (w1 vs).toNat) % lanes m.ty) else 0)))], sr)
  | .vredSum f => redOp f vs sr .sum
  | .vredMin f => redOp f vs sr .min
  | .vredMax f => redOp f vs sr .max
  | .vredAnd f => redOp f vs sr .and
  | .vredOr f => redOp f vs sr .or
  | .vredXor f => redOp f vs sr .xor
  | .vscanSum f => scanOp pre f vs sr .sum
  | .vscanMin f => scanOp pre f vs sr .min
  | .vscanMax f => scanOp pre f vs sr .max
  | .vcvt f => widen pre f vs sr 1
  | .vwid f => widen pre f vs sr (tyWidth f.ty.toNat / tyWidth (convOf f).src)
  | .vnar f => narrow pre f vs sr
  | .vexp2 f => sfuOp pre f vs sr .exp2
  | .vlog2 f => sfuOp pre f vs sr .log2
  | .vrcp f => sfuOp pre f vs sr .rcp
  | .vrsq f => sfuOp pre f vs sr .rsq
  | .vsqrt f => sfuOp pre f vs sr .sqrt
  | .vtanh f => sfuOp pre f vs sr .tanh
  | _ => ([], sr)

/-- What a vector instruction yields whose operands draw nothing. -/
def vecEval (i : Instr) (vs : List Val) (sr : BitVec 32) : List Val × BitVec 32 := vecEvalAt noPre i vs sr

/-- Whether a vector instruction draws once in every active lane (R29). -/
def drawsLane : Instr → Bool
  | .vadd f | .vsub f | .vmul f | .vfma f | .vfms f | .vfnma f | .vfnms f | .vscanSum f =>
    (vmodOf f).rm == .sr && !isIntTy f.ty.toNat
  | .vcvt f | .vwid f | .vnar f => (convOf f).rm == .sr
  | .vexp2 f | .vlog2 f | .vrcp f | .vrsq f | .vsqrt f | .vtanh f => (vmodOf f).rm == .sr
  | _ => false

end Sys2Proof.Machine
end

