-- ==== Sys2Proof/Machine/Fetch.lean ====
section
/-! DEFINITION. Code words (R143, R149), passing control to a block (R67, R68), and what stands at an agent's virtual
PC: an instruction, a fault, a patch slot's action (R152 to R155), or a block not installed yet. -/

namespace Sys2Proof.Machine

/-- Whether an agent executes service code: a service core, or a core inside an EMULATE routine (R156). -/
def State.inService (s : State) (a : Agent) : Bool :=
  match a with
  | .core g => isSvc g || (s.core g).emul.isSome
  | _ => false

/-- Whether an agent is a service core. -/
def isSvcAgent : Agent → Bool
  | .core g => isSvc g
  | _ => false

/-- The die whose translator serves an agent (R142). -/
def dieOfAgent : Agent → Nat
  | .core g => dieOf g
  | .sfe p => hostDie p
  | .die d => d
  | .entry p _ => hostDie p

/-- The partition an agent works for. -/
def State.partOfAgent (s : State) (a : Agent) : Nat :=
  match a with
  | .core g => (s.core g).part
  | .sfe p => p
  | .entry p _ => p
  | .die _ => 0

/-- The root of the page table code is fetched through. -/
def State.codeRoot (s : State) (a : Agent) : Nat :=
  if s.inService a then (s.die (dieOfAgent a)).svcRoot else (s.part (s.partOfAgent a)).ptroot.toNat

/-- The code object id of an agent's text; service code has id 0 (R142, R336). -/
def State.codeObj (s : State) (a : Agent) : Nat :=
  if s.inService a then 0 else ((s.part (s.partOfAgent a)).obj.map (·.id)).getD 0

/-- The text section an agent runs in: first byte and end (R47, R68). A routine's text is its area (R156); the
service's own text is the rest of its space. -/
def State.textOf (s : State) (a : Agent) : Nat × Nat :=
  match a with
  | .core g =>
    if isSvc g then (0, 2 ^ 48)
    else if (s.core g).emul.isSome then
      ((s.routineArea g).1, (s.routineArea g).1 + (s.routineArea g).2)
    else
      match (s.part (s.core g).part).obj with
      | some o => (o.kernLo, o.kernHi)
      | none => (0, 0)
  | .sfe p =>
    match (s.part p).obj with
    | some o => (o.streamLo, o.streamHi)
    | none => (0, 0)
  | _ => (0, 0)

/-- The path of a code word. Service text and routines in pinned memory are read as R377 says. -/
def State.codePath (s : State) (a : Agent) (va : Nat) : Except CodeFault Path :=
  match s.xlate (s.codeRoot a) va { Need.code with user := !s.inService a } with
  | .error c =>
    .error (if c.code = cPAGE then .notPresent else if c.code = cPROT then .prot else .integrity)
  | .ok p =>
    let d := dieOfAgent a
    .ok (if s.inService a && s.pinned d p.pa then { p with home := d, ccls := 2, key := 0 } else p)

/-- Read a code word at its home L2 (R143): an error or poison it is read with is INTEGRITY (R148). -/
def State.readCode (s : State) (a : Agent) (va : Nat) : Except CodeFault Word :=
  match s.codePath a va with
  | .error f => .error f
  | .ok p =>
    match (s.readPath none p 8 [.l2]).1 with
    | .error _ => .error .integrity
    | .ok w => .ok (BitVec.ofNat 64 w)

/-- The words of the instruction at a virtual PC as far as they can be read. -/
def State.wordsAt (s : State) (a : Agent) (v : Nat) : List Word :=
  ((List.range maxInstrWords).map (fun i => s.readCode a (v + 8 * i))).foldr
    (fun r ws => match r with
      | .ok w => w :: ws
      | .error _ => []) []

/-- The words from `va` up to the next word of OP 0x01, which ends the block, or the end of the text section (R67); those
that cannot be read, with their places from `i` on; and the word that ends them (R149). -/
def State.lowerFrom (s : State) (a : Agent) (hi va i : Nat) : Nat → List Word × List (Nat × CodeFault) × Option Word
  | 0 => ([], [], none)
  | n + 1 =>
    if hi ≤ va then ([], [], none)
    else
      match s.readCode a va with
      | .error f =>
        let r := s.lowerFrom a hi (va + 8) (i + 1) n
        (0 :: r.1, (i, f) :: r.2.1, r.2.2)
      | .ok w =>
        if opOf w == 1 && i != 0 then ([], [], some w)
        else
          let r := s.lowerFrom a hi (va + 8) (i + 1) n
          (w :: r.1, r.2.1, r.2.2)

/-- The virtual PC of the `enter` of the block a context needs: the one it has reached, or that of a stale block. -/
def Ctx.enterPc (c : Ctx) : Nat :=
  match c.blk with
  | some b => if b.stale then b.vpc else c.vpc
  | none => c.vpc

/-- Lower the block whose `enter` an agent has reached (R142, R149), under the patch slots of the moment (R152). -/
def State.lowerBlock (s : State) (a : Agent) : Block :=
  let at' := (s.ctxOf a).enterPc
  let hi := (s.textOf a).2
  let r := s.lowerFrom a hi at' 0 ((hi - at') / 8)
  { obj := s.codeObj a, vpc := at', part := s.partOfAgent a, words := r.1, bad := r.2.1, next := r.2.2,
    slots := if s.inService a then [] else (s.die (dieOfAgent a)).patches,
    routine := s.inService a && !isSvcAgent a, stale := false }

/-- Whether the translator of a die has been stopped by a `patch.ld` that waits (R159). Service code and routines are
lowered all the same (assumption 19). -/
def State.xlateStopped (s : State) (d : Nat) : Bool :=
  match (s.core (svcOf d)).wait with
  | some { kind := .patchLd _ _, stall := _, bound := _ } => true
  | _ => false

/-- Whether the translator serves an agent now. -/
def State.xlateServes (s : State) (a : Agent) : Bool := s.inService a || !s.xlateStopped (dieOfAgent a)

/-- The contexts that the cores of a die run, with those an EMULATE routine or a service trap keeps. A killed or saved
context executes nothing any more (R145). -/
def State.coreCtxs (s : State) (d : Nat) : List Ctx :=
  let ofCore (g : Nat) : List Ctx :=
    let c := s.core g
    if !isSvc g && (c.cstate == .idle || c.cstate == .killed || c.cstate == .saved) then []
    else [c.ctx] ++ (match c.emul with
      | some e => [e.kept]
      | none => []) ++ c.svcKept.toList
  (((List.range 16).map (d * 16 + ·)) ++ [svcOf d]).flatMap ofCore

/-- The contexts a die runs: those of its cores and of the streams it hosts. -/
def State.dieCtxs (s : State) (d : Nat) : List Ctx :=
  s.coreCtxs d ++ ((List.range 16).filter (fun p => hostDie p = d && (s.part p).sfe.running)).map (fun p => (s.part p).sfe.ctx)

/-- Whether some core of a die executes a block at the moment (R145). -/
def State.pinnedBlock (s : State) (d : Nat) (b : Block) : Bool :=
  (s.coreCtxs d).any (fun c => match c.blk with
    | some x => x.obj == b.obj && x.vpc == b.vpc
    | none => false)

/-- Whether an installed block is still in the index: one pinned at the eviction of its generation leaves it once no
core executes it (R145). -/
def State.indexed (s : State) (d : Nat) (x : Installed) : Bool := !x.pinned || s.pinnedBlock d x.blk

/-- An installed block, looked up in the index of an agent's die (R142); none while the translator is stopped. -/
def State.findBlock (s : State) (a : Agent) : Option Block :=
  let at' := (s.ctxOf a).enterPc
  if !s.xlateServes a then none
  else ((s.die (dieOfAgent a)).index.find? (fun x =>
    x.blk.obj == s.codeObj a && x.blk.vpc == at' && s.indexed (dieOfAgent a) x)).map (·.blk)

/-- The cause a code fault is reported as (R74, R148). -/
def codeCause (f : CodeFault) : Cause :=
  match f with
  | .heap => { code := cTRANSLATE, sub := 1 }
  | .illegal => { code := cILLEGAL }
  | .operand => { code := cOPERAND }
  | .carry => { code := cTRANSLATE, sub := 4 }
  | .cls => { code := cTRANSLATE, sub := 5 }
  | .notPresent => { code := cTRANSLATE, sub := 6 }
  | .integrity => { code := cTRANSLATE, sub := 7 }
  | .patch => { code := cTRANSLATE, sub := 8 }
  | .priv => { code := cPRIV }
  | .prot => { code := cPROT, noData := true }

/-- The checks of R68 on passing control to a block: the fault, or none. -/
def State.checkTarget (s : State) (a : Agent) (target : Int) (kinds : List Bool) : Option CodeFault :=
  let t := s.textOf a
  if target < (t.1 : Int) || (t.2 : Int) ≤ target then some .carry
  else
    match s.readCode a target.toNat with
    | .error f => some f
    | .ok w => if enterKinds w == some kinds then none else some .carry

/-- The kinds of operand slots. -/
def slotKinds (l : List Slot) : List Bool :=
  l.map (fun x => match x with
    | .ready v => v.isVec
    | .pending k _ => k)

/-- Drop a block from the index of a die. -/
def State.unindex (s : State) (d obj vpc : Nat) : State :=
  s.modDie d (fun x => { x with index := x.index.filter (fun i => !(i.blk.obj == obj && i.blk.vpc == vpc)) })

/-- A block that holds a NOTPRESENT or INTEGRITY fault leaves the index when the fault is taken, unless it belongs to
a routine (R149, R336). -/
def State.dropFaulty (s : State) (a : Agent) (f : CodeFault) : State :=
  if (f == .notPresent || f == .integrity) && (isSvcAgent a || !s.inService a) then
    let c := s.ctxOf a
    let at' := (c.blk.map (·.vpc)).getD c.vpc
    (s.unindex (dieOfAgent a) (s.codeObj a) at').modCtx a
      (fun c => { c with blk := c.blk.map (fun b => { b with stale := true }) })
  else s

/-! Templates (R155). -/

/-- TLEN, MODS and REMATCH of a slot. -/
def Patch.tlen (p : Patch) : Nat := bitsNat p.ctrl 22 5
/-- MODS of a slot. -/
def Patch.mods (p : Patch) : Bool := p.ctrl.getLsbD 27
/-- REMATCH of a slot. -/
def Patch.rematch (p : Patch) : Bool := p.ctrl.getLsbD 28
/-- CLAIMV of a slot. -/
def Patch.claims (p : Patch) : Bool := p.ctrl.getLsbD 31
/-- CLAIM of a slot. -/
def Patch.claimOp (p : Patch) : Nat := bitsNat p.ctrl 32 8
/-- A template word after the substitution of TY 0xF and of MODS. -/
def substWord (matched : Word) (mods : Bool) (w : Word) : Word :=
  let w := if bitsNat w 48 4 = 15 then setBits w 48 4 (bitsNat matched 48 4) else w
  if mods then w ||| BitVec.ofNat 64 (bitsNat matched 0 24) else w

/-- The kinds of a claimed opcode's results (NRES, RKIND). -/
def Patch.claimKinds (p : Patch) : List Bool := (List.range (bitsNat p.ctrl 17 3)).map (fun i => p.ctrl.getLsbD (13 + i))

/-- The slot of a table that claims an opcode for a partition (R154). -/
def claimFor (slots : Tab Patch) (part op : Nat) : Option Nat :=
  (List.range 32).find? (fun n =>
    let p := tget Patch.reset slots n
    p.valid && p.claims && p.claimOp == op && p.forPart part)

/-- Whether a word hosts a LIT64 word (R61). -/
def isLitHost (w : Word) : Bool := opOf w == 0x15 && fnOf w == 2

/-- The kinds of an instruction's results where it stands: `keep` has that of its operand (R168). -/
def resultKinds (c : Ctx) (i : Instr) : List Bool :=
  match i with
  | .keep f =>
    (match xKind (c.expand f.a) with
      | .dist d => [(c.kindAt d).getD false]
      | _ => [false])
  | i => kindsOf i

/-- The kinds of results of the word at a context: of the claim on its opcode, or of the instruction that OP and FN name. -/
def matchedKinds (slots : Tab Patch) (part : Nat) (c : Ctx) (w : Word) : List Bool :=
  if 0xF0 ≤ (opOf w).toNat then
    (match claimFor slots part (opOf w).toNat with
      | some n => (tget Patch.reset slots n).claimKinds
      | none => [])
  else if isLitHost w then [false]
  else
    match namedBy w with
    | some i => resultKinds c i
    | none => []

/-- A KIND 0 match of a word under a table of slots (R152, R153), for contexts of partitions only. -/
def match0 (slots : Tab Patch) (part : Nat) (w : Word) : Option Nat :=
  if opOf w == 0x0E || opOf w == 0x0F || (0xC0 ≤ (opOf w).toNat && (opOf w).toNat ≤ 0xEF) then none
  else slotFor slots part 0 w

/-- The A, B and C operands of a matched word as an EMULATE routine takes them (R156): each field that the encoding reads as
a specifier, unless it is 0x00; and the fourth of a `vnar` by 4, which is resolved too (R337). A field that the instruction
does not use keeps what it holds, which is to be 0x00 (R63). What else makes the word ILLEGAL is displaced (R74). -/
def routineArgs (w : Word) : List (Want × BitVec 8) :=
  let arg (k : Want) (x : BitVec 8) : Want × BitVec 8 := if x = 0 then (.none, 0) else (k, x)
  if 0xF0 ≤ (opOf w).toNat then
    let f := unpackBase w
    [arg .any f.a, arg .any f.b, arg .any f.c]
  else
    match namedBy w with
    | some i =>
      let k := wantsOf i
      let b := specFields i
      [arg k.1 b.a, arg k.2.1 b.b, arg k.2.2 b.c] ++ (pushOps i).drop (opsOf i).length
    | none => [(.none, 0), (.none, 0), (.none, 0)]

/-- Whether an operand of a routine is legal, in a field that the instruction does not use too (R63). -/
def argOk (c : Ctx) (o : Want × BitVec 8) : Bool := specOk c false o.1 o.2

/-- Whether a `ld` or `st` has a form that stream text does not have: the pad, or a hint (R177). -/
def streamMem (a : Agent) (w : Word) : Bool :=
  isStream a && (opOf w == 0x30 || opOf w == 0x31) && bitsNat (fnOf w) 0 3 != 0

/-- Whether a word of a template belongs to a class or needs a mode that its text does not have (R75); service code has
no templates. -/
def tmplClassBad (a : Agent) (w : Word) : Bool :=
  let op := (opOf w).toNat
  (0xB0 ≤ op && op ≤ 0xB9)
    || (isStream a && !(op ≤ 0x0A || (0x10 ≤ op && op ≤ 0x15) || op == 0x30 || op == 0x31 || op == 0x36))

/-- Whether an instruction takes something from a port or a channel (R147). -/
def takes (c : Ctx) (i : Instr) : Bool :=
  (pushOps i).any (fun o => match xKind (c.expand o.2) with
    | .port _ => true
    | .pop _ => true
    | _ => false)

/-- The words of a template after substitution. -/
def Patch.tmplWords (p : Patch) (matched : Word) : List Word :=
  ((p.tarea.drop (p.target.toNat / 8)).take p.tlen).map (substWord matched p.mods)

/-- The template of a slot for a matched word, before its words are checked. -/
def Patch.tmpl (p : Patch) (matched : Word) (len : Nat) (kinds : List Bool) (again : Bool) : Tmpl :=
  { rest := p.tmplWords matched, matched := matched, len := len, made := 0, kinds := kinds, again := p.rematch && again }

/-- Whether a word of a template is legal by itself (R155): a single-word instruction that is not ILLEGAL, CLASS, PRIV or
OPERAND, with an effect other than a value only where `last` allows one. -/
def tmplWordOk (slots : Tab Patch) (part : Nat) (a : Agent) (c : Ctx) (last : Bool) (w : Word) : Bool :=
  let op := (opOf w).toNat
  if (1 ≤ op && op ≤ 4) || op == 0x0E || op == 0x0F || (0xA0 ≤ op && op ≤ 0xAD) then false
  else if 0xF0 ≤ op then
    last && (match claimFor slots part op with
      | some n => bitsNat (tget Patch.reset slots n).ctrl 29 2 != (if isStream a then 0 else 1)
      | none => false)
  else
    match decode [w] with
    | .ok (i, n) =>
      n == 1 && !tmplClassBad a w && !streamMem a w && (last || (producesOnly i && !takes c i))
        && (pushOps i).all (fun o => specOk c (isStream a) o.1 o.2)
    | .error _ => false

/-- The kinds of values that the words of a template produce, none where one of them breaks a limit of R155 or is ILLEGAL,
CLASS, PRIV or OPERAND (R74). `c` is the context at the next word; `again` says that the words are matched once more, the
template of such a match being checked with them; `tail` that the last word may have an effect. A word of a claimed opcode
that such a match rewrites has the effects of its template. -/
def tmplRun (slots : Tab Patch) (part : Nat) (a : Agent) : Nat → Bool → Bool → Ctx → List Word → Option (List Bool)
  | 0, _, _, _, _ => none
  | fuel + 1, again, tail, c, ws =>
    ((ws.zipIdx).foldl (fun (r : Option (Ctx × List Bool)) x =>
      match r with
      | none => none
      | some (c, ks) =>
        let w := x.1
        let last := tail && x.2 + 1 == ws.length
        let k := matchedKinds slots part c w
        let ok : Bool :=
          match (if again then match0 slots part w else none) with
          | some n =>
            let p := tget Patch.reset slots n
            tmplWordOk slots part a c (last || (p.action = 1 && 0xF0 ≤ (opOf w).toNat)) w &&
              (p.action != 2 || isStream a || (routineArgs w).all (argOk c)) && (p.action != 1 ||
                (p.tmplWords w != [] && (p.tmplWords w).length == p.tlen &&
                  (match tmplRun slots part a fuel false last { c with tmpl := p.tmpl w 1 k false :: c.tmpl } (p.tmplWords w) with
                    | some made => k.length ≤ made.length && made.drop (made.length - k.length) == k
                    | none => false)))
          | none => tmplWordOk slots part a c last w
        if ok then some (c.push (pendings 0 k), ks ++ k) else none) (some (c, []))).map (·.2)

/-- The template of a slot as it is lowered for the word at a context, or none when it is translation fault PATCH. -/
def lowerTmpl (slots : Tab Patch) (part : Nat) (a : Agent) (c : Ctx) (n : Nat) (matched : Word) (again : Bool) :
    Option Tmpl :=
  let p := tget Patch.reset slots n
  let k := matchedKinds slots part c matched
  let t := p.tmpl matched 1 k again
  match tmplRun slots part a 2 t.again true { c with tmpl := t :: c.tmpl } t.rest with
  | none => none
  | some made =>
    if t.rest != [] && t.rest.length = p.tlen && k.length ≤ made.length && made.drop (made.length - k.length) == k then some t
    else none

/-! What stands at the virtual PC. -/

/-- What an agent finds at its virtual PC. -/
inductive Found where
  | instr (i : Instr)
  | fault (f : CodeFault)
  | absent
  | install (b : Block)
  | patchTrap (slot : Nat) (kinds : List Bool) (len : Nat)
  | rewrite (t : Tmpl)
  | emulate (slot : Nat) (w : Word)
  deriving DecidableEq, Repr

/-- What a word becomes, the patch slots its block was lowered under first. `ws` are the words behind it that could be
read, and `cut` the fault of an instruction that needs more. A template word of another class is translation fault PATCH
(R74). -/
def State.lookWord (s : State) (a : Agent) (slots : Tab Patch) (w : Word) (ws : List Word) (cut : CodeFault)
    (again : Bool) (inTmpl : Bool) : Found :=
  let c := s.ctxOf a
  let part := s.partOfAgent a
  let dec := decode (w :: ws)
  let plain : Found :=
    match dec with
    | .ok (i, _) => if inTmpl && tmplClassBad a w then .fault .patch else .instr i
    | .error .notPresent => .fault cut
    | .error f => .fault f
  match (if s.inService a || (inTmpl && !again) then none else match0 slots part w) with
  | none => plain
  | some n =>
    let p := tget Patch.reset slots n
    let op := (opOf w).toNat
    let len := match dec with
      | .ok (_, l) => l
      | .error _ => 1
    let forced := match dec with
      | .ok (i, _) => trapOnly i
      | .error _ => (1 ≤ op && op ≤ 4) || op == 0xA3 || isLitHost w || (op == 0xB0 && fnOf w == 0)
    if p.action = 0 || forced || (p.action = 2 && isStream a) then .patchTrap n (matchedKinds slots part c w) len
    else if p.action = 1 then
      if c.full (matchedKinds slots part c w).length then .fault .operand
      else
      match lowerTmpl slots part a c n w (!inTmpl) with
      | some t => .rewrite t
      | none => .fault .patch
    else .emulate n w

/-- The first word of a block from word `i` on that could not be read, with its fault. -/
def Block.badFrom (b : Block) (i : Nat) : Option (Nat × CodeFault) := b.bad.find? (fun x => i ≤ x.1)

/-- The words of a block from word `i` on, up to one that could not be read. -/
def Block.readable (b : Block) (i : Nat) : List Word :=
  (match b.badFrom i with
    | some (j, _) => b.words.take j
    | none => b.words).drop i

/-- What stands at word `i` of a block. -/
def State.lookBlock (s : State) (a : Agent) (b : Block) (i : Nat) : Found :=
  match b.readable i, b.badFrom i, b.next with
  | w :: ws, some (_, f), _ => s.lookWord a b.slots w ws f false false
  | w :: ws, none, some _ => s.lookWord a b.slots w ws .illegal false false
  | w :: ws, none, none => s.lookWord a b.slots w ws .notPresent false false
  | [], some (_, f), _ => .fault f
  | [], none, none => .fault .notPresent
  | [], none, some w =>
    match s.lookWord a b.slots w [] .illegal false false with
    | .instr _ => .fault .carry
    | x => x

/-- What an agent finds at its virtual PC. -/
def State.look (s : State) (a : Agent) : Found :=
  let c := s.ctxOf a
  match c.tmpl with
  | t :: _ =>
    match t.rest with
    | w :: _ => s.lookWord a ((c.blk.map (·.slots)).getD []) w [] .illegal t.again true
    | [] => .fault .patch
  | [] =>
    match c.blk.filter (fun b => !b.stale) with
    | none =>
      match s.findBlock a with
      | some b => .install b
      | none => .absent
    | some b => s.lookBlock a b ((c.vpc - b.vpc) / 8)

/-- The kinds of results of the word at an agent's virtual PC, for a fault of it (R153). -/
def State.faultKinds (s : State) (a : Agent) : List Bool :=
  let c := s.ctxOf a
  match c.tmpl, c.blk with
  | [], some b =>
    (match b.words[(c.vpc - b.vpc) / 8]? with
      | some w => matchedKinds b.slots (s.partOfAgent a) c w
      | none => [])
  | _, _ => []

/-- A TRAP patch slot acts on an instruction (R153): PATCHTRAP with the slot in the record. In stream text it is a
stream trap of KIND 2. -/
def State.patchTrap (s : State) (a : Agent) (n : Nat) (kinds : List Bool) (len : Nat) : State :=
  match a with
  | .core g =>
    let v := (s.core g).ctx.vpc
    let i := { s.mkInfo g { code := cPATCHTRAP } v v 0 0 with slot := some n }
    s.trapMatched g ((s.core g).ctx.pend i kinds len) []
  | _ => s.trap a { code := cPATCHTRAP } kinds len

/-- An ERRBIT of R186 is taken at the sequencer's next instruction boundary (R296): the record names the killed
command's virtual PC, and the resume point is the boundary. The others still to be taken follow at the boundaries after it. -/
def State.takePendErr (s : State) (g seq vpc : Nat) (e : BitVec 6) : State :=
  let c : Cause := { code := cERRBIT, ecode := e.toNat }
  let s := s.modCore g (fun c => { c with pendErr := c.pendErr.drop 1 })
  match (s.core g).emul with
  | some r => s.routineTrouble g r c vpc
  | none =>
    if isSvc g then s.svcTrap g c [] 0 vpc (some (.m, seq))
    else
      let i := s.mkInfo g c vpc (s.core g).ctx.vpc 0 0
      s.trapMatched g { info := i, queue := some .m, cmdSeq := 0, kinds := [], len := 0 } []

/-- The ERRBIT that a core takes at its next instruction boundary, where one waits (R186): in a routine one of a command
that the routine pushed, in the handler of a service core one of a command that the handler pushed (R308). -/
def State.errBoundary (s : State) (g : Nat) : Option State :=
  match (s.core g).pendErr with
  | [] => none
  | (seq, vpc, e) :: _ =>
    let c := s.core g
    if c.emul.any (fun r => seq < r.seq) || (c.svcKept.isSome && seq < c.svcSeq) then none
    else some (s.takePendErr g seq vpc e)

end Sys2Proof.Machine
end

