-- ==== Sys2Proof/Machine/Queue.lean ====
section
/-! DEFINITION. The steps of the sequencer's access queues LQ and SQ (R181), atomics (R255), and the actions of releases
and acquires (R275). -/

namespace Sys2Proof.Machine

/-- Whether every write ordered before a release made now has performed, and no older access holds it back (R275). -/
def Core.writesDone (c : Core) : Bool := !(c.acc.any (fun x => x.op.isWrite || x.op.blocks))

/-- The oldest accesses, once nothing is before them: `align` performs (R281), and a descriptor that has been read enters
its slot (R87). -/
def Core.settleFrom (c : Core) : List Acc → Core
  | [] => { c with acc := [] }
  | x :: xs =>
    match x.op, x.stage with
    | .align, _ => c.settleFrom xs
    | .tdRec n, .performed => (c.setSlot n (BitVec.ofNat 256 (x.early.getD 0))).settleFrom xs
    | _, _ => { c with acc := x :: xs }

/-- The queues, settled. -/
def Core.settle (c : Core) : Core := c.settleFrom c.acc

/-- Take access `j` out of the queues. -/
def Core.dropAcc (c : Core) (j : Nat) : Core := Core.settle { c with acc := c.acc.eraseIdx j }

/-- Add an access behind the others. -/
def Core.addAcc (c : Core) (x : Acc) : Core := Core.settle { c with acc := c.acc ++ [x] }

/-- An access of an instruction at its context, before it is queued. -/
def mkAcc (c : Core) (op : AccOp) (pad : Bool) (addr size : Nat) (path : Path) (data hint : Nat) : Acc :=
  { op := op, pad := pad, addr := addr, size := size, path := path, data := data, dest := c.serials,
    stage := .waiting, committed := false, early := none, hint := hint, snap := c.ctx,
    bad := none }

/-- Queue an access of the current instruction; its results, if any, are positions that wait for it. -/
def Core.issueAcc (c : Core) (x : Acc) (results len : Nat) : Core :=
  let c := { c with
    serials := c.serials + results,
    ctx := (c.ctx.push ((List.range results).map (fun i => .pending false (c.serials + i)))).advance len }
  c.addAcc x

/-! The checks of R178. -/

/-- The checks on an address, in the order of R178: the path of the access, or the cause. -/
def State.checkAddr (s : State) (g : Nat) (pad : Bool) (a : Int) (n : Nat) (need : Need) : Except Cause Path × State :=
  let w := wrapNat 64 a
  if pad then
    if a % (n : Int) ≠ 0 then (.error { code := cALIGN, addr := w }, s)
    else if a < 0 ∨ (padBytes (s.core g) : Int) < a + n then (.error { code := cBOUNDS, addr := w }, s)
    else (.ok { pa := a.toNat, home := 0, ccls := 0, key := 0 }, s)
  else if a < 0 ∨ (2 ^ 48 : Int) < a + n then (.error { code := cPROT, addr := w }, s)
  else if a % (n : Int) ≠ 0 then (.error { code := cALIGN, addr := w }, s)
  else s.translate g a.toNat need

/-! Performing loads and stores. -/

/-- A loaded element extended to 64 bits: `bits` wide, the high nibble of its byte when `hi` (R178, R179). -/
def loadedWord (bits : Nat) (sx hi : Bool) (v : Nat) : Word :=
  extend bits (!sx) (if hi then v / 16 else v)

/-- Complete a load with what it has read. A `td.set.rec` stays until every older access has performed: its slot changes
only then (R147). -/
def State.finishLoad (s : State) (g j : Nat) (x : Acc) (v : Nat) : State :=
  s.modCore g (fun c =>
    match x.op with
    | .load bits sx hi => (c.dropAcc j).deliver x.dest (.scalar (loadedWord bits sx hi v))
    | .tdRec _ => Core.settle { c with acc := c.acc.set j { x with stage := .performed, early := some v } }
    | _ => c.dropAcc j)

/-- An access that finds poison traps at its own instruction (R76, R178): the context goes back to it and the younger
accesses are discarded. -/
def State.accTrap (s : State) (g j : Nat) (x : Acc) (c : Cause) (kinds : List Bool) : State :=
  let s := s.modCore g (fun k => { k with ctx := x.snap, acc := k.acc.take j, wait := none })
  s.trap (.core g) c kinds 1

/-- What an access in LQ or SQ traps with, and the kinds of its results. -/
def Acc.poisonCause (x : Acc) (e : BitVec 6) : Cause × List Bool :=
  ({ code := cPOISON, ecode := e.toNat, addr := x.addr },
    match x.op with
    | .tdRec _ => []
    | .store _ => []
    | _ => [false])

/-- Whether the sequencer of a core can take a trap of an access now: a stopped context takes it when it runs again. -/
def State.takesTrap (s : State) (g : Nat) : Bool := (s.core g).cstate == .run || (s.core g).cstate == .draining || isSvc g

/-- Whether a load, or one behind it, has been passed by a younger effect and would trap by now: then these loads take what
they would have read, all as of one moment (R147, R181, assumption 15). -/
def State.readsEarly (s : State) (g j : Nat) : Bool :=
  let l := (s.core g).acc.takeWhile (·.committed)
  (l.zipIdx).any (fun x => decide (j ≤ x.2) && x.1.op.isLoad && !x.1.hasRead && (s.wouldRead g (l.take x.2) x.1).isNone)

/-- LOAD_PERFORM (R181): the oldest load of LQ that has not performed does, forwarding from SQ or reading its storage. A
load past which a younger effect has been made does not trap any more: poison that came since leaves it what it would have
read before that (R147, assumption 15). -/
def State.loadPerform (s : State) (g : Nat) : State :=
  let c := s.core g
  match c.acc.findIdx? (fun x => x.op.isLoad && x.stage != .performed) with
  | none => s
  | some j =>
    match c.acc[j]? with
    | none => s
    | some x =>
      let older := c.acc.take j
      if !mayPass older x then s
      else
        match forwarded older x with
        | some v => s.finishLoad g j x v
        | none =>
          if older.any (fun y => y.op.isStore && y.meets x) || s.accHeld g x then s
          else
            match x.early, s.readsEarly g j with
            | some v, true => s.finishLoad g j x v
            | _, _ =>
              match s.readAcc g x with
              | (.ok v, t) => (t.finishLoad g j x v).remark g
              | (.error e, t) =>
                if s.takesTrap g && !s.mustTrap g j then t.accTrap g j x (x.poisonCause e).1 (x.poisonCause e).2 else s

/-- STORE_LEAVE_SQ (R181): the oldest store leaves SQ into the first storage on its path. The older loads can no longer
trap (R147); one that is answered with an error traps POISON (R351), or, where a younger effect has passed it, is sent again
until its home answers (assumption 15). -/
def State.storeLeave (s : State) (g : Nat) : State :=
  let c := s.core g
  match c.acc.findIdx? (·.op.isStore) with
  | none => s
  | some j =>
    match c.acc[j]? with
    | none => s
    | some x =>
      if !mayPass (c.acc.take j) x || s.mustTrap g j || s.accHeld g x
          || (x.committed && !x.pad && s.refused x.path.home (s.accPath g x)) then s
      else if s.wouldTrap g (c.acc.take j) x then
        (if s.takesTrap g then s.accTrap g j x (x.poisonCause 1).1 [] else s)
      else
        match x.op with
        | .store nib => ((s.commitFirst g j).modCore g (·.dropAcc j)).writeAcc g x nib
        | _ => s

/-! Releases and acquires (R275, R276). -/

/-- The dirty L2 line of a sector is written to HBM (R275). -/
def State.writeBackLine (s : State) (sec : Nat) : State := (s.writeBack .l2 (sec / 2 * 2)).writeBack .l2 (sec / 2 * 2 + 1)

/-- The action of a release (R275). -/
def State.releaseAct (s : State) (g sc : Nat) : State :=
  let s := if 2 ≤ sc then s.writeBackAll (.lsc g) else s
  let s := if 3 ≤ sc then s.writeBackAll (.rdc (dieOf g)) else s
  if 4 ≤ sc then
    ((s.core g).sysSecs.foldl (fun s x => s.writeBackLine x) s).modCore g (fun c => { c with sysSecs := [] })
  else s

/-- The action of an acquire (R275). -/
def State.acquireAct (s : State) (g sc : Nat) : State :=
  let s := if 2 ≤ sc then s.flushAll (.lsc g) else s
  if 3 ≤ sc then s.flushAll (.rdc (dieOf g)) else s

/-- Whether a sector lies in one of some runs. -/
def inRuns (runs : List (Nat × Nat)) (x : Nat) : Bool := runs.any (fun r => r.1 ≤ x && x < r.1 + r.2)

/-- The action of `cwb`, and of `cinv` when `inval` (R180). -/
def State.cacheAct (s : State) (g : Nat) (inval : Bool) (sc : Nat) (runs : List (Nat × Nat)) : State :=
  let sc := if sc = 1 then 3 else sc
  let one (s : State) (c : CacheId) : State :=
    ((s.cachedSecs c).filter (inRuns runs)).foldl (fun s x => if inval && c != .l2 then s.flushSec c x else s.writeBack c x) s
  let s := if 2 ≤ sc then one s (.lsc g) else s
  let s := if 3 ≤ sc then one s (.rdc (dieOf g)) else s
  if 4 ≤ sc then one s .l2 else s

/-- Change access `j` of a core. -/
def Core.modAcc (c : Core) (j : Nat) (f : Acc → Acc) : Core := { c with acc := c.acc.modify j f }

/-- The accesses of a core whose release may be made now: the first that releases and has not, where every older write has
performed (R275); a fence and a cache write-back wait for every older access (R180, R280). -/
def Core.releaser (c : Core) : Option (Nat × Acc) :=
  match c.acc.findIdx? (fun x => x.releasing || x.op.blocks) with
  | none => none
  | some j =>
    match c.acc[j]? with
    | none => none
    | some x =>
      if x.releasing then (if (c.acc.take j).any (·.op.isWrite) then none else some (j, x))
      else if j = 0 then some (j, x)
      else none

/-- The scope at which an access releases: 3 of a ranged write-back of the whole device path; 0 where it does not. -/
def AccOp.releaseScope (op : AccOp) (resolve : Nat → Nat) : Nat :=
  match op with
  | .fence true _ sc => resolve sc
  | .amo _ _ sc true _ _ => resolve sc
  | .barArr _ _ sc => resolve sc
  | .cacheOp _ sc _ => if sc = 1 then 3 else sc
  | _ => 0

/-- RELEASE_COMPLETE (R275): an access of a core releases. A cache write-back (R180) is the same action on a range. -/
def State.releaseComplete (s : State) (g : Nat) : State :=
  match (s.core g).releaser with
  | none => s
  | some (j, x) =>
    if s.releaseHeld g (x.op.releaseScope (s.scopeOf g)) then s
    else
    let done (s : State) : State := s.modCore g (·.modAcc j (fun y => { y with stage := .released }))
    match x.op, x.stage with
    | .fence true acq sc, .waiting =>
      let s := s.releaseAct g (s.scopeOf g sc)
      if acq then done s else s.modCore g (·.dropAcc j)
    | .amo _ _ sc true _ _, .waiting => done (s.releaseAct g (s.scopeOf g sc))
    | .barArr _ _ sc, .waiting => done (s.releaseAct g (s.scopeOf g sc))
    | .cacheOp false sc runs, _ => (s.cacheAct g false sc runs).modCore g (·.dropAcc j)
    | _, _ => s

/-- The access of a core whose acquire may be made now: that of a satisfied `bar.wait`, which waits for no older access, or
the oldest access. -/
def Core.acquirer (c : Core) : Option (Nat × Acc) :=
  let j := (c.acc.findIdx? (fun x => match x.op with
    | .acquire _ => true
    | _ => false)).getD 0
  (c.acc[j]?).map (fun x => (j, x))

/-- The scope at which an access acquires; 0 where it does not. -/
def AccOp.acquireScope (op : AccOp) (resolve : Nat → Nat) : Nat :=
  match op with
  | .acquire sc => resolve sc
  | .fence _ true sc => resolve sc
  | .amo _ _ sc _ true _ => resolve sc
  | .cacheOp _ sc _ => if sc = 1 then 3 else sc
  | _ => 0

/-- ACQUIRE_COMPLETE (R275): an access of a core acquires, its release and its access having been made, and the dirty sectors
it writes back being able to leave. -/
def State.acquireComplete (s : State) (g : Nat) : State :=
  match (s.core g).acquirer with
  | none => s
  | some (j, x) =>
    if s.releaseHeld g (x.op.acquireScope (s.scopeOf g)) then s
    else
    match x.op, x.stage with
    | .acquire sc, _ => (s.acquireAct g (s.scopeOf g sc)).modCore g (·.dropAcc j)
    | .fence rel true sc, st =>
      if rel && st == .waiting then s else (s.acquireAct g (s.scopeOf g sc)).modCore g (·.dropAcc j)
    | .amo _ _ sc _ true _, .performed => (s.acquireAct g (s.scopeOf g sc)).modCore g (·.dropAcc j)
    | .cacheOp true sc runs, _ => (s.cacheAct g true sc runs).modCore g (·.dropAcc j)
    | _, _ => s

/-! Atomics (R255, R283, R285). -/

/-- ATOMIC_PERFORM (R255): the oldest access of a core, an atomic whose release is done, is made in one access. Poison, and
the reserved bits of a barrier word, trap with nothing written (R283, R285). -/
def State.atomicPerform (s : State) (g : Nat) : State :=
  match (s.core g).acc with
  | [] => s
  | x :: _ =>
    let go (uns acq : Bool) : State :=
      if s.held (dieOf g) x.path false (s.atomicPath g (s.scopeOf g x.op.atomScope) x.path) then s
      else
        match s.atomicAt g x with
        | (.error c, t) => if s.takesTrap g then t.accTrap g 0 x c [false] else s
        | (.ok old, t) =>
          let t := t.modCore g (fun c => c.deliver x.dest (.scalar (extend (8 * x.size) uns old)))
          if acq then t.modCore g (·.modAcc 0 (fun y => { y with stage := .performed })) else t.modCore g (·.dropAcc 0)
    match x.op, x.stage with
    | .amo _ uns _ rel acq _, st => if st == .performed || (rel && st == .waiting) then s else go uns acq
    | .barArr _ _ _, .released => go true false
    | _, _ => s

/-! Stream accesses (R182). -/

/-- The path of a stream access, or the cause it traps with. -/
def State.streamPath (s : State) (p : Nat) (a : Int) (n : Nat) (need : Need) : Except Cause Path :=
  let w := wrapNat 64 a
  if a < 0 ∨ (2 ^ 48 : Int) < a + n then .error { code := cPROT, addr := w }
  else if a % (n : Int) ≠ 0 then .error { code := cALIGN, addr := w }
  else s.xlate (s.part p).ptroot.toNat a.toNat need

/-- Whether an access of a partition's stream front end waits for a link (R347). -/
def State.streamHeld (s : State) (p : Nat) (x : Path) : Bool := s.linkHeld (hostDie p) x.home

/-- Whether a stream instruction that waits for the older window entries may go on (R90); in handler mode it does not
wait for the held entry (R355). -/
def State.windowEmpty (s : State) (p : Nat) : Bool := (s.part p).wcount == 0 || (s.part p).sfe.hmode.isSome

end Sys2Proof.Machine
end

