-- ==== Sys2Proof/Machine/Wait.lean ====
section
/-! DEFINITION. Blocking waits of the sequencer (R309): flag waits, barriers, teams, `sleep.gt`, `trig` and the drain of
`halt`. Each has one step, which completes the wait when its condition holds and else registers it; the instruction and
the step of the ordering machine that ends the wait both take it. -/

namespace Sys2Proof.Machine

/-- The form E fields of an engine command that has them. -/
def engFields : Instr → Option EngF
  | .mm f => some f
  | .mmDrain f => some f
  | .mmDrainQ0 f => some f
  | .mmGang f => some f
  | .mmGangOff f => some f
  | .cp f => some f
  | .cpQ2 f => some f
  | .cpQ3 f => some f
  | .cpFill f => some f
  | .cpGather f => some f
  | .tlbInv f => some f
  | .tlbInvAll f => some f
  | _ => none

/-- Whether completing a command signals a flag word (R185, R228). -/
def signals (i : Instr) (n : Nat) : Bool :=
  match engFields i with
  | some f => f.sn != 0 && f.sf.toNat == n
  | none =>
    match i with
    | .vsemSig f => bitsNat f.mod 16 5 == n
    | .vsemSigErr f => bitsNat f.mod 16 5 == n
    | _ => false

/-- QPOS (R298, R310): queue and entry of the oldest command that does something and is queued or in flight, 0 for
none. -/
def Core.qpos (c : Core) (p : Instr → Bool) : Nat :=
  let one (code : Nat) (l : List Cmd) : List (Nat × Nat) :=
    ((l.zipIdx).filter (fun x => !x.1.done && p x.1.instr)).map (fun x => (x.1.seq, code * 64 + x.2))
  let all := one 1 c.mq ++ one 2 c.vq ++ one 3 c.cq
  match all.foldl (fun b x =>
      match b with
      | none => some x
      | some y => if x.1 < y.1 then some x else some y) (none : Option (Nat × Nat)) with
  | some x => x.2
  | none => 0

/-- End the wait in progress. -/
def State.endWait (s : State) (g : Nat) : State := s.modCore g (fun c => { c with wait := none })

/-- Complete a waiting instruction with its results. -/
def State.endWith (s : State) (g : Nat) (vs : List Val) : State := (s.endWait g).retire (.core g) 1 vs

/-- Trap at a waiting instruction. -/
def State.endTrap (s : State) (g : Nat) (c : Cause) (kinds : List Bool) : State := (s.endWait g).trap (.core g) c kinds 1

/-- Register a wait with a bound exponent (R53, R309), or go on with the one in progress under its own bound. -/
def State.waitB (s : State) (g : Nat) (k : WaitKind) (own dflt : Nat) : State :=
  match (s.core g).wait with
  | some w => s.modCore g (fun c => { c with wait := some { w with kind := k } })
  | none => s.waitOn g k (some (2 ^ boundOf own dflt))

/-! Flag waits (R190). -/

/-- `sem.wait`: the word satisfies it, ends it with an error, or the wait stands; it takes the count in its turn of a clk
(R188). -/
def State.semStep (s : State) (g flag n : Nat) (t : Bool) (bound : Nat) : State :=
  let c := s.core g
  let w := c.flag flag
  let r := Val.scalar (w.zeroExtend 64)
  match flagWait w n with
  | .no => s.waitB g (.sem flag n t) bound (c.dflt (·.bflag))
  | .err => if t then s.endTrap g { code := cERRBIT, ecode := flagEcode w } [false] else s.endWith g [r]
  | .ok =>
    if c.turnOpen flag 4 then
      ((s.commit (.core g)).modCore g (fun c => c.setFlagAt flag 4 (flagSub w n))).endWith g [r]
    else s.waitB g (.sem flag n t) bound (c.dflt (·.bflag))

/-! Barrier waits (R286). -/

/-- One read of a barrier word at the storage of R255, else at its home L2; it allocates in no cache (R286). -/
def State.barRead (s : State) (g sc : Nat) (x : Acc) : Except (BitVec 6) Nat × State :=
  let sec := x.path.pa / 64
  let s := if 3 ≤ sc then s.writeBack (.rdc (dieOf g)) sec else s
  let want := byteMask (x.path.pa % 64) 8
  match (s.atomicPath g sc x.path).head? with
  | some (.rdc d) =>
    (match s.cached (.rdc d) sec with
      | some y =>
        if y.key == x.path.key && y.gen == s.keyGen y.key && y.valid &&& want == want then s.readPath none x.path 8 [.rdc d]
        else s.readHome (s.partOf g) x.path 8
      | none => s.readHome (s.partOf g) x.path 8)
  | _ => s.readHome (s.partOf g) x.path 8

/-- Whether an older access keeps a `bar.wait` from reading its word: a fence, an `align` or an acquire still to come, or an
atomic of the word (R280, R281, R283, R285, R286). -/
def Core.barHeld (c : Core) (x : Acc) : Bool := c.acc.any (fun y => y.op.blocks || (y.op.isAtomic && y.meets x))

/-- `bar.wait`: one read, which ends the wait or not. A wait that ends acquires: no younger access performs before
that (R286). -/
def State.barStep (s : State) (g : Nat) (x : Acc) (gen : Nat) (t : Bool) (scope bound : Nat) : State :=
  if (s.core g).barHeld x || s.held (dieOf g) x.path false (s.atomicPath g (s.scopeOf g scope) x.path) then s.waitB g (.barWait x gen t scope) bound ((s.core g).dflt (·.bbar))
  else
  match s.barRead g (s.scopeOf g scope) x with
  | (.error e, s) => s.endTrap g { code := cPOISON, ecode := e.toNat, addr := x.addr } [false]
  | (.ok w, s) =>
    let err := w / 2 ^ 63 % 2 == 1
    if w / 2 ^ 32 % 2 ^ 16 = gen && !err then
      s.waitB g (.barWait x gen t scope) bound ((s.core g).dflt (·.bbar))
    else if w / 2 ^ 54 % 2 ^ 9 ≠ 0 then s.endTrap g { code := cOPERAND } [false]
    else if err && t then s.endTrap g { code := cERRBIT, ecode := w / 2 ^ 48 % 64 } [false]
    else
      (s.modCore g (fun c => c.addAcc (mkAcc c (.acquire scope) false 0 0 x.path 0 0))).endWith g
        [.scalar (BitVec.ofNat 64 w)]

/-! Teams (R287 to R290). -/

/-- The team record a core has joined. -/
def State.teamOf (s : State) (g : Nat) : Option Team :=
  match (s.core g).teamKey with
  | none => none
  | some k => (s.part (s.core g).part).teams.find? (fun t => t.key = k)

/-- Change the team record with a key. -/
def State.modTeam (s : State) (p key : Nat) (f : Team → Team) : State :=
  s.modPart p (fun q => { q with teams := q.teams.map (fun t => if t.key = key then f t else t) })

/-- Insert into an ascending list. -/
def insertNat (x : Nat) : List Nat → List Nat
  | [] => [x]
  | y :: ys => if x ≤ y then x :: y :: ys else y :: insertNat x ys

/-- The numbers in ascending order. -/
def sortNat (l : List Nat) : List Nat := l.foldr insertNat []

/-- A join that waits: once the record is complete the ranks are fixed and the join completes (R288). -/
def State.joinStep (s : State) (g key bound : Nat) : State :=
  match s.teamOf g with
  | none => s
  | some t =>
    if t.complete then
      (s.modCore g (fun c => { c with team := some ((t.ranks.findIdx? (· == g)).getD 0, t.count) })).endWith g []
    else s.waitB g (.teamJoin key) bound ((s.core g).dflt (·.bbar))

/-- Add a core to a record, which becomes complete with its last member (R287, R288). -/
def State.joinTeam (s : State) (g key n : Nat) : State :=
  let p := (s.core g).part
  let s := if ((s.part p).teams.any (fun t => t.key = key)) then s
    else s.modPart p (fun q =>
      { q with teams := q.teams ++ [{ key := key, count := n, members := [], gen := 0, arrived := [], complete := false,
                                      ranks := [] }] })
  let s := s.modTeam p key (fun t =>
    let m := t.members ++ [g]
    let full := m.length == t.count
    { t with members := m, complete := full, ranks := if full then sortNat m else [] })
  s.modCore g (fun c => { c with teamKey := some key })

/-- Record an arrival at the team barrier; the last one completes the generation (R290). -/
def State.arrive (s : State) (p g key : Nat) : State :=
  s.modTeam p key (fun t =>
    let a := if t.arrived.contains g then t.arrived else t.arrived ++ [g]
    if a.length = t.count then { t with arrived := [], gen := t.gen + 1 } else { t with arrived := a })

/-- The acquire of a satisfied wait of the sequencer: made at once, or, where what it writes back cannot leave, an access that
no younger one passes (R275, R347). -/
def State.acquireNow (s : State) (g sc : Nat) : State :=
  if s.releaseHeld g (s.scopeOf g sc) then
    s.modCore g (fun c => c.addAcc (mkAcc c (.acquire sc) false 0 0 { pa := 0, home := 0, ccls := 2, key := 0 } 0 0))
  else s.acquireAct g (s.scopeOf g sc)

/-- A `team.bar` that has arrived: it goes on when its generation has completed, and traps TEAM when a member whose
arrival it needs has left (R290). -/
def State.teamBarStep (s : State) (g key gen scope bound : Nat) : State :=
  match s.teamOf g with
  | none => s.endTrap g { code := cTEAM } []
  | some t =>
    if t.gen ≠ gen then (s.acquireNow g scope).endWith g []
    else if t.broken then s.endTrap g { code := cTEAM } []
    else s.waitB g (.teamBar key gen scope) bound ((s.core g).dflt (·.bbar))

/-! `sleep.gt` (R272). -/

/-- Whether the GTC has reached a TIME (R263). -/
def gtcReached (gtc time : Nat) : Bool := (gtc % 2 ^ 56 + 2 ^ 56 - time) % 2 ^ 56 < 2 ^ 55

/-- Whether the copy of a promise is done: its tag says so, or was reused, or no copy made the promise (R272). -/
def sleepDone (x : Tag) (time : Nat) : Bool := x.st == .done || x.st == .free || x.time != time

/-- The end of `sleep.gt`: the error, and for `.nt` the lateness. -/
def State.sleepEnd (s : State) (g time tag : Nat) (nt : Bool) (late : Nat) : State :=
  let x := (s.core g).tag tag
  let err := x.time == time && x.err
  let s := s.modCore g (fun c => { c with late := false })
  if nt then
    s.endWith g [.scalar (BitVec.ofNat 64 (late % 2 ^ 56 + (if err then 2 ^ 63 + x.ecode.toNat * 2 ^ 56 else 0)))]
  else if err then s.endTrap g { code := cERRBIT, ecode := x.ecode.toNat } []
  else s.endWith g []

/-- `sleep.gt`: it waits for the promised time, then for the copy. -/
def State.sleepStep (s : State) (g time tag : Nat) (nt finishing : Bool) (bound : Nat) : State :=
  let c := s.core g
  let x := c.tag tag
  let gtc := (s.die (dieOf g)).gtc
  let isDone := sleepDone x time
  let wait (f : Bool) : State := s.waitB g (.sleep time tag nt f) bound (c.dflt (·.bsleep))
  if c.late || finishing then
    if isDone then s.sleepEnd g time tag nt ((gtc % 2 ^ 56 + 2 ^ 56 - time) % 2 ^ 56) else wait true
  else if !gtcReached gtc time then wait false
  else if isDone then s.sleepEnd g time tag nt 0
  else if nt then wait true
  else (s.modCore g (fun c => { c with late := true })).endTrap g { code := cPROMISE } []

/-! `trig` and `halt` (R163, R291). -/

/-- Whether every older access has performed and every older command completed. -/
def Core.drained (c : Core) : Bool := c.acc.isEmpty && c.mq.isEmpty && c.vq.isEmpty && c.cq.isEmpty

/-- The release of a task's writes at the release scope of its `t.map`; team acts as device (R103, R291). -/
def State.taskRelease (s : State) (g : Nat) : State :=
  match (s.core g).task with
  | none => s
  | some t => s.releaseAct g (if t.rel = 1 then 3 else t.rel)

/-- Whether that release waits for a link (R347). -/
def State.taskHeld (s : State) (g : Nat) : Bool :=
  match (s.core g).task with
  | none => false
  | some t => s.releaseHeld g (if t.rel = 1 then 3 else t.rel)

/-- Mark the task triggered (R105). -/
def State.markTrig (s : State) (g : Nat) : State :=
  match (s.core g).task with
  | none => s
  | some t =>
    if (s.core g).trigd || !t.early then s
    else
      (s.modTaskEntry g (fun e t => { e with trigs := tput false e.trigs t.idx true })).modCore g
        (fun c => { c with trigd := true })

/-- `trig`: once the task's accesses and commands are done it releases and marks the task. -/
def State.trigStep (s : State) (g : Nat) : State :=
  if (s.core g).drained && !s.taskHeld g then (((s.commit (.core g)).taskRelease g).markTrig g).endWith g [] else s.waitOn g .trig none

/-- Steps 4 to 7 of `halt`: it counts as `trig`, leaves the team, discards ports and channels, and completes the task;
the core is idle (R163). -/
def State.haltFinish (s : State) (g : Nat) : State :=
  let c := s.core g
  let s := if c.trigd || !((c.task.map (·.early)).getD false) then s else (s.taskRelease g).markTrig g
  let s := (s.leaveTeam g).taskDone g
  s.modCore g (fun c =>
    { c with cstate := .idle, task := none, wait := none, ports := [], chans := [], pview := [], cview := [],
             hold := false })

/-- The error `halt` reports: the ECODE of the lowest flag word with ERR, else that pending in VQ (R163 step 3). -/
def Core.haltErr (c : Core) : Option Nat :=
  match (List.range 32).find? (fun n => flagErr (c.flag n)) with
  | some n => some (flagEcode (c.flag n))
  | none => c.vqErr.map (·.toNat)

/-- `halt` of a user core: the drain, the error check, then the end of the task. An error of R186 is taken at the boundary
before it (R292). -/
def State.haltStep (s : State) (g : Nat) : State :=
  let c := s.core g
  if !c.drained || s.taskHeld g then s.waitOn g .halt none
  else if let some t := s.errBoundary g then t
  else
    match c.haltErr with
    | some e => s.endTrap g { code := cERRBIT, ecode := e } []
    | none => s.haltFinish g

/-- Whether a `ctx.scrub` of a user core is under way (R318). -/
def State.scrubbing (s : State) (g : Nat) : Bool :=
  match (s.core (svcOf (dieOf g))).wait with
  | some { kind := .scrub h _, stall := _, bound := _ } => h == g
  | _ => false

/-! Bounds (R309, R310). -/

/-- Whether a command takes a copy tag (R264). -/
def takesTag : Instr → Bool
  | .cp _ => true
  | .cpQ2 _ => true
  | .cpQ3 _ => true
  | .cpFill _ => true
  | .cpGather _ => true
  | _ => false

/-- QPOS by the RES of a wait: the oldest producer of its flag or channel. -/
def Core.headQpos (c : Core) (res : Nat) : Nat :=
  if 32 ≤ res ∧ res < 64 then c.qpos (fun i => signals i (res - 32))
  else if 96 ≤ res ∧ res < 100 then
    let q := res - 96
    c.qpos (fun i => match i with
      | .vput f => bitsNat f.mod 16 5 == 8 + q
      | .vputNb f => bitsNat f.mod 16 5 == 8 + q
      | .mmDrainQ0 _ => q == 0
      | .cpQ2 _ => q == 2
      | _ => false)
  else 0

/-- What a bound that passes undoes: a join is withdrawn, and so is an arrival (R288, R309). -/
def State.undoWait (s : State) (g : Nat) : WaitKind → State
  | .teamJoin _ => s.leaveTeam g
  | .teamBar key _ _ => s.modTeam (s.core g).part key (fun t => { t with arrived := t.arrived.filter (· != g) })
  | .sleep _ _ _ _ => s.modCore g (fun c => { c with late := false })
  | _ => s

end Sys2Proof.Machine
end

