-- ==== Sys2Proof/Machine/Ports.lean ====
section
/-! DEFINITION. Ports and channels (R215 to R225): walks, pops and peeks, conversion on pop, and the writes of `vput`. -/

namespace Sys2Proof.Machine

/-! Walks (R216, R217). -/

/-- Counts of a walk word: vectors per row, rows, outer steps, repetitions. -/
def walkCounts (w : Word) : Nat × Nat × Nat × Nat :=
  (bitsNat w 0 12 + 1, bitsNat w 12 16 + 1, bitsNat w 36 12 + 1, bitsNat w 56 8 + 1)

/-- How many vectors a walk delivers. -/
def walkLen (w : Word) : Nat :=
  let (n0, n1, n2, r) := walkCounts w
  n0 * n1 * n2 * r

/-- The first element of vector `k` of a walk, for `l` lanes: (e0, e1, e2). -/
def walkAt (w : Word) (l k : Nat) : Nat × Nat × Nat :=
  let (n0, n1, n2, _) := walkCounts w
  (k % n0 * l, k / n0 % n1 * bitsNat w 28 8, k / (n0 * n1) % n2 * bitsNat w 48 8)

/-- The extreme indices of a walk: its largest e0, e1 and e2. -/
def walkMax (w : Word) (l : Nat) : Nat × Nat × Nat :=
  let (n0, n1, n2, _) := walkCounts w
  (n0 * l - 1, (n1 - 1) * bitsNat w 28 8, (n2 - 1) * bitsNat w 48 8)

/-- Whether every element of a walk is in bounds. -/
def walkInside (d : Desc) (w : Word) : Bool :=
  let (a, b, c) := walkMax w (lanes d.fmt)
  a < d.n0 && b < d.n1 && c < d.n2

/-- The largest index that steps of `st` up to `b` reach inside an extent `n`, clamped ones included. -/
def lastIdx (clamp : Bool) (st b n : Nat) : Nat :=
  if st = 0 then 0 else if clamp then min b (n - 1) else min b ((n - 1) / st * st)

/-- Whether every pad byte of a walk lies inside an extent: the last byte of its furthest element that is located. -/
def walkInPad (d : Desc) (w : Word) (isWrite : Bool) (extent : Nat) : Bool :=
  let (a, b, c) := walkMax w (lanes d.fmt)
  let clamp := d.bchk == 2 && !isWrite
  d.base + d.rowBytes (min (a + 1) d.n0) + lastIdx clamp (bitsNat w 28 8) b d.n1 * d.stride1
    + lastIdx clamp (bitsNat w 48 8) c d.n2 * d.stride2 ≤ extent

/-- The descriptor of a port. -/
def Port.desc (p : Port) : Desc := Desc.of p.slot
/-- Whether a port has reached the end of its walk. -/
def Port.exhausted (p : Port) : Bool := walkLen p.walk ≤ p.pos
/-- The location of lane `i` of the port's next vector. -/
def Port.locate (p : Port) (i : Nat) (isWrite : Bool) : Loc :=
  let d := p.desc
  let (e0, e1, e2) := walkAt p.walk (lanes d.fmt) p.pos
  d.locate ((e0 + i : Nat) : Int) (e1 : Int) (e2 : Int) isWrite

/-- Bytes of one element of a format, at least one. -/
def elemBytes (fmt : Nat) : Nat := ceilDiv (tyWidth fmt) 8

/-- One element of the pad. -/
def Core.padElem (c : Core) (fmt byte : Nat) (hi : Option Bool) : Nat :=
  let v := c.padRead byte (elemBytes fmt)
  match hi with
  | some true => v / 16
  | some false => v % 16
  | none => v

/-- Write one element of the pad. -/
def Core.padPut (c : Core) (fmt byte : Nat) (hi : Option Bool) (v : Nat) : Core :=
  match hi with
  | none => c.padWrite byte (natToBytes (elemBytes fmt) v)
  | some h =>
    let old := c.padRead byte 1
    c.padWrite byte [BitVec.ofNat 8 (if h then old % 16 + 16 * (v % 16) else old / 16 * 16 + v % 16)]

/-- What taking a value at the head of VQ answers: a value, nothing there yet, or a trap (R225). -/
inductive Pop where
  | got (v : Val) (c : Core)
  | wait
  | bad (c : Cause)
  deriving DecidableEq, Repr

/-- A pop of a read port (R217, R220). -/
def Core.popPort (c : Core) (n : Nat) : Pop :=
  let p := c.port n
  if p.dir != .read || p.exhausted then .bad { code := cCHAN }
  else
    let d := p.desc
    let locs := (List.range (lanes d.fmt)).map (fun i => p.locate i false)
    let out := locs.any (fun x => match x with
      | .at b _ => decide (padBytes c < b + elemBytes d.fmt)
      | .bounds => true
      | _ => false)
    if out then .bad { code := cBOUNDS }
    else
      let bad := locs.findSome? (fun x => match x with
        | .at b _ => c.padPoison b (elemBytes d.fmt)
        | _ => none)
      let c' := c.setPort n { p with pos := p.pos + 1 }
      match bad with
      | some e => .got (.poisoned true e) c'
      | none =>
        .got (.vector (ofLanes (tyWidth d.fmt) (locs.map (fun x => match x with
          | .at b hi => c.padElem d.fmt b hi
          | _ => 0)))) c'

/-- Capacity of a channel (R221). -/
def chanDepth (q : Nat) : Nat := if q < 2 then 16 else 32

/-- The conversion of a channel (R223). -/
def ChanCfg.conv (k : ChanCfg) : Conv :=
  { src := bitsNat k.mod 16 4, dst := k.snk, suns := k.mod.getLsbD 0, uns := k.mod.getLsbD 0,
    rm := rmOf (bitsNat k.mod 2 3), sat := k.mod.getLsbD 1, ftz := k.mod.getLsbD 5 }

/-- How many source entries one sink vector takes, and how many sink vectors one entry gives (R222). -/
def Conv.ratio (c : Conv) : Nat × Nat :=
  let ws := tyWidth c.src
  let wk := tyWidth c.dst
  if wk < ws then (ws / wk, 1) else (1, wk / ws)

/-- Whether a channel's next sink vector is present. -/
def Chan.present (x : Chan) : Bool :=
  match x.cfg with
  | none => false
  | some k => k.conv.ratio.1 ≤ x.ents.length

/-- The entry, and the lane of it, that lane `i` of a channel's next sink vector comes from (R222). -/
def Chan.srcAt (x : Chan) (c : Conv) (i : Nat) : Nat × Nat :=
  if c.ratio.1 = 1 then (0, x.popped * lanes c.dst + i) else (i / lanes c.src, i % lanes c.src)

/-- The source element of lane `i` of a channel's next sink vector (R222). -/
def Chan.srcLane (x : Chan) (c : Conv) (i : Nat) : Nat :=
  let p := x.srcAt c i
  lane (tyWidth c.src) (((x.ents[p.1]?).map Val.vec).getD 0) p.2

/-- Whether the next sink vector takes an element of a poisoned word (R346). -/
def Chan.spoils (x : Chan) (c : Conv) : Bool :=
  (List.range (lanes c.dst)).any (fun i =>
    let p := x.srcAt c i
    (tget 0 x.spoilt p.1).getLsbD (p.2 * tyWidth c.src / 64))

/-- The next sink vector, converted when it is first seen; its draws advance the stochastic state (R222). -/
def Chan.look (x : Chan) (sr : BitVec 32) : Val × Chan × BitVec 32 :=
  match x.held, x.cfg with
  | some v, _ => (v, x, sr)
  | none, none => (.vector 0, x, sr)
  | none, some k =>
    let c := k.conv
    if x.spoils c then (.poisoned true 1, { x with held := some (.poisoned true 1) }, sr)
    else
      let (v, sr) := c.vec noPre (fun i => some (x.srcLane c i)) sr
      (.vector v, { x with held := some (.vector v) }, sr)

/-- Remove the next sink vector. -/
def Chan.drop (x : Chan) : Chan :=
  match x.cfg with
  | none => x
  | some k =>
    let (r, n) := k.conv.ratio
    if x.popped + 1 < n then { x with held := none, popped := x.popped + 1 }
    else
      { x with held := none, popped := 0, ents := x.ents.drop r,
               spoilt := (x.spoilt.filter (fun e => r ≤ e.1)).map (fun e => (e.1 - r, e.2)) }

/-- A pop or peek of q0 or q2 by the vector engine. -/
def Core.popChan (c : Core) (q : Nat) (peek : Bool) : Pop :=
  let x := c.chan q
  if x.cfg.isNone then .bad { code := cCHAN }
  else if !x.present then .wait
  else
    let (v, x, sr) := x.look c.srv
    .got v { c.setChan q (if peek then x else x.drop) with srv := sr }

/-- One operand at the head of VQ. -/
def Core.takeSrc (c : Core) (src : Nat) (v : Slot) : Pop :=
  match xKind src with
  | .port n => c.popPort n
  | .pop q => c.popChan q false
  | .peek q => c.popChan q true
  | _ =>
    match v with
    | .ready x => .got x c
    | .pending _ _ => .wait

/-- What resolving every operand answers. -/
inductive Pops where
  | got (vs : List Val) (c : Core)
  | wait
  | bad (c : Cause)
  deriving DecidableEq, Repr

/-- Resolve the operands in order; a trap counts before a wait, and nothing is taken unless all are (R66, R225). -/
def Core.takeAll (c : Core) : List (Nat × Slot) → Pops
  | [] => .got [] c
  | (src, v) :: xs =>
    match c.takeSrc src v with
    | .bad e => .bad e
    | .wait =>
      (match c.takeAll xs with
        | .bad e => .bad e
        | _ => .wait)
    | .got x c =>
      match c.takeAll xs with
      | .got ys c => .got (x :: ys) c
      | r => r

/-- RES of the first of some sources whose channel has no entry to give it, 0 where each has (R310). -/
def Core.absentRes (c : Core) : List Nat → Nat
  | [] => 0
  | src :: xs =>
    match c.takeSrc src (.ready (.scalar 0)), xKind src with
    | .wait, .pop q => 96 + q
    | .wait, .peek q => 96 + q
    | .got _ c', _ => c'.absentRes xs
    | _, _ => c.absentRes xs

/-! Bounds of waits (R309, R310). -/

/-- Whether the wait of a core stands unsatisfied. -/
def State.waitOpen (s : State) (g : Nat) (k : WaitKind) : Bool :=
  let c := s.core g
  match k with
  | .sem f n _ => flagWait (c.flag f) n == .no
  | .teamJoin _ => !(((s.teamOf g).map (·.complete)).getD true)
  | .teamBar _ gen _ => ((s.teamOf g).map (fun t => t.gen == gen)).getD false
  | .sleep time tag _ f =>
    let x := c.tag tag
    if f || c.late then !sleepDone x time else !gtcReached (s.die (dieOf g)).gtc time
  | .push q k =>
    qDepth q ≤ (c.queue q).length || (takesTag k.instr && (List.range 32).all (fun t => !((c.tag t).st == .free || (c.tag t).st == .done)))
  | .pops srcs => c.absentRes srcs != 0
  | _ => true

/-- RES of a wait: class and index (R310). -/
def Core.waitRes (c : Core) : WaitKind → Nat
  | .sem f _ _ => 32 + f
  | .barWait _ _ _ _ => 160
  | .teamBar _ _ _ => 161
  | .teamJoin _ => 162
  | .sleep _ tag _ _ => 192 + tag
  | .push q _ =>
    if qDepth q ≤ (c.queue q).length then
      (match q with
        | .m => 128
        | .v => 129
        | .c => 130)
    else 131
  | .pops srcs => c.absentRes srcs
  | _ => 0

/-- QPOS of a wait of the sequencer. -/
def Core.waitQpos (c : Core) : WaitKind → Nat
  | .sem f _ _ => c.headQpos (32 + f)
  | .pops srcs => c.headQpos (c.absentRes srcs)
  | _ => 0

/-- The checks at push on what an instruction pops (R220, R221): each port read-bound and each channel configured, in
program order. -/
def Core.popChk (c : Core) (ctx : Ctx) (sps : List (BitVec 8)) : Option Cause :=
  if sps.any (fun sp => match xKind (ctx.expand sp) with
    | .port n => tget .unbound c.pview n != .read
    | .pop q => (tget none c.cview q).isNone
    | .peek q => (tget none c.cview q).isNone
    | _ => false) then some { code := cCHAN }
  else none

/-! The draws of pops (R29, R222): within a lane the operands draw before the operation does. -/

/-- What the conversion of one operand's sink vector draws: a conversion made by this instruction, one made by an earlier
operand of it (a peek), or nothing. -/
inductive DrawSrc where
  | fresh (q : Nat) (conv : Conv) (src : List Nat)
  | same (q : Nat)
  | plain
  deriving DecidableEq, Repr

/-- The conversion under SR that a pop or peek of a channel makes now, if any. -/
def Chan.drawing (x : Chan) : Option (Conv × List Nat) :=
  match x.held, x.cfg with
  | none, some k =>
    let c := k.conv
    if c.rm == .sr && !x.spoils c then
      some (c, (List.range (lanes c.dst)).map (x.srcLane c))
    else none
  | _, _ => none

/-- What each operand's conversion draws; `seen` are the channels converted from so far. -/
def Core.drawSrcs (c : Core) (seen : List Nat) : List (Nat × Slot) → List DrawSrc
  | [] => []
  | (src, v) :: xs =>
    let q := match xKind src with
      | .pop q => some q
      | .peek q => some q
      | _ => none
    match c.takeSrc src v with
    | .got _ c' =>
      (match q with
        | none => .plain :: c'.drawSrcs seen xs
        | some q =>
          match (c.chan q).drawing with
          | some (k, l) => .fresh q k l :: c'.drawSrcs (q :: seen) xs
          | none => (if (c.chan q).held.isSome && seen.contains q then .same q else .plain) :: c'.drawSrcs seen xs)
    | _ => []

/-- The number, among the conversions of an instruction, of the one each operand takes its value from. -/
def drawLinks : List DrawSrc → Nat → List (Nat × Nat) → List (Option Nat)
  | [], _, _ => []
  | .fresh q _ _ :: xs, n, seen => some n :: drawLinks xs (n + 1) ((q, n) :: seen)
  | .same q :: xs, n, seen => (seen.find? (fun x => x.1 = q)).map (·.2) :: drawLinks xs n seen
  | .plain :: xs, n, seen => none :: drawLinks xs n seen

/-- A conversion under way: the lane of the instruction its first lane belongs to, the source lanes to come, and the
converted ones, newest first. -/
structure DrawLane where
  base : Nat
  conv : Conv
  rest : List Nat
  out : List Nat
  deriving DecidableEq, Repr

/-- Convert lane `i` of each conversion that has one, in operand order. -/
def drawStep (i : Nat) : List DrawLane → BitVec 32 → List DrawLane × BitVec 32
  | [], sr => ([], sr)
  | x :: xs, sr =>
    match decide (x.base ≤ i), x.rest with
    | true, a :: as =>
      let y := x.conv.one a sr
      let z := drawStep i xs y.2
      ({ x with rest := as, out := y.1 :: x.out } :: z.1, z.2)
    | _, _ =>
      let z := drawStep i xs sr
      (x :: z.1, z.2)

/-- Convert lane by lane from `i` on, the operation drawing after the pops in each lane where `op` says so. -/
def drawLanes (op : Nat → List DrawLane → Bool) (i : Nat) : Nat → List DrawLane → BitVec 32 → List DrawLane × BitVec 32
  | 0, l, sr => (l, sr)
  | n + 1, l, sr =>
    let z := drawStep i l sr
    drawLanes op (i + 1) n z.1 (if op i z.1 then srDraw z.2 else z.2)

/-- The width of the lanes an instruction computes from. -/
def opWidth (i : Instr) : Nat :=
  match i with
  | .vcvt f | .vwid f | .vnar f => tyWidth (styOf f)
  | i => tyWidth (baseOf i).ty.toNat

/-- Which operand of an instruction that draws is its mask. -/
def maskIdx (i : Instr) : Option Nat :=
  match i with
  | .vfma _ | .vfms _ | .vfnma _ | .vfnms _ | .vnar _ => none
  | i => if (baseOf i).c = 0 then none else some ((opsOf i).length - 1)

/-- The lane of a `vnar` that lane 0 of its operand `j` becomes; lanes of other instructions are those of their operands. -/
def laneBase (i : Instr) (j : Nat) : Nat :=
  match i with
  | .vnar f => j * lanes (styOf f)
  | _ => 0

/-- What taking the operands of a vector instruction answers: their values, the core with what they popped, and what
the pops draw before each lane of the operation. -/
inductive Taken where
  | got (vs : List Val) (c : Core) (pre : Pre)
  | wait
  | bad (c : Cause)

/-- Take the operands of a vector instruction. Conversions under SR draw lane by lane with the operation (R29); where a
sink format has other lanes than the operation, lanes do not correspond and the pops draw first (assumption 44). -/
def Core.takeOps (c : Core) (i : Instr) (l : List (Nat × Slot)) : Taken :=
  match c.takeAll l with
  | .wait => .wait
  | .bad e => .bad e
  | .got vs c' =>
    let ds := c.drawSrcs [] l
    let fr := (ds.zipIdx).filterMap (fun (x : DrawSrc × Nat) => match x.1 with
      | .fresh q k s => some (q, ({ base := laneBase i x.2, conv := k, rest := s, out := [] } : DrawLane))
      | _ => none)
    if fr.isEmpty || fr.any (fun x => tyWidth x.2.conv.dst != opWidth i) then .got vs c' noPre
    else
      let links := drawLinks ds 0 []
      let mask := maskIdx i
      let on (n : Nat) (l : List DrawLane) : Bool :=
        drawsLane i &&
          (match mask with
            | none => true
            | some k =>
              match (links[k]?).join with
              | some j => ((l[j]?).map (fun x => (x.out.head?.getD 0) % 2 == 1)).getD true
              | none => active ((vs[k]?).map Val.vec) (opWidth i) n)
      let n := (fr.map (fun x => x.2.base + x.2.rest.length)).foldl max 0
      let z := drawLanes on 0 n (fr.map (·.2)) c.srv
      let conv (j : Nat) : Val :=
        .vector (((z.1[j]?).map (fun x => ofLanes (tyWidth x.conv.dst) x.out.reverse)).getD 0)
      let vs := (vs.zipIdx).map (fun (x : Val × Nat) => match (links[x.2]?).join with
        | some j => conv j
        | none => x.1)
      let c' := (fr.zipIdx).foldl
        (fun (c' : Core) (x : (Nat × DrawLane) × Nat) =>
          let y := c'.chan x.1.1
          if y.held.isSome then c'.setChan x.1.1 { y with held := some (conv x.2) } else c') c'
      if drawsLane i then
        .got vs { c' with srv := c.srv }
          (fun i sr => drawN ((fr.filter (fun x => x.2.base ≤ i && i < x.2.base + x.2.rest.length)).length) sr)
      else .got vs { c' with srv := z.2 } noPre

/-- Write a vector to the next position of a write port under a mask (R245); the port is checked already. -/
def Core.putPort (c : Core) (n : Nat) (v : Vec) (mk : Option Vec) : Core :=
  let p := c.port n
  let d := p.desc
  let w := tyWidth d.fmt
  let c' := (List.range (lanes d.fmt)).foldl
    (fun c i =>
      if active mk w i then
        (match p.locate i true with
          | .at b hi => c.padPut d.fmt b hi (lane w v i)
          | _ => c)
      else c) c
  c'.setPort n { p with pos := p.pos + 1 }

/-- Whether a write through a port reaches outside the pad (R220). -/
def Core.putOutside (c : Core) (n : Nat) (mk : Option Vec) : Bool :=
  let p := c.port n
  let d := p.desc
  (List.range (lanes d.fmt)).any (fun i =>
    active mk (tyWidth d.fmt) i &&
      (match p.locate i true with
        | .at b _ => decide (padBytes c < b + elemBytes d.fmt)
        | .bounds => true
        | _ => false))

end Sys2Proof.Machine
end

