-- ==== Sys2Proof/Machine/Engine.lean ====
section
/-! DEFINITION. Pushing engine commands (R161, R183, R264) and completing them (R185, R186); the vector engine
(R225 to R229, R245, R246). -/

namespace Sys2Proof.Machine

/-! Sectors driven (R14, R208). -/

/-- Whether a sector is lent to a partition: it owns the sector in SECT, and another partition the core in CORES (R131). -/
def State.lent (s : State) (p g : Nat) : Bool :=
  s.ownsSect p g && (List.range 16).any (fun q => q != p && s.ownsCore q g)

/-- Whether two cores are members of one gang, or have issued `mm.gang` for it in one team (R208). -/
def State.gangMates (s : State) (g y : Nat) (gang : Nat × Nat) : Bool :=
  (s.core y).teamKey.isSome && (s.core y).teamKey == (s.core g).teamKey && (s.core y).part == (s.core g).part
    && ((s.core y).gang == some gang || (s.core y).gview == some gang)

/-- The sectors a core drives: its own, and inside a gang the lent ones that follow it to the east, up to the next member
(R208). -/
def State.driven (s : State) (g : Nat) (gang : Option (Nat × Nat)) : List Nat :=
  match gang with
  | none => [g]
  | some (west, width) =>
    let right := (List.range (west + width - (sectCol g + 1))).map (fun i => g + 1 + i)
    g :: right.takeWhile (fun x => s.lent (s.core g).part x && !s.gangMates g x (west, width))

/-! Pushing. -/

/-- The instruction word at a context. -/
def Ctx.word (c : Ctx) : Word :=
  match c.tmpl with
  | t :: _ => (t.rest[0]?).getD 0
  | [] =>
    match c.blk with
    | some b => ((b.words[(c.vpc - b.vpc) / 8]?).getD 0)
    | none => 0

/-- The tag a push takes: the first FREE or DONE one after the tag last taken (R264). -/
def Core.nextTag (c : Core) : Option Nat :=
  ((List.range 32).map (fun i => (c.lastTag + 1 + i) % 32)).find? (fun t => (c.tag t).st == .free || (c.tag t).st == .done)

/-- A command before it is queued. -/
def mkCmd (c : Core) (i : Instr) (ops : List Slot) (srcs : List Nat) (desc : List (BitVec 256)) : Cmd :=
  { instr := i, word := c.ctx.word, vpc := c.ctx.vpc, seq := 0, dest := 0, kinds := kindsOf i, desc := desc,
    ops := ops, srcs := srcs, tag := none, started := false, done := false, prog := 0, clk := 0, bytes := 0, sr := 0, rpos := [], gang := none, aBuf := [],
    bBuf := [], aOver := [], bOver := [], out := [], rows := [], lateErr := none, secs := [], col := 0, maps := [], stall := 0, stallAt := 0,
    bad := none, marker := false, skipped := false, killed := false, stopped := false }

/-- TIME of a promise made at a GTC: later than the GTC and than the last promise of the core, modulo 2^56, by a slack
under 2^32 (R263; assumption 6). -/
def promiseTime (gtc : Nat) (last : Option Nat) (slack : Nat) : Nat :=
  let ahead := match last with
    | some t => if gtcReached gtc t then 0 else (t + 2 ^ 56 - gtc % 2 ^ 56) % 2 ^ 56
    | none => 0
  (gtc + ahead + 1 + slack % 2 ^ 32) % 2 ^ 56

/-- Push a command there is room for: it takes its place in program order, its tag and promise (R263, R264), and its
results their positions. -/
def State.pushNow (s : State) (g : Nat) (q : Eng) (k : Cmd) : State :=
  let s := (s.commit (.core g)).endWait g
  let c := s.core g
  let k := { k with seq := c.seq, dest := c.serials }
  if takesTag k.instr then
    let t := (c.nextTag).getD 0
    let gtc := (s.die (dieOf g)).gtc
    let time := promiseTime gtc c.lastTime (Config.promiseSlack s.fresh)
    let s := { s with fresh := s.fresh + 1 }
    s.modCore g (fun c =>
      let c := c.setTag t { st := .queued, err := false, ecode := 0, bytes := 0, time := time }
      let c := { c with
        seq := c.seq + 1, lastTag := t, lastTime := some time,
        ctx := (c.ctx.push [.ready (.scalar (BitVec.ofNat 64 (time * 256 + t)))]).advance 1 }
      (c.setQueue q (c.queue q ++ [{ k with tag := some t, kinds := [] }])).noteView k)
  else
    let kinds := kindsOf k.instr
    s.modCore g (fun c =>
      let c := { c with
        seq := c.seq + 1, serials := c.serials + kinds.length,
        ctx := (c.ctx.push ((kinds.zipIdx).map (fun (x : Bool × Nat) => Slot.pending x.1 (c.serials + x.2)))).advance 1 }
      (c.setQueue q (c.queue q ++ [k])).noteView k)

/-- Whether a push has room and a tag. -/
def Core.canPush (c : Core) (q : Eng) (i : Instr) : Bool :=
  (c.queue q).length < qDepth q && (!takesTag i || c.nextTag.isSome)

/-- Push, or wait for room (R183); an acquire still to come holds the push back without a bound (R280). -/
def State.tryPush (s : State) (g : Nat) (q : Eng) (k : Cmd) : State :=
  let c := s.core g
  if c.pushHeld then s
  else if c.canPush q k.instr then s.pushNow g q k
  else s.waitB g (.push q k) 0 (c.dflt (·.bpush))

/-- The shared front of an engine command: class, operands, the checks made at push, then the push. `poison` lets a
poisoned value through to the vector engine, which is killed by it (R226). -/
def withPush (s : State) (i : Instr) (q : Eng) (poison : Bool)
    (chk : Nat → List Val → Except Cause (List (BitVec 256))) : Out :=
  let a := s.focus
  let kinds := kindsOf i
  if !s.canRun a then .next s
  else
    match s.clsFault a .kernel, a with
    | some c, _ => .next (s.trap a c kinds 1)
    | none, .core g =>
      let c := s.ctxOf a
      let ops := pushOps i
      if !(ops.all (fun o => specOk c false o.1 o.2)) || c.full kinds.length then
        .next (s.trap a (operandFault c) kinds 1)
      else
        let slots := ops.map (fun o => s.operand a c o.1 o.2)
        let srcs := ops.map (fun o => if isPop c o.2 then c.expand o.2 else 0)
        match collect slots, poison with
        | .wait, _ => .next s
        | .poison e, false => .next (s.trap a { code := cERRBIT, ecode := e.toNat } kinds 1)
        | r, _ =>
          let vs := match r with
            | .ok vs => vs
            | _ => slots.map (fun x => match x with
              | .ready v => v
              | .pending _ _ => .scalar 0)
          match chk g vs with
          | .error e => .next (s.endTrap g e kinds)
          | .ok desc =>
            .next (s.tryPush g q { mkCmd (s.core g) i slots srcs desc with
              secs := if q == .m then s.driven g (s.core g).gview else [] })
    | _, _ => .next s

/-- The sectors that R14 asks a task's partition to own for a command: those an `mm` or a drain drives, a core's own for
`mm.gang`, none for the others (assumption 44). -/
def asksSects (i : Instr) (g : Nat) (secs : List Nat) : List Nat :=
  match i with
  | .mm _ => secs
  | .mmDrain _ => secs
  | .mmDrainQ0 _ => secs
  | .mmGang _ => [g]
  | _ => []

/-- QUEUE_PUSH (R183): a push that waited is made once there is room. A matrix command is pushed for the sectors that its
task drives and owns by then (R14, R132). -/
def execQueuePush (s : State) : Out :=
  match s.focus with
  | .core g =>
    match (s.core g).wait with
    | some { kind := .push q k, stall := _, bound := _ } =>
      if s.canRun (.core g) && !(s.core g).pushHeld && (s.core g).canPush q k.instr then
        if q == .m then
          let secs := s.driven g (s.core g).gview
          if (asksSects k.instr g secs).all (fun y => s.ownsSect (s.core g).part y) then
            .next (s.pushNow g q { k with secs := secs })
          else .next (s.endTrap g { code := cPROT, noData := true } (kindsOf k.instr))
        else .next (s.pushNow g q k)
      else .next s
    | _ => .next s
  | _ => .next s

/-! Completing (R185, R186). -/

/-- Change command `seq` of a queue. -/
def Core.modCmd (c : Core) (q : Eng) (seq : Nat) (f : Cmd → Cmd) : Core :=
  c.setQueue q ((c.queue q).map (fun k => if k.seq = seq then f k else k))

/-- The signal a completing command of a queue applies (R185): the increment, or the error it has met. -/
def Core.applySignal (c : Core) (q : Eng) (i : Instr) (err : Option (BitVec 6)) : Core :=
  match engFields i with
  | none => c
  | some f =>
    if f.sn = 0 then c
    else
      match err with
      | none => c.setFlagAt f.sf.toNat (engTurn q) (flagAdd (c.flag f.sf.toNat) f.sn.toNat)
      | some e => c.setFlagAt f.sf.toNat (engTurn q) (flagSetErr (c.flag f.sf.toNat) e.toNat)

/-- Whether the signal of a command can still be applied in this clk (R188). -/
def Core.sigOpen (c : Core) (q : Eng) (k : Cmd) : Bool :=
  match engFields k.instr with
  | some f => f.sn = 0 || c.turnOpen f.sf.toNat (engTurn q)
  | none => true

/-- Change the tag of a copy command; a kill of the context has made it FREE (R264). -/
def Core.modTag (c : Core) (k : Cmd) (f : Tag → Tag) : Core :=
  match k.tag with
  | some t => if (c.tag t).st == .free then c else c.setTag t (f (c.tag t))
  | none => c

/-- Complete a command: its signal, its results, its tag; `err` is the error it ends with, which without a signal flag
becomes the ERRBIT trap of the next instruction boundary (R186). The error of R81 that a `cp.gather` has recorded, ECODE 4, is
no kill: without a signal flag its tag alone tells of it (assumption 44). -/
def State.finishCmd (s : State) (g : Nat) (q : Eng) (k : Cmd) (err : Option (BitVec 6)) (outs : List Val) : State :=
  s.modCore g (fun c =>
    let c := c.applySignal q k.instr err
    let c := match err, engFields k.instr with
      | some e, some f =>
        if f.sn = 0 && !k.skipped && e != 4 then { c with pendErr := c.pendErr ++ [(k.seq, k.vpc, e)] } else c
      | _, _ => c
    let c := c.modTag k (fun t => { t with st := .done, err := err.isSome, ecode := err.getD 0 })
    ((c.deliverAll k.dest outs).modCmd q k.seq (fun k => { k with started := true, done := true })).popDone q)

/-! The vector engine. -/

/-- What the vector engine does with the entry at its head. -/
inductive VRes where
  | done (c : Core) (outs : List Val)
  | wait (res : Nat)
  | bad (c : Cause)
  | killed (c : Core) (ecode : BitVec 6)
  deriving DecidableEq, Repr

/-- Whether a command pushes into or pops a channel (R224). -/
def usesChan (k : Cmd) (q : Nat) : Bool :=
  k.srcs.any (fun x => match xKind x with
    | .pop n => n == q
    | .peek n => n == q
    | _ => false)
  || (match k.instr with
    | .vput f => bitsNat f.mod 16 5 == 8 + q
    | .vputNb f => bitsNat f.mod 16 5 == 8 + q
    | .mmDrainQ0 _ => q == 0
    | .mm f => q == 1 && f.fn.getLsbD 0
    | .cpQ2 _ => q == 2
    | .cpQ3 _ => q == 3
    | _ => false)

/-- Every command of a core. -/
def Core.cmds (c : Core) : List Cmd := c.mq ++ c.vq ++ c.cq

/-- Whether a `chan.cfg` of a channel, older than command `seq`, has not performed yet (R224). -/
def Core.cfgAhead (c : Core) (q seq : Nat) : Bool :=
  c.vq.any (fun k => match k.instr with
    | .chanCfg f => !k.started && k.seq < seq && bitsNat f.mod 22 2 == q
    | _ => false)

/-- RES of the channel whose reconfiguration an entry waits for, 0 for none (R224, R310). -/
def Core.cfgRes (c : Core) (k : Cmd) : Nat :=
  (((List.range 4).find? (fun q => usesChan k q && c.cfgAhead q k.seq)).map (96 + ·)).getD 0

/-- The ECODE of the first poisoned value. -/
def firstPoison (vs : List Val) : Option (BitVec 6) :=
  vs.findSome? (fun v => match v with
    | .poisoned _ e => some e
    | _ => none)

/-- Whether the target of a `vput` has no room: an EXHAUSTED write port or a full channel (R245). -/
def Core.putRefused (c : Core) (t : Nat) : Bool :=
  if t < 8 then (c.port t).dir == .write && (c.port t).exhausted
  else (c.chan (t - 8)).cfg.isSome && decide (chanDepth (t - 8) ≤ (c.chan (t - 8)).ents.length)

/-- A `vput` at the head of VQ (R245): `nb` for the non-blocking form. -/
def Core.vputStep (c : Core) (f : BaseF) (vs : List Val) (nb : Bool) : VRes :=
  let t := bitsNat f.mod 16 5
  let v := ((vs[0]?).map Val.vec).getD 0
  let mk := maskOf f vs[1]?
  let ok (c : Core) (b : Word) : VRes := .done c (if nb then [.scalar b] else [])
  if t < 8 then
    let p := c.port t
    if p.dir != .write then .bad { code := cCHAN }
    else if p.exhausted then (if nb then ok c 0 else .bad { code := cCHAN })
    else if c.putOutside t mk then .bad { code := cBOUNDS }
    else ok (c.putPort t v mk) 1
  else
    let q := t - 8
    let x := c.chan q
    if x.cfg.isNone then .bad { code := cCHAN }
    else if chanDepth q ≤ x.ents.length then (if nb then ok c 0 else .wait (96 + q))
    else
      let w := tyWidth f.ty.toNat
      let e := ofLanes w ((List.range (lanes f.ty.toNat)).map (fun i => if active mk w i then lane w v i else 0))
      ok (c.setChan q { x with ents := x.ents ++ [.vector e] }) 1

/-- A `vtry` at the head of VQ (R246). -/
def Core.vtryStep (c : Core) (src : Nat) : VRes :=
  let no : VRes := .done c [.vector 0, .scalar 0]
  match xKind src with
  | .port n =>
    if (c.port n).exhausted then no
    else
      match c.popPort n with
      | .got (.poisoned _ e) c => .killed c e
      | .got v c => .done c [v, .scalar 1]
      | .bad e => .bad e
      | .wait => no
  | .pop q =>
    match c.popChan q false with
    | .got (.poisoned _ e) c => .killed c e
    | .got v c => .done c [v, .scalar 1]
    | .bad e => .bad e
    | .wait => no
  | _ => no

/-- `chan.cfg` at the head of VQ (R224): the channel is empty and its older users have completed. -/
def Core.chanCfgStep (c : Core) (k : Cmd) (f : BaseF) : VRes :=
  let q := bitsNat f.mod 22 2
  if !(c.chan q).ents.isEmpty || c.cmds.any (fun x => x.seq < k.seq && !x.done && usesChan x q) then .wait (96 + q)
  else .done (c.setChan q { cfg := some { snk := f.ty.toNat, mod := f.mod }, ents := [], held := none, popped := 0, spoilt := [] }) []

/-- `vsem.sig` once every older VQ entry has completed (R226, R228): a pending error takes the place of its effect. -/
def Core.vsigStep (c : Core) (flag : Nat) (err : Bool) (v : Nat) : Core :=
  match c.vqErr with
  | some e => { c.setFlagAt flag 2 (flagSetErr (c.flag flag) e.toNat) with vqErr := none }
  | none => c.setFlagAt flag 2 (if err then flagSetErr (c.flag flag) v else flagAdd (c.flag flag) v)

/-- One VQ entry executed; `first` says that every older entry has completed. The non-blocking `vput` never waits: where
an operand is not there yet or its target has no room it yields 0 and takes nothing (R245; assumption 27). Flag words are
signalled and waited for in their turn of a clk (R188). -/
def Core.vStep (c : Core) (k : Cmd) (first : Bool) : VRes :=
  let scalar : Nat := match k.ops with
    | .ready (.scalar w) :: _ => w.toNat
    | _ => 0
  let compute (run : List Val → Core → Pre → VRes) : VRes :=
    if c.cfgRes k != 0 then .wait (c.cfgRes k)
    else
      match c.takeOps k.instr (k.srcs.zip k.ops) with
      | .wait => .wait (c.absentRes k.srcs)
      | .bad e => .bad e
      | .got vs c pre =>
        match firstPoison vs with
        | some e => .killed c e
        | none => run vs c pre
  match k.instr with
  | .vsemSig f =>
    if first && c.turnOpen (bitsNat f.mod 16 5) 2 then .done (c.vsigStep (bitsNat f.mod 16 5) false scalar) [] else .wait 0
  | .vsemSigErr f =>
    if first && c.turnOpen (bitsNat f.mod 16 5) 2 then .done (c.vsigStep (bitsNat f.mod 16 5) true scalar) [] else .wait 0
  | .vsemWait f =>
    let n := bitsNat f.mod 16 5
    match flagWait (c.flag n) scalar with
    | .ok => if c.turnOpen n 6 then .done (c.setFlagAt n 6 (flagSub (c.flag n) scalar)) [] else .wait 0
    | .err => .bad { code := cERRBIT, ecode := flagEcode (c.flag n) }
    | .no => .wait (32 + n)
  | .portSet f =>
    .done (c.setPort (bitsNat f.mod 0 3)
      { dir := .read, slot := (k.desc[0]?).getD 0, walk := BitVec.ofNat 64 scalar, pos := 0 }) []
  | .portSetW f =>
    .done (c.setPort (bitsNat f.mod 0 3)
      { dir := .write, slot := (k.desc[0]?).getD 0, walk := BitVec.ofNat 64 scalar, pos := 0 }) []
  | .portRst f => .done (c.setPort (bitsNat f.mod 0 3) { c.port (bitsNat f.mod 0 3) with pos := 0 }) []
  | .portRstOff f => .done (c.setPort (bitsNat f.mod 0 3) Port.reset) []
  | .chanCfg f => c.chanCfgStep k f
  | .vput f => compute (fun vs c _ => c.vputStep f vs false)
  | .vputNb f =>
    if c.cfgRes k != 0 then .wait (c.cfgRes k)
    else
      match c.takeOps k.instr (k.srcs.zip k.ops) with
      | .wait => .done c [.scalar 0]
      | .bad e => .bad e
      | .got vs c' _ =>
        if c.putRefused (bitsNat f.mod 16 5) then .done c [.scalar 0]
        else
          match firstPoison vs with
          | some e => .killed c' e
          | none => c'.vputStep f vs true
  | .vtry _ =>
    if c.cfgRes k != 0 then .wait (c.cfgRes k)
    else c.vtryStep ((k.srcs[0]?).getD 0)
  | i =>
    compute (fun vs c pre =>
      let (outs, sr) := vecEvalAt pre i vs c.srv
      .done { c with srv := sr } outs)

/-- The VQ entry the engine looks at: the first that has not started, with whether every older one has completed. -/
def Core.vHead (c : Core) : Option (Cmd × Bool) :=
  match c.vq.findIdx? (fun k => !k.started) with
  | none => none
  | some j => (c.vq[j]?).map (fun k => (k, j == 0))

/-- Whether the engines of a core move at all: not while it is frozen or stopped (R300, R325). -/
def Core.enginesRun (c : Core) : Bool := c.cstate != .frozen && !c.stopped && !c.iced

/-- Whether a queue of a core may start a command now: in RUN alone (R296, R312), and on a service core not while the
handler of a trap of one of its commands runs (R308). -/
def State.queueRuns (s : State) (g : Nat) (q : Eng) : Bool :=
  let c := s.core g
  c.enginesRun && !(s.die (dieOf g)).holdStop && (c.cstate == .run || isSvc g) && (c.svcCmd.map (·.1)) != some q

/-- The vector engine takes the entry at its head (R225): the entry executes whole, waits, traps, or is killed
(R226). -/
def State.vAdvance (s : State) (g : Nat) : State :=
  match (s.core g).vHead with
  | none => s
  | some (k, first) =>
    match (s.core g).vStep k first with
    | .wait _ => s
    | .bad c => s.trapCmd g .v k c 0 0
    | .done c outs =>
      s.modCore g (fun _ => c.modCmd .v k.seq (fun k => { k with started := true, out := outs }))
    | .killed c e =>
      s.modCore g (fun _ =>
        { c.modCmd .v k.seq (fun k =>
            { k with started := true, killed := true, out := (kindsOf k.instr).map (fun v => .poisoned v e) }) with
          vqErr := some (c.vqErr.getD e) })

/-- A VQ entry that has executed completes. -/
def State.vComplete (s : State) (g : Nat) (k : Cmd) : State := s.finishCmd g .v k none k.out

/-- CHAN_CFG_PERFORM (R224). -/
def execChanCfgPerform (s : State) : Out :=
  match s.focus with
  | .core g =>
    match (s.core g).vHead with
    | some (k, _) =>
      (match k.instr with
        | .chanCfg _ => if s.queueRuns g .v then .next (s.vAdvance g) else .next s
        | _ => .next s)
    | none => .next s
  | _ => .next s

end Sys2Proof.Machine
end

