-- ==== Sys2Proof/Machine/LoadStore.lean ====
section
/-! DEFINITION. Meanings of scalar loads and stores, of atomics, fences, `align`, `cwb` and `cinv`, and of the steps of
the ordering machine that perform them (R177 to R182, R256, R275 to R283). -/

namespace Sys2Proof.Machine

/-- Bytes of an access by TY (R177). -/
def sizeOfTy (t : Nat) : Nat := if t = 0 then 8 else tyWidth t / 8

/-- Whether an access of a queue kind has to wait for room. -/
def Core.noRoom (c : Core) (op : AccOp) : Bool := (op.inLq && c.lqFull) || (op.inSq && c.sqFull)

/-- Queue an access of the current instruction of a core, once its address has passed its checks; a full queue stalls
the sequencer (R181). -/
def State.queueAcc (s : State) (g : Nat) (op : AccOp) (pad : Bool) (a : Int) (n : Nat) (need : Need) (data : Nat)
    (hint : Nat) (kinds : List Bool) : Out :=
  match s.checkAddr g pad a n need with
  | (.error c, t) => .next (t.trap (.core g) c kinds 1)
  | (.ok p, t) =>
    if (s.core g).noRoom op then .next s
    else
      .next (t.modCore g (fun c => c.issueAcc (mkAcc c op pad a.toNat n p data hint) kinds.length 1))

/-- The address of a form I access (R178). -/
def immAddr (f : ImmF) (vs : List Val) : Int := (w0 vs).toInt + f.imm.toInt

/-- A form I access in stream text to the scratch pad, or with a hint, is ILLEGAL (R177). -/
def streamIllegal (s : State) (f : ImmF) : Bool :=
  s.canRun s.focus && isStream s.focus && (f.fn.getLsbD 2 || bitsNat f.fn 0 2 != 0)

/-- `ld` (R177, R178, R182). -/
def execLd (f : ImmF) (s : State) : Out :=
  if streamIllegal s f then .next (s.trap s.focus { code := cILLEGAL } [false] 1) else
  withOps s .both (opsOf (.ld f)) [false] 1 (fun a vs =>
    let n := sizeOfTy f.ty.toNat
    let uns := f.fn.getLsbD 3
    match a with
    | .core g =>
      s.queueAcc g (.load (8 * n) (!uns) false) (f.fn.getLsbD 2) (immAddr f vs) n Need.load 0 (bitsNat f.fn 0 2)
        [false]
    | .sfe p =>
      match s.streamPath p (immAddr f vs) n Need.load with
      | .error c => .next (s.trap a c [false] 1)
      | .ok x =>
        if s.streamHeld p x then .next s else
        match s.readPath (some p) x n [.l2] with
        | (.error e, t) => .next (t.trap a { code := cPOISON, ecode := e.toNat, addr := wrapNat 64 (immAddr f vs) } [false] 1)
        | (.ok v, t) => .next (t.retire a 1 [.scalar (loadedWord (8 * n) (!uns) false v)])
    | _ => .next s)

/-- `st` (R177, R178, R182); in stream text once every older window entry has retired (R90). -/
def execSt (f : ImmF) (s : State) : Out :=
  if streamIllegal s f then .next (s.trap s.focus { code := cILLEGAL } [] 1) else
  withOps s .both (opsOf (.st f)) [] 1 (fun a vs =>
    let n := sizeOfTy f.ty.toNat
    match a with
    | .core g =>
      s.queueAcc g (.store none) (f.fn.getLsbD 2) (immAddr f vs) n Need.store ((w1 vs).toNat % 2 ^ (8 * n))
        (bitsNat f.fn 0 2) []
    | .sfe p =>
      if !s.windowEmpty p then .next s
      else
        match s.streamPath p (immAddr f vs) n Need.store with
        | .error c => .next (s.trap a c [] 1)
        | .ok x =>
          if s.streamHeld p x then .next s
          else if s.refused x.home [.l2] then
            .next (s.trap a { code := cPOISON, ecode := 1, addr := wrapNat 64 (immAddr f vs) } [] 1)
          else
          let t := s.writePath (some p) x n (w1 vs).toNat [.l2]
          let t := t.modPart p (fun q => { q with sfe := { q.sfe with stores := (x.pa / 64) :: q.sfe.stores } })
          .next (t.retire a 1 [])
    | _ => .next s)

/-- What naming a descriptor slot to reach its elements checks (R86). -/
def descFault (d : Desc) : Option Cause :=
  if !d.valid then some { code := cOPERAND } else if d.misaligned then some { code := cALIGN } else none

/-- The index triple of an element offset (R179). -/
def offsetIdx (d : Desc) (o : Int) : Int × Int × Int :=
  (o % (d.n0 : Int), (o / (d.n0 : Int)) % (d.n1 : Int), o / ((d.n0 * d.n1 : Nat) : Int))

/-- Whether an element that a descriptor places in the pad lies outside the pad's extent: BOUNDS, before the checks of R178
(R81, R179). -/
def Core.outsidePad (c : Core) (d : Desc) (byte : Nat) : Bool :=
  d.space == 1 && padBytes c < byte + ceilDiv (tyWidth d.fmt) 8

/-- `ld.d` (R179). -/
def execLdD (f : BaseF) (s : State) : Out :=
  withOps s .kernel (opsOf (.ldD f)) [false] 1 (fun a vs =>
    match a with
    | .core g =>
      let d := Desc.of ((s.core g).slot (bitsNat f.mod 16 6))
      if (s.core g).slotBusy (bitsNat f.mod 16 6) then .next s else
      match descFault d with
      | some c => .next (s.trap a c [false] 1)
      | none =>
        let (e0, e1, e2) := offsetIdx d (w0 vs).toInt
        let sx := !f.mod.getLsbD 0 && isIntTy d.fmt
        match d.locate e0 e1 e2 false with
        | .bounds => .next (s.trap a { code := cBOUNDS } [false] 1)
        | .at byte hi =>
          if (s.core g).outsidePad d byte then .next (s.trap a { code := cBOUNDS, addr := byte } [false] 1) else
          s.queueAcc g (.load (tyWidth d.fmt) sx (hi == some true)) (d.space == 1) byte (ceilDiv (tyWidth d.fmt) 8)
            Need.load 0 0 [false]
        | _ => .next (s.retire a 1 [.scalar 0])
    | _ => .next s)

/-- `st.d` (R179). -/
def execStD (f : BaseF) (s : State) : Out :=
  withOps s .kernel (opsOf (.stD f)) [] 1 (fun a vs =>
    match a with
    | .core g =>
      let d := Desc.of ((s.core g).slot (bitsNat f.mod 16 6))
      if (s.core g).slotBusy (bitsNat f.mod 16 6) then .next s else
      match descFault d with
      | some c => .next (s.trap a c [] 1)
      | none =>
        let (e0, e1, e2) := offsetIdx d (w0 vs).toInt
        match d.locate e0 e1 e2 true with
        | .bounds => .next (s.trap a { code := cBOUNDS } [] 1)
        | .at byte hi =>
          if (s.core g).outsidePad d byte then .next (s.trap a { code := cBOUNDS, addr := byte } [] 1) else
          s.queueAcc g (.store hi) (d.space == 1) byte (ceilDiv (tyWidth d.fmt) 8) Need.store
            ((w1 vs).toNat % 2 ^ tyWidth d.fmt) 0 []
        | _ => .next (s.retire a 1 [])
    | _ => .next s)

/-- An atomic (R282, R283): function `fn` of `amo`, or 7 for `cas`. -/
def atomicOp (i : Instr) (f : BaseF) (fn : Nat) (s : State) : Out :=
  withOps s .kernel (opsOf i) [false] 1 (fun a vs =>
    match a with
    | .core g =>
      s.queueAcc g
        (.amo fn (f.mod.getLsbD 0) (bitsNat f.mod 8 3) (f.mod.getLsbD 7) (f.mod.getLsbD 6) (w2 vs).toNat)
        false (w0 vs).toInt (sizeOfTy f.ty.toNat) Need.both (w1 vs).toNat 0 [false]
    | _ => .next s)

/-- `amo.add` (R283). -/
def execAmoAdd (f : BaseF) (s : State) : Out :=
  atomicOp (.amoAdd f) f 0 s

/-- `amo.min` (R283). -/
def execAmoMin (f : BaseF) (s : State) : Out :=
  atomicOp (.amoMin f) f 1 s

/-- `amo.max` (R283). -/
def execAmoMax (f : BaseF) (s : State) : Out :=
  atomicOp (.amoMax f) f 2 s

/-- `amo.and` (R283). -/
def execAmoAnd (f : BaseF) (s : State) : Out :=
  atomicOp (.amoAnd f) f 3 s

/-- `amo.or` (R283). -/
def execAmoOr (f : BaseF) (s : State) : Out :=
  atomicOp (.amoOr f) f 4 s

/-- `amo.xor` (R283). -/
def execAmoXor (f : BaseF) (s : State) : Out :=
  atomicOp (.amoXor f) f 5 s

/-- `amo.swap` (R283). -/
def execAmoSwap (f : BaseF) (s : State) : Out :=
  atomicOp (.amoSwap f) f 6 s

/-- `cas` (R283). -/
def execCas (f : BaseF) (s : State) : Out :=
  atomicOp (.cas f) f 7 s

/-- A fence (R280). In stream text it waits for the window, and at system scope the lines of the stream's own stores
are written to HBM. -/
def fenceOp (f : BaseF) (rel acq : Bool) (s : State) : Out :=
  withOps s .both [] [] 1 (fun a _ =>
    let sc := bitsNat f.mod 8 3
    match a with
    | .core g =>
      if (s.core g).noRoom (.fence rel acq sc) then .next s
      else
        .next (s.modCore g (fun c =>
          c.issueAcc (mkAcc c (.fence rel acq sc) false 0 0 { pa := 0, home := 0, ccls := 0, key := 0 } 0 0) 0 1))
    | .sfe p =>
      if !s.windowEmpty p then .next s
      else
        let t := if sc = 4 then
            ((s.part p).sfe.stores.foldl (fun s x => s.writeBackLine x) s).modPart p
              (fun q => { q with sfe := { q.sfe with stores := [] } })
          else s
        .next (t.retire a 1 [])
    | _ => .next s)

/-- `fence.acq` (R280). -/
def execFenceAcq (f : BaseF) (s : State) : Out :=
  fenceOp f false true s

/-- `fence.rel` (R280). -/
def execFenceRel (f : BaseF) (s : State) : Out :=
  fenceOp f true false s

/-- `fence.ar` (R280). -/
def execFenceAr (f : BaseF) (s : State) : Out :=
  fenceOp f true true s

/-- `align` (R281). -/
def execAlign (f : BaseF) (s : State) : Out :=
  withOps s .kernel (opsOf (.align f)) [] 1 (fun a _ =>
    match a with
    | .core g =>
      if (s.core g).noRoom .align then .next s
      else
        .next (s.modCore g (fun c =>
          c.issueAcc (mkAcc c .align false 0 0 { pa := 0, home := 0, ccls := 0, key := 0 } 0 0) 0 1))
    | _ => .next s)

/-- The physical sectors of the mapped pages of [va, va + n): first and count of each run, or PROT for a page without
read access, POISON for one whose tables cannot be read (R180, R259). -/
def State.cacheRuns (s : State) (g va n : Nat) : Except Cause (List (Nat × Nat)) :=
  (List.range ((va % 4096 + n + 4095) / 4096)).foldr
    (fun i r =>
      match r with
      | .error c => .error c
      | .ok l =>
        let page := va / 4096 + i
        let lo := max va (page * 4096)
        let hi := min (va + n) (page * 4096 + 4096)
        match s.walk (s.rootOf g) lo with
        | .error .poison => .error { code := cPOISON, ecode := 1, addr := lo }
        | .error _ => .ok l
        | .ok (pte, bits) =>
          if !pte.getLsbD 1 || (!pte.getLsbD 4 && !isSvc g) then .error { code := cPROT, addr := lo }
          else
            let pa := (leafPath pte bits lo).pa
            .ok ((pa / 64, (pa + (hi - lo) - 1) / 64 + 1 - pa / 64) :: l))
    (.ok [])

/-- `cwb` and `cinv` (R180). -/
def cacheOpOf (i : Instr) (f : BaseF) (inval : Bool) (s : State) : Out :=
  withOps s .kernel (opsOf i) [] 1 (fun a vs =>
    match a with
    | .core g =>
      let len := (w1 vs).toNat
      let lo := (w0 vs).toInt
      let sc := bitsNat f.mod 8 3
      if 2 ^ 32 < len then .next (s.trap a { code := cOPERAND } [] 1)
      else if lo < 0 ∨ (2 ^ 48 : Int) < lo + len then .next (s.trap a { code := cPROT, addr := (w0 vs).toNat } [] 1)
      else if len = 0 then .next (s.retire a 1 [])
      else
        match s.cacheRuns g lo.toNat len with
        | .error c => .next (s.trap a c [] 1)
        | .ok runs =>
          if (s.core g).noRoom (.cacheOp inval sc runs) then .next s
          else
            .next (s.modCore g (fun c =>
              c.issueAcc (mkAcc c (.cacheOp inval sc runs) false 0 0 { pa := 0, home := 0, ccls := 0, key := 0 } 0 0)
                0 1))
    | _ => .next s)

/-- `cwb` (R180). -/
def execCwb (f : BaseF) (s : State) : Out :=
  cacheOpOf (.cwb f) f false s

/-- `cinv` (R180). -/
def execCinv (f : BaseF) (s : State) : Out :=
  cacheOpOf (.cinv f) f true s

/-- A step of the ordering machine at the core in focus; a frozen core takes none (R300), nor does one whose sectors are
frozen (R325) or one of a die that a warm reset has stopped (R351). -/
def onCore (s : State) (k : Nat → State) : Out :=
  match s.focus with
  | .core g => if (s.core g).cstate == .frozen || (s.core g).iced || (s.die (dieOf g)).holdStop then .next s else .next (k g)
  | _ => .next s

/-- LOAD_PERFORM (R181). -/
def execLoadPerform (s : State) : Out := onCore s s.loadPerform

/-- STORE_LEAVE_SQ (R181). -/
def execStoreLeaveSq (s : State) : Out := onCore s s.storeLeave

/-- RELEASE_COMPLETE (R275). -/
def execReleaseComplete (s : State) : Out := onCore s s.releaseComplete

/-- ACQUIRE_COMPLETE (R275). -/
def execAcquireComplete (s : State) : Out := onCore s s.acquireComplete

/-- ATOMIC_PERFORM (R255). -/
def execAtomicPerform (s : State) : Out := onCore s s.atomicPerform

/-- STORE_MOVE (R256): a store that has left SQ, a dirty sector of a cache, moves into the next storage of its path. -/
def execStoreMove (c : CacheId) (sec : Nat) (s : State) : Out := .next (s.writeBack c sec)

/-- CACHE_WRITE_BACK (R256): a dirty sector of a local-store cache or RDC is written back toward its home. -/
def execCacheWriteBack (c : CacheId) (sec : Nat) (s : State) : Out :=
  match c with
  | .l2 => .next s
  | _ => .next (s.writeBack c sec)

/-- CACHE_LINE_DROP (R256): a clean line is dropped. -/
def execCacheLineDrop (c : CacheId) (sec : Nat) (s : State) : Out := .next (s.dropClean c sec)

end Sys2Proof.Machine
end

