-- ==== Sys2Proof/Machine/Sync.lean ====
section
/-! DEFINITION. Meanings of the flag, barrier, team, `sleep.gt`, `trig` and `halt` instructions and of the steps that
end their waits (R163, R187 to R191, R272, R284 to R291). -/

namespace Sys2Proof.Machine

/-- A kernel instruction of one word, carried out for its core. -/
def coreOp (s : State) (i : Instr) (k : Nat → List Val → Out) : Out :=
  withOps s .kernel (opsOf i) (kindsOf i) (lenOf i) (fun a vs =>
    match a with
    | .core g => k g vs
    | _ => .next s)

/-- FLAG of a flag instruction. -/
def flagOf (f : BaseF) : Nat := bitsNat f.mod 16 5
/-- BOUND of a waiting instruction (R70). -/
def boundField (f : BaseF) : Nat := bitsNat f.mod 11 5
/-- SCOPE of an instruction (R70). -/
def scopeField (f : BaseF) : Nat := bitsNat f.mod 8 3

/-- `sem.sig` (R189): it performs once every older access has performed, in its turn of a clk (R188). -/
def execSemSig (f : BaseF) (s : State) : Out :=
  coreOp s (.semSig f) (fun g vs =>
    let v := (w0 vs).toNat
    if 2 ^ 24 ≤ v then .next (s.trap (.core g) { code := cOPERAND } [] 1)
    else if !(s.core g).quiet || !(s.core g).turnOpen (flagOf f) 0 then .next s
    else .next ((s.modCore g (fun c => c.setFlagAt (flagOf f) 0 (flagAdd (c.flag (flagOf f)) v))).retire (.core g) 1 []))

/-- `sem.sig.err` (R189). -/
def execSemSigErr (f : BaseF) (s : State) : Out :=
  coreOp s (.semSigErr f) (fun g vs =>
    let v := (w0 vs).toNat
    if v < 1 || 63 < v then .next (s.trap (.core g) { code := cOPERAND } [] 1)
    else if !(s.core g).quiet || !(s.core g).turnOpen (flagOf f) 0 then .next s
    else .next ((s.modCore g (fun c => c.setFlagAt (flagOf f) 0 (flagSetErr (c.flag (flagOf f)) v))).retire (.core g) 1 []))

/-- `sem.wait` and `sem.wait.t` (R190). -/
def semWaitOp (i : Instr) (f : BaseF) (t : Bool) (s : State) : Out :=
  coreOp s i (fun g vs =>
    let n := (w0 vs).toNat
    if 2 ^ 24 ≤ n then .next (s.trap (.core g) { code := cOPERAND } [false] 1)
    else .next (s.semStep g (flagOf f) n t (boundField f)))

/-- `sem.wait` (R190). -/
def execSemWait (f : BaseF) (s : State) : Out := semWaitOp (.semWait f) f false s
/-- `sem.wait.t` (R190). -/
def execSemWaitT (f : BaseF) (s : State) : Out := semWaitOp (.semWaitT f) f true s

/-- `sem.clr` (R191). -/
def execSemClr (f : BaseF) (s : State) : Out :=
  coreOp s (.semClr f) (fun g _ =>
    if !(s.core g).turnOpen (flagOf f) 0 then .next s
    else
      .next (((s.commit (.core g)).modCore g (fun c => c.setFlagAt (flagOf f) 0 (flagClrErr (c.flag (flagOf f))))).retire
        (.core g) 1 []))

/-- `sem.clr.all` (R191). -/
def execSemClrAll (f : BaseF) (s : State) : Out :=
  coreOp s (.semClrAll f) (fun g _ =>
    if !(s.core g).turnOpen (flagOf f) 0 then .next s
    else .next (((s.commit (.core g)).modCore g (fun c => c.setFlagAt (flagOf f) 0 0)).retire (.core g) 1 []))

/-- SEM_WAIT_SATISFIED (R190). -/
def execSemWaitSatisfied (s : State) : Out :=
  onCore s (fun g =>
    match (s.core g).wait with
    | some { kind := .sem flag n t, stall := _, bound := _ } =>
      if s.canRun (.core g) then
        (if flagWait ((s.core g).flag flag) n == .no then s else s.semStep g flag n t 0)
      else s
    | _ => s)

/-- `bar.arr` (R285). -/
def barArrOp (i : Instr) (f : BaseF) (err : Bool) (s : State) : Out :=
  coreOp s i (fun g vs =>
    let n := (w1 vs).toNat
    let c := (w2 vs).toNat
    if n < 1 || 2 ^ 32 ≤ n || (err && (c < 1 || 63 < c)) then .next (s.trap (.core g) { code := cOPERAND } [false] 1)
    else
      s.queueAcc g (.barArr n (if err then some c else none) (scopeField f)) false (w0 vs).toInt 8 Need.both 0 0
        [false])

/-- `bar.arr` (R285). -/
def execBarArr (f : BaseF) (s : State) : Out := barArrOp (.barArr f) f false s
/-- `bar.arr.err` (R285). -/
def execBarArrErr (f : BaseF) (s : State) : Out := barArrOp (.barArrErr f) f true s

/-- `bar.wait` (R286). -/
def barWaitOp (i : Instr) (f : BaseF) (t : Bool) (s : State) : Out :=
  coreOp s i (fun g vs =>
    match s.checkAddr g false (w0 vs).toInt 8 Need.load with
    | (.error c, s) => .next (s.endTrap g c [false])
    | (.ok p, s) =>
      let x := mkAcc (s.core g) (.acquire (scopeField f)) false (w0 vs).toNat 8 p 0 0
      .next (s.barStep g x ((w1 vs).toNat % 2 ^ 16) t (scopeField f) (boundField f)))

/-- `bar.wait` (R286). -/
def execBarWait (f : BaseF) (s : State) : Out := barWaitOp (.barWait f) f false s
/-- `bar.wait.t` (R286). -/
def execBarWaitT (f : BaseF) (s : State) : Out := barWaitOp (.barWaitT f) f true s

/-- BAR_WAIT_POLL (R286). -/
def execBarWaitPoll (s : State) : Out :=
  onCore s (fun g =>
    match (s.core g).wait with
    | some { kind := .barWait x gen t scope, stall := _, bound := _ } =>
      if s.canRun (.core g) then s.barStep g x gen t scope 0 else s
    | _ => s)

/-- `team.join` (R288). -/
def execTeamJoin (f : BaseF) (s : State) : Out :=
  coreOp s (.teamJoin f) (fun g vs =>
    let k := (w0 vs).toNat
    let n := (w1 vs).toNat
    let p := (s.core g).part
    match (s.core g).wait with
    | some { kind := .teamJoin key, stall := _, bound := _ } => .next (s.joinStep g key (boundField f))
    | _ =>
      let teams := (s.part p).teams
      let bad : Bool :=
        match teams.find? (fun t => t.key = k) with
        | none => 64 ≤ teams.length
        | some t => t.count != n || t.complete
      if k = 0 || 2 ^ 32 ≤ k || n < 1 || 128 < n then .next (s.trap (.core g) { code := cOPERAND } [] 1)
      else if (s.core g).teamKey.isSome || bad then .next (s.trap (.core g) { code := cTEAM } [] 1)
      else .next (((s.commit (.core g)).joinTeam g k n).joinStep g k (boundField f)))

/-- TEAM_JOIN_COMPLETE (R288). -/
def execTeamJoinComplete (s : State) : Out :=
  onCore s (fun g =>
    match (s.core g).wait with
    | some { kind := .teamJoin key, stall := _, bound := _ } => if s.canRun (.core g) then s.joinStep g key 0 else s
    | _ => s)

/-- `team.leave` (R289). -/
def execTeamLeave (f : BaseF) (s : State) : Out :=
  coreOp s (.teamLeave f) (fun g _ => .next (((s.commit (.core g)).leaveTeam g).retire (.core g) 1 []))

/-- `team.bar` (R290): once its older writes have performed it releases (R275) and arrives, then waits. -/
def execTeamBar (f : BaseF) (s : State) : Out :=
  coreOp s (.teamBar f) (fun g _ =>
    let p := (s.core g).part
    let sc := scopeField f
    match (s.core g).wait with
    | some { kind := .teamBar key gen scope, stall := _, bound := _ } =>
      .next (s.teamBarStep g key gen scope (boundField f))
    | _ =>
      match s.teamOf g with
      | none => .next (s.trap (.core g) { code := cTEAM } [] 1)
      | some t =>
        if !t.complete || t.broken then .next (s.trap (.core g) { code := cTEAM } [] 1)
        else if !(s.core g).writesDone || s.releaseHeld g (s.scopeOf g sc) then .next s
        else
          .next ((((s.commit (.core g)).releaseAct g (s.scopeOf g sc)).arrive p g t.key).teamBarStep g t.key t.gen sc (boundField f)))

/-- TEAM_BAR_COMPLETE (R290): every waiter of a generation that has completed acquires and goes on, and so does the
trap of those that a member left. -/
def execTeamBarComplete (p : Nat) (key : Nat) (s : State) : Out :=
  .next ((List.range 128).foldl (fun s g =>
    if (s.core g).part = p && s.canRun (.core g) then
      match (s.core g).wait with
      | some { kind := .teamBar k gen scope, stall := _, bound := _ } => if k = key then s.teamBarStep g k gen scope 0 else s
      | _ => s
    else s) s)

/-- `trig` (R291). -/
def execTrig (f : BaseF) (s : State) : Out := coreOp s (.trig f) (fun g _ => .next (s.trigStep g))

/-- TRIG_RELEASE (R291). -/
def execTrigRelease (s : State) : Out :=
  onCore s (fun g =>
    match (s.core g).wait with
    | some { kind := .trig, stall := _, bound := _ } => if s.canRun (.core g) then s.trigStep g else s
    | _ => s)

/-- `sleep.gt` (R272). -/
def sleepOp (i : Instr) (f : BaseF) (nt : Bool) (s : State) : Out :=
  coreOp s i (fun g vs =>
    let v := (w0 vs).toNat
    if 31 < v % 256 then .next (s.trap (.core g) { code := cOPERAND } (kindsOf i) 1)
    else
      let fin : Bool :=
        match (s.core g).wait with
        | some { kind := .sleep _ _ _ b, stall := _, bound := _ } => b
        | _ => false
      .next (s.sleepStep g (v / 256) (v % 256) nt fin (boundField f)))

/-- `sleep.gt` (R272). -/
def execSleepGt (f : BaseF) (s : State) : Out := sleepOp (.sleepGt f) f false s
/-- `sleep.gt.nt` (R272). -/
def execSleepGtNt (f : BaseF) (s : State) : Out := sleepOp (.sleepGtNt f) f true s

/-- PROMISE_TIME_REACHED (R272), and the end of the wait for the copy. -/
def execPromiseTimeReached (s : State) : Out :=
  onCore s (fun g =>
    match (s.core g).wait with
    | some { kind := .sleep time tag nt fin, stall := _, bound := _ } =>
      if s.canRun (.core g) then s.sleepStep g time tag nt fin 0 else s
    | _ => s)

/-- `halt` (R163): a task begins its drain; a stream ends once its window has retired (R89). A service core has no
task to end and stays at its `halt`. -/
def execHalt (f : BaseF) (s : State) : Out :=
  withOps s .both (opsOf (.halt f)) [] 1 (fun a _ =>
    match a with
    | .core g => if isSvc g then .next s else .next (s.haltStep g)
    | .sfe p => .next (s.modPart p (fun q => { q with sfe := { q.sfe with wait := .endStream 0 } }))
    | _ => .next s)

/-- HALT_DRAIN_END (R163). -/
def execHaltDrainEnd (s : State) : Out :=
  onCore s (fun g =>
    match (s.core g).wait with
    | some { kind := .halt, stall := _, bound := _ } => if s.canRun (.core g) then s.haltStep g else s
    | _ => s)

end Sys2Proof.Machine
end

