-- ==== Sys2Proof/Machine/Vector.lean ====
section
/-! DEFINITION. Meanings of the descriptor, port, channel and `phase` instructions and of the vector instructions, which
are pushed into VQ and executed there (R87, R218, R219, R223, R228 to R249, R252). -/

namespace Sys2Proof.Machine

/-- The specifiers of an instruction that may pop. -/
def popSpecs (i : Instr) : List (BitVec 8) := (pushOps i).map (·.2)

/-- A vector instruction that computes values from values (R225). -/
def vecOp (i : Instr) (s : State) : Out :=
  withPush s i .v true (fun g _ =>
    match (s.core g).popChk (s.core g).ctx (popSpecs i) with
    | some c => .error c
    | none => .ok [])

/-- `vput` and `vput.nb` at push (R245): the port is write-bound, or the channel configured with TY as SRCF. -/
def vputOp (i : Instr) (f : BaseF) (s : State) : Out :=
  withPush s i .v true (fun g _ =>
    let c := s.core g
    let t := bitsNat f.mod 16 5
    match c.popChk c.ctx (popSpecs i) with
    | some e => .error e
    | none =>
      if t < 8 then (if tget .unbound c.pview t == .write then .ok [] else .error { code := cCHAN })
      else
        match tget none c.cview (t - 8) with
        | some k => if bitsNat k.mod 16 4 = f.ty.toNat then .ok [] else .error { code := cCHAN }
        | none => .error { code := cCHAN })

/-- `port.set` at issue (R218). -/
def portSetOp (i : Instr) (f : BaseF) (isWrite : Bool) (s : State) : Out :=
  let n := bitsNat f.mod 16 6
  match s.focus with
  | .core g =>
    if (s.core g).slotBusy n then .next s
    else
      withPush s i .v false (fun g vs =>
        let b := (s.core g).slot n
        let d := Desc.of b
        if !d.valid || d.space ≠ 1 then .error { code := cOPERAND }
        else if d.misaligned then .error { code := cALIGN }
        else if d.bchk = 0 && !walkInside d (w0 vs) then .error { code := cBOUNDS }
        else if !walkInPad d (w0 vs) isWrite (padBytes (s.core g)) then .error { code := cBOUNDS }
        else .ok [b])
  | _ => withPush s i .v false (fun _ _ => .ok [])

/-- `port.set` (R218). -/
def execPortSet (f : BaseF) (s : State) : Out := portSetOp (.portSet f) f false s
/-- `port.set.w` (R218). -/
def execPortSetW (f : BaseF) (s : State) : Out := portSetOp (.portSetW f) f true s
/-- `port.rst` (R219): CHAN on a port unbound in program order. -/
def execPortRst (f : BaseF) (s : State) : Out :=
  withPush s (.portRst f) .v false (fun g _ =>
    if tget .unbound (s.core g).pview (bitsNat f.mod 0 3) == .unbound then .error { code := cCHAN } else .ok [])

/-- `port.rst.off` (R219). -/
def execPortRstOff (f : BaseF) (s : State) : Out := withPush s (.portRstOff f) .v false (fun _ _ => .ok [])
/-- `chan.cfg` (R223, R224). -/
def execChanCfg (f : BaseF) (s : State) : Out := withPush s (.chanCfg f) .v false (fun _ _ => .ok [])
/-- `vsem.sig` (R228): its value is checked at push. -/
def execVsemSig (f : BaseF) (s : State) : Out :=
  withPush s (.vsemSig f) .v false (fun _ vs => if 2 ^ 24 ≤ (w0 vs).toNat then .error { code := cOPERAND } else .ok [])

/-- `vsem.sig.err` (R228). -/
def execVsemSigErr (f : BaseF) (s : State) : Out :=
  withPush s (.vsemSigErr f) .v false (fun _ vs =>
    if (w0 vs).toNat < 1 || 63 < (w0 vs).toNat then .error { code := cOPERAND } else .ok [])

/-- `vsem.wait` (R229). -/
def execVsemWait (f : BaseF) (s : State) : Out :=
  withPush s (.vsemWait f) .v false (fun _ vs => if 2 ^ 24 ≤ (w0 vs).toNat then .error { code := cOPERAND } else .ok [])

/-- `vadd` (R231). -/
def execVadd (f : BaseF) (s : State) : Out := vecOp (.vadd f) s
/-- `vsub` (R231). -/
def execVsub (f : BaseF) (s : State) : Out := vecOp (.vsub f) s
/-- `vmul` (R231). -/
def execVmul (f : BaseF) (s : State) : Out := vecOp (.vmul f) s
/-- `vmin` (R231). -/
def execVmin (f : BaseF) (s : State) : Out := vecOp (.vmin f) s
/-- `vmax` (R231). -/
def execVmax (f : BaseF) (s : State) : Out := vecOp (.vmax f) s
/-- `vabs` (R231). -/
def execVabs (f : BaseF) (s : State) : Out := vecOp (.vabs f) s
/-- `vneg` (R231). -/
def execVneg (f : BaseF) (s : State) : Out := vecOp (.vneg f) s
/-- `vfma` (R232). -/
def execVfma (f : BaseF) (s : State) : Out := vecOp (.vfma f) s
/-- `vfms` (R232). -/
def execVfms (f : BaseF) (s : State) : Out := vecOp (.vfms f) s
/-- `vfnma` (R232). -/
def execVfnma (f : BaseF) (s : State) : Out := vecOp (.vfnma f) s
/-- `vfnms` (R232). -/
def execVfnms (f : BaseF) (s : State) : Out := vecOp (.vfnms f) s
/-- `vand` (R233). -/
def execVand (f : BaseF) (s : State) : Out := vecOp (.vand f) s
/-- `vor` (R233). -/
def execVor (f : BaseF) (s : State) : Out := vecOp (.vor f) s
/-- `vxor` (R233). -/
def execVxor (f : BaseF) (s : State) : Out := vecOp (.vxor f) s
/-- `vandn` (R233). -/
def execVandn (f : BaseF) (s : State) : Out := vecOp (.vandn f) s
/-- `vnot` (R233). -/
def execVnot (f : BaseF) (s : State) : Out := vecOp (.vnot f) s
/-- `vshl` (R234). -/
def execVshl (f : BaseF) (s : State) : Out := vecOp (.vshl f) s
/-- `vshr` (R234). -/
def execVshr (f : BaseF) (s : State) : Out := vecOp (.vshr f) s
/-- `vsar` (R234). -/
def execVsar (f : BaseF) (s : State) : Out := vecOp (.vsar f) s
/-- `vclz` (R234). -/
def execVclz (f : BaseF) (s : State) : Out := vecOp (.vclz f) s
/-- `vffs` (R234). -/
def execVffs (f : BaseF) (s : State) : Out := vecOp (.vffs f) s
/-- `vpopc` (R234). -/
def execVpopc (f : BaseF) (s : State) : Out := vecOp (.vpopc f) s
/-- `vcmp.eq` (R235). -/
def execVcmpEq (f : BaseF) (s : State) : Out := vecOp (.vcmpEq f) s
/-- `vcmp.ne` (R235). -/
def execVcmpNe (f : BaseF) (s : State) : Out := vecOp (.vcmpNe f) s
/-- `vcmp.lt` (R235). -/
def execVcmpLt (f : BaseF) (s : State) : Out := vecOp (.vcmpLt f) s
/-- `vcmp.le` (R235). -/
def execVcmpLe (f : BaseF) (s : State) : Out := vecOp (.vcmpLe f) s
/-- `vcmp.gt` (R235). -/
def execVcmpGt (f : BaseF) (s : State) : Out := vecOp (.vcmpGt f) s
/-- `vcmp.ge` (R235). -/
def execVcmpGe (f : BaseF) (s : State) : Out := vecOp (.vcmpGe f) s
/-- `vsel` (R236). -/
def execVsel (f : BaseF) (s : State) : Out := vecOp (.vsel f) s
/-- `vmulh` (R237). -/
def execVmulh (f : BaseF) (s : State) : Out := vecOp (.vmulh f) s
/-- `vbc` (R238). -/
def execVbc (f : BaseF) (s : State) : Out := vecOp (.vbc f) s
/-- `vbc, FN 1` (R238). -/
def execVbcLane (f : BaseF) (s : State) : Out := vecOp (.vbcLane f) s
/-- `vext` (R239). -/
def execVext (f : BaseF) (s : State) : Out := vecOp (.vext f) s
/-- `vins` (R240). -/
def execVins (f : BaseF) (s : State) : Out := vecOp (.vins f) s
/-- `vperm` (R241). -/
def execVperm (f : BaseF) (s : State) : Out := vecOp (.vperm f) s
/-- `vrot` (R242). -/
def execVrot (f : BaseF) (s : State) : Out := vecOp (.vrot f) s
/-- `vred.sum` (R243). -/
def execVredSum (f : BaseF) (s : State) : Out := vecOp (.vredSum f) s
/-- `vred.min` (R243). -/
def execVredMin (f : BaseF) (s : State) : Out := vecOp (.vredMin f) s
/-- `vred.max` (R243). -/
def execVredMax (f : BaseF) (s : State) : Out := vecOp (.vredMax f) s
/-- `vred.and` (R243). -/
def execVredAnd (f : BaseF) (s : State) : Out := vecOp (.vredAnd f) s
/-- `vred.or` (R243). -/
def execVredOr (f : BaseF) (s : State) : Out := vecOp (.vredOr f) s
/-- `vred.xor` (R243). -/
def execVredXor (f : BaseF) (s : State) : Out := vecOp (.vredXor f) s
/-- `vscan.sum` (R244). -/
def execVscanSum (f : BaseF) (s : State) : Out := vecOp (.vscanSum f) s
/-- `vscan.min` (R244). -/
def execVscanMin (f : BaseF) (s : State) : Out := vecOp (.vscanMin f) s
/-- `vscan.max` (R244). -/
def execVscanMax (f : BaseF) (s : State) : Out := vecOp (.vscanMax f) s
/-- `vtry` (R246): its operand is a pop. -/
def execVtry (f : BaseF) (s : State) : Out :=
  match xKind (((s.ctxOf s.focus)).expand f.a) with
  | .port _ => vecOp (.vtry f) s
  | .pop _ => vecOp (.vtry f) s
  | _ => withOps s .kernel [(.none, 1)] [true, false] 1 (fun _ _ => .next s)

/-- `vcvt` (R248). -/
def execVcvt (f : BaseF) (s : State) : Out := vecOp (.vcvt f) s
/-- `vwid` (R248). -/
def execVwid (f : BaseF) (s : State) : Out := vecOp (.vwid f) s
/-- `vnar` (R248). -/
def execVnar (f : BaseF) (s : State) : Out := vecOp (.vnar f) s
/-- `vexp2` (R249). -/
def execVexp2 (f : BaseF) (s : State) : Out := vecOp (.vexp2 f) s
/-- `vlog2` (R249). -/
def execVlog2 (f : BaseF) (s : State) : Out := vecOp (.vlog2 f) s
/-- `vrcp` (R249). -/
def execVrcp (f : BaseF) (s : State) : Out := vecOp (.vrcp f) s
/-- `vrsq` (R249). -/
def execVrsq (f : BaseF) (s : State) : Out := vecOp (.vrsq f) s
/-- `vsqrt` (R249). -/
def execVsqrt (f : BaseF) (s : State) : Out := vecOp (.vsqrt f) s
/-- `vtanh` (R249). -/
def execVtanh (f : BaseF) (s : State) : Out := vecOp (.vtanh f) s
/-- `vput` (R245). -/
def execVput (f : BaseF) (s : State) : Out := vputOp (.vput f) f s
/-- `vput.nb` (R245). -/
def execVputNb (f : BaseF) (s : State) : Out := vputOp (.vputNb f) f s

/-- `td.set` (R87): one field. -/
def execTdSet (f : BaseF) (s : State) : Out :=
  coreOp s (.tdSet f) (fun g vs =>
    let n := bitsNat f.mod 16 6
    let fld := bitsNat f.mod 0 4
    let v := (w0 vs).toNat
    let isSize := fld = 6 || fld = 7
    let w := fieldWidth fld
    if (s.core g).slotBusy n then .next s
    else if (if isSize then v < 1 || 2 ^ 20 < v else 2 ^ w ≤ v) then .next (s.trap (.core g) { code := cOPERAND } [] 1)
    else
      let x := if isSize then v - 1 else v
      .next (((s.commit (.core g)).modCore g (fun c => c.setSlot n (setBits (c.slot n) (fieldLow fld) w x))).retire (.core g) 1 []))

/-- `td.set.rec` (R87): a load of 32 bytes into a slot. -/
def execTdSetRec (f : BaseF) (s : State) : Out :=
  coreOp s (.tdSetRec f) (fun g vs =>
    if (s.core g).slotBusy (bitsNat f.mod 16 6) then .next s
    else s.queueAcc g (.tdRec (bitsNat f.mod 16 6)) false (w0 vs).toInt 32 Need.load 0 0 [])

/-- `td.get` (R87). -/
def execTdGet (f : BaseF) (s : State) : Out :=
  coreOp s (.tdGet f) (fun g _ =>
    let n := bitsNat f.mod 16 6
    let fld := bitsNat f.mod 0 4
    let v := bitsNat ((s.core g).slot n) (fieldLow fld) (fieldWidth fld)
    if (s.core g).slotBusy n then .next s
    else .next (s.retire (.core g) 1 [.scalar (BitVec.ofNat 64 (if fld = 6 || fld = 7 then v + 1 else v))]))

/-- Lines leave a local-store cache, written back, until what is left has room (R252). -/
def State.shrinkStore (s : State) (g : Nat) : Nat → State
  | 0 => s
  | n + 1 =>
    if (s.storeLines (.lsc g) 0).length ≤ s.storeRoom (.lsc g) then s
    else (s.evictLine (.lsc g) (s.storeLines (.lsc g) 0)).2.shrinkStore g n

/-- `phase` (R252): after the drain of `halt` the split changes. Units that join the pad leave the cache with their
lines written back; units that leave the pad lose their contents. -/
def State.phaseStep (s : State) (g k : Nat) : State :=
  let c := s.core g
  if !c.drained then s.waitOn g (.phase k) none
  else
    let j := c.padUnits
    ((((s.commit (.core g)).modCore g (fun c => { c.padClear (min j k) (max j k) with padUnits := k })).shrinkStore g
      ((s.cachedSecs (.lsc g)).length))).endWith g []

/-- `phase` (R252). -/
def execPhase (f : BaseF) (s : State) : Out := coreOp s (.phase f) (fun g _ => .next (s.phaseStep g (bitsNat f.mod 16 5)))

/-- PHASE_MOVE (R252). -/
def execPhaseMove (s : State) : Out :=
  onCore s (fun g =>
    match (s.core g).wait with
    | some { kind := .phase k, stall := _, bound := _ } => if s.canRun (.core g) then s.phaseStep g k else s
    | _ => s)

end Sys2Proof.Machine
end

