-- ==== Sys2Proof/Machine/Matrix.lean ====
section
/-! DEFINITION. The matrix sector (R193 to R210): the checks of its commands at push, the wavefront, the drain and its
epilogue, checksums, and gangs. -/

namespace Sys2Proof.Machine

/-- The position of a sector in its gang (R209). -/
def gangPos (g : Nat) (gang : Option (Nat × Nat)) : Nat :=
  match gang with
  | none => 0
  | some (west, _) => sectCol g - west

/-! Step cost (R194). -/

/-- τ in half clk. -/
def tau2 (a b : Nat) : Nat :=
  if (a = 12 && (b = 7 || b = 2)) || (b = 12 && (a = 7 || a = 2)) || (a = 1 && b = 1) || (a = 6 && b = 6) then 1
  else if a = 11 then 16
  else if a = 9 || a = 10 then 4
  else 2

/-- floor(k × τ). -/
def stepClk (t2 k : Nat) : Nat := k * t2 / 2

/-- The steps that begin at offset `u` from a PE's first clk. -/
def stepsAt (t2 k u : Nat) : List Nat :=
  (if t2 = 1 then [2 * u, 2 * u + 1] else if (2 * u) % t2 = 0 then [2 * u / t2] else []).filter (· < k)

/-! The command. -/

/-- What an `mm` is: shapes, formats and options. -/
structure Mm where
  a : Desc
  b : Desc
  ua : Bool
  ub : Bool
  aq1 : Bool
  chk : Bool
  zero : Bool
  bank : Bool
  mode : BankMode
  deriving DecidableEq, Repr

/-- The `mm` of a command. -/
def mmOf (f : EngF) (desc : List (BitVec 256)) : Mm :=
  let a := Desc.of ((desc[0]?).getD 0)
  let b := Desc.of ((desc[1]?).getD 0)
  { a := a, b := b, ua := f.efl.getLsbD 4, ub := f.efl.getLsbD 5, aq1 := f.fn.getLsbD 0, chk := f.efl.getLsbD 6,
    zero := f.efl.getLsbD 1, bank := f.efl.getLsbD 0, mode := (mmModeOf a.fmt b.fmt).getD .fp }

/-- Rows. -/
def Mm.m (x : Mm) : Nat := x.a.n1
/-- Steps. -/
def Mm.k (x : Mm) : Nat := x.a.n0
/-- Columns. -/
def Mm.n (x : Mm) : Nat := x.b.n0
/-- τ in half clk. -/
def Mm.t2 (x : Mm) : Nat := tau2 x.a.fmt x.b.fmt

/-- Bytes of plane 0 of a descriptor, from its BASE. -/
def Desc.planeBytes (d : Desc) : Nat := d.rowBytes d.n0 + (d.n1 - 1) * d.stride1

/-- A misaligned f32 scale address (R83). -/
def Desc.badScale (d : Desc) : Bool := d.scaled && d.scale32 && d.scalebase % 4 != 0

/-- The checks of `mm` at push, in the order of R198, and that of R200. -/
def State.mmChk (s : State) (g : Nat) (f : EngF) (da db : BitVec 256) : Option Cause :=
  let c := s.core g
  let x := mmOf f [da, db]
  let view := c.bview x.bank
  let cols := 256 * (s.driven g c.gview).length
  let pad := padBytes c
  if (s.driven g c.gview).any (fun y => !s.ownsSect c.part y) then some { code := cPROT, noData := true }
  else if !x.a.valid || !x.b.valid then some { code := cOPERAND }
  else if x.b.misaligned || (!x.aq1 && x.a.misaligned) || x.a.badScale || x.b.badScale then some { code := cALIGN }
  else if x.b.space ≠ 1 || (!x.aq1 && x.a.space ≠ 1) then some { code := cOPERAND }
  else if (mmModeOf x.a.fmt x.b.fmt).isNone || (x.ua && !isIntTy x.a.fmt) || (x.ub && !isIntTy x.b.fmt) then
    some { code := cOPERAND }
  else if x.a.n0 ≠ x.b.n1 || 128 < x.m || cols < x.n then some { code := cOPERAND }
  else if !x.zero && view.mode.isSome && view.mode ≠ some x.mode then some { code := cOPERAND }
  else if pad < x.b.base + x.b.planeBytes || (!x.aq1 && pad < x.a.base + x.a.planeBytes) then some { code := cBOUNDS }
  else if x.aq1 && ((tget none c.cview 1).map (·.snk)) ≠ some x.a.fmt then some { code := cCHAN }
  else none

/-- Slots of a form E command named in A and B. -/
def slotA (f : EngF) : Nat := f.a.toNat % 64
/-- Slot in B. -/
def slotB (f : EngF) : Nat := f.b.toNat % 64

/-- Push an engine command once no load into a slot it names is to come. -/
def pushSlots (s : State) (i : Instr) (q : Eng) (slots : List Nat)
    (chk : Nat → List Val → Except Cause (List (BitVec 256))) : Out :=
  match s.focus with
  | .core g => if slots.any (s.core g).slotBusy then .next s else withPush s i q false chk
  | _ => withPush s i q false chk

/-- `mm` (R197, R198). -/
def execMm (f : EngF) (s : State) : Out :=
  pushSlots s (.mm f) .m [slotA f, slotB f] (fun g _ =>
    let da := (s.core g).slot (slotA f)
    let db := (s.core g).slot (slotB f)
    match s.mmChk g f da db with
    | some c => .error c
    | none => .ok [da, db])

/-- An operand element as an exact number. -/
def mmNum (fmt : Nat) (uns : Bool) (bits : Nat) : Num := numOf fmt uns false bits

/-- The product in a mode: an exact value, with its integer in integer modes (scaled: in units of 2^−6, R38). -/
def mmProduct (m : BankMode) (a b : Num) (fa fb ba bb : Nat) : Fp × Int :=
  match m with
  | .fp => (mulFp (numFp a) (numFp b), 0)
  | .int =>
    (match a, b with
      | .int _ x, .int _ y => (ofInt (x * y), x * y)
      | _, _ => (zeroFp false, 0))
  | .scaled =>
    let p : Int :=
      match a, b with
      | .int _ x, _ => if fb = 12 then x * ds8Units bb else 0
      | _, .int _ y => if fa = 12 then y * ds8Units ba else 0
      | _, _ => 0
    (.fin (decide (p < 0)) p.natAbs 64, p)

/-- One step of a PE: the new accumulator, and whether it overflowed (R38, R40). -/
def mmStep (m : BankMode) (acc : BitVec 80) (p : Fp × Int) : BitVec 80 × Bool :=
  match m with
  | .fp => (BitVec.ofNat 80 (rnd80 (addFp false (decodeF a80F acc.toNat) p.1)), false)
  | _ =>
    let t := acc.toInt + p.2
    let lim : Int := 2 ^ 79 - 1
    if t > lim then (BitVec.ofInt 80 lim, true) else if t < -lim then (BitVec.ofInt 80 (-lim), true)
    else (BitVec.ofInt 80 t, false)

/-- A finite value in units of 2^−320 (R206). -/
def unit320 (x : Fp) : Int :=
  match x with
  | .fin neg n d => sgnNum neg (n * 2 ^ 320 / d)
  | _ => 0

/-- Keys of the checksum table: e_j and s_j. -/
def eKey (j : Nat) : Nat := if j < 256 then j else 1000 + j
/-- Key of s_j. -/
def sKey (j : Nat) : Nat := if j < 256 then 256 + j else 3000 + j

/-- Add a product to the checksums of a bank. -/
def Bank.addSums (b : Bank) (i j : Nat) (p : Fp) : Bank :=
  match p with
  | .fin _ _ _ =>
    let v := unit320 p
    let add (t : Tab Int) (k : Nat) (x : Int) : Tab Int := tput 0 t k (tget 0 t k + x)
    { b with sums := add (add (add (add b.sums (eKey j) v) (sKey j) v.natAbs) (512 + i) v) (640 + i) v.natAbs }
  | _ => { b with chkNan := true }

/-- The accumulators of a bank in a sector. -/
def Sector.acc (x : Sector) (b : Bool) : Tab (Option (BitVec 80)) := if b then x.acc1 else x.acc0
/-- Write them. -/
def Sector.setAcc (x : Sector) (b : Bool) (t : Tab (Option (BitVec 80))) : Sector :=
  if b then { x with acc1 := t } else { x with acc0 := t }

/-- An accumulator of a core's bank at row `i` and column `j` across its sectors; unset reads as +0 (R195). -/
def State.accAt (s : State) (secs : List Nat) (b : Bool) (i j : Nat) : BitVec 80 :=
  match secs[j / 256]? with
  | none => 0
  | some g => (tget none ((s.sector g).acc b) (i * 256 + j % 256)).getD 0

/-- Write an accumulator and its valid bit. -/
def State.setAccAt (s : State) (secs : List Nat) (b : Bool) (i j : Nat) (v : BitVec 80) : State :=
  match secs[j / 256]? with
  | none => s
  | some g =>
    let x := s.sector g
    s.setSector g (x.setAcc b (tput none (x.acc b) (i * 256 + j % 256) (some v)))

/-- Which command of MQ may start next: the first that has not, under the hazards of R196; an `mm` starts after every
older `mm`, a drain after every older drain. Gang commands stand alone at the head. -/
def Core.mHead (c : Core) : Option Cmd :=
  match c.mq.findIdx? (fun k => !k.started) with
  | none => none
  | some j =>
    match c.mq[j]? with
    | none => none
    | some k =>
      let older := c.mq.take j
      let busy (p : Instr → Bool) : Bool := older.any (fun x => !x.done && p x.instr)
      let isMm (i : Instr) : Bool := match i with
        | .mm _ => true
        | _ => false
      let isDr (i : Instr) : Bool := match i with
        | .mmDrain _ => true
        | .mmDrainQ0 _ => true
        | _ => false
      let bankOf (i : Instr) : Bool := match i with
        | .mm f => f.efl.getLsbD 0
        | .mmDrain f => f.fn.getLsbD 0
        | .mmDrainQ0 f => f.fn.getLsbD 0
        | _ => false
      let same (i : Instr) : Bool := bankOf i == bankOf k.instr
      let gangs : Bool := busy (fun i => !isMm i && !isDr i)
      if isMm k.instr then (if busy isMm || busy (fun i => isDr i && same i) || gangs then none else some k)
      else if isDr k.instr then (if busy isDr || busy (fun i => isMm i && same i) || gangs then none else some k)
      else if j = 0 then some k
      else none

/-- No latch of some sectors holds what a `scan.in` has loaded any more (R321). -/
def State.dropLats (s : State) (secs : List Nat) : State :=
  secs.foldl (fun s y => s.setSector y { s.sector y with lats := [] }) s

/-- Begin an `mm` over some sectors: the zero option clears the bank, then shape, scales, mode and checksum state are set (R195, R199,
R206). -/
def State.mmBegin (s : State) (g : Nat) (secs : List Nat) (x : Mm) : State :=
  let s := s.dropLats secs
  let s := if x.zero then secs.foldl (fun s y => s.setSector y ((s.sector y).setAcc x.bank [])) s else s
  s.modCore g (fun c =>
    let b := c.bank x.bank
    let b := if x.zero then { b with ovf := false, poison := false, chkVoid := false, chkOn := false, chkNan := false, sums := [] } else b
    c.setBank x.bank
      { b with
        mode := some x.mode, m := x.m, n := x.n, refA := scaleRef x.a, refB := scaleRef x.b,
        chkVoid := b.chkVoid || !x.chk, chkOn := b.chkOn || x.chk,
        sums := if x.chk then tput 0 b.sums 900 (tget 0 b.sums 900 + (x.k : Int)) else b.sums })

/-- One element of a pad operand, or the ECODE of its poison; element (e0, e1) of plane 0. -/
def Core.mmElem (c : Core) (d : Desc) (e0 e1 : Nat) : Except (BitVec 6) Nat :=
  match d.locate (e0 : Int) (e1 : Int) 0 false with
  | .at b hi =>
    match c.padPoison b (elemBytes d.fmt) with
    | some e => .error e
    | none => .ok (c.padElem d.fmt b hi)
  | _ => .ok 0

/-- Read an element of an operand into its place in a buffer, where it has not been read yet: each is read once, at some clk
from the start of the `mm` to the one in which it enters (R199). An error is kept. -/
def Core.mmFeed (c : Core) (d : Desc) (e0 e1 key : Nat) (z : Tab (Option Nat) × Option (BitVec 6)) :
    Tab (Option Nat) × Option (BitVec 6) :=
  if (tget none z.1 key).isSome then z
  else
    match c.mmElem d e0 e1 with
    | .ok v => (tput none z.1 key (some v), z.2)
    | .error e => (z.1, some (z.2.getD e))

/-- Pop q1 until `need` entries have been taken: the core, the command and whether that was possible (R200). Entry `e`
gives row e mod M the lanes from (e / M) L on. -/
def popA (x : Mm) : Nat → Core × Cmd → Nat → Core × Cmd × Bool
  | 0, (c, k), _ => (c, k, true)
  | fuel + 1, (c, k), need =>
    if need ≤ k.prog then (c, k, true)
    else
      let ch := c.chan 1
      if !ch.present || c.cfgAhead 1 k.seq then (c, k, false)
      else
        let (v, ch, _) := ch.look c.srv
        let l := lanes x.a.fmt
        let i := k.prog % x.m
        let kb := k.prog / x.m * l
        let buf := match v with
          | .poisoned _ _ => k.aBuf
          | v => (List.range (min l (x.k - kb))).foldl
              (fun t q => tput none t (i * x.k + kb + q) (some (lane (tyWidth x.a.fmt) v.vec q))) k.aBuf
        let bad := match v with
          | .poisoned _ e => some e
          | _ => k.lateErr
        popA x fuel (c.setChan 1 ch.drop, { k with aBuf := buf, prog := k.prog + 1, lateErr := bad, stall := 0 }) need

/-- How many of its clks row `i` of an `mm` has taken: without AQ1 the rows follow each other a clk apart (R193), and with
it each row keeps its own count, for an empty q1 delays only the steps that need the entry (R200). -/
def Cmd.rowCnt (k : Cmd) (i : Nat) : Nat := if k.rpos.isEmpty then k.clk - i else tget 0 k.rpos i

/-- The steps whose element of A enters at row `i` at its clk `u` take q1's first this many entries (R200). -/
def Mm.needs (x : Mm) (i u : Nat) : Nat :=
  (stepsAt x.t2 x.k u).foldl (fun n k => max n (k / lanes x.a.fmt * x.m + i + 1)) 0

/-- The rows that may take a clk next, with that clk's number: each stays behind the row above it, and takes `span` in
all. -/
def Mm.due (x : Mm) (k : Cmd) (span : Nat) : List (Nat × Nat) :=
  ((List.range x.m).filter (fun i => k.rowCnt i < span && (if i = 0 then true else
    if k.rpos.isEmpty then i ≤ k.clk else k.rowCnt i < k.rowCnt (i - 1)))).map (fun i => (i, k.rowCnt i))

/-- Take from q1 what the due rows need, in their order: the core, the command and the rows that go on. -/
def popRows (x : Mm) : List (Nat × Nat) → Core × Cmd → Core × Cmd × List (Nat × Nat)
  | [], (c, k) => (c, k, [])
  | (i, u) :: rs, (c, k) =>
    let need := x.needs i u
    let (c, k, ok) := popA x (need + 1) (c, k) need
    let (c, k, go) := popRows x rs (c, k)
    (c, k, if ok then (i, u) :: go else go)

/-- Whether q1 must hold another entry before some due row goes on (R200). -/
def Mm.starved (x : Mm) (k : Cmd) (span : Nat) : Bool := (x.due k span).any (fun r => k.prog < x.needs r.1 r.2)

/-- Elements of B that enter at the north edge with clk `t` of row 0, for a core whose first sector is at position
`pos`: (column, step). -/
def bEnters (x : Mm) (pos t : Nat) : List (Nat × Nat) :=
  (List.range x.n).flatMap (fun j =>
    let at' := j % 256 + 257 * (pos + j / 256)
    if at' ≤ t then (stepsAt x.t2 x.k (t - at')).map (fun k => (j, k)) else [])

/-- The clk an `mm` takes (R193, R209). -/
def Mm.total (x : Mm) (gang : Option (Nat × Nat)) : Nat :=
  match gang with
  | none => (x.m - 1) + (x.n - 1) + ceilDiv (x.k * x.t2) 2
  | some (_, w) => (x.m - 1) + (256 * w - 1) + (w - 1) + ceilDiv (x.k * x.t2) 2

/-- The clks each row of an `mm` takes (R193, R209). -/
def Mm.span (x : Mm) (gang : Option (Nat × Nat)) : Nat := x.total gang - (x.m - 1)

/-- The element that stands at place `at'` of its way east or south: the one that entered, or what a `scan.in` has put into a
latch behind it; none where that latch was loaded as not valid (R321). -/
def elemAt (buf : Tab (Option Nat)) (over' : Tab (Option (Nat × Option Nat))) (key at' : Nat) : Option Nat :=
  match tget none over' key with
  | some (p, v) => if p < at' then v else some ((tget none buf key).getD 0)
  | none => some ((tget none buf key).getD 0)

/-- The latches of the rows of a sector that take a clk no longer hold what a `scan.in` has loaded (R321). -/
def Sector.stepRows (x : Sector) (rows : List Nat) : Sector :=
  { x with lats := x.lats.filter (fun e => !rows.contains (e.1 / 256)) }

/-- The steps of the PEs of a core in one clk (R193, R199): `rows` holds the rows that go on, with the number of their
clk, `kw` is the command that feeds A and `kb` the one that feeds B. A PE takes no step with an element that a load has left
invalid (assumption 20). -/
def State.mmClk (s : State) (g : Nat) (gang : Option (Nat × Nat)) (secs : List Nat) (x : Mm)
    (kw kb : Cmd) (rows : List (Nat × Nat)) : State :=
  let pos := gangPos g gang
  let s := secs.foldl (fun s y => s.setSector y ((s.sector y).stepRows (rows.map (·.1)))) s
  rows.foldl (fun s r =>
    let i := r.1
    (List.range (min x.n (256 * secs.length))).foldl (fun s j =>
      let d := j % 256 + 257 * (pos + j / 256)
      if r.2 < d then s
      else
        (stepsAt x.t2 x.k (r.2 - d)).foldl (fun s k =>
          match elemAt kw.aBuf kw.aOver (i * x.k + k) (256 * pos + j), elemAt kb.bBuf kb.bOver (j * x.k + k) i with
          | some ab, some bb =>
          let p := mmProduct x.mode (mmNum x.a.fmt x.ua ab) (mmNum x.b.fmt x.ub bb) x.a.fmt x.b.fmt ab bb
          let bad := !x.chk || (match numFp (mmNum x.a.fmt x.ua ab), numFp (mmNum x.b.fmt x.ub bb) with
            | .fin _ _ _, .fin _ _ _ => true
            | _, _ => false)
          let w := mmStep x.mode (s.accAt secs x.bank i j) p
          let s := s.setAccAt secs x.bank i j w.1
          s.modCore g (fun c =>
            let b := c.bank x.bank
            let b := if x.chk then b.addSums i j p.1 else b
            c.setBank x.bank { b with ovf := b.ovf || w.2, chkNan := b.chkNan || !bad })
          | _, _ => s) s) s) s

/-- The members of the gang of a core, west first; the core itself when it is in none. -/
def State.gangCores (s : State) (g : Nat) : List Nat :=
  match (s.core g).gang with
  | none => [g]
  | some (west, width) =>
    ((List.range width).map (fun i => coreAt (dieOf g) (sectRow g) (west + i))).filter
      (fun y => (s.core y).gang == some (west, width))

/-- The running `mm` of a core. -/
def Core.mmRunning (c : Core) : Option (Cmd × Mm) :=
  c.mq.findSome? (fun k => match k.instr with
    | .mm f => if k.started && !k.done then some (k, mmOf f k.desc) else none
    | _ => none)

/-- The core whose A operand a running `mm` takes: the west member of its lockstep (R209). -/
def westOf (g : Nat) (k : Cmd) : Nat :=
  match k.gang with
  | none => g
  | some (west, _) => coreAt (dieOf g) (sectRow g) west

/-- Whether the gang of a running `mm` is no more: its bridle columns are sealed (R210, R324). -/
def Core.sealedOff (c : Core) (k : Cmd) : Bool := k.gang.isSome && c.gang != k.gang

/-- The cores whose `mm` runs in lockstep with command `k` of a core, west first; the core itself outside a gang. Once the
gang has dissolved the columns between its sectors are sealed: the west member's `mm` goes on in its own sector, and the
others take no further element of A, so that they do not end (R210, R312, R324; assumption 34). -/
def State.lockCores (s : State) (g : Nat) (k : Cmd) : List Nat :=
  match k.gang with
  | none => [g]
  | some (west, width) =>
    if (s.core g).sealedOff k then (if westOf g k = g then [g] else [])
    else
      ((List.range width).map (fun i => coreAt (dieOf g) (sectRow g) (west + i))).filter (fun y =>
        match (s.core y).mmRunning with
        | some (x, _) => x.gang == k.gang && (s.core y).gang == k.gang
        | none => false)

/-- The gang and the sectors a running `mm` of a core works with: its own sector alone once its gang has dissolved. -/
def Core.mmReach (c : Core) (g : Nat) (k : Cmd) : Option (Nat × Nat) × List Nat :=
  if c.sealedOff k then (none, [g]) else (k.gang, k.secs)

/-- Kill an `mm`: the bank's poison bit is set and it completes with the error (R186, R199). -/
def State.mmKill (s : State) (g : Nat) (k : Cmd) (bank : Bool) (e : BitVec 6) : State :=
  ((s.modCore g (fun c => c.setBank bank { c.bank bank with poison := true })).dropLats ((s.core g).mmReach g k).2).finishCmd
    g .m k (some e) []

/-- Kill a running `mm` and those in lockstep with it: an operand's error stops the whole array (R186, R209). -/
def State.lockKill (s : State) (g : Nat) (k : Cmd) (e : BitVec 6) : State :=
  (s.lockCores g k).foldl (fun s y =>
    match (s.core y).mmRunning with
    | some (k, x) => s.mmKill y k x.bank e
    | none => s) s

/-- What a latch holds after the clk at offset `u` of an operand's steps at it (R321): `el` gives the element of a step.
A 16-bit element takes the whole latch, a narrower one its low bits, and two steps of a clk share it; the piece of an
f32 element is left open (assumption 7). -/
def latchVal (fmt t2 k u : Nat) (el : Nat → Option Nat) : Option (BitVec 16) :=
  if fmt = 11 then (if u / 8 < k then (el (u / 8)).map (fun x => Config.passPiece (x * 8 + u % 8)) else none)
  else
    match stepsAt t2 k u with
    | [] => none
    | [a] => (el a).map (BitVec.ofNat 16)
    | a :: b :: _ =>
      match el a, el b with
      | some x, some y => some (BitVec.ofNat 16 (x % 256 + y % 256 * 256))
      | _, _ => none

/-- The bridle latches of a gang after a wavefront clk of its west command `k` (R209, R324): the column west of each
sector but the first takes the A elements that left the sector before it. The columns of a dissolved gang hold nothing. -/
def State.bridles (s : State) (west : Nat) (x : Mm) (k : Cmd) : State :=
  match (s.core west).gang with
  | none => s
  | some (_, width) =>
    (List.range (width - 1)).foldl (fun s i =>
      let q := i + 1
      let col : Tab (Option (BitVec 16)) := (List.range x.m).foldl (fun l r =>
        if k.rowCnt r < 257 * q then l
        else tput none l r (latchVal x.a.fmt x.t2 x.k (k.rowCnt r - 257 * q) (fun n => elemAt k.aBuf k.aOver (r * x.k + n) (256 * q)))) []
      s.setSector (west + q) { s.sector (west + q) with latch := col }) s

/-- The west edge in one clk: the command with the elements of A that enter, and the rows that go on (R193, R200). -/
def Core.westEdge (c : Core) (x : Mm) (k : Cmd) (span : Nat) : Core × Cmd × List (Nat × Nat) :=
  let due := x.due k span
  if x.aq1 then
    let (c, k', go) := popRows x due (c, k)
    (c, { k' with rpos := go.foldl (fun t r => tput 0 t r.1 (r.2 + 1)) k'.rpos }, go)
  else
    let z := due.foldl (fun (z : Tab (Option Nat) × Option (BitVec 6)) r =>
      (stepsAt x.t2 x.k r.2).foldl (fun z n => c.mmFeed x.a n r.1 (r.1 * x.k + n) z) z) (k.aBuf, k.lateErr)
    (c, { k with aBuf := z.1, lateErr := z.2 }, due)

/-- Whether every step of an `mm` has been taken (R193, R199). -/
def Mm.over (x : Mm) (k : Cmd) (gang : Option (Nat × Nat)) : Bool := x.span gang ≤ k.rowCnt (x.m - 1)

/-- An operand element of the `mm` a core runs is read ahead of its clk (R192, R199): element `n` of A, or after those of B. -/
def State.mmEarly (s : State) (g n : Nat) : State :=
  match (s.core g).mmRunning with
  | none => s
  | some (k, x) =>
    let na := x.m * x.k
    let b := n - na
    if n < na then
      (if x.aq1 || westOf g k != g then s
      else
        let z := (s.core g).mmFeed x.a (n % x.k) (n / x.k) n (k.aBuf, k.lateErr)
        s.modCore g (fun c => c.modCmd .m k.seq (fun k => { k with aBuf := z.1, lateErr := z.2 })))
    else if b < x.n * x.k then
      let z := (s.core g).mmFeed x.b (b / x.k) (b % x.k) b (k.bBuf, k.lateErr)
      s.modCore g (fun c => c.modCmd .m k.seq (fun k => { k with bBuf := z.1, lateErr := z.2 }))
    else s

/-- One wavefront clk of the `mm` a core runs, and of those its gang runs with it in lockstep (R193, R209). An empty q1
that holds back every row holds back the clk (R200), and so does a core of the lockstep that has stopped. An operand's
error kills them (R199). -/
def State.mmAdvance (s : State) (g : Nat) : State :=
  match (s.core g).mmRunning with
  | none => s
  | some (kg, _) =>
    let cores := s.lockCores g kg
    let west := westOf g kg
    match (s.core west).mmRunning with
    | none => s
    | some (kw, xw) =>
      let gw := ((s.core west).mmReach west kw).1
      if xw.over kw gw || kw.stopped || !cores.contains west
          || !(cores.all (fun y => (s.core y).enginesRun && ((s.core y).mmRunning.map (fun r => (s.core y).sigOpen .m r.1)).getD true))
        then s
      else
        let (cw, kw, rows) := (s.core west).westEdge xw kw (xw.span gw)
        let s := s.setCore west (cw.modCmd .m kw.seq (fun _ => kw))
        if rows.isEmpty then s
        else
          let kw := { kw with clk := kw.clk + 1 }
          let top : Option Nat := (rows.find? (·.1 = 0)).map (·.2)
          let r := cores.foldl (fun (r : State × Option (BitVec 6)) y =>
            match (r.1.core y).mmRunning with
            | none => r
            | some (k, x) =>
              let reach := (r.1.core y).mmReach y k
              let pos := gangPos y reach.1
              let ins := match top with
                | some t => bEnters x pos t
                | none => []
              let z := ins.foldl (fun z e => (r.1.core y).mmFeed x.b e.1 e.2 (e.1 * x.k + e.2) z) (k.bBuf, k.lateErr)
              let s := r.1.modCore y (fun c =>
                c.modCmd .m k.seq (fun k => { k with bBuf := z.1, clk := kw.clk, rpos := kw.rpos }))
              (s.mmClk y reach.1 reach.2 x kw { k with bBuf := z.1 } rows, match r.2 with
                | some e => some e
                | none => z.2)) (s.bridles west xw kw, kw.lateErr)
          match r.2 with
          | none => r.1
          | some e => r.1.lockKill g kg e

/-! The drain (R201 to R206). -/

/-- The descriptors a drain names: destination and bias. -/
def drainSlots (f : EngF) (q0 : Bool) : List Nat := (if q0 then [] else [slotA f]) ++ (if f.fn.getLsbD 3 then [slotB f] else [])

/-- Whether the entries 0 to n − 1 of a scale vector are mapped and readable (R202). -/
def State.scaleFault (s : State) (g : Nat) (r : ScaleRef) (n : Nat) : Option Cause :=
  if !r.scaled then none
  else
    let len := if r.fmt32 then 4 * n else n
    (List.range ((r.base % 4096 + len + 4095) / 4096)).findSome? (fun i =>
      let va := max r.base ((r.base / 4096 + i) * 4096)
      if 2 ^ 48 ≤ va then some { code := cPROT, addr := va }
      else
        match (s.translate g va Need.load).1 with
        | .error c => if c.code = cPOISON then none else some c
        | .ok _ => none)

/-- The largest element of a destination a drain writes, all in bounds or dropped (R81, R202). -/
def drainBounds (d : Desc) (m n pad : Nat) : Bool :=
  let inside := n ≤ d.n0 && m ≤ d.n1
  (d.bchk ≠ 0 || inside) && d.base + d.rowBytes (min n d.n0) + (min m d.n1 - 1) * d.stride1 ≤ pad

/-- `mm.drain` at push (R202). Among the slots it names, one that is not valid is told of before one that is misaligned
(R86; assumption 44). -/
def drainOp (i : Instr) (f : EngF) (q0 : Bool) (s : State) : Out :=
  pushSlots s i .m (drainSlots f q0) (fun g _ =>
    let c := s.core g
    let view := c.bview (f.fn.getLsbD 0)
    let secs := s.driven g c.gview
    let (m, n) := if view.mode.isNone then (128, 256 * secs.length) else (view.m, view.n)
    let db := if q0 then 0 else c.slot (slotA f)
    let bb := if f.fn.getLsbD 3 then c.slot (slotB f) else 0
    let d := Desc.of db
    let b := Desc.of bb
    let hasBias := f.fn.getLsbD 3
    if secs.any (fun y => !s.ownsSect c.part y) then .error { code := cPROT, noData := true }
    else if (!q0 && !d.valid) || (hasBias && !b.valid) then .error { code := cOPERAND }
    else if (!q0 && d.misaligned) || (hasBias && b.misaligned) then .error { code := cALIGN }
    else if !q0 && (d.space ≠ 1 || d.fmt ≠ f.ty.toNat) then .error { code := cOPERAND }
    else if hasBias && (b.space ≠ 1 || !(b.fmt = 9 || b.fmt = 10 || b.fmt = 11) || b.n0 < n) then .error { code := cOPERAND }
    else if hasBias && padBytes c < b.base + b.rowBytes n then .error { code := cBOUNDS }
    else if q0 && ((tget none c.cview 0).map (fun k => bitsNat k.mod 16 4)) ≠ some f.ty.toNat then .error { code := cCHAN }
    else
      match (match s.scaleFault g view.refA m with
        | some e => some e
        | none => s.scaleFault g view.refB n) with
      | some e => .error e
      | none => if !q0 && !drainBounds d m n (padBytes c) then .error { code := cBOUNDS } else .ok [db, bb])

/-- `mm.drain` into the pad (R201, R203). -/
def execMmDrain (f : EngF) (s : State) : Out := drainOp (.mmDrain f) f false s
/-- `mm.drain` into q0 (R201, R204). -/
def execMmDrainQ0 (f : EngF) (s : State) : Out := drainOp (.mmDrainQ0 f) f true s

/-- One scale (R43, R83): its bits, or the ECODE of its poison, or the cause of a fault. -/
def State.readScale (s : State) (g : Nat) (r : ScaleRef) (n : Nat) : Except Cause Nat × State :=
  let va := r.base + (if r.fmt32 then 4 * n else n)
  let len := if r.fmt32 then 4 else 1
  match s.translate g va Need.load with
  | (.error c, s) => (.error c, s)
  | (.ok p, s) =>
    match s.readPath (s.partOf g) p len (s.pathOf g p) with
    | (.error e, s) => (.error { code := 0, ecode := e.toNat }, s)
    | (.ok v, s) => (.ok v, s)

/-- The path on which a scale is to be read now, where its page is mapped. -/
def State.scalePath (s : State) (g : Nat) (r : ScaleRef) (n : Nat) : Option Path :=
  match s.coreLeaf g (r.base + (if r.fmt32 then 4 * n else n)) with
  | .ok (pte, bits) => some (leafPath pte bits (r.base + (if r.fmt32 then 4 * n else n)))
  | .error _ => none

/-- Whether the read of a scale waits for a link (R347). -/
def State.scaleHeld (s : State) (g : Nat) (r : ScaleRef) (n : Nat) : Bool :=
  match s.scalePath g r n with
  | some p => s.held (dieOf g) p false (s.pathOf g p)
  | none => false

/-- The accumulator as a float, by the bank's mode (R43). -/
def accFp (m : Option BankMode) (a : BitVec 80) : Fp :=
  match m with
  | some .int => rnd80V (ofInt a.toInt)
  | some .scaled => rnd80V (.fin (decide (a.toInt < 0)) a.toInt.natAbs 64)
  | _ => decodeF a80F a.toNat

/-- One element of the epilogue (R43, R203): `old` is the destination's element under drain-add. -/
def epilogue (f : EngF) (bank : Bank) (a : BitVec 80) (rs cs bias : Fp) (hasBias : Bool) (old : Option Nat)
    (sr : BitVec 32) : Nat × BitVec 32 :=
  let ty := f.ty.toNat
  let uns := f.efl.getLsbD 7
  let sat := f.efl.getLsbD 6
  let ftz := f.efl.getLsbD 5
  let rm := rmOf (bitsNat f.efl 2 3)
  let sr := drawFor rm sr
  let cvt (x : Num) : Nat := cvtTo ty uns rm sr.toNat sat ftz x
  if bank.mode = some .int && isIntTy ty && !bank.refA.scaled && !bank.refB.scaled && !hasBias then
    (cvt (.int 80 a.toInt), sr)
  else
    let t1 := rnd80V (mulFp (accFp bank.mode a) rs)
    let t2 := rnd80V (mulFp t1 cs)
    let t3 := rnd80V (addFp false t2 bias)
    match old with
    | none => (cvt (.fp t3), sr)
    | some o => (cvt (.fp (rnd80V (addFp false t3 (numFp (numOf 11 false ftz o))))), sr)

/-- The exact value of an accumulator (R206), in units of 2^−16446, and whether it is Inf or NaN. -/
def accUnits (m : Option BankMode) (a : BitVec 80) : Int × Bool :=
  let u : Nat := 2 ^ 16446
  match m with
  | some .int => (a.toInt * u, false)
  | some .scaled => (a.toInt * u / 64, false)
  | _ =>
    match decodeF a80F a.toNat with
    | .fin neg n d => (sgnNum neg (n * u / d), false)
    | _ => (0, true)

/-- CHKST of a drain with CHK (R206). -/
def State.chkst (s : State) (secs : List Nat) (bank : Bank) (b : Bool) : Nat :=
  let at' (i j : Nat) : Int × Bool := accUnits bank.mode (s.accAt secs b i j)
  let up : Int := (2 ^ (16446 - 320) : Nat)
  let sumC (l : List (Int × Bool)) : Int := (l.map (·.1)).sum
  let col (j : Nat) : List (Int × Bool) := (List.range bank.m).map (fun i => at' i j)
  let row (i : Nat) : List (Int × Bool) := (List.range bank.n).map (fun j => at' i j)
  let k : Int := tget 0 bank.sums 900
  let near (d mag : Int) (n : Nat) : Bool := decide ((d.natAbs : Int) * (2 ^ 60 : Nat) ≤ ((n : Int) + k) * mag)
  let exact := bank.mode == some .int || bank.mode == some .scaled
  if bank.chkVoid then 0
  else if bank.chkNan || bank.ovf || (List.range bank.m).any (fun i => (row i).any (·.2)) then 3
  else
    let okc := (List.range bank.n).all (fun j =>
      let d := sumC (col j) - tget 0 bank.sums (eKey j) * up
      if exact then d == 0 else near d (tget 0 bank.sums (sKey j) * up) bank.m)
    let okr := (List.range bank.m).all (fun i =>
      let d := sumC (row i) - tget 0 bank.sums (512 + i) * up
      if exact then d == 0 else near d (tget 0 bank.sums (640 + i) * up) bank.n)
    if okc && okr then 1 else 2

/-- The fields of a drain command. -/
def drainF : Instr → Option (EngF × Bool)
  | .mmDrain f => some (f, false)
  | .mmDrainQ0 f => some (f, true)
  | _ => none

/-- The running drain of a core. -/
def Core.drainRunning (c : Core) : Option (Cmd × EngF × Bool) :=
  c.mq.findSome? (fun k => if k.started && !k.done then (drainF k.instr).map (fun x => (k, x.1, x.2)) else none)

/-- The fields OVF and CHKST of a drain's status word, CHKST apart (R205). -/
def State.drainWord (s : State) (g : Nat) (k : Cmd) (f : EngF) : Word × Nat :=
  let bank := (s.core g).bank (f.fn.getLsbD 0)
  let st := if f.efl.getLsbD 1 then s.chkst k.secs bank (f.fn.getLsbD 0) else 0
  (BitVec.ofNat 64 (2 * st + (if bank.ovf then 1 else 0)), st)

/-- The status word and error a drain completes with (R205). -/
def State.drainStatus (s : State) (g : Nat) (k : Cmd) (f : EngF) : Word × Option (BitVec 6) :=
  let (w, st) := s.drainWord g k f
  (w, if st = 2 && f.sn ≠ 0 then some 5 else none)

/-- Kill a drain: its status word has POIS set (R203, R205). -/
def State.drainKill (s : State) (g : Nat) (k : Cmd) (f : EngF) (e : BitVec 6) : State :=
  s.finishCmd g .m k (some e) [.scalar ((s.drainWord g k f).1 ||| 8)]

/-- Push what room q0 has of the entries a row has left. -/
def pushRows (c : Core) : List Vec → Core × List Vec
  | [] => (c, [])
  | v :: vs =>
    let x := c.chan 0
    if chanDepth 0 ≤ x.ents.length then (c, v :: vs)
    else pushRows (c.setChan 0 { x with ents := x.ents ++ [.vector v] }) vs

/-- The columns a drain takes (R195, R203). -/
def Bank.cols (b : Bank) (secs : List Nat) : Nat := if b.mode.isNone then 256 * secs.length else b.n

/-- The scale references and the bias of a drain, in the order it reads them for an element: what has still to be read
for row `i` and column `j` is the first that is there and has no value in `bBuf` (R203). -/
inductive DrainRead where
  | row | col | bias | none
  deriving DecidableEq, Repr

/-- The next read of a drain's element. -/
def Cmd.drainRead (k : Cmd) (f : EngF) (bank : Bank) : DrainRead :=
  let todo (x : Nat) : Bool := (tget Option.none k.bBuf x).isNone
  if bank.refA.scaled && todo 0 then .row else if bank.refB.scaled && todo 1 then .col
  else if f.fn.getLsbD 3 && todo 2 then .bias else .none

/-- A scale read by a drain enters its place, or faults or kills the drain. -/
def State.drainScale (s : State) (g : Nat) (k : Cmd) (f : EngF) (r : ScaleRef) (n place : Nat) : State :=
  if s.scaleHeld g r n then s
  else
  match s.readScale g r n with
  | (.error c, t) => if c.code = 0 then t.drainKill g k f 1 else t.trapCmd g .m k c 0 0
  | (.ok v, t) => t.modCore g (fun c => c.modCmd .m k.seq (fun k => { k with bBuf := tput none k.bBuf place (some v) }))

/-- A scale as a float, 1 where there is none (R43, R83). -/
def scaleVal (r : ScaleRef) (v : Option Nat) : Fp :=
  match v with
  | none => ofInt 1
  | some v => if r.fmt32 then decodeF f32F v else decodeE8m0 v

/-- The write of a drain's element (R203): the epilogue with what has been read, the old element read in the same step, the
draw from SRM; after the last column the row's entries go to q0 (R204). -/
def State.drainPut (s : State) (g : Nat) (k : Cmd) (f : EngF) (q0 : Bool) : State :=
  let c := s.core g
  let bank := c.bank (f.fn.getLsbD 0)
  let n := bank.cols k.secs
  let i := k.prog
  let j := k.col
  let d := Desc.of ((k.desc[0]?).getD 0)
  let bd := Desc.of ((k.desc[1]?).getD 0)
  let loc := d.locate (j : Int) (i : Int) 0 true
  let old : Except (BitVec 6) (Option Nat) :=
    if f.fn.getLsbD 2 then
      (match loc with
        | .at b hi =>
          (match c.padPoison b (elemBytes d.fmt) with
            | some e => .error e
            | none => .ok (some (c.padElem d.fmt b hi)))
        | _ => .ok (some 0))
    else .ok none
  match old with
  | .error _ => s.drainKill g k f 1
  | .ok old =>
    let bias := if f.fn.getLsbD 3 then decodeF ((fmtOf bd.fmt).getD f32F) ((tget none k.bBuf 2).getD 0) else zeroFp false
    let a := if bank.mode.isNone then 0 else s.accAt k.secs (f.fn.getLsbD 0) i j
    let (v, sr) := epilogue f bank a (scaleVal bank.refA (tget none k.bBuf 0)) (scaleVal bank.refB (tget none k.bBuf 1)) bias
      (f.fn.getLsbD 3) old c.srm
    let c := { c with srm := sr }
    let c := if q0 then c else
      (match loc with
        | .at b hi => c.padPut d.fmt b hi v
        | _ => c)
    let row := if q0 then tput none k.aBuf j (some v) else []
    if j + 1 < n then
      s.setCore g (c.modCmd .m k.seq (fun k =>
        { k with col := j + 1, aBuf := row, bBuf := k.bBuf.filter (fun x => x.1 == 0) }))
    else
      let w := tyWidth f.ty.toNat
      let per := 4096 / w
      let vs := (List.range n).map (fun j => (tget none row j).getD 0)
      let entries : List Vec :=
        if q0 then (List.range (ceilDiv n per)).map (fun e => ofLanes w ((vs.drop (e * per)).take per)) else []
      let (c, rest) := pushRows c entries
      s.setCore g (c.modCmd .m k.seq (fun k =>
        { k with prog := i + 1, col := 0, aBuf := [], bBuf := [], rows := rest, stall := 0 }))

/-- One element step of a drain (R192, R203): one of its reads, or the write once they have been made. -/
def State.drainElem (s : State) (g : Nat) (k : Cmd) (f : EngF) (q0 : Bool) : State :=
  let c := s.core g
  let bank := c.bank (f.fn.getLsbD 0)
  match k.drainRead f bank with
  | .row => s.drainScale g k f bank.refA k.prog 0
  | .col => s.drainScale g k f bank.refB k.col 1
  | .bias =>
    (match c.mmElem (Desc.of ((k.desc[1]?).getD 0)) k.col 0 with
      | .error _ => s.drainKill g k f 1
      | .ok v => s.modCore g (fun c => c.modCmd .m k.seq (fun k => { k with bBuf := tput none k.bBuf 2 (some v) })))
  | .none => s.drainPut g k f q0

/-- One step of the drain a core runs. -/
def State.drainAdvance (s : State) (g : Nat) : State :=
  match (s.core g).drainRunning with
  | none => s
  | some (k, f, q0) =>
    let bank := (s.core g).bank (f.fn.getLsbD 0)
    if bank.poison then s.drainKill g k f 1
    else if !k.rows.isEmpty then
      s.modCore g (fun c =>
        let (c, rest) := pushRows c k.rows
        c.modCmd .m k.seq (fun x => { x with rows := rest, stall := if rest.length < k.rows.length then 0 else x.stall }))
    else if q0 && (s.core g).cfgAhead 0 k.seq then s
    else if k.prog < bank.m then s.drainElem g k f q0
    else s

/-! Gangs (R207 to R210). -/

/-- W and g of a gang command. -/
def gangArgs (k : Cmd) : Option (Nat × Nat) :=
  match k.instr, k.ops with
  | .mmGang f, .ready (.scalar w) :: _ => some (w.toNat, 2 * bitsNat f.efl 0 2)
  | _, _ => none

/-- The `mm.gang` at the head of a core's MQ. -/
def Core.gangHead (c : Core) : Option (Nat × Nat) :=
  match c.mq with
  | k :: _ => if k.done then none else gangArgs k
  | [] => none

/-- The first `mm.gang` of a core's MQ that has not completed: the range its task has issued (R208). -/
def Core.gangIssued (c : Core) : Option (Nat × Nat) := c.mq.findSome? (fun k => if k.done then none else gangArgs k)

/-- `mm.gang` (R14, R207, R208): the core's own sector and the range are checked at push. That it traps PROT where no partition
owns that sector too is assumption 46. -/
def execMmGang (f : EngF) (s : State) : Out :=
  withPush s (.mmGang f) .m false (fun g vs =>
    let w := (w0 vs).toNat
    let n := 2 * bitsNat f.efl 0 2
    if !s.ownsSect (s.core g).part g then .error { code := cPROT, noData := true }
    else if 4 < w + n || sectCol g < w || w + n ≤ sectCol g then .error { code := cOPERAND } else .ok [])

/-- `mm.gang.off` (R207). It asks for no sector of the task's: R14 names `mm.gang` alone (assumption 44). -/
def execMmGangOff (f : EngF) (s : State) : Out := withPush s (.mmGangOff f) .m false (fun _ _ => .ok [])

/-- Whether a core runs a task of the same team as another that has issued `mm.gang` with the same range: a member (R208). -/
def State.gangMember (s : State) (g y west width : Nat) : Bool :=
  y == g || ((s.core y).part == (s.core g).part && (s.core y).teamKey.isSome && (s.core y).teamKey == (s.core g).teamKey
    && (s.core y).gangIssued == some (west, width))

/-- Whether no member can ever fill a sector that no member has and that is not lent (R208): the partition does not own its
core, or another owns the sector. -/
def State.unfillable (s : State) (p y : Nat) : Bool :=
  !s.ownsCore p y || (List.range 16).any (fun q => q != p && s.ownsSect q y)

/-- Whether a gang command at the head of MQ traps TEAM (R208). -/
def State.gangBad (s : State) (g west width : Nat) : Bool :=
  let c := s.core g
  let d := dieOf g
  let row := sectRow g
  let range := (List.range width).map (fun i => coreAt d row (west + i))
  let others := ((List.range 4).map (coreAt d row)).filter (· != g)
  let member (y : Nat) : Bool := s.gangMember g y west width
  c.team.isNone
    || others.any (fun y =>
      match (s.core y).gangIssued with
      | some (w, n) =>
        w < west + width && west < w + n
          && ((s.core y).part != c.part || (s.core y).teamKey != c.teamKey || w != west || n != width)
      | none => false)
    || (s.lent c.part (coreAt d row west) && !member (coreAt d row west))
    || range.any (fun y => !member y && !s.lent c.part y && s.unfillable c.part y)
    || (s.die d).gangs.any (fun x => x.row == row && x.west < west + width && west < x.west + x.width)

/-- GANG_FORMED (R208): every member's `mm.gang` has reached its MQ head and started, and no member is frozen (R326); the
gang forms, and its inner latches open. -/
def execGangFormed (d row : Nat) (s : State) : Out :=
  let ready (west width : Nat) : List Nat :=
    let range := (List.range width).map (fun i => coreAt d row (west + i))
    let p := (s.core (coreAt d row west)).part
    let members := range.filter (fun y => !s.lent p y || s.gangMember (coreAt d row west) y west width)
    if members.all (fun y => (s.core y).part == p && (s.core y).teamKey == (s.core (coreAt d row west)).teamKey
        && (s.core y).enginesRun && (s.core y).gangHead == some (west, width)
        && ((s.core y).mq.head?.map (fun k => k.started && !k.stopped && (s.core y).sigOpen .m k)).getD false) then members
    else []
  match ([(0, 2), (1, 2), (2, 2), (0, 4)] : List (Nat × Nat)).find? (fun x => !(ready x.1 x.2).isEmpty) with
  | none => .next s
  | some (west, width) =>
    let m := ready west width
    let s := s.modDie d (fun x => { x with gangs := x.gangs ++ [{ row := row, west := west, width := width, members := m }] })
    .next (m.foldl (fun s y =>
      match (s.core y).mq with
      | k :: _ => (s.finishCmd y .m k none []).modCore y (fun c => { c with gang := some (west, width), gangOff := false })
      | [] => s) s)

/-- A started `mm.gang.off`: it completes at once outside a gang, else with the last member's (R210). -/
def State.gangOffStep (s : State) (g : Nat) (k : Cmd) : State :=
  match (s.core g).gang with
  | none => (s.finishCmd g .m k none []).modCore g (fun c => { c with gangOff := false })
  | some (west, width) =>
    let members := s.gangCores g
    let atOff (y : Nat) : Bool :=
      match (s.core y).mq with
      | k :: _ => k.started && (s.core y).enginesRun && (s.core y).sigOpen .m k && (match k.instr with
        | .mmGangOff _ => true
        | _ => false)
      | [] => false
    if members.all atOff then
      let x := (s.die (dieOf g)).gangs.find? (fun x => x.row == sectRow g && x.west == west && x.width == width)
      let s := match x with
        | some x =>
          (s.modDie (dieOf g) (fun k => { k with gangs := k.gangs.filter (fun y => y != x) })).sealGang (dieOf g) x
        | none => s
      members.foldl (fun s y =>
        match (s.core y).mq with
        | k :: _ => (s.finishCmd y .m k none []).modCore y (fun c => { c with gang := none, gangOff := false })
        | [] => s) s
    else s

end Sys2Proof.Machine
end

