-- ==== Sys2Proof/Machine/Copy.lean ====
section
/-! DEFINITION. The copy engine (R263 to R271): the checks of its commands at push, element by element copying, faults in
flight, and the invalidation of cached translations in CQ order. -/

namespace Sys2Proof.Machine

/-! Pushing (R266). -/

/-- Elements of a tensor. -/
def Desc.elems (d : Desc) : Nat := d.n0 * d.n1 * d.n2

/-- Whether some pad byte of a tensor lies outside the pad. -/
def Desc.outsidePad (d : Desc) (pad : Nat) : Bool := d.space == 1 && pad < d.base + d.footprint
/-- Whether some device byte lies at or above 2^48. -/
def Desc.aboveSpace (d : Desc) : Bool := d.space == 0 && 2 ^ 48 < d.base + d.footprint

/-- The checks of R266 over the named descriptors: `size` is the one whose element bytes are limited, `needPad` asks for
an operand in the pad, `shape` holds where the extents agree, `chan` where the channel does. -/
def copyChk (ds : List Desc) (size : Desc) (needPad shape chan : Bool) (pad : Nat) : Option Cause :=
  if ds.any (fun d => !d.valid) then some { code := cOPERAND }
  else if ds.any (fun d => d.misaligned) then some { code := cALIGN }
  else if needPad && !(ds.any (fun d => d.space == 1)) then some { code := cOPERAND }
  else if !shape || 2 ^ 32 < ceilDiv (size.elems * size.ebits) 8 then some { code := cOPERAND }
  else if !chan then some { code := cCHAN }
  else if ds.any (fun d => d.outsidePad pad) then some { code := cBOUNDS }
  else if ds.any (fun d => d.aboveSpace) then some { code := cPROT }
  else none

/-- Push a copy over some slots. -/
def copyOp (s : State) (i : Instr) (slots : List Nat) (chk : Core → List Desc → Option Cause) : Out :=
  pushSlots s i .c slots (fun g _ =>
    let c := s.core g
    let bs := slots.map c.slot
    match chk c (bs.map Desc.of) with
    | some e => .error e
    | none => .ok bs)

/-- A descriptor of a list. -/
def nthDesc (ds : List Desc) (n : Nat) : Desc := (ds[n]?).getD (Desc.of 0)

/-- `cp` between two tensors (R265 to R267). -/
def execCp (f : EngF) (s : State) : Out :=
  copyOp s (.cp f) [slotA f, slotB f] (fun c ds =>
    let d := nthDesc ds 0
    let x := nthDesc ds 1
    copyChk ds d true (d.n0 == x.n0 && d.n1 == x.n1 && d.n2 == x.n2) true (padBytes c))

/-- `cp` into q2 (R265, R267). -/
def execCpQ2 (f : EngF) (s : State) : Out :=
  copyOp s (.cpQ2 f) [slotB f] (fun c ds =>
    copyChk ds (nthDesc ds 0) false true
      ((tget none c.cview 2).map (fun k => bitsNat k.mod 16 4) == some (nthDesc ds 0).fmt) (padBytes c))

/-- `cp` out of q3 (R265, R267). -/
def execCpQ3 (f : EngF) (s : State) : Out :=
  copyOp s (.cpQ3 f) [slotA f] (fun c ds =>
    copyChk ds (nthDesc ds 0) false true ((tget none c.cview 3).map (·.snk) == some (nthDesc ds 0).fmt) (padBytes c))

/-- `cp.fill` (R269). -/
def execCpFill (f : EngF) (s : State) : Out :=
  copyOp s (.cpFill f) [slotA f] (fun c ds => copyChk ds (nthDesc ds 0) false true true (padBytes c))

/-- `cp.gather` (R270). -/
def execCpGather (f : EngF) (s : State) : Out :=
  copyOp s (.cpGather f) [slotA f, slotB f, f.c.toNat % 64] (fun c ds =>
    let d := nthDesc ds 0
    let x := nthDesc ds 1
    let i := nthDesc ds 2
    let shape := i.space == 1 && i.fmt == 4 && i.n1 == 1 && i.n2 == 1 && d.n1 == i.n0 && d.n2 == 1 && x.n2 == 1
      && d.n0 == x.n0 && (d.space == 1 || x.space == 1)
    copyChk ds d false shape true (padBytes c))

/-- `tlb.inv` (R271). -/
def execTlbInv (f : EngF) (s : State) : Out :=
  withPush s (.tlbInv f) .c false (fun _ vs =>
    let a := (w0 vs).toInt
    if a < 0 || (2 ^ 48 : Int) < a + (w1 vs).toNat then .error { code := cPROT, addr := (w0 vs).toNat } else .ok [])

/-- `tlb.inv.all` (R271). -/
def execTlbInvAll (f : EngF) (s : State) : Out := withPush s (.tlbInvAll f) .c false (fun _ _ => .ok [])

/-! Elements. -/

/-- Indices of element `n` in element order. -/
def Desc.nth (d : Desc) (n : Nat) : Nat × Nat × Nat := (n % d.n0, n / d.n0 % d.n1, n / (d.n0 * d.n1))

/-- Where element `n` lies: byte and nibble. -/
def Desc.place (d : Desc) (n : Nat) : Nat × Option Bool :=
  let (a, b, c) := d.nth n
  match d.locate (a : Int) (b : Int) (c : Int) true with
  | .at x hi => (x, hi)
  | _ => (0, none)

/-- What reading or writing one element answers. -/
inductive Elem where
  | ok (v : Nat)
  | fault (c : Cause)
  | killed (e : BitVec 6)
  | held
  deriving DecidableEq, Repr

/-- Translate an address for an element of a copy: by a translation that the command took ahead (R261), else afresh. -/
def State.copyTranslate (s : State) (g : Nat) (k : Cmd) (va : Nat) (n : Need) : Except Cause Path × State :=
  match k.maps.find? (fun m => va / 2 ^ m.2.1 = m.1) with
  | none => s.translate g va n
  | some (_, bits, pte) => (s.leafAccess g pte bits va n, s)

/-- Read one element for an engine: the pad, or device memory without allocating (R253). -/
def State.readElem (s : State) (g : Nat) (k : Cmd) (d : Desc) (byte : Nat) (hi : Option Bool) : Elem × State :=
  let n := elemBytes d.fmt
  let pick (v : Nat) : Nat :=
    match hi with
    | some true => v / 16
    | some false => v % 16
    | none => v
  if d.space = 1 then
    match (s.core g).padPoison byte n with
    | some e => (.killed e, s)
    | none => (.ok ((s.core g).padElem d.fmt byte hi), s)
  else
    match s.copyTranslate g k byte Need.load with
    | (.error c, s) => (.fault c, s)
    | (.ok p, s) =>
      if s.held (dieOf g) p false (s.pathNoAlloc g p) then (.held, s)
      else
      let s := s.beforeNoAlloc g p
      match s.readPath (s.partOf g) p n (s.pathNoAlloc g p) with
      | (.error e, s) => (.killed e, s)
      | (.ok v, s) => (.ok (pick v), s)

/-- Write one element for an engine; an error reply of its home kills the command with ECODE 1 (R351). -/
def State.writeElem (s : State) (g : Nat) (k : Cmd) (d : Desc) (byte : Nat) (hi : Option Bool) (v : Nat) : Elem × State :=
  if d.space = 1 then (.ok 0, s.modCore g (fun c => c.padPut d.fmt byte hi v))
  else
    match s.copyTranslate g k byte Need.store with
    | (.error c, s) => (.fault c, s)
    | (.ok p, s) =>
      let s := s.beforeNoAlloc g p
      let cs := s.pathNoAlloc g p
      if s.held (dieOf g) p true cs then (.held, s)
      else if s.refused p.home cs then (.killed 1, s)
      else
        let s := match hi with
          | none => s.writePath (s.partOf g) p (elemBytes d.fmt) v cs
          | some h => s.writeNibble (s.partOf g) p h v cs
        (.ok 0, s.modCore g (·.noteSec p.pa))

/-! Running commands. -/

/-- The destination of a copy that has one in memory. -/
def Cmd.dest? (k : Cmd) : Option Desc :=
  match k.instr with
  | .cpQ2 _ => none
  | _ => (k.desc[0]?).map Desc.of

/-- Elements a copy goes through. -/
def Cmd.elems (k : Cmd) : Nat := (Desc.of ((k.desc[0]?).getD 0)).elems

/-- Whether an older command in flight still has a write to come to one of `n` bytes (R268). -/
def Core.writeAhead (c : Core) (k : Cmd) (space byte n : Nat) : Bool :=
  c.cq.any (fun o => o.seq < k.seq && !o.done && o.started &&
    (match o.dest? with
      | none => false
      | some d =>
        d.space == space && d.base < byte + n && byte < d.base + d.footprint
          && (List.range (d.elems - o.prog)).any (fun i =>
            let b := (d.place (o.prog + i)).1
            b < byte + n && byte < b + elemBytes d.fmt)))

/-- How many elements of a destination from number `lo` on lie before element `n` in address order (R29). -/
def Desc.rank (d : Desc) (lo n : Nat) : Nat :=
  let key (i : Nat) : Nat × Nat := let p := d.place i; (2 * p.1 + (if p.2 = some true then 1 else 0), i)
  let me := key n
  ((List.range d.elems).filter (fun i => let x := key i; lo ≤ i && (x.1 < me.1 || (x.1 == me.1 && x.2 < me.2)))).length

/-- The conversion options of a copy. -/
def copyConv (f : EngF) (src dst : Nat) : Conv :=
  { src := src, dst := dst, suns := f.efl.getLsbD 7, uns := f.efl.getLsbD 7, rm := rmOf (bitsNat f.efl 2 3),
    sat := f.efl.getLsbD 6, ftz := f.efl.getLsbD 5 }

/-- An element converted for a destination: bits are copied where the formats are equal (R267). The draws of a copy count from
`sr`, which stands before its element number `col`. -/
def copyVal (f : EngF) (x d : Desc) (k : Cmd) (n v : Nat) : Nat :=
  if x.fmt = d.fmt then v
  else
    let c := copyConv f x.fmt d.fmt
    let g := if c.rm = .sr then (drawN (d.rank k.col n + 1) k.sr).toNat else 0
    cvtTo c.dst c.uns c.rm g c.sat c.ftz (numOf c.src c.suns c.ftz v)

/-- Whether a copy draws: it converts under SR (R29). -/
def Cmd.draws (k : Cmd) : Bool :=
  match k.instr with
  | .cp f => rmOf (bitsNat f.efl 2 3) == .sr && (Desc.of ((k.desc[0]?).getD 0)).fmt != (Desc.of ((k.desc[1]?).getD 0)).fmt
  | .cpGather f => rmOf (bitsNat f.efl 2 3) == .sr && (Desc.of ((k.desc[0]?).getD 0)).fmt != (Desc.of ((k.desc[1]?).getD 0)).fmt
  | _ => false

/-- Stop a copy at a fault: its tag goes to STOPPED and the task traps (R268). -/
def State.copyStop (s : State) (g : Nat) (k : Cmd) (c : Cause) : State :=
  let s := s.modCore g (fun x =>
    (x.modCmd .c k.seq (fun k => { k with stopped := true })).modTag k (fun t => { t with st := .stopped }))
  s.trapCmd g .c k c 0 0

/-- Kill a copy (R186). -/
def State.copyKill (s : State) (g : Nat) (k : Cmd) (e : BitVec 6) : State := s.finishCmd g .c k (some e) []

/-- Go on to the next element: the command's progress and the tag's BYTES. -/
def Core.copyNext (c : Core) (k : Cmd) (written : Bool) (ebits : Nat) (f : Cmd → Cmd) : Core :=
  let bytes := if written then k.bytes + ebits else k.bytes
  (c.modCmd .c k.seq (fun k => f { k with prog := k.prog + 1, bytes := bytes, bBuf := [], stall := 0 })).modTag k
    (fun t => { t with bytes := ceilDiv bytes 8 })

/-- Write element `n` of the destination and go on, or stop, or wait behind an older command's write. -/
def State.copyWrite (s : State) (g : Nat) (k : Cmd) (d : Desc) (n v : Nat) (f : Cmd → Cmd) : State :=
  let (b, hi) := d.place n
  if (s.core g).writeAhead k d.space b (elemBytes d.fmt) then s
  else
    match s.writeElem g k d b hi v with
    | (.fault c, s) => s.copyStop g k c
    | (.killed e, s) => s.copyKill g k e
    | (.held, s) => s
    | (.ok _, s) => s.modCore g (fun c => c.copyNext k true d.ebits f)

/-- Keep an element a copy has read until it is written (R192). -/
def State.copyHold (s : State) (g : Nat) (k : Cmd) (v : Nat) : State :=
  s.modCore g (fun c => c.modCmd .c k.seq (fun k => { k with bBuf := tput none [] 0 (some v) }))

/-- Read an element of a source and keep it; a fault stops the copy, an error kills it. -/
def State.copyRead (s : State) (g : Nat) (k : Cmd) (x : Desc) (b : Nat) (hi : Option Bool) : State :=
  match s.readElem g k x b hi with
  | (.fault c, s) => s.copyStop g k c
  | (.killed e, s) => s.copyKill g k e
  | (.held, s) => s
  | (.ok v, s) => s.copyHold g k v

/-- A row of a gather: its index is read before its first element. -/
def State.gatherElem (s : State) (g : Nat) (k : Cmd) (f : EngF) : State :=
  let d := Desc.of ((k.desc[0]?).getD 0)
  let x := Desc.of ((k.desc[1]?).getD 0)
  let e0 := k.prog % d.n0
  let done (k : Cmd) : Cmd := if e0 + 1 = d.n0 then { k with aBuf := [] } else k
  match tget none k.aBuf 0 with
  | none =>
    (match (s.core g).mmElem (Desc.of ((k.desc[2]?).getD 0)) (k.prog / d.n0) 0 with
      | .error e => s.copyKill g k e
      | .ok iv => s.modCore g (fun c => c.modCmd .c k.seq (fun k => { k with aBuf := tput none [] 0 (some iv) })))
  | some iv =>
    match x.locate (e0 : Int) (toSigned 32 iv) 0 false with
    | .bounds => s.modCore g (fun c => c.copyNext k false 0 (fun k => done { k with lateErr := some 4 }))
    | .at b hi =>
      (match tget none k.bBuf 0 with
        | none => s.copyRead g k x b hi
        | some v => s.copyWrite g k d k.prog (copyVal f x d k k.prog v) done)
    | _ => s.copyWrite g k d k.prog (copyVal f x d k k.prog 0) done

/-- One step of a copy command (R192, R267, R269, R270): one of its reads, or the write of the element it has read. -/
def State.copyElem (s : State) (g : Nat) (k : Cmd) : State :=
  let d := Desc.of ((k.desc[0]?).getD 0)
  let n := k.prog
  match k.instr with
  | .cp f =>
    let x := Desc.of ((k.desc[1]?).getD 0)
    (match tget none k.bBuf 0 with
      | none => s.copyRead g k x (x.place n).1 (x.place n).2
      | some v => s.copyWrite g k d n (copyVal f x d k n v) id)
  | .cpFill _ =>
    let w := match k.ops with
      | .ready (.scalar w) :: _ => w.toNat % 2 ^ d.ebits
      | _ => 0
    s.copyWrite g k d n w id
  | .cpGather f => s.gatherElem g k f
  | .cpQ2 _ =>
    let w := d.ebits
    let per := 4096 / w
    let e0 := n % d.n0
    let last := e0 % per = per - 1 || e0 = d.n0 - 1
    (match tget none k.bBuf 0 with
      | none => s.copyRead g k d (d.place n).1 (d.place n).2
      | some v =>
        if (s.core g).cfgAhead 2 k.seq || (last && chanDepth 2 ≤ ((s.core g).chan 2).ents.length) then s
        else
          let vec := setBits ((k.rows[0]?).getD 0) (w * (e0 % per)) w v
          s.modCore g (fun c =>
            let c := if last then c.setChan 2 { c.chan 2 with ents := (c.chan 2).ents ++ [.vector vec] } else c
            c.copyNext k true w (fun k => { k with rows := if last then [] else [vec] })))
  | .cpQ3 _ =>
    let w := d.ebits
    let per := 4096 / w
    let e0 := n % d.n0
    let last := e0 % per = per - 1 || e0 = d.n0 - 1
    let ch := (s.core g).chan 3
    (match k.rows with
      | v :: _ => s.copyWrite g k d n (lane w v (e0 % per)) (fun k => if last then { k with rows := [] } else k)
      | [] =>
        if (s.core g).cfgAhead 3 k.seq || !ch.present then s
        else
          let (v, ch, _) := ch.look (s.core g).srv
          let s := s.modCore g (fun c => (c.setChan 3 ch.drop).modCmd .c k.seq (fun k => { k with stall := 0 }))
          match v with
          | .poisoned _ e => s.copyKill g k e
          | v => s.modCore g (fun c => c.modCmd .c k.seq (fun k => { k with rows := [v.vec] })))
  | _ => s

/-- The translations of element `n` of a copy are taken ahead (R261): of its source and of its destination, where the access
would pass. -/
def State.copyEarly (s : State) (g n : Nat) (k : Cmd) : State :=
  let takeAt (s : State) (d : Desc) (va : Nat) (need : Need) : State :=
    if d.space = 1 || k.elems ≤ n then s
    else
      if k.maps.any (fun m => va / 2 ^ m.2.1 == m.1) || 2 ^ 48 ≤ va || s.inRoutines g va then s
      else
        match s.coreLeaf g va with
        | .error _ => s
        | .ok (pte, bits) =>
          match s.leafAccess g pte bits va need with
          | .error _ => s
          | .ok _ => s.modCore g (fun c => c.modCmd .c k.seq (fun k => { k with maps := (va / 2 ^ bits, bits, pte) :: k.maps }))
  let take (s : State) (d : Desc) (need : Need) : State := takeAt s d (d.place n).1 need
  let d (i : Nat) : Desc := Desc.of ((k.desc[i]?).getD 0)
  match k.instr with
  | .cpGather _ =>
    let s := take s (d 0) Need.store
    (match (s.core g).mmElem (d 2) (n / (d 0).n0) 0 with
      | .error _ => s
      | .ok iv =>
        match (d 1).locate ((n % (d 0).n0 : Nat) : Int) (toSigned 32 iv) 0 false with
        | .at b _ => takeAt s (d 1) b Need.load
        | _ => s)
  | .cp _ => take (take s (d 1) Need.load) (d 0) Need.store
  | .cpFill _ => take s (d 0) Need.store
  | .cpQ2 _ => take s (d 0) Need.load
  | .cpQ3 _ => take s (d 0) Need.store
  | _ => s

/-- Drop cached translations that overlap a range, or all (R271). -/
def Core.dropTlb (c : Core) (range : Option (Nat × Nat)) : Core :=
  match range with
  | none => { c with tlb := [] }
  | some (a, n) => { c with tlb := c.tlb.filter (fun e => n = 0 || (e.vpn + 1) * 2 ^ e.bits ≤ a || a + n ≤ e.vpn * 2 ^ e.bits) }

/-- Whether an instruction invalidates translations. -/
def isInv : Instr → Bool
  | .tlbInv _ => true
  | .tlbInvAll _ => true
  | _ => false

/-- The CQ command that may start next: in order, behind no `tlb.inv` that has not completed (R268). A `tlb.inv` starts with
its wait, and then waits until every older command has completed (R271). -/
def Core.cHead (c : Core) : Option Cmd :=
  match c.cq.findIdx? (fun k => !k.started) with
  | none => none
  | some j =>
    match c.cq[j]? with
    | none => none
    | some k =>
      if (c.cq.take j).any (fun x => !x.done && isInv x.instr) then none
      else some k

/-- Begin a CQ command: its tag is ACTIVE, and a converting copy under SR takes its draws, those of elements that it will
never come to too (assumption 46). -/
def Core.cBegin (c : Core) (k : Cmd) : Core :=
  let c := match k.tag with
    | some t => c.setTag t { c.tag t with st := .active }
    | none => c
  let c := c.modCmd .c k.seq (fun x => { x with sr := c.src })
  if k.draws then { c with src := drawN k.elems c.src } else c

/-- What a `tlb.inv` drops as it completes (R271). -/
def Core.invalidate (c : Core) (k : Cmd) : Core :=
  let num (i : Nat) : Nat := match k.ops[i]? with
    | some (.ready (.scalar w)) => w.toNat
    | _ => 0
  match k.instr with
  | .tlbInv _ => c.dropTlb (some (num 0, num 1))
  | .tlbInvAll _ => c.dropTlb none
  | _ => c

/-- Whether every CQ command older than one has completed. -/
def Core.oldest (c : Core) (k : Cmd) : Bool := (c.cq.takeWhile (fun x => x.seq != k.seq)).all (·.done)

/-- Whether every element of a command has been attempted. -/
def Cmd.copied (k : Cmd) : Bool :=
  match k.instr with
  | .tlbInv _ => true
  | .tlbInvAll _ => true
  | _ => k.elems ≤ k.prog

end Sys2Proof.Machine
end

