-- ==== Sys2Proof/Machine/Queues.lean ====
section
/-! DEFINITION. The steps of the engine queues: a command starts, goes on, completes, is killed, faults, or waits past its
bound (R184 to R186, R192, R268, R309, R310). -/

namespace Sys2Proof.Machine

/-- The command a queue may start next. -/
def Core.nextCmd (c : Core) : Eng → Option Cmd
  | .m => c.mHead
  | .v => c.vHead.map (·.1)
  | .c => c.cHead

/-- What the wait of a form E command finds (R184). -/
def Core.cmdWait (c : Core) (f : EngF) : FlagWait :=
  if f.wn = 0 then .ok else flagWait (c.flag f.wf.toNat) f.wn.toNat

/-- Kill a command that has started, or the entry at the head of VQ (R186, R226). -/
def State.cmdKill (s : State) (g : Nat) (q : Eng) (k : Cmd) (e : BitVec 6) : State :=
  match q with
  | .v =>
    s.modCore g (fun c =>
      { c.modCmd .v k.seq (fun k =>
          { k with started := true, killed := true, out := (kindsOf k.instr).map (fun v => .poisoned v e) }) with
        vqErr := some (c.vqErr.getD e) })
  | .c => s.copyKill g k e
  | .m =>
    match k.instr with
    | .mm _ => s.lockKill g k e
    | .mmDrain f => s.drainKill g k f e
    | .mmDrainQ0 f => s.drainKill g k f e
    | _ => s.finishCmd g .m k (some e) []

/-- The engine an instruction that reads data belongs to, as ENG of ERRINJ codes it (R357): 1 matrix, 2 vector, 3 copy,
0 for the commands that read none. -/
def readsData : Instr → Nat
  | .mm _ => 1
  | .mmDrain _ => 1
  | .mmDrainQ0 _ => 1
  | .cp _ => 3
  | .cpQ2 _ => 3
  | .cpQ3 _ => 3
  | .cpGather _ => 3
  | .portSet _ => 0
  | .portSetW _ => 0
  | .portRst _ => 0
  | .portRstOff _ => 0
  | .chanCfg _ => 0
  | .vsemSig _ => 0
  | .vsemSigErr _ => 0
  | .vsemWait _ => 0
  | i => if queueOf i = some .v then 2 else 0

/-- The error an armed injection puts into a command that starts (R357). -/
def Core.injection (c : Core) (i : Instr) : Option (BitVec 6) :=
  if c.errinj.getLsbD 15 && readsData i != 0 && bitsNat c.errinj 8 2 == readsData i then some (c.errinj.extractLsb' 0 6) else none

/-- A command that has just started takes an armed injection, which is then spent; one whose queue entry holds a poisoned
word is killed as it starts (R186, R346; assumption 44). -/
def State.inject (s : State) (g : Nat) (q : Eng) (k : Cmd) : State :=
  match (s.core g).injection k.instr, k.bad with
  | some e, _ => (s.modCore g (fun c => { c with errinj := 0 })).cmdKill g q { k with started := true } e
  | none, some e => s.cmdKill g q { k with started := true } e
  | none, none => s

/-- The same for the command with a place in program order, as its start has left it. -/
def State.injectAt (s : State) (g : Nat) (q : Eng) (seq : Nat) : State :=
  match ((s.core g).queue q).find? (fun x => x.seq = seq) with
  | some k => if k.done then s else s.inject g q k
  | none => s

/-- The sectors a matrix command that starts in a gang, or outside one, drives: those it was pushed for (R132, R208). -/
def Cmd.startSecs (k : Cmd) (g : Nat) (gang : Option (Nat × Nat)) : List Nat := if gang.isNone then [g] else k.secs

/-- Begin a command: what starting it does besides its wait. -/
def State.cmdOpen (s : State) (g : Nat) (q : Eng) (k : Cmd) : State :=
  match k.instr with
  | .mm f => s.mmBegin g (k.startSecs g (s.core g).gang) (mmOf f k.desc)
  | .mmGangOff _ => s.gangOffStep g k
  | _ => if q == .c then s.modCore g (fun c => c.cBegin k) else s

/-- Start a command: it takes its wait's count in the same clk, and begins (R184). -/
def State.cmdStart (s : State) (g : Nat) (q : Eng) (k : Cmd) (f : EngF) : State :=
  let s := s.modCore g (fun c =>
    let c := if f.wn = 0 then c else c.setFlagAt f.wf.toNat (engTurn q + 4) (flagSub (c.flag f.wf.toNat) f.wn.toNat)
    c.modCmd q k.seq (fun k =>
      { k with started := true, stall := 0, gang := if q == .m then c.gang else none,
               secs := if q == .m then k.startSecs g c.gang else [] }))
  s.cmdOpen g q k

/-- Start a command, which takes an armed injection (R184, R357). -/
def State.cmdBegin (s : State) (g : Nat) (q : Eng) (k : Cmd) (f : EngF) : State := (s.cmdStart g q k f).injectAt g q k.seq

/-- Whether the flag words of a command have not passed its turns of this clk (R188). -/
def Core.turnsOpen (c : Core) (q : Eng) (k : Cmd) (f : EngF) : Bool :=
  (f.wn = 0 || c.turnOpen f.wf.toNat (engTurn q + 4)) && c.sigOpen q k

/-- Skip a command whose wait finds an error (R184). What the sequencer knows of the banks and of the gang it is in follows:
a skipped `mm` sets no mode and no shape, a skipped `mm.gang` forms no gang (R198, R202, R208). -/
def State.cmdSkip (s : State) (g : Nat) (q : Eng) (k : Cmd) (f : EngF) : State :=
  let e := BitVec.ofNat 6 (flagEcode ((s.core g).flag f.wf.toNat))
  let outs : List Val := match k.instr with
    | .mmDrain _ => [.scalar 16]
    | .mmDrainQ0 _ => [.scalar 16]
    | _ => []
  let t := s.finishCmd g q { k with skipped := true } (some e) outs
  if q == .m then t.modCore g (·.review) else t

/-- Whether the head `mm` commands of a gang agree (R209). -/
def mmAgree (x y : Mm) : Bool :=
  x.m == y.m && x.k == y.k && x.a.fmt == y.a.fmt && x.t2 == y.t2 && x.bank == y.bank && x.zero == y.zero && x.chk == y.chk

/-- The next `mm` of a core, with its form E fields. -/
def Core.nextMm (c : Core) : Option (Cmd × EngF) :=
  match c.mHead with
  | some k =>
    (match k.instr with
      | .mm f => some (k, f)
      | _ => none)
  | none => none

/-- A ganged `mm` (R209): the gang's commands start together once every member holds one whose wait is met, or all trap
TEAM when they do not agree, each once. -/
def State.gangStart (s : State) (g : Nat) (k : Cmd) (f : EngF) : State :=
  let cores := s.gangCores g
  let heads := cores.filterMap (fun y => (s.core y).nextMm.map (fun x => (y, x.1, x.2)))
  if heads.length < cores.length then s
  else
    let x := mmOf f k.desc
    if !(heads.all (fun h => mmAgree x (mmOf h.2.2 h.2.1.desc))) then
      heads.foldl (fun s h => s.modCore h.1 (fun c => { c with gangOff := false }))
        (heads.foldl (fun s h => s.trapCmd h.1 .m h.2.1 { code := cTEAM } 0 0) s)
    else if heads.all (fun h => (s.core h.1).cmdWait h.2.2 == .ok && s.queueRuns h.1 .m
        && (s.core h.1).turnsOpen .m h.2.1 h.2.2) then
      let s := heads.foldl (fun s h => s.cmdStart h.1 .m h.2.1 h.2.2) s
      heads.foldl (fun s h => s.injectAt h.1 .m h.2.1.seq) s
    else s

/-- The vector engine takes the entry at its head, or an armed injection kills that entry before it reads (R357). -/
def State.vStart (s : State) (g : Nat) : State :=
  match (s.core g).vHead with
  | none => s
  | some (k, first) =>
    match ((s.core g).injection k.instr).isSome || k.bad.isSome, (s.core g).vStep k first with
    | true, .done _ _ => s.inject g .v k
    | true, .killed _ _ => s.inject g .v k
    | _, _ => s.vAdvance g

/-- Whether a matrix command would act on a frozen sector: it waits for the thaw (R313). -/
def State.frozenSect (s : State) (g : Nat) (q : Eng) : Bool :=
  q == .m && (s.driven g (s.core g).gang).any (fun y => (s.sector y).frozen)

/-- A queue examines the command at its head (R184, R225). -/
def State.engineStart (s : State) (g : Nat) (q : Eng) : State :=
  let c := s.core g
  if !s.queueRuns g q || s.frozenSect g q then s
  else
    match q with
    | .v => s.vStart g
    | q =>
      match c.nextCmd q with
      | none => s
      | some k =>
        match engFields k.instr with
        | none => s
        | some f =>
          let ganged : Bool := match k.instr with
            | .mm _ => c.gang.isSome
            | _ => false
          let orphan : Bool := c.gangOff && (match k.instr with
            | .mm _ => true
            | .mmDrain _ => true
            | .mmDrainQ0 _ => true
            | _ => false)
          let badGang : Bool := match gangArgs k with
            | some (w, n) => s.gangBad g w n
            | none => false
          if !c.turnsOpen q k f then s
          else
          match c.cmdWait f with
          | .err => s.cmdSkip g q k f
          | .no => s
          | .ok =>
            if orphan then (s.modCore g (fun c => { c with gangOff := false })).trapCmd g q k { code := cTEAM } 0 0
            else if badGang then s.trapCmd g q k { code := cTEAM } 0 0
            else if ganged then s.gangStart g k f
            else s.cmdBegin g q k f

/-- ENGINE_COMMAND_START (R184). -/
def execEngineCommandStart (g : Nat) (q : Eng) (s : State) : Out := .next (s.engineStart g q)

/-- Whether every read and write of a started command has performed (R185). -/
def State.cmdFinished (s : State) (g : Nat) (k : Cmd) : Bool :=
  k.started && !k.done &&
    (match k.instr with
      | .mm f => (mmOf f k.desc).over k ((s.core g).mmReach g k).1 && !((s.core g).sealedOff k && westOf g k != g)
      | .mmDrain f => ((s.core g).bank (f.fn.getLsbD 0)).m ≤ k.prog
      | .mmDrainQ0 f => ((s.core g).bank (f.fn.getLsbD 0)).m ≤ k.prog && k.rows.isEmpty
      | .mmGang _ => false
      | .mmGangOff _ => false
      | i => if takesTag i then k.copied && !k.stopped else !isInv i || (s.core g).oldest k)

/-- Complete a finished command with its results and signal. -/
def State.cmdComplete (s : State) (g : Nat) (q : Eng) (k : Cmd) : State :=
  match q with
  | .v => s.vComplete g k
  | .c => (s.modCore g (·.invalidate k)).finishCmd g .c k k.lateErr []
  | .m =>
    match drainF k.instr with
    | some (f, _) =>
      let (w, e) := s.drainStatus g k f
      s.finishCmd g .m k e [.scalar w]
    | none => (s.dropLats ((s.core g).mmReach g k).2).finishCmd g .m k none []

/-- COMMAND_COMPLETE (R185): command number `n` of a queue. -/
def execCommandComplete (g : Nat) (q : Eng) (n : Nat) (s : State) : Out :=
  match ((s.core g).queue q)[n]? with
  | some k =>
    if (s.core g).enginesRun && !(s.die (dieOf g)).holdStop && (s.core g).sigOpen q k && s.cmdFinished g k then .next (s.cmdComplete g q k) else .next s
  | none => .next s

/-- Whether the vector engine executes the entry at its head now: it has started to, and does not wait or trap (R225). -/
def State.vExecutes (s : State) (g : Nat) : Bool :=
  s.queueRuns g .v &&
    (match (s.core g).vHead with
      | none => false
      | some (k, first) =>
        match (s.core g).vStep k first with
        | .wait _ => false
        | .bad _ => false
        | _ => true)

/-- COMMAND_KILL (R186): a command meets an uncorrectable error, ECODE 1, 2, 3 or 8 (R342). -/
def execCommandKill (g : Nat) (q : Eng) (n : Nat) (ecode : BitVec 6) (s : State) : Out :=
  let c := s.core g
  match (c.queue q)[n]? with
  | some k =>
    let live := k.started && !k.done && q != .v
    let vhead := q == .v && (c.vHead.map (·.1.seq)) == some k.seq && s.vExecutes g
    if c.enginesRun && c.sigOpen q k && (ecode == 1 || ecode == 2 || ecode == 3 || ecode == 8) && (live || vhead) then
      .next (s.cmdKill g q k ecode)
    else .next s
  | none => .next s

/-- Whether a `scan.frz.at` of some service core is due at the clk the current command of a core has reached (R325). -/
def State.frzDue (s : State) (g : Nat) : Bool :=
  match (s.core g).mmRunning with
  | none => false
  | some (r, _) =>
    (List.range 8).any (fun e =>
      match (s.core (svcOf e)).wait with
      | some { kind := .frz d _ _ (some n) (some (y, q)) _, stall := _, bound := _ } =>
        d == dieOf g && (s.lockCores g r).contains y && s.sliceRun y && r.clk == n
          && (s.core y).mq.any (fun x => x.seq == q && x.started && !x.done)
      | _ => false)

/-- Command number `n` of queue `q` of a core advances by one element, row or clk. -/
def State.engineAdvance (s : State) (g : Nat) (q : Eng) (n : Nat) : State :=
  let c := s.core g
  match (c.queue q)[n]? with
  | none => s
  | some k =>
    if !c.enginesRun || (s.die (dieOf g)).holdStop || !k.started || k.done || k.stopped || !c.sigOpen q k then s
    else
      match q with
      | .v => s
      | .m =>
        (match k.instr with
          | .mm _ => if s.frzDue g then s else s.mmAdvance g
          | .mmDrain _ => s.drainAdvance g
          | .mmDrainQ0 _ => s.drainAdvance g
          | .mmGangOff _ => s.gangOffStep g k
          | _ => s)
      | .c => if k.copied then s else s.copyElem g k

/-- Command number `n` of queue `q` of a core, under way, does something ahead of its turn: an `mm` reads operand element `i`,
a copy takes the translations of its element `i` (R192, R199, R261). -/
def State.engineEarly (s : State) (g : Nat) (q : Eng) (n i : Nat) : State :=
  let c := s.core g
  match (c.queue q)[n]? with
  | none => s
  | some k =>
    if !c.enginesRun || (s.die (dieOf g)).holdStop || !k.started || k.done || k.stopped then s
    else
      match k.instr with
      | .mm _ => if q == .m && !c.sealedOff k then s.mmEarly g i else s
      | _ => if q == .c then s.copyEarly g i k else s

/-- COPY_FAULT (R268): the next element access of a copy faults PAGE, PROT or POISON and stops it. -/
def execCopyFault (g : Nat) (n : Nat) (s : State) : Out :=
  match ((s.core g).cq)[n]? with
  | none => .next s
  | some k =>
    let t := s.engineAdvance g .c n
    match ((t.core g).cq).find? (fun x => x.seq = k.seq) with
    | some x => if x.stopped && !k.stopped then .next t else .next s
    | none => .next s

/-! Waits at the heads of queues. -/

/-- The bound exponent of a vector entry (R213, R229). -/
def Core.vBound (c : Core) (i : Instr) : Nat :=
  match i with
  | .vsemWait f => boundOf (boundField f) (c.dflt (·.bflag))
  | _ => boundOf (boundField (baseOf i)) (c.dflt (·.bchan))

/-- The blocking waits of a queue, each with the command, its RES and its bound (R184, R200, R203, R209, R225, R267, R310): a
command at its head may wait while older ones that have started wait too. -/
def State.headWaits (s : State) (g : Nat) (q : Eng) : List (Cmd × Nat × Nat) :=
  let c := s.core g
  let bchan := boundOf 0 (c.dflt (·.bchan))
  let bflag := boundOf 0 (c.dflt (·.bflag))
  let bbar := boundOf 0 (c.dflt (·.bbar))
  let flagHead : Option (Cmd × Nat × Nat) :=
    match c.nextCmd q with
    | none => none
    | some k =>
      match engFields k.instr with
      | none => none
      | some f =>
        if c.cmdWait f == .no then some (k, 32 + f.wf.toNat, bflag)
        else
          match k.instr with
          | .mm _ => if c.gang.isSome then some (k, 163, bbar) else none
          | _ => none
  match q with
  | .v =>
    (match c.vHead with
      | none => []
      | some (k, first) =>
        match c.vStep k first with
        | .wait r => if r = 0 then [] else [(k, r, c.vBound k.instr)]
        | _ => [])
  | .m =>
    let q1 : Option (Cmd × Nat × Nat) :=
      match c.mmRunning with
      | some (k, x) =>
        if x.aq1 && westOf g k == g && x.starved k (x.span k.gang) && !(c.chan 1).present && !k.stopped then some (k, 97, bchan) else none
      | none => none
    let q0 : Option (Cmd × Nat × Nat) :=
      match c.drainRunning with
      | some (k, _, true) =>
        if !k.rows.isEmpty && chanDepth 0 ≤ (c.chan 0).ents.length && !k.stopped then some (k, 96, bchan) else none
      | _ => none
    let forming : Option (Cmd × Nat × Nat) :=
      (c.mq.find? (fun k => k.started && !k.done && (match k.instr with
        | .mmGang _ => true
        | .mmGangOff _ => true
        | _ => false))).map (fun k => (k, 163, bbar))
    q1.toList ++ q0.toList ++ forming.toList ++ flagHead.toList
  | .c =>
    let ch : List (Cmd × Nat × Nat) :=
      c.cq.filterMap (fun k =>
        if !k.started || k.done || k.stopped || k.copied then none
        else
          match k.instr with
          | .cpQ2 _ =>
            let d := Desc.of ((k.desc[0]?).getD 0)
            let e0 := k.prog % d.n0
            if (e0 % (4096 / d.ebits) = 4096 / d.ebits - 1 || e0 = d.n0 - 1) && chanDepth 2 ≤ (c.chan 2).ents.length then
              some (k, 98, bchan) else none
          | .cpQ3 _ => if k.rows.isEmpty && !(c.chan 3).present then some (k, 99, bchan) else none
          | _ => none)
    ch ++ flagHead.toList

/-- The clks the wait of a command for a RES has lasted (R309). -/
def Cmd.waited (k : Cmd) (res : Nat) : Nat := if k.stallAt = res then k.stall else 0

/-- The result kinds and the length of the instruction a core stands at. -/
def State.curShape (s : State) (g : Nat) : List Bool × Nat :=
  match s.look (.core g) with
  | .instr i => (kindsOf i, lenOf i)
  | .emulate _ w =>
    (matchedKinds (((s.core g).ctx.blk.map (·.slots)).getD []) (s.core g).part (s.core g).ctx w, 1)
  | _ => ([], 1)

/-- The wait of a sequencer that has passed its bound traps WAITBOUND (R309). -/
def State.expireSeq (s : State) (g : Nat) : State :=
  let c := s.core g
  match c.wait with
  | some w =>
    (match w.bound with
      | some b =>
        if s.canRun (.core g) && b < w.stall && s.waitOpen g w.kind then
          let sh := s.curShape g
          ((s.undoWait g w.kind).endWait g).trapAt (.core g) { code := cWAITBOUND } sh.1 sh.2 [] (c.waitRes w.kind)
            (c.waitQpos w.kind)
        else s
      | none => s)
  | none => s

/-- A wait of a queue's commands that has passed its bound traps WAITBOUND at its command (R309). -/
def State.expireHead (s : State) (g : Nat) (q : Eng) : State :=
  let c := s.core g
  match (s.headWaits g q).find? (fun x => 2 ^ x.2.2 < x.1.waited x.2.1) with
  | some (k, res, _) =>
    if c.cstate == .run || isSvc g then
      (s.modCore g (fun c =>
        c.modCmd q k.seq (fun k => { k with stall := 0, stopped := k.started && engFields k.instr != none }))).trapCmd
        g q k { code := cWAITBOUND } res (c.headQpos res)
    else s
  | none => s

/-- WAIT_BOUND_EXPIRY (R309): the counter of a wait that is still unsatisfied exceeds 2^B. -/
def execWaitBoundExpiry (g : Nat) (site : WaitSite) (s : State) : Out :=
  match site with
  | .seq => .next (s.expireSeq g)
  | .head q => .next (s.expireHead g q)

end Sys2Proof.Machine
end

