-- ==== Sys2Proof/Machine/Window.lean ====
section
/-! DEFINITION. The task window (R92 to R108): physical buffers and renaming, regions, the issue condition, the actions
of scopes at launch and finish, discarding, and the stream trap. -/

namespace Sys2Proof.Machine

/-! Physical buffers (R94 to R97). -/

/-- Change a physical buffer that is there. -/
def Part.modPb (q : Part) (a : Nat) (f : Pb → Pb) : Part :=
  match tget none q.pbs a with
  | some b => { q with pbs := tput none q.pbs a (some (f b)) }
  | none => q

/-- The FREE buffers of a class in a pool, the ballast or the free list. -/
def Part.freeOf (q : Part) (home cls : Nat) (ballast : Bool) : List Nat :=
  q.pbs.filterMap (fun x => match x.2 with
    | some b => if b.home = home && b.cls = cls && b.st == .free && b.ballast == ballast then some x.1 else none
    | none => none)

/-- A buffer returns to its class: the ballast first (R96). -/
def Part.freePb (q : Part) (a : Nat) : Part :=
  match tget none q.pbs a with
  | some b => q.modPb a (fun b' => { b' with st := .free, reads := 0, ballast := (q.freeOf b.home b.cls true).length < 2 })
  | none => q

/-- An UNMAPPED buffer that nothing reads goes FREE (R97). -/
def Part.settlePb (q : Part) (a : Nat) : Part :=
  match tget none q.pbs a with
  | some b => if b.st == .unmapped && b.reads = 0 then q.freePb a else q
  | none => q

/-- A MAPPED buffer loses its tensor (R97). -/
def Part.unmapPb (q : Part) (a : Nat) : Part := (q.modPb a (fun b => { b with st := .unmapped })).settlePb a

/-- A reader is done with a buffer (R97). -/
def Part.dropRead (q : Part) (a : Nat) : Part := (q.modPb a (fun b => { b with reads := b.reads - 1 })).settlePb a

/-- Draw one buffer of a class (R96): the free list, and the ballast where `ballast` says that the window is empty.
Which buffer of the list is left open: it is a free value (assumption 4). -/
def State.drawPb (s : State) (p home cls : Nat) (ballast : Bool) : Option (Nat × State) :=
  let q := s.part p
  let l := q.freeOf home cls false
  let l := if l.isEmpty && ballast then q.freeOf home cls true else l
  let (w, t) := s.freeValue
  match l[w.toNat % l.length]? with
  | some a => some (a, t.modPart p (fun q => q.modPb a (fun b => { b with st := .shadow, reads := 0, ballast := false })))
  | none => none

/-- Draw every buffer of a list of pools and classes, or none. -/
def State.drawPbs (s : State) (p : Nat) (ballast : Bool) : List (Nat × Nat) → Option (List Nat × State)
  | [] => some ([], s)
  | (home, cls) :: l =>
    match s.drawPb p home cls ballast with
    | none => none
    | some (a, s) =>
      match s.drawPbs p ballast l with
      | none => none
      | some (as, s) => some (a :: as, s)

/-- Bytes of a class of buffer (R94). -/
def pbBytes (cls : Nat) : Nat := 65536 * 2 ^ cls

/-! Virtual ranges of a partition. -/

/-- The root of a partition's table (R257). -/
def State.ptRoot (s : State) (p : Nat) : Nat := (s.part p).ptroot.toNat

/-- The physical sectors of a virtual range, as runs, over the pages that are mapped. -/
def State.physRuns (s : State) (p lo n : Nat) : List (Nat × Nat) :=
  (List.range ((lo % 4096 + n + 4095) / 4096)).filterMap (fun i =>
    let page := (lo / 4096 + i) * 4096
    let a := max lo page
    let b := min (lo + n) (page + 4096)
    match s.walk (s.ptRoot p) a with
    | .ok (pte, bits) =>
      let pa := (leafPath pte bits a).pa
      if a < b then some (pa / 64, (pa + (b - a) - 1) / 64 + 1 - pa / 64) else none
    | .error _ => none)

/-- The local-store caches and RDCs lose sixty-four sectors. -/
def State.dropNear (s : State) (sec : Nat) : State :=
  let s := (List.range 136).foldl (fun s g =>
    if (trange (s.core g).lsc sec 64).isEmpty then s else s.modCore g (fun c => { c with lsc := tclear c.lsc sec 64 })) s
  (List.range 8).foldl (fun s d =>
    if (trange (s.die d).rdc sec 64).isEmpty then s else s.modDie d (fun x => { x with rdc := tclear x.rdc sec 64 })) s

/-- Sixty-four sectors of physical memory become zero under a key, and no cache holds any of them. -/
def State.clearPage (s : State) (pa key : Nat) : State :=
  let sec := pa / 64
  let gen := s.keyGen key
  let s := s.dropNear sec
  let lines := trange s.l2 sec 64
  let s := { s with
    l2 := tclear s.l2 sec 64, hbm := tclear s.hbm (sec * 64) 4096,
    hbmMeta := tputs HMeta.reset s.hbmMeta sec
      (List.replicate 64 { poison := false, ecode := 0, key := key, gen := gen, written := true }) }
  lines.foldl (fun s x =>
    match x.2 with
    | some y => s.l2Forget y.home x.1
    | none => s) s

/-- Do something to each mapped page of a range of whole pages. -/
def State.overPages (s : State) (p lo n : Nat) (k : State → Path → State) : State :=
  (List.range (n / 4096)).foldl (fun s i =>
    match s.walk (s.ptRoot p) (lo + 4096 * i) with
    | .ok (pte, bits) => k s (leafPath pte bits (lo + 4096 * i))
    | .error _ => s) s

/-- A range of whole pages reads as zero (R98, R371). -/
def State.zeroVirt (s : State) (p lo n : Nat) : State := s.overPages p lo n (fun s x => s.clearPage x.pa x.key)

/-- Nothing of the earlier use of a buffer is left in front of its home (R98): what is copied into it there is what its reader
finds. -/
def State.freshVirt (s : State) (p lo n : Nat) : State := s.overPages p lo n (fun s x => s.dropNear (x.pa / 64))

/-! Scopes at launch and finish (R103). -/

/-- The cores of a partition: those it owns, and those that hold a task of it. -/
def State.partCores (s : State) (p : Nat) : List Nat :=
  (List.range 128).filter (fun g => s.ownsCore p g || ((s.core g).part = p && (s.core g).task.isSome))

/-- Team scope stands for device scope. -/
def wideScope (sc : Nat) : Nat := if sc = 1 then 3 else sc

/-- The action of an acquire over runs of sectors. -/
def State.acquireRuns (s : State) (p sc : Nat) (runs : List (Nat × Nat)) : State :=
  let sc := wideScope sc
  let one (s : State) (c : CacheId) : State := ((s.cachedSecs c).filter (inRuns runs)).foldl (fun s x => s.flushSec c x) s
  let s := if 2 ≤ sc then (s.partCores p).foldl (fun s g => one s (.lsc g)) s else s
  if 3 ≤ sc then (List.range 8).foldl (fun s d => one s (.rdc d)) s else s

/-- The action of a release over runs of sectors, from the caches of some cores. -/
def State.releaseRuns (s : State) (cores : List Nat) (sc : Nat) (runs : List (Nat × Nat)) : State :=
  let sc := wideScope sc
  let one (s : State) (c : CacheId) : State := ((s.cachedSecs c).filter (inRuns runs)).foldl (fun s x => s.writeBack c x) s
  let s := if 2 ≤ sc then cores.foldl (fun s g => one s (.lsc g)) s else s
  let s := if 3 ≤ sc then (List.range 8).foldl (fun s d => one s (.rdc d)) s else s
  if 4 ≤ sc then one s .l2 else s

/-- Modes of a listed tensor (R98), with two of the model's own: 4 binds a view (`t.view`), 5 frees (`t.free`). -/
def isSrcMode (m : Nat) : Bool := m == 0 || m == 3
/-- Whether a mode makes the tensor a destination. -/
def isDstMode (m : Nat) : Bool := m == 1 || m == 2 || m == 3
/-- Whether a mode draws a fresh buffer. -/
def isFresh (m : Nat) : Bool := m == 1 || m == 3

/-- The bytes of a tensor's region or buffer: base and length. -/
def tensorRange (desc : BitVec 256) : Nat × Nat := let d := Desc.of desc; (d.base, d.footprint)

/-- The sectors of the listed tensors that an acquire (sources) or a release (destinations) covers. -/
def State.listedRuns (s : State) (p : Nat) (e : Entry) (dst : Bool) : List (Nat × Nat) :=
  (e.tens.filter (fun t => if dst then isDstMode t.mode else isSrcMode t.mode || t.mode == 2)).flatMap (fun t =>
    let r := match t.mode, t.srcPb with
      | 3, some b => if dst then tensorRange t.desc else (b, (tensorRange t.desc).2)
      | _, _ => tensorRange t.desc
    s.physRuns p r.1 r.2)

/-- The entries of a window, oldest first, with their numbers. -/
def Part.live (q : Part) : List (Nat × Entry) :=
  (List.range q.wcount).filterMap (fun i =>
    let n := (q.whead + i) % 128
    (tget none q.window n).map (fun e => (n, e)))

/-- The sectors of every buffer and view region of a partition (R110). A view that a younger `t.free` has unbound is still in
the committed map, or in the window entry that bound it. -/
def State.allRuns (s : State) (p : Nat) : List (Nat × Nat) :=
  let q := s.part p
  let pbs := q.pbs.flatMap (fun x => match x.2 with
    | some b => s.physRuns p x.1 (pbBytes b.cls)
    | none => [])
  let of (x : Option LTensor) : List (Nat × Nat) := match x with
    | some t => if t.view then s.physRuns p (tensorRange t.desc).1 (tensorRange t.desc).2 else []
    | none => []
  pbs ++ (q.rename ++ q.committed).flatMap (fun x => of x.2)
    ++ q.live.flatMap (fun x => x.2.tens.flatMap (fun t => of t.before ++ of t.after))

/-- Whether the scopes of an instruction act on the whole partition (R110). -/
def wholeScope : Instr → Bool
  | .tFence _ => true
  | .tSync _ => true
  | .tSignalAdd _ => true
  | .tSignalStore _ => true
  | .tSvc _ => true
  | .tSend _ => true
  | .tWaitEq _ => true
  | .tWaitNe _ => true
  | .tWaitGe _ => true
  | _ => false

/-- Whether an instruction waits for a word. -/
def isTWait : Instr → Bool
  | .tWaitEq _ => true
  | .tWaitNe _ => true
  | .tWaitGe _ => true
  | _ => false

/-- The acquire of an entry. -/
def State.entryAcquire (s : State) (p : Nat) (e : Entry) : State :=
  if e.acq = 0 then s
  else s.acquireRuns p e.acq (if wholeScope e.instr then s.allRuns p else s.listedRuns p e false)

/-- Every sector of physical memory, as a run. -/
def everySector : List (Nat × Nat) := [(0, 2 ^ 46)]

/-- Whether some dirty sector cannot reach its home now: a link holds it (R347), or its home is not re-admitted yet (R351). -/
def State.linksHold (s : State) : Bool :=
  (s.cores.map (·.1)).any (fun g => s.unsettled (.lsc g)) || (List.range 8).any (fun d => s.unsettled (.rdc d))

/-- Whether the release of an entry waits for such a sector (R340). -/
def State.entryWaits (s : State) (e : Entry) : Bool := 3 ≤ wideScope e.rel && s.linksHold

/-- The release of an entry. That of a `t.map` covers every store of its tasks, as the worked kernel of chapter 10 says of
a result address that is no listed tensor (assumption 26). -/
def State.entryRelease (s : State) (p : Nat) (e : Entry) : State :=
  if e.rel = 0 then s
  else if wholeScope e.instr then s.releaseRuns (s.partCores p) e.rel (s.allRuns p)
  else
    s.releaseRuns e.ran e.rel (match e.instr with
      | .tMap _ _ _ _ => everySector
      | _ => s.listedRuns p e true)

/-! The window. -/

/-- The entries older than entry `n`, oldest first. -/
def Part.olderThan (q : Part) (n : Nat) : List Entry := ((q.live).takeWhile (fun x => x.1 != n)).map (·.2)

/-- Two regions share a byte (R102). -/
def Region.meets (x y : Region) : Bool := x.lo < y.hi && y.lo < x.hi

/-- Whether the regions of two entries overlap with a write (R93, R102). -/
def regionClash (o e : Entry) : Bool :=
  (o.unbounded && (e.unbounded || !e.regions.isEmpty)) || (e.unbounded && !o.regions.isEmpty)
    || o.regions.any (fun x => e.regions.any (fun y => x.meets y && (x.write || y.write)))

/-- Whether an entry has a tensor as a destination. -/
def Entry.writes (e : Entry) (lt : Nat) : Bool := e.tens.any (fun t => t.lt = lt && isDstMode t.mode)
/-- Whether an entry has a tensor as a source. -/
def Entry.readsT (e : Entry) (lt : Nat) : Bool := e.tens.any (fun t => t.lt = lt && isSrcMode t.mode)

/-- Whether every task of an early producer has executed `trig` or halted (R105). -/
def Entry.trigged (e : Entry) : Bool := e.early && e.trigs.length == e.ntask

/-- Whether an instruction is a `t.fence`. -/
def isTFence : Instr → Bool
  | .tFence _ => true
  | _ => false
/-- Whether an instruction is a `t.sync`. -/
def isTSync : Instr → Bool
  | .tSync _ => true
  | _ => false

/-- The issue condition (R93). -/
def canIssue (older : List Entry) (e : Entry) : Bool :=
  let undone := older.filter (fun o => o.st != .done)
  e.tens.all (fun t =>
      !isSrcMode t.mode ||
        (match older.reverse.find? (fun o => o.writes t.lt) with
          | some o => o.st == .done || o.trigged
          | none => true))
    && undone.all (fun o => !regionClash o e)
    && e.tens.all (fun t => t.mode != 2 || undone.all (fun o => !(o.writes t.lt || o.readsT t.lt)))
    && (!(e.visible || isTFence e.instr) || undone.isEmpty)
    && (!isTSync e.instr || older.isEmpty)
    && undone.all (fun o => !isTFence o.instr)

/-- Take back the read counts of an entry (R97). -/
def Part.dropReads (q : Part) (e : Entry) : Part :=
  e.tens.foldl (fun q t => match t.srcPb with
    | some a => q.dropRead a
    | none => q) q

/-- The SHADOW buffers of an entry return to FREE (R97). -/
def Part.freeShadow (q : Part) (e : Entry) : Part :=
  e.tens.foldl (fun q t => match t.dstPb with
    | some a => (match tget none q.pbs a with
        | some b => if b.st == .shadow then q.freePb a else q
        | none => q)
    | none => q) q

/-- Tasks of an entry that have been sent and not started leave the ready queues and the transfers; a batch that waits for its
transfer goes with its last task. -/
def State.purge (s : State) (p uid : Nat) : State :=
  let keep (l : List Ready) : List Ready := l.filter (fun r => r.uid != uid)
  let s := (List.range 8).foldl (fun s d =>
    let l := tget [] (s.die d).ready p
    if l.any (fun r => r.uid == uid) then s.modDie d (fun x => { x with ready := tput [] x.ready p (keep l) }) else s) s
  let of (b : Batch) : Batch := if b.part = p then { b with tasks := keep b.tasks } else b
  let waiting (l : List Batch) : List Batch := (l.map of).filter (fun b => !b.tasks.isEmpty)
  { s with xfer := match s.sending, s.xfer with
      | true, b :: bs => of b :: waiting bs
      | _, l => waiting l }

/-- Kill every command of a core with an ECODE, and end its accesses (R106, R317), those still in LQ and SQ unperformed
(assumption 46); the bank of a started `mm` is poisoned (R341). -/
def Core.killCmds (c : Core) (e : BitVec 6) : Core :=
  let c := [Eng.m, .v, .c].foldl (fun c q =>
    (c.queue q).foldl (fun c k => if k.done then c else c.applySignal q k.instr (some e)) c) c
  let c := c.mq.foldl (fun c k =>
    match k.instr with
    | .mm f => if k.started && !k.done then let b := f.efl.getLsbD 0; c.setBank b { c.bank b with poison := true } else c
    | _ => c) c
  { c with mq := [], vq := [], cq := [], acc := [], stopped := true }

/-- Whether the trap queue of a core's die holds a record of it. -/
def State.hasRecord (s : State) (g : Nat) : Bool := ((s.die (dieOf g)).trapq).any (fun t => !t.note && t.core == g)

/-- Stop the task of a core whose entry exists no more (R106): it counts neither as completed nor as trapped, and
its record tells the service to scrub the core. -/
def State.stopTask (s : State) (g : Nat) (note : Bool) : State :=
  let c := s.core g
  let info := s.mkInfo g { code := cERRBIT, ecode := 6 } c.ctx.vpc c.ctx.vpc 0 0
  let s := if note && !s.hasRecord g then s.queueRecord (dieOf g) info else s
  let s := s.leaveTeam g
  s.modCore g (fun c =>
    { c.killCmds 6 with cstate := .killed, task := none, wait := none, trap := none, tags := [], emul := none,
                        hold := false, loaded := false, pendErr := [] })

/-- Whether a core holds a task of a partition that is not over. -/
def Core.holdsTask (c : Core) (p : Nat) : Bool :=
  c.part = p && c.task.isSome && c.cstate != .idle && c.cstate != .killed

/-- Discard an entry (R106): its tasks are stopped, what the cores that ran them still hold dirty reaches its home, a message
of it that has not been delivered is dropped, and then its buffers are free. -/
def State.discard (s : State) (p n : Nat) (note : Bool) : State :=
  match s.entry p n with
  | none => s
  | some e =>
    let s := (List.range 128).foldl (fun s g =>
      let c := s.core g
      if c.holdsTask p && (c.task.map (fun t => t.entry == n && t.uid == e.uid)).getD false then s.stopTask g note else s) s
    let s := if e.ran.isEmpty then s else s.releaseRuns e.ran 3 everySector
    let s := s.purge p e.uid
    let s := { s with outbox := s.outbox.filter (fun x => x.1 != p * 128 + n) }
    let s := s.modPart p (fun q =>
      (if e.st == .wait || e.st == .issued then q.dropReads e else q).freeShadow e)
    s.setEntry p n none

/-- Discard a list of entries, youngest first. -/
def State.discardAll (s : State) (p : Nat) (note : Bool) (ns : List Nat) : State :=
  ns.reverse.foldl (fun s n => s.discard p n note) s

/-- Deliver the value of a `t.read` to a stream: to its context and to every context kept of it. -/
def State.sfeDeliver (s : State) (p id : Nat) (v : Val) : State :=
  let put (c : Ctx) : Ctx := { c with vals := deliver c.vals id v }
  let s := s.modPart p (fun q =>
    { q with
      sfe := { q.sfe with ctx := put q.sfe.ctx, hmode := q.sfe.hmode.map (fun h => { h with kept := put h.kept }) } })
  ((s.part p).live).foldl (fun s x => s.modEntry p x.1 (fun e => { e with snap := put e.snap })) s

/-! Ending a stream (R89). -/

/-- What the service reports of a stream: REQID and exit status (R370; the layout is the model's, assumption 17). -/
def exitReport (reqid status : Word) : List Byte := natToBytes 8 reqid.toNat ++ natToBytes 8 status.toNat

/-- The stream of a partition ends: what the window still holds is discarded, and the exit status is reported. -/
def State.endStream (s : State) (p : Nat) (status : Word) : State :=
  let q := s.part p
  let s := s.discardAll p false (q.live.map (·.1))
  let s := s.modPart p (fun q =>
    { q with
      rename := q.committed, wcount := 0, srec := none, srecNew := false,
      sfe := { q.sfe with running := false, wait := .none, handler := none, hmode := none } })
  { s with ctlOut := s.ctlOut ++ [exitReport q.sfe.reqid status] }

/-! Events (R315, R316). -/

/-- The service or the stream handler takes an event that is delivered; one of another PGEN is dropped (R316). The
handler gets TYPE 1 with its record, by `takeStreamTrap` and `deliverLog`. -/
def Part.takeEvent (q : Part) (e : Event) : Part :=
  if e.gen ≠ q.pgen then { q with evstale := min (q.evstale + 1) (2 ^ 24 - 1) }
  else if q.sfe.running && q.sfe.handler.isSome && e.typ != 1 then { q with evq := q.evq ++ [e] }
  else { q with evsvc := q.evsvc ++ [e] }

/-- An event arises in a partition (R315). -/
def State.postEvent (s : State) (p typ : Nat) (data : Word) : State :=
  let e : Event := { typ := typ, data := data, gen := (s.part p).pgen, time := (s.die (hostDie p)).gtc % 2 ^ 40 }
  if s.scheduled p then s.modPart p (fun q => q.takeEvent e)
  else
    s.modPart p (fun q =>
      if 256 ≤ q.evlog.length then { q with evdrop := min (q.evdrop + 1) (2 ^ 32 - 1) }
      else { q with evlog := q.evlog ++ [e] })

/-- The 16 bytes of an event record. -/
def Event.bytes (e : Event) : List Byte :=
  natToBytes 8 (e.time % 2 ^ 40 + (e.gen % 2 ^ 16) * 2 ^ 40 + (e.typ % 256) * 2 ^ 56) ++ natToBytes 8 e.data.toNat

/-! Records in memory (R107, R298). -/

/-- The eight words of a TRAPINFO record (R298). -/
def TrapInfo.words (t : TrapInfo) : List Nat :=
  let slot := match t.slot with
    | some n => n % 32 * 2 ^ 35 + 2 ^ 34
    | none => 0
  [t.vpc, t.npc,
   t.cause % 256 + (t.sub % 256) * 2 ^ 8 + (t.ocause % 256) * 2 ^ 16 + (t.osub % 256) * 2 ^ 24 + slot
     + (t.ecode % 64) * 2 ^ 42 + (t.res % 256) * 2 ^ 48 + (t.qpos % 256) * 2 ^ 56,
   (t.core % 128) * 2 ^ 5 + (t.part % 16) * 2 ^ 12 + (t.task % 2 ^ 24) * 2 ^ 16 + (t.mqn % 256) * 2 ^ 40
     + (t.vqn % 256) * 2 ^ 48 + (t.cqn % 256) * 2 ^ 56,
   t.done % 2 ^ 64, t.started % 2 ^ 64, t.addr % 2 ^ 64, t.gtc % 2 ^ 64]

/-- The sixteen words of a stream trap record (R107). -/
def StreamRec.words (r : StreamRec) : List Nat :=
  let info := match r.info with
    | some t => t.words
    | none => List.replicate 8 0
  [r.spc,
   r.cause % 256 + (r.sub % 256) * 2 ^ 8 + (r.kind % 4) * 2 ^ 16 + (r.entry % 128) * 2 ^ 18
     + (r.ftask % 2 ^ 24) * 2 ^ 32 + (r.nfault % 2 ^ 8) * 2 ^ 56,
   (r.nfault % 2 ^ 24) / 2 ^ 8 + (r.ndone % 2 ^ 24) * 2 ^ 16 + (r.ntask % 2 ^ 24) * 2 ^ 40,
   r.gtc % 2 ^ 64,
   r.ntask / 2 ^ 24 % 2 + (r.ndone / 2 ^ 24 % 2) * 2 + (r.nfault / 2 ^ 24 % 2) * 4, 0, 0, 0] ++ info

/-- Words in memory. -/
def wordsBytes (l : List Nat) : List Byte := l.flatMap (fun w => natToBytes 8 w)

/-! Entering the stream handler (R354). -/

/-- The stream handler starts with a record in its buffer. Where the buffer can no longer be written the stream ends
at once (assumption 18). -/
def State.enterHandler (s : State) (p typ : Nat) (bytes : List Byte) (entry : Option Nat) (kind : Nat) : State :=
  match (s.part p).sfe.handler with
  | none => s
  | some (h, buf) =>
    if !s.mapped (s.ptRoot p) { Need.both with user := true } buf 128 then
      s.endStream p badExit
    else
      let (_, s) := s.writeVirt (s.ptRoot p) (some p) Need.store buf bytes
      s.modPart p (fun q =>
        let c := q.sfe.ctx
        { q with
          sfe := { q.sfe with
            wait := .none, hmode := some { typ := typ, kept := c, entry := entry, kind := kind },
            ctx := { { c with rets := .mark :: c.rets }.enterBlock h
                       [.ready (.scalar (BitVec.ofNat 64 buf)), .ready (.scalar (BitVec.ofNat 64 typ))] with
                     rets := .mark :: c.rets } } })

/-- At a boundary between two stream instructions the oldest waiting event enters the handler (R354); without a
handler the waiting events are the service's. -/
def State.handlerBoundary (s : State) (p : Nat) : Option State :=
  let q := s.part p
  match q.evq with
  | [] => none
  | e :: es =>
    if q.sfe.handler.isNone then some (s.modPart p (fun q => { q with evq := es, evsvc := q.evsvc ++ [e] }))
    else if q.sfe.running && q.sfe.wait == .none && q.sfe.hmode.isNone && q.sfe.ctx.tmpl.isEmpty then
      some ((s.modPart p (fun q => { q with evq := es })).enterHandler p e.typ e.bytes none 0)
    else none

/-! The stream trap (R106, R107). -/

/-- The record of an entry in FAULT. -/
def State.faultRecord (s : State) (p n : Nat) (e : Entry) : StreamRec :=
  let gtc := (s.die (hostDie p)).gtc
  let base : StreamRec :=
    { spc := e.spc, cause := e.cause, sub := 0, kind := 1, entry := n, ftask := 0, nfault := e.trapped.length,
      ndone := e.bitmap.length, ntask := e.ntask, gtc := gtc, info := none }
  match e.trapped.foldl (fun b x => match b with
      | none => some x
      | some y => if x.1 < y.1 then some x else b) (none : Option (Nat × TrapInfo)) with
  | some (i, t) => { base with kind := 0, ftask := i, info := some t, cause := t.cause, sub := if t.cause = cTRANSLATE then t.sub else 0 }
  | none => base

/-- A stream trap record is written, and handed to the handler or the service: an event of TYPE 1. The DATA of that
event is left open (assumption 4). -/
def State.takeStreamTrap (s : State) (p : Nat) (r : StreamRec) (entry : Option Nat) : State :=
  let s := s.modPart p (fun q => { q with srec := some r, srecNew := true, sfe := { q.sfe with wait := .held } })
  if s.scheduled p && (s.part p).sfe.handler.isSome then
    (s.modPart p (fun q => { q with srecNew := false })).enterHandler p 1 (wordsBytes r.words) entry r.kind
  else
    let (w, s) := s.freeValue
    s.postEvent p 1 w

/-- The entry a stream trap holds. -/
def Part.heldEntry (q : Part) : Option (Nat × Entry) :=
  match q.live with
  | (n, e) :: _ => if e.st == .held then some (n, e) else none
  | [] => none

/-- Whether a stream trap waits for the service (R106, R108). -/
def Part.trapHeld (q : Part) : Bool := q.srec.isSome && q.sfe.wait == .held && q.sfe.hmode.isNone

/-- Deliver the logged events of a partition in log order (R315): a TYPE 1 event hands the record that waits to the
handler where one is set. -/
def State.deliverLog (s : State) (p : Nat) : State :=
  let l := (s.part p).evlog
  let s := s.modPart p (fun q => { q with evlog := [] })
  l.foldl (fun s e =>
    let q := s.part p
    match q.srec with
    | some r =>
      if e.typ = 1 && e.gen = q.pgen && q.srecNew && q.trapHeld && q.sfe.handler.isSome then
        (s.modPart p (fun q => { q with srecNew := false })).enterHandler p 1 (wordsBytes r.words) (q.heldEntry.map (·.1)) r.kind
      else s.modPart p (fun q => q.takeEvent e)
    | none => s.modPart p (fun q => q.takeEvent e)) s

/-- STREAM_TRAP (R106): the oldest entry in FAULT, or a trap of a scalar instruction once the window is empty. ENTRY of a
record that holds no entry, KIND 2 or 3, is 0 (assumption 44). -/
def State.streamTrap (s : State) (p : Nat) : State :=
  match (s.part p).live with
  | (n, e) :: younger =>
    if e.st == .fault && (s.part p).sfe.hmode.isNone && !(younger.length != 0 && s.linksHold) then
      let s := s.discardAll p true (younger.map (·.1))
      let s := s.modPart p (fun q =>
        { q with rename := q.committed, wcount := 1, sfe := { q.sfe with ctx := e.snap, wait := .held } })
      let r := s.faultRecord p n e
      (s.modEntry p n (fun e => { e with st := .held })).takeStreamTrap p r (some n)
    else s
  | [] =>
    match (s.part p).sfe.wait with
    | .trap kind cause sub spc _ =>
      s.takeStreamTrap p
        { spc := spc, cause := cause, sub := sub, kind := kind, entry := 0, ftask := 0, nfault := 0, ndone := 0,
          ntask := 0, gtc := (s.die (hostDie p)).gtc, info := none } none
    | _ => s

end Sys2Proof.Machine
end

