-- ==== Sys2Proof/Machine/Streams.lean ====
section
/-! DEFINITION. Stream instructions (R109 to R130): what each asks of the window, its static checks, its entry into the
window, and what an issued entry does. -/

namespace Sys2Proof.Machine

/-! Fields (R111, R118). -/

/-- MOD[23:16] of a stream instruction: LT, DST or NUM. -/
def ltHi (f : BaseF) : Nat := bitsNat f.mod 16 8
/-- MOD[15:8]: SRC. -/
def ltLo (f : BaseF) : Nat := bitsNat f.mod 8 8
/-- DMODE. -/
def dmode (f : BaseF) : Nat := bitsNat f.mod 6 2
/-- Acquire scope. -/
def acqOf (f : BaseF) : Nat := bitsNat f.mod 0 3
/-- Release scope. -/
def relOf (f : BaseF) : Nat := bitsNat f.mod 3 3

/-- The tensors a stream instruction names, with their modes, in list order (R112). -/
def namedTensors : Instr → List (Nat × Nat)
  | .tMap _ f tl _ => (tl.zipIdx).map (fun x => (x.1.toNat, bitsNat f.mod (9 + 2 * x.2) 2))
  | .tCopy _ f => [(ltLo f, 0), (ltHi f, dmode f)]
  | .tFill f => [(ltHi f, dmode f)]
  | .tRead f => [(ltHi f, 0)]
  | .tSend f => [(ltHi f, 0)]
  | .tRecv f => [(ltHi f, dmode f)]
  | _ => []

/-- GANG as a width: 0, 2 or 4. -/
def gangWidth (f : BaseF) : Nat := match bitsNat f.mod 6 2 with
  | 0 => 0 | 1 => 2 | _ => 4

/-- What a stream instruction asks for: the check that fails, its tensors before any buffer is drawn, the pools and
classes to draw from in the order of its fresh tensors, and its launch. -/
structure Plan where
  fault : Option (Nat × BitVec 6)
  tens : List ETensor
  fresh : List (Nat × Nat)
  visible : Bool
  ntask : Nat
  team : Nat
  gang : Nat
  kern : Nat
  early : Bool
  deriving Repr

/-- A plan of nothing. -/
def Plan.nothing : Plan :=
  { fault := none, tens := [], fresh := [], visible := false, ntask := 0, team := 0, gang := 0, kern := 0, early := false }

/-- A plan that fails a check. -/
def Plan.bad (cause : Nat) (ecode : BitVec 6) : Plan := { Plan.nothing with fault := some (cause, ecode) }

/-- The tensors of an instruction from the rename table, or none where one is unallocated or a view is to be drawn
afresh (R114). -/
def Part.tensors (q : Part) : List (Nat × Nat) → Option (List ETensor × List (Nat × Nat))
  | [] => some ([], [])
  | (lt, m) :: l =>
    match tget none q.rename lt, q.tensors l with
    | some t, some (ts, fr) =>
      if isFresh m && t.view then none
      else
        let x : ETensor :=
          { lt := lt, mode := m, desc := t.desc, view := t.view, srcPb := if t.view || m == 1 then none else some t.pb,
            dstPb := none, before := some t, after := none }
        some (x :: ts, if isFresh m then (t.home, t.cls) :: fr else fr)
    | _, _ => none

/-- The template at an address (R114): its record with SPACE 0, or the cause. -/
def State.template32 (s : State) (p : Nat) (w : Word) : Except (Nat × BitVec 6) (BitVec 256) × State :=
  if w.toNat % 32 ≠ 0 then (.error (cALIGN, 0), s)
  else
    match s.streamPath p w.toInt 32 Need.load with
    | .error c => (.error (c.code, BitVec.ofNat 6 c.ecode), s)
    | .ok x =>
      match s.readPath (some p) x 32 [.l2] with
      | (.error e, s) => (.error (cPOISON, e), s)
      | (.ok v, s) =>
        let b := BitVec.ofNat 256 v
        let d := Desc.of b
        if !d.valid || d.space = 1 || 65536 * 2 ^ 20 < d.footprint then (.error (cOPERAND, 0), s) else (.ok b, s)

/-- Whether a range overlaps the pool memory of a partition. -/
def Part.hitsPool (q : Part) (lo n : Nat) : Bool :=
  q.pbs.any (fun x => match x.2 with
    | some b => lo < x.1 + pbBytes b.cls && x.1 < lo + n
    | none => false)

/-- The static checks of `t.map` (R119). -/
def Part.mapChecks (q : Part) (na nt : Nat) (f : BaseF) (l : List (Nat × Nat)) (kern n t : Nat) : Bool :=
  let g := gangWidth f
  (match (q.obj.map (·.kernels)).bind (fun ks => ks.find? (fun k => k.addr = kern)) with
    | some k => k.ntens == nt && k.nargs == na
    | none => false)
    && 1 ≤ n && n ≤ 2 ^ 24 && (t == 0 || n % t == 0) && (g == 0 || (t != 0 && t % g == 0))
    && l.all (fun x => x.2 == 0 || (l.filter (fun y => y.1 == x.1)).length == 1)

/-- What an instruction asks of the window at decode, with the checks of R114 in the order of its table. -/
def State.planOf (s : State) (p : Nat) (i : Instr) (vals : List Word) : Plan × State :=
  let q := s.part p
  let v (n : Nat) : Word := (vals[n]?).getD 0
  let named := namedTensors i
  let opFault : Plan := Plan.bad cOPERAND 0
  let withTensors (k : List ETensor → Plan) : Plan :=
    match q.tensors named with
    | none => opFault
    | some (ts, fr) =>
      { k ts with
        tens := ts, fresh := fr,
        visible := (k ts).visible || ts.any (fun t => t.mode == 2 || (isDstMode t.mode && t.view)) }
  match i with
  | .tNew f =>
    let lt := ltHi f
    if (tget none q.rename lt).isSome then (opFault, s)
    else
      match s.template32 p (v 0) with
      | (.error (c, e), s) => (Plan.bad c e, s)
      | (.ok b, s) =>
        let home := bitsNat f.mod 12 4
        let cls := sizeClass (Desc.of b).footprint
        if (8 ≤ home && home ≤ 14) || !q.pools.contains (home, cls) then (opFault, s)
        else
          ({ Plan.nothing with
             tens := [{ lt := lt, mode := 1, desc := b, view := false, srcPb := none, dstPb := none, before := none,
                        after := some { desc := b, view := false, home := home, cls := cls, pb := 0 } }],
             fresh := [(home, cls)] }, s)
  | .tView f =>
    let lt := ltHi f
    if (tget none q.rename lt).isSome then (opFault, s)
    else
      match s.template32 p (v 0) with
      | (.error (c, e), s) => (Plan.bad c e, s)
      | (.ok b, s) =>
        let base := (v 1).toNat
        let n := (Desc.of b).footprint
        if q.hitsPool base n || 2 ^ 48 < base + n then (Plan.bad cPROT 0, s)
        else
          let b := setBase b base
          ({ Plan.nothing with
             tens := [{ lt := lt, mode := 4, desc := b, view := true, srcPb := none, dstPb := none, before := none,
                        after := some { desc := b, view := true, home := 0, cls := 0, pb := 0 } }] }, s)
  | .tFree f =>
    match tget none q.rename (ltHi f) with
    | none => (opFault, s)
    | some t =>
      ({ Plan.nothing with
         tens := [{ lt := ltHi f, mode := 5, desc := t.desc, view := t.view, srcPb := none, dstPb := none,
                    before := some t, after := none }] }, s)
  | .tMap na f _ _ =>
    let kern := (v 0).toNat
    let n := (v 1).toNat
    let t := (v 2).toNat
    if !q.mapChecks na.toNat f.ty.toNat f named kern n t then ({ opFault with ntask := n }, s)
    else
      ({ withTensors (fun _ =>
          { Plan.nothing with team := t, gang := gangWidth f, kern := kern, early := f.mod.getLsbD 8 }) with
         ntask := n }, s)
  | .tCopy _ _ =>
    (withTensors (fun ts =>
      match ts.map (fun t => Desc.of t.desc) with
      | [x, d] =>
        if x.n0 = d.n0 && x.n1 = d.n1 && x.n2 = d.n2 then Plan.nothing else opFault
      | _ => opFault), s)
  | .tFill _ => (withTensors (fun _ => Plan.nothing), s)
  | .tRead _ => (withTensors (fun _ => Plan.nothing), s)
  | .tSend _ =>
    if !(s.endpoints.any (fun e => e.handle == (v 0).toNat && e.part == p)) then (opFault, s)
    else (withTensors (fun _ => { Plan.nothing with visible := true }), s)
  | .tRecv _ =>
    if !(s.endpoints.any (fun e => e.handle == (v 0).toNat && e.part == p)) then (opFault, s)
    else (withTensors (fun _ => { Plan.nothing with visible := true }), s)
  | .tSignalAdd _ =>
    if (v 0).toNat % 8 ≠ 0 then (Plan.bad cALIGN 0, s) else ({ Plan.nothing with visible := true }, s)
  | .tSignalStore _ =>
    if (v 0).toNat % 8 ≠ 0 then (Plan.bad cALIGN 0, s) else ({ Plan.nothing with visible := true }, s)
  | .tWaitEq _ => if (v 0).toNat % 8 ≠ 0 then (Plan.bad cALIGN 0, s) else ({ Plan.nothing with visible := true }, s)
  | .tWaitNe _ => if (v 0).toNat % 8 ≠ 0 then (Plan.bad cALIGN 0, s) else ({ Plan.nothing with visible := true }, s)
  | .tWaitGe _ => if (v 0).toNat % 8 ≠ 0 then (Plan.bad cALIGN 0, s) else ({ Plan.nothing with visible := true }, s)
  | .tSvc _ => ({ Plan.nothing with visible := true }, s)
  | _ => (Plan.nothing, s)

/-! Into the window (R92, R96 to R99, R104). -/

/-- What the rename of an instruction answers: the entry is in the window; a stall (1 checkpoints, 2 window, 3 pool,
R104); or a KIND 3 trap (R96). -/
inductive Rename where
  | entered (s : State)
  | stall (cause : Nat)
  | noBuffers
  deriving Repr

/-- Give the fresh tensors of a plan their buffers. -/
def bindFresh : List ETensor → List Nat → List ETensor
  | [], _ => []
  | t :: ts, pbs =>
    if isFresh t.mode then
      match pbs with
      | [] => t :: bindFresh ts []
      | a :: as =>
        let d := setBase t.desc a
        let base : LTensor := match t.mode, t.before, t.after with
          | _, some b, _ => b
          | _, none, some x => x
          | _, none, none => { desc := t.desc, view := false, home := 0, cls := 0, pb := 0 }
        { t with desc := d, dstPb := some a, after := some { base with desc := d, pb := a } } :: bindFresh ts as
    else t :: bindFresh ts pbs

/-- The regions an entry records (R102), none when there would be more than eight. -/
def regionsOf (ts : List ETensor) : List Region × Bool :=
  let l := ts.filterMap (fun t =>
    if (t.view && t.mode ≤ 3) || t.mode == 2 then
      let r := tensorRange t.desc
      some { lo := r.1, hi := r.1 + r.2, write := isDstMode t.mode : Region }
    else none)
  if 8 < l.length then ([], true) else (l, false)

/-- The changes an entry makes to a table of logical tensors (R99, R100). -/
def applyTensors (t : Tab (Option LTensor)) (ts : List ETensor) : Tab (Option LTensor) :=
  ts.foldl (fun t x => if isFresh x.mode || 4 ≤ x.mode then tput none t x.lt x.after else t) t

/-- Rename an instruction into the window at the next free entry. `snap` is the stream's context at it. -/
def State.renameIn (s : State) (p : Nat) (i : Instr) (vals : List Word) (snap : Ctx) (dest : Nat) : Rename :=
  let (pl, s) := s.planOf p i vals
  let q := s.part p
  let ckpt := !pl.fresh.isEmpty && pl.fault.isNone
  if ckpt && 32 ≤ ((q.live).filter (·.2.ckpt)).length then .stall 1
  else if 128 ≤ q.wcount then .stall 2
  else
    match (if pl.fault.isSome then some ([], s) else s.drawPbs p (q.wcount == 0) pl.fresh) with
    | none => if q.wcount = 0 then .noBuffers else .stall 3
    | some (pbs, s) =>
      let ts := if pl.fault.isSome then [] else bindFresh pl.tens pbs
      let (rs, unb) := regionsOf ts
      let f := baseOf i
      let n := (q.whead + q.wcount) % 128
      let e : Entry :=
        { st := .wait, instr := i, uid := q.uids, spc := snap.vpc, len := lenOf i, dest := dest, args := vals, tens := ts,
          regions := rs, unbounded := unb, rel := relOf f, acq := acqOf f, visible := pl.visible, ntask := pl.ntask,
          team := pl.team, gang := pl.gang, kern := pl.kern, early := pl.early, bitmap := [], trapped := [], failed := [], redone := [],
          next := 0, out := [], trigs := [], issueFault := pl.fault, ecode := 0, cause := 0, stall := 0, ckpt := ckpt, snap := snap,
          ran := [], prog := 0, buf := [], got := false }
      let s := ts.foldl (fun s t => match t.mode, t.dstPb with
        | 1, some a => s.zeroVirt p a (pbBytes ((t.after.map (·.cls)).getD 0))
        | 3, some a => s.freshVirt p a (pbBytes ((t.after.map (·.cls)).getD 0))
        | _, _ => s) s
      let s := s.modPart p (fun q =>
        let q := ts.foldl (fun q t => match t.srcPb with
          | some a => q.modPb a (fun b => { b with reads := b.reads + 1 })
          | none => q) q
        { q with
          window := tput none q.window n (some e), wcount := q.wcount + 1, uids := q.uids + 1,
          rename := applyTensors q.rename ts })
      .entered s

/-- Past a stream instruction that has entered the window: a `t.read` has a position that waits for its value, a
`t.sync` stops the front end (R90, R125). -/
def Sfe.pastEntry (x : Sfe) (i : Instr) (len : Nat) : Sfe :=
  let kinds := kindsOf i
  { x with
    ctx := (x.ctx.push (pendings x.serials kinds)).advance len, serials := x.serials + kinds.length,
    wait := if isTSync i then .sync else .none }

/-- The operands of a stream instruction: A, B and C, then the ARGS words of `t.map`. -/
def streamOps (i : Instr) : List (Want × BitVec 8) :=
  match i with
  | .tMap _ _ _ args => opsOf i ++ args.map (fun sp => (Want.int, sp))
  | _ => opsOf i

/-- A stream instruction of OP 0xA0 to 0xAD (R90, R109): it is renamed into the window, or stalls, or traps for want of
buffers. In handler mode it ends the stream (R355). -/
def streamOp (i : Instr) (s : State) : Out :=
  withOps s .stream (streamOps i) (kindsOf i) (lenOf i) (fun a vs =>
    match a with
    | .sfe p =>
      let x := (s.part p).sfe
      if x.hmode.isSome then .next (s.modPart p (fun q => { q with sfe := { q.sfe with wait := .endStream badExit } }))
      else
        match s.renameIn p i (vs.map Val.word) x.ctx x.serials with
        | .stall _ => .next s
        | .noBuffers =>
          .next (s.modPart p (fun q => { q with sfe := { q.sfe with wait := .trap 3 cWAITBOUND 0 x.ctx.vpc 0 } }))
        | .entered s => .next (s.modPart p (fun q => { q with sfe := q.sfe.pastEntry i (lenOf i) }))
    | _ => .next s)

/-- Why a stream front end stalls now before renaming (R104): 1 checkpoints, 2 window, 3 pool. -/
def State.sfeStall (s : State) (p : Nat) : Option Nat :=
  let a : Agent := .sfe p
  if !s.canRun a || (s.part p).sfe.hmode.isSome then none
  else
    match s.look a with
    | .instr i =>
      let c := s.ctxOf a
      let ops := streamOps i
      let op := (opOf c.word).toNat
      if op < 0xA0 || 0xAD < op || !(ops.all (fun o => specOk c true o.1 o.2)) then none
      else
        match collect (ops.map (fun o => s.operand a c o.1 o.2)) with
        | .ok vs =>
          (match s.renameIn p i (vs.map Val.word) c 0 with
            | .stall n => some n
            | _ => none)
        | _ => none
    | _ => none

/-! Elements of tensors in device memory. -/

/-- Whether the access of a partition's stream entry to an address waits for a link (R347). -/
def State.streamHeldAt (s : State) (p va : Nat) : Bool :=
  !s.edges.isEmpty &&
    (match s.walk (s.ptRoot p) va with
      | .ok (pte, bits) => s.streamHeld p (leafPath pte bits va)
      | .error _ => false)

/-- Read element `n` of a tensor at the home L2: its bits, or the cause. -/
def State.readTensor (s : State) (p : Nat) (byte : Nat) (hi : Option Bool) (d : Desc) : Except Cause Nat × State :=
  match s.readVirt (s.ptRoot p) (some p) Need.load byte (elemBytes d.fmt) with
  | (.error c, s) => (.error c, s)
  | (.ok bs, s) =>
    let v := bytesToNat bs
    (.ok (match hi with
      | some true => v / 16
      | some false => v % 16
      | none => v), s)

/-- Write element `n` of a tensor at the home L2; an error reply of a home is the cause (R343, R351). -/
def State.writeTensor (s : State) (p : Nat) (d : Desc) (n v : Nat) : Except Cause Unit × State :=
  let (byte, hi) := d.place n
  match hi with
  | none => s.writeVirt (s.ptRoot p) (some p) Need.store byte (natToBytes (elemBytes d.fmt) v)
  | some h =>
    match s.xlate (s.ptRoot p) byte Need.store with
    | .error c => (.error c, s)
    | .ok x =>
      if s.refused x.home [.l2] then (.error { code := cPOISON, addr := byte, ecode := 1 }, s)
      else (.ok (), s.writeNibble (some p) x h v [.l2])

/-- Elements packed densely (R23, R128). -/
def packElems (ebits : Nat) (l : List Nat) : List Byte :=
  natToBytes (ceilDiv (l.length * ebits) 8) (l.foldr (fun v a => a * 2 ^ ebits + v % 2 ^ ebits) 0)

/-- Elements of a packed message. -/
def unpackElems (ebits n : Nat) (m : List Byte) : List Nat :=
  let v := bytesToNat m
  (List.range n).map (fun i => v / 2 ^ (ebits * i) % 2 ^ ebits)

/-- The 64-byte pieces of the update-fresh copies of an entry (R98): source, destination and length. -/
def Entry.pieces (e : Entry) : List (Nat × Nat × Nat) :=
  e.tens.flatMap (fun t =>
    match t.mode, t.srcPb, t.dstPb with
    | 3, some a, some b =>
      let n := (Desc.of t.desc).footprint
      (List.range (ceilDiv n 64)).map (fun i => (a + 64 * i, b + 64 * i, min 64 (n - 64 * i)))
    | _, _, _ => [])

/-- Copy one piece. -/
def State.copyPiece (s : State) (p : Nat) (x : Nat × Nat × Nat) : Except Cause Unit × State :=
  match s.readVirt (s.ptRoot p) (some p) { Need.load with r := false, user := false } x.1 x.2.2 with
  | (.error c, s) => (.error c, s)
  | (.ok bs, s) => s.writeVirt (s.ptRoot p) (some p) { Need.store with w := false, user := false } x.2.1 bs

/-- The cause an error of an engine's access faults an entry with (R343). -/
def engineFault (c : Cause) : Nat × BitVec 6 :=
  if c.code = cPOISON then (cERRBIT, BitVec.ofNat 6 c.ecode) else (c.code, BitVec.ofNat 6 c.ecode)

/-! Placing groups (R119, R135). -/

/-- Disjoint gang runs of width `w` in a row whose fit cores are given west to east. -/
def runsIn (w : Nat) : List Bool → Nat → Nat
  | [], k => k / w
  | b :: l, k => if b then runsIn w l (k + 1) else k / w + runsIn w l 0

/-- How many disjoint gang runs of width `w` the ownership of a partition holds. -/
def State.gangRuns (s : State) (p w : Nat) : Nat :=
  ((List.range 32).map (fun r =>
    runsIn w ((List.range 4).map (fun c => s.ownsCore p (4 * r + c) && s.ownsSect p (4 * r + c))) 0)).sum

/-- The ownership checks of R119. -/
def State.placeable (s : State) (p : Nat) (e : Entry) : Bool :=
  e.team = 0 || (e.team ≤ s.coresOwned p && (e.gang = 0 || e.team / e.gang ≤ s.gangRuns p e.gang))

/-- Whether a task index has still to be sent: a whole group where one of its tasks is absent (R108). -/
def Entry.wants (e : Entry) (i : Nat) : Bool :=
  if e.team = 0 then !tget false e.bitmap i
  else (List.range e.team).any (fun j => !tget false e.bitmap (i / e.team * e.team + j))

/-- The lowest task index from `i` that has to be sent, looking at `k` indices. -/
def Entry.nextFrom (e : Entry) (i : Nat) : Nat → Option Nat
  | 0 => none
  | k + 1 => if e.wants i then some i else e.nextFrom (i + 1) k

/-- How many tasks of an entry have completed: those with their bit, and those that Complete has run again (R92, R340). -/
def Entry.finished (e : Entry) : Nat := e.bitmap.length + (e.redone.filter (fun i => !tget false e.bitmap i)).length

/-- The next task to send. -/
def Entry.unsent (e : Entry) : Option Nat := e.nextFrom e.next (e.ntask - e.next)

/-- Whether an issued entry has tasks to send (R133). -/
def Entry.hasUnsent (e : Entry) : Bool := e.st == .issued && e.ntask != 0 && e.unsent.isSome

/-- Whether an entry's tasks are to be dispatched: its update-fresh copies are done, and no task has trapped (R92, R98). -/
def Entry.dispatches (e : Entry) : Bool :=
  e.hasUnsent && e.issueFault.isNone && e.trapped.isEmpty && e.pieces.length ≤ e.prog

/-- Whether a task of an entry waits in a transfer or a ready queue. -/
def State.inTransit (s : State) (p uid : Nat) : Bool :=
  s.xfer.any (fun b => b.part == p && b.tasks.any (fun r => r.uid == uid))
    || (List.range 8).any (fun d => (tget [] (s.die d).ready p).any (fun r => r.uid == uid))

/-! What an issued entry does. -/

/-- What the action of an issued entry answers. -/
inductive Work where
  | wait
  | done (s : State)
  | fault (s : State) (cause : Nat) (ecode : BitVec 6)
  deriving Repr

/-- Element conversion of `t.copy` (R121). -/
def tCopyVal (fn : BitVec 4) (f : BaseF) (x d : Desc) (v : Nat) : Nat :=
  if x.fmt = d.fmt then v
  else
    cvtTo d.fmt (fn.getLsbD 3) (rmOf (bitsNat fn 0 3)) 0 (f.ty.getLsbD 0) (f.ty.getLsbD 1)
      (numOf x.fmt (fn.getLsbD 3) (f.ty.getLsbD 1) v)

/-- The condition of `t.wait` (R130). -/
def tWaitHolds (i : Instr) (w v : Nat) : Bool :=
  match i with
  | .tWaitEq _ => w == v
  | .tWaitNe _ => w != v
  | .tWaitGe _ => decide (v ≤ w)
  | _ => false

/-- The work of an issued entry (R112): done, faulted, or still to come. A `t.svc` and a `t.send` are ended by the
system call and by the delivery service; a `t.recv` whose endpoint is closed while it waits faults with OPERAND at once
(assumption 44). -/
def State.work (s : State) (p : Nat) (e : Entry) : Work :=
  let v (k : Nat) : Word := (e.args[k]?).getD 0
  let t (k : Nat) : Desc := Desc.of (((e.tens[k]?).map (·.desc)).getD 0)
  match e.issueFault with
  | some (c, ec) => if e.out.isEmpty then .fault s c ec else .wait
  | none =>
    match e.instr with
    | .tMap _ _ _ _ =>
      if !e.out.isEmpty then .wait
      else
        match e.trapped with
        | (_, i) :: _ => .fault s i.cause (BitVec.ofNat 6 i.ecode)
        | [] =>
          if e.prog < e.pieces.length then .wait
          else if (e.unsent.isSome || s.inTransit p e.uid) && !s.placeable p e then .fault s cOPERAND 0
          else if e.unsent.isNone && !s.inTransit p e.uid && e.finished = e.ntask then .done s
          else .wait
    | .tCopy _ _ => if (t 1).elems ≤ e.prog then .done s else .wait
    | .tFill _ => if (t 0).elems ≤ e.prog then .done s else .wait
    | .tRead _ =>
      (match (t 0).locate (v 0).toInt (v 1).toInt (v 2).toInt false with
        | .bounds => .fault s cBOUNDS 0
        | .at b hi =>
          (match s.readTensor p b hi (t 0) with
            | (.error c, s) => .fault s (engineFault c).1 (engineFault c).2
            | (.ok x, s) => .done (s.sfeDeliver p e.dest (.scalar (BitVec.ofNat 64 x))))
        | _ => .done (s.sfeDeliver p e.dest (.scalar 0)))
    | .tSignalAdd _ =>
      (match s.streamPath p (v 0).toInt 8 Need.both with
        | .error c => .fault s (engineFault c).1 (engineFault c).2
        | .ok x =>
          match s.readPath (some p) x 8 [.l2] with
          | (.error e, s) => .fault s cERRBIT e
          | (.ok w, s) => .done (s.writeHeld x 8 ((w + (v 1).toNat) % 2 ^ 64) [.l2]))
    | .tSignalStore _ =>
      (match s.streamPath p (v 0).toInt 8 Need.both with
        | .error c => .fault s (engineFault c).1 (engineFault c).2
        | .ok x => if s.refused x.home [.l2] then .fault s cERRBIT 1 else .done (s.writePath (some p) x 8 (v 1).toNat [.l2]))
    | .tSvc f => if ltHi f = 0 then .done s else if 16 ≤ ltHi f then .fault s cSVC 0 else .wait
    | .tSend _ => .wait
    | .tRecv _ =>
      if e.got then (if (t 0).elems ≤ e.prog then .done s else .wait)
      else if s.endpoints.any (fun x => x.handle == (v 0).toNat && x.part == p) then .wait
      else .fault s cOPERAND 0
    | .tFence _ => .done s
    | .tSync _ => .done s
    | .tNew _ => .done s
    | .tFree _ => .done s
    | .tView _ => .done s
    | i =>
      if isTWait i then
        (match s.streamPath p (v 0).toInt 8 Need.load with
          | .error c => .fault s (engineFault c).1 (engineFault c).2
          | .ok x =>
            match s.readPath (some p) x 8 [.l2] with
            | (.error e, s) => .fault s cERRBIT e
            | (.ok w, s) => if tWaitHolds i w (v 1).toNat then .done s else .wait)
      else .done s

/-- Whether the one access of an entry waits for a link (R347). -/
def State.entryHeld (s : State) (p : Nat) (e : Entry) : Bool :=
  let v (k : Nat) : Word := (e.args[k]?).getD 0
  match e.instr with
  | .tRead _ =>
    (match (Desc.of (((e.tens[0]?).map (·.desc)).getD 0)).locate (v 0).toInt (v 1).toInt (v 2).toInt false with
      | .at b _ => s.streamHeldAt p b
      | _ => false)
  | .tSignalAdd _ => s.streamHeldAt p (v 0).toNat
  | .tSignalStore _ => s.streamHeldAt p (v 0).toNat
  | i => isTWait i && s.streamHeldAt p (v 0).toNat

/-- The bound of a `t.recv` or `t.wait`, as an exponent (R129). -/
def windowBound (i : Instr) : Option Nat :=
  match i with
  | .tRecv f => some (boundOf (bitsNat f.mod 11 5) 0)
  | .tWaitEq f => some (boundOf (bitsNat f.mod 11 5) 0)
  | .tWaitNe f => some (boundOf (bitsNat f.mod 11 5) 0)
  | .tWaitGe f => some (boundOf (bitsNat f.mod 11 5) 0)
  | _ => none

/-- Whether a wait of an entry has passed its bound: nothing satisfies it any more (R129, R130). -/
def Entry.late (e : Entry) : Bool := !e.got && ((windowBound e.instr).map (fun b => decide (2 ^ b < e.stall))).getD false

/-- Whether the wait of a `t.recv` or a `t.wait` is not satisfied yet (R129, R130). -/
def State.unmet (s : State) (p : Nat) (e : Entry) : Bool :=
  match e.instr with
  | .tRecv _ =>
    !e.got && !(s.endpoints.any (fun x => x.handle == ((e.args[0]?).getD 0).toNat && x.part == p && !x.queue.isEmpty))
  | _ =>
    match s.work p e with
    | .wait => true
    | _ => false

/-- The next element of an entry's work is read (R121, R128): a `t.send` whose last element it is sends its message, also
where its endpoint has been closed since its rename (assumption 44). -/
def State.readNext (s : State) (p n : Nat) (e : Entry) : State :=
  let d := Desc.of (((e.tens[0]?).map (·.desc)).getD 0)
  if d.elems ≤ e.buf.length then s
  else
    let (byte, hi) := d.place e.buf.length
    if s.streamHeldAt p byte then s
    else
    match s.readTensor p byte hi d with
    | (.error c, s) => s.modEntry p n (fun e => { e with issueFault := some (engineFault c) })
    | (.ok v, s) =>
      let buf := e.buf ++ [v]
      let s := s.modEntry p n (fun e => { e with buf := buf })
      match e.instr with
      | .tSend _ =>
        if buf.length < d.elems then s
        else { s with outbox := s.outbox ++ [(p * 128 + n, ((e.args[0]?).getD 0).toNat, packElems d.ebits buf)] }
      | _ => s

/-- Write element `e.prog` of a tensor of an entry. -/
def State.writeNext (s : State) (p n : Nat) (e : Entry) (d : Desc) (v : Nat) : State :=
  if d.elems ≤ e.prog || s.streamHeldAt p (d.place e.prog).1 then s
  else
    match s.writeTensor p d e.prog v with
    | (.error c, s) => s.modEntry p n (fun e => { e with issueFault := some (engineFault c) })
    | (.ok _, s) => s.modEntry p n (fun e => { e with prog := e.prog + 1 })

/-- A `t.recv` takes the next message of its endpoint (R129): one of another length is dropped; none is taken past the bound. -/
def State.takeMsg (s : State) (p n : Nat) (e : Entry) (d : Desc) : State :=
  if e.late then s
  else
  match s.endpoints.find? (fun x => x.handle == ((e.args[0]?).getD 0).toNat && x.part == p) with
  | none => s
  | some x =>
    match x.queue with
    | [] => s
    | m :: ms =>
      let s := { s with endpoints := s.endpoints.map (fun (y : Endpoint) => if y.handle = x.handle then { y with queue := ms } else y) }
      if m.length ≠ ceilDiv (d.elems * d.ebits) 8 then
        s.modEntry p n (fun e => { e with got := true, issueFault := some (cOPERAND, 0) })
      else s.modEntry p n (fun e => { e with got := true, buf := unpackElems d.ebits d.elems m })

/-- The copy engines of a partition move one element of the work of an issued entry (R98, R112, R121, R122, R128, R129):
they write the next one, or read the next one. Where source and destination share bytes every element is read before any
is written. -/
def State.advance (s : State) (p n : Nat) (write : Bool) : State :=
  match s.entry p n with
  | none => s
  | some e =>
    if e.st != .issued || e.issueFault.isSome || (s.die (hostDie p)).holdStop then s
    else
      let t (k : Nat) : BitVec 256 := ((e.tens[k]?).map (·.desc)).getD 0
      match e.instr with
      | .tMap _ _ _ _ =>
        (match e.pieces[e.prog]? with
          | none => s
          | some x =>
            if s.streamHeldAt p x.1 || s.streamHeldAt p x.2.1 then s
            else
            match s.copyPiece p x with
            | (.error c, s) => s.modEntry p n (fun e => { e with issueFault := some (engineFault c) })
            | (.ok _, s) => s.modEntry p n (fun e => { e with prog := e.prog + 1 }))
      | .tCopy fn f =>
        let (src, dst) := (Desc.of (t 0), Desc.of (t 1))
        if !write then s.readNext p n e
        else
          let shared := src.base < dst.base + dst.footprint && dst.base < src.base + src.footprint
          (match e.buf[e.prog]? with
            | some v => if shared && e.buf.length < src.elems then s else s.writeNext p n e dst (tCopyVal fn f src dst v)
            | none => s)
      | .tFill _ =>
        let d := Desc.of (t 0)
        s.writeNext p n e d (((e.args[0]?).getD 0).toNat % 2 ^ d.ebits)
      | .tSend _ => s.readNext p n e
      | .tRecv _ =>
        let d := Desc.of (t 0)
        if !e.got then s.takeMsg p n e d
        else (match e.buf[e.prog]? with
          | some v => s.writeNext p n e d v
          | none => s)
      | _ => s

/-- An entry goes to FAULT (R92): the tasks that have not started are not started. -/
def State.toFault (s : State) (p n : Nat) (e : Entry) (cause : Nat) (ecode : BitVec 6) : State :=
  let s := s.purge p e.uid
  let s := s.modPart p (fun q => q.dropReads e)
  s.modEntry p n (fun e => { e with st := .fault, cause := cause, ecode := ecode })

/-- An entry goes to DONE (R92, R103): its release, the line that a signal at system scope writes to HBM (R126), then its read
counts. -/
def State.toDone (s : State) (p n : Nat) (e : Entry) : State :=
  let s := if wholeScope e.instr then s else s.entryRelease p e
  let s := if isTWait e.instr then s.entryAcquire p e else s
  let s := match e.instr with
    | .tSignalAdd _ => if e.rel = 4 then s.releaseRuns [] 4 (s.physRuns p (((e.args[0]?).getD 0).toNat / 128 * 128) 128) else s
    | .tSignalStore _ => if e.rel = 4 then s.releaseRuns [] 4 (s.physRuns p (((e.args[0]?).getD 0).toNat / 128 * 128) 128) else s
    | _ => s
  let s := s.modPart p (fun q => q.dropReads e)
  s.modEntry p n (fun e => { e with st := .done })

/-- Whether an entry can issue now (R93, R119). -/
def State.issuable (s : State) (p n : Nat) (e : Entry) : Bool :=
  e.st == .wait && e.issueFault.isNone && canIssue ((s.part p).olderThan n) e && s.placeable p e

/-- ENTRY_ISSUE (R93, R120): the oldest that can issue does; the release that comes before the action of a synchronising
instruction, and the acquire. -/
def State.issue (s : State) (p n : Nat) : State :=
  match s.entry p n with
  | none => s
  | some e =>
    if (s.die (hostDie p)).holdStop || !s.issuable p n e || (wholeScope e.instr && s.entryWaits e)
        || (((s.part p).live).takeWhile (fun x => x.1 != n)).any (fun x => s.issuable p x.1 x.2) then s
    else
      let s := if wholeScope e.instr then s.entryRelease p e else s
      let s := if isTWait e.instr then s else s.entryAcquire p e
      s.modEntry p n (fun e => { e with st := .issued })

/-- ENTRY_DONE (R92). A die that a warm reset quiesces makes no access for its streams (R351). -/
def State.entryDone (s : State) (p n : Nat) : State :=
  match s.entry p n with
  | none => s
  | some e =>
    if e.st != .issued || (s.die (hostDie p)).holdStop || (isTWait e.instr && e.late) || s.entryHeld p e || s.entryWaits e then s
    else
      match s.work p e with
      | .done s => (match s.entry p n with
          | some e => s.toDone p n e
          | none => s)
      | _ => s

/-- ENTRY_FAULT (R92): an issue check fails, or an issued entry cannot complete. -/
def State.entryFault (s : State) (p n : Nat) : State :=
  match s.entry p n with
  | none => s
  | some e =>
    if e.st == .wait then
      match e.issueFault with
      | some (c, ec) => s.toFault p n e c ec
      | none =>
        if canIssue ((s.part p).olderThan n) e && !s.placeable p e then s.toFault p n e cOPERAND 0 else s
    else if e.st == .issued && !(s.die (hostDie p)).holdStop && !s.entryHeld p e then
      match s.work p e with
      | .fault s c ec => s.toFault p n e c ec
      | _ => s
    else s

/-- WINDOW_WAIT_BOUND_PASSED (R129): a wait that has passed its bound faults its entry, no message taken. -/
def State.entryExpire (s : State) (p n : Nat) : State :=
  match s.entry p n with
  | none => s
  | some e => if e.st == .issued && e.late then s.toFault p n e cWAITBOUND 0 else s

/-- What an entry that waits must do in the clk that has come: fault past its bound, or read its word again, every 256 clk and
at its bound (R129, R130). -/
def State.entryNow (s : State) (p n : Nat) : State :=
  match s.entry p n with
  | none => s
  | some e =>
    if e.st != .issued || !s.scheduled p then s
    else if e.late then s.entryExpire p n
    else if isTWait e.instr && (e.stall % 256 = 0 || (windowBound e.instr).any (fun b => e.stall = 2 ^ b)) then s.entryDone p n
    else s

/-- Whether a clk counts against the bound of an entry: a `t.wait` that has not read its word satisfied, a `t.recv` for which no
message waits (R129, R130). -/
def State.entryCounts (s : State) (p : Nat) (e : Entry) : Bool :=
  e.st == .issued &&
    (match e.instr with
      | .tRecv _ => s.unmet p e
      | i => isTWait i)

/-- The clk that may pass before `entryNow` has something to do. -/
def State.entryDue (s : State) (p : Nat) : List Nat :=
  if !s.scheduled p then []
  else
    ((s.part p).live).flatMap (fun x =>
      let e := x.2
      match windowBound e.instr with
      | none => []
      | some b =>
        if !s.entryCounts p e then []
        else
          let left := if e.stall ≤ 2 ^ b then [2 ^ b + 1 - e.stall] else []
          if isTWait e.instr then (256 - e.stall % 256) :: (if e.stall < 2 ^ b then [2 ^ b - e.stall] else []) ++ left else left)

/-- The changes an entry publishes (R100, R116): each fresh destination's buffer becomes MAPPED and the one before it
UNMAPPED. -/
def Part.publish (q : Part) (e : Entry) : Part :=
  e.tens.foldl (fun q t =>
    if isFresh t.mode || 4 ≤ t.mode then
      let old := tget none q.committed t.lt
      let q := { q with committed := tput none q.committed t.lt t.after }
      let q := match t.dstPb with
        | some a => q.modPb a (fun b => { b with st := .mapped })
        | none => q
      match old with
      | some o => if o.view then q else q.unmapPb o.pb
      | none => q
    else q) q

/-- ENTRY_RETIRE (R106, R340): the oldest entry retires from DONE. A `t.svc 0` ends the stream (R127). -/
def State.retireEntry (s : State) (p : Nat) : State :=
  match (s.part p).live with
  | (n, e) :: _ =>
    if e.st != .done then s
    else
      let s := s.modPart p (fun q =>
        let q := q.publish e
        { q with
          window := tput none q.window n none, whead := (n + 1) % 128, wcount := q.wcount - 1,
          sfe := if isTSync e.instr && q.sfe.wait == .sync then { q.sfe with wait := .none } else q.sfe })
      match e.instr with
      | .tSvc f => if ltHi f = 0 then s.endStream p ((e.args[0]?).getD 0) else s
      | _ => s
  | [] => s

/-! Taking a stream on (R108, R356). -/

/-- Put the stream's context back to a held entry's instruction. -/
def State.backTo (s : State) (p : Nat) (c : Ctx) : State :=
  s.modPart p (fun q => { q with srec := none, srecNew := false, sfe := { q.sfe with ctx := c, wait := .none, hmode := none } })

/-- Whether Complete is legal (R108). -/
def canComplete (r : StreamRec) (e : Entry) : Bool := r.kind == 0 && !(e.tens.any (fun t => t.mode == 3))

/-- Complete (R108): the tasks absent from the bitmap are dispatched again; the sources are renamed from the committed
map. -/
def State.completeEntry (s : State) (p n : Nat) (e : Entry) : State :=
  let q := s.part p
  let ts := e.tens.map (fun t =>
    if isSrcMode t.mode || t.mode == 2 then
      match tget none q.committed t.lt with
      | some x => { t with desc := x.desc, srcPb := if x.view then none else some x.pb, before := some x }
      | none => t
    else t)
  let s := s.backTo p e.snap
  let s := s.modPart p (fun q =>
    let q := ts.foldl (fun q t => match t.srcPb with
      | some a => q.modPb a (fun b => { b with reads := b.reads + 1 })
      | none => q) q
    { q with rename := applyTensors q.rename ts })
  let s := s.modEntry p n (fun e =>
    { e with st := .wait, tens := ts, trapped := [], redone := [], next := 0, out := [], trigs := e.bitmap, issueFault := none,
             cause := 0, ecode := 0 })
  s.modPart p (fun q => { q with sfe := q.sfe.pastEntry e.instr e.len })

/-- Restart (R108): the entry's buffers go back, and the instruction is renamed again at the same entry. -/
def State.restartEntry (s : State) (p n : Nat) (e : Entry) : State :=
  let s := (s.discard p n false).backTo p e.snap
  let s := s.modPart p (fun q => { q with whead := n, wcount := 0 })
  let dest := (s.part p).sfe.serials
  match s.renameIn p e.instr e.args e.snap dest with
  | .entered s => s.modPart p (fun q => { q with sfe := q.sfe.pastEntry e.instr e.len })
  | _ =>
    s.modPart p (fun q => { q with sfe := { q.sfe with wait := .trap 3 cWAITBOUND 0 e.spc 0 } })

/-- The service or the handler takes the stream on: 1 Complete, 2 Restart, anything else Kill. -/
def State.takeOn (s : State) (p choice : Nat) : State :=
  let q := s.part p
  match q.srec with
  | none => s
  | some r =>
    match q.heldEntry with
    | some (n, e) =>
      if choice = 1 && canComplete r e then s.completeEntry p n e
      else if choice = 2 then s.restartEntry p n e
      else s.endStream p badExit
    | none =>
      if choice = 2 then
        s.backTo p (match q.sfe.hmode with
          | some h => h.kept
          | none => q.sfe.ctx)
      else s.endStream p badExit

/-- A `ret` that pops the handler mark (R356): `v` is the one scalar it carries. -/
def State.handlerReturn (s : State) (p : Nat) (v : Option Word) : State :=
  match (s.part p).sfe.hmode, v with
  | some h, some w =>
    if h.typ = 1 then s.takeOn p w.toNat
    else s.modPart p (fun q => { q with sfe := { q.sfe with ctx := h.kept, hmode := none } })
  | _, _ => s.modPart p (fun q => { q with sfe := { q.sfe with wait := .endStream badExit } })

end Sys2Proof.Machine
end

