-- ==== Sys2Proof/Machine/Placing.lean ====
section
/-! DEFINITION. Placement (R131 to R137): the ownership registers, the global dispatcher, the die dispatchers, and the
start of a task (R16, R84, R160). -/

namespace Sys2Proof.Machine

/-- Replace the OWN register of a partition for a die. -/
def State.setOwn (s : State) (p d : Nat) (v : Word) : State := s.modPart p (fun q => { q with own := tput 0 q.own d v })

/-- Whether a value of OWN names a core or a sector that another partition owns (R132). -/
def State.ownClash (s : State) (p d : Nat) (v : Word) : Bool :=
  (List.range 16).any (fun q => q != p && (s.own q d &&& v) != 0)

/-- The dies a core may be owned on while the service is reduced (R365). -/
def State.ownLegal (s : State) (p d : Nat) (v : Word) : Bool :=
  v.toNat < 2 ^ 32 && !s.ownClash p d v && (v == 0 || !s.reduced || (s.die d).admitted)

/-- Whether a user core is reserved for a task of a group (R135). -/
def State.reserved (s : State) (g : Nat) : Bool :=
  s.xfer.any (fun b => b.tasks.any (fun r => r.core == some g))
    || (s.die (dieOf g)).ready.any (fun x => x.2.any (fun r => r.core == some g))

/-- Whether a user core is idle and takes a task: neither one under `ctx.scrub` (R318) nor one that a freeze of its sectors
stops (R325) does. -/
def State.takesTask (s : State) (g : Nat) : Bool :=
  (s.core g).cstate == .idle && !(s.core g).iced && !(s.die (dieOf g)).holdStop && !s.scrubbing g

/-- Whether a user core takes a task, is owned in CORES and not reserved. -/
def State.coreFree (s : State) (p g : Nat) : Bool := s.takesTask g && s.ownsCore p g && !s.reserved g

/-- Free slots of a ready queue (R136). -/
def State.freeSlots (s : State) (p d : Nat) : Nat := 64 - (tget [] (s.die d).ready p).length

/-- The first `k` tasks an entry has to send, and the index after them. -/
def Entry.take (e : Entry) : Nat → List Nat × Nat
  | 0 => ([], e.next)
  | k + 1 =>
    match e.unsent with
    | none => ([], e.next)
    | some i =>
      let r := ({ e with next := i + 1 } : Entry).take k
      (i :: r.1, r.2)

/-- Cores for the runs of a group (R135): each run is `w` free cores side by side in a die row, lowest first. -/
def gangPick (free : Nat → Bool) (w : Nat) : Nat → Nat → List Nat
  | _, 0 => []
  | g, fuel + 1 =>
    if g % 4 + w ≤ 4 && (List.range w).all (fun i => free (g + i)) then
      (List.range w).map (g + ·) ++ gangPick free w (g + w) fuel
    else gangPick free w (g + 1) fuel

/-- The cores a group reserves, in the order of its tasks, or none (R135). -/
def State.groupCores (s : State) (p : Nat) (e : Entry) : Option (List Nat) :=
  let l :=
    if e.gang = 0 then (List.range 128).filter (fun g => s.coreFree p g)
    else gangPick (fun g => g < 128 && s.coreFree p g && s.ownsSect p g) e.gang 0 128
  if e.team ≤ l.length then some (l.take e.team) else none

/-- Serve a stream (R133 to R135): the transfers it makes, or none. The batches of a group that have not been sent come
first, one at a selection. -/
def State.serve (s : State) (p : Nat) : Option State :=
  let q := s.part p
  match s.xfer.find? (·.part == p) with
  | some b => some { s with xfer := b :: s.xfer.erase b, sending := true }
  | none =>
  match q.live.find? (fun x => x.2.hasUnsent) with
  | none => none
  | some (n, e) =>
    let note (s : State) (k : Nat) : State := s.modEntry p n (fun e => { e with next := k })
    if !e.dispatches then none
    else if e.team = 0 then
      match ((List.range 8).map (fun i => (q.lastDie + 1 + i) % 8)).find? (fun d =>
          (List.range 16).any (fun c => s.ownsCore p (d * 16 + c)) && 1 ≤ s.freeSlots p d) with
      | none => none
      | some d =>
        let (ids, k) := e.take (min 64 (s.freeSlots p d))
        let s := note (s.modPart p (fun q => { q with lastDie := d })) k
        let b : Batch :=
          { part := p, die := d, tasks := ids.map (fun i => { entry := n, uid := e.uid, idx := i, core := none }) }
        some { s with xfer := b :: s.xfer, sending := true }
    else
      match e.unsent, s.groupCores p e with
      | some i, some cores =>
        let base := i / e.team * e.team
        let tasks := (cores.zipIdx).map (fun x =>
          ({ entry := n, uid := e.uid, idx := base + x.2, core := some x.1 } : Ready))
        let bs := (List.range 8).filterMap (fun d =>
          let ts := tasks.filter (fun t => (t.core.map dieOf) == some d)
          if ts.isEmpty then none else some ({ part := p, die := d, tasks := ts } : Batch))
        if bs.all (fun b => b.tasks.length ≤ s.freeSlots p b.die) then
          let s := s.modPart p (fun q => { q with lastDie := (bs.getLast?.map (·.die)).getD q.lastDie })
          some { note s (base + e.team) with xfer := bs ++ s.xfer, sending := true }
        else none
      | _, _ => none

/-- Priority class of a partition (R311). -/
def State.prio (s : State) (p : Nat) : Nat := bitsNat (s.part p).psched 20 2

/-- The partitions in the order the global dispatcher tries them (R133): by class, round-robin within a class. -/
def State.serveOrder (s : State) : List Nat :=
  (List.range 4).flatMap (fun c =>
    let last := tget 0 s.lastPart c
    ((List.range 16).map (fun i => (last + i) % 16)).filter (fun p => s.prio p = c && s.scheduled p))

/-- The first of some partitions that can be served. -/
def State.serveFirst (s : State) : List Nat → State
  | [] => s
  | p :: ps =>
    match s.serve p with
    | some t => { t with lastPart := tput 0 t.lastPart (s.prio p) ((p + 1) % 16) }
    | none => s.serveFirst ps

/-- GLOBAL_DISPATCH (R133): with no transfer in progress a stream is selected for each batch, also between the batches of a
group: a batch waits behind one in transfer at most (R19). -/
def execGlobalDispatch (s : State) : Out := if s.sending then .next s else .next (s.serveFirst s.serveOrder)

/-- BATCH_ARRIVAL (R134): the transfer in progress ends. -/
def execBatchArrival (s : State) : Out :=
  match s.xfer with
  | [] => .next { s with sending := false }
  | b :: bs =>
    if !s.sending then .next s
    else
      .next ({ s with xfer := bs, sending := false }.modDie b.die (fun x =>
        { x with ready := tput [] x.ready b.part (tget [] x.ready b.part ++ b.tasks) }))

/-- Start task `i` of entry `n` on an idle core (R16, R53, R55, R84, R160). The core's own sector, unless it is frozen (R325),
loses its valid bits; the lines of the local-store cache for which its units leave no room are written back (R250). -/
def State.startTask (s : State) (p g n i : Nat) (e : Entry) : State :=
  let q := s.part p
  let k : Option Kernel := (q.obj.map (·.kernels)).bind (fun ks => ks.find? (fun k => k.addr = e.kern))
  let pad : Nat := (k.map (fun (x : Kernel) => x.initpad)).getD 0
  let bnd (f : Kernel → Nat) : Nat := (k.map f).getD 0
  let s := if 24 ≤ pad then s.flushAll (.lsc g) else s
  let s := if (s.sector g).frozen then s else s.setSector g { s.sector g with acc0 := [], acc1 := [], lats := [] }
  let seed (j : Nat) : BitVec 32 := srSeed (q.seed.toNat) i j
  let args := (e.args.drop 3).map (fun w => Slot.ready (.scalar w))
  let s := s.modCore g (fun c =>
    { Core.reset with
      cstate := .run, part := p,
      task := some { entry := n, uid := e.uid, idx := i, count := e.ntask, kern := e.kern, early := e.early, rel := e.rel,
                     bpush := bnd (·.bpush), bchan := bnd (·.bchan), bsleep := bnd (·.bsleep), bbar := bnd (·.bbar),
                     bflag := bnd (·.bflag) },
      ctx := Ctx.reset.enterBlock e.kern args, slots := tputs 0 [] 0 (e.tens.map (·.desc)), padUnits := pad,
      srv := seed 0, srm := seed 1, src := seed 2, lastTime := c.lastTime, errinj := c.errinj, serials := c.serials, cres := c.cres,
      seq := c.seq, lsc := c.lsc, tlb := if c.part = p then c.tlb else [] })
  let s := s.shrinkStore g (s.cachedSecs (.lsc g)).length
  s.modEntry p n (fun e => { e with out := e.out ++ [i], ran := if e.ran.contains g then e.ran else e.ran ++ [g] })

/-- TASK_START (R136, R20): the idle core in focus takes the task at the head of the ready queue of the partition that
owns it; the lowest-numbered idle core does so. A task whose entry takes no more tasks is not started (R92). A task of a group
whose reserved core the partition no longer owns stays at the head of its queue (assumption 46). -/
def execTaskStart (s : State) : Out :=
  match s.focus with
  | .core g =>
    let d := dieOf g
    match (if isSvc g then none else (List.range 16).find? (fun p => s.ownsCore p g)) with
    | none => .next s
    | some p =>
      match tget [] (s.die d).ready p with
      | [] => .next s
      | t :: ts =>
        let pop (s : State) : State := s.modDie d (fun x => { x with ready := tput [] x.ready p ts })
        match s.entry p t.entry with
        | none => .next (pop s)
        | some e =>
          if e.uid != t.uid || e.st != .issued || !e.trapped.isEmpty then .next (pop s)
          else
            let taker := match t.core with
              | some h => some h
              | none => ((List.range 16).map (d * 16 + ·)).find? (fun h => s.coreFree p h)
            if s.scheduled p && taker == some g && s.takesTask g then
              .next ((pop s).startTask p g t.entry t.idx e)
            else .next s
  | _ => .next s

/-- OWN_WRITE (R132): a write that would give a core or a sector two owners, sets a reserved field, or names a die not
admitted to the reduced service (R365), leaves the register unchanged and traps OPERAND in the service. -/
def execOwnWrite (p d : Nat) (v : Word) (s : State) : Out :=
  if 16 ≤ p || 8 ≤ d then .next s
  else if s.ownLegal p d v then .next (s.setOwn p d v)
  else .next (s.trap s.focus { code := cOPERAND } [] 1)

end Sys2Proof.Machine
end

