-- ==== Sys2Proof/Machine/Translate.lean ====
section
/-! DEFINITION. The translator of a die (R142 to R150), the code heap (R144, R145), and the loading of patch images
(R158, R159). -/

namespace Sys2Proof.Machine

/-! Events a KIND 2 slot sees (R152, R153, R299). -/

/-- A translation event of a block: a slot that matches queues a PATCHTRAP note. Service code is never matched. -/
def State.xlateEvent (s : State) (d : Nat) (b : Block) (event : Nat) : State :=
  if b.obj = 0 then s
  else
    match s.patchFor d b.part 2 (eventKey b.vpc event) with
    | none => s
    | some n =>
      s.queueNote d { TrapInfo.zero with
        vpc := b.vpc, cause := cPATCHTRAP, slot := some n, part := b.part, gtc := (s.die d).gtc }

/-- The same event of several blocks. -/
def State.xlateEvents (s : State) (d event : Nat) (l : List Block) : State := l.foldl (fun s b => s.xlateEvent d b event) s

/-! Discarding (R150). -/

/-- Discard the translations of a die for which `p` holds: installed ones and those in progress. -/
def State.discardBlocks (s : State) (d : Nat) (p : Block → Bool) : State :=
  let gone := ((s.die d).index.filter (fun x => p x.blk)).map (·.blk)
  (s.modDie d (fun x =>
    { x with index := x.index.filter (fun y => !p y.blk), lowering := x.lowering.filter (fun b => !p b) })).xlateEvents d 4 gone

/-- Whether some word of a block lies in [lo, lo + n). -/
def Block.overlaps (b : Block) (lo n : Nat) : Bool := b.vpc < lo + n && lo < b.vpc + 8 * max 1 b.words.length

/-- The dies in the scope of a `code.inv`. -/
def State.invDies (_s : State) (a : Agent) (scope : Nat) : List Nat := if scope = 2 then [dieOfAgent a] else List.range 8

/-- The three forms of `code.inv` (R150): the target set, or none where the operands are wrong. -/
def codeInvOp (i : Instr) (f : BaseF) (target : List Val → Option (Block → Bool)) (s : State) : Out :=
  withOps s .system (opsOf i) [] 1 (fun a vs =>
    match target vs with
    | none => .next (s.trap a { code := cOPERAND } [] 1)
    | some p => .next (((s.invDies a (scopeField f)).foldl (fun s d => s.discardBlocks d p) (s.commit a)).retire a 1 []))

/-- `code.inv`, FN 0 (R150). -/
def execCodeInv (f : BaseF) (s : State) : Out :=
  codeInvOp (.codeInv f) f (fun vs =>
    let o := (w0 vs).toNat
    let v := (w1 vs).toNat
    let n := (w2 vs).toNat
    if v % 8 != 0 || n % 8 != 0 || n < 8 || 2 ^ 48 < v + n then none
    else some (fun b => b.obj == o && b.overlaps v n)) s
/-- `code.inv.obj`, FN 1 (R150). -/
def execCodeInvObj (f : BaseF) (s : State) : Out :=
  codeInvOp (.codeInvObj f) f (fun vs => some (fun b => b.obj == (w0 vs).toNat)) s
/-- `code.inv.all`, FN 2 (R150). -/
def execCodeInvAll (f : BaseF) (s : State) : Out := codeInvOp (.codeInvAll f) f (fun _ => some (fun _ => true)) s

/-! The code heap (R144, R145). -/

/-- SIZE of XHEAP. -/
def heapSize (x : Word) : Nat := bitsNat x 0 2
/-- Bytes of one generation. -/
def Die.genBytes (x : Die) : Nat := 2 ^ (28 + heapSize x.xheap) / 4
/-- Bytes the blocks of a generation take. -/
def Die.genUse (x : Die) (n : Nat) : Nat := ((x.index.filter (fun b => b.gen = n)).map (·.size)).sum

/-- Blocks that were pinned at an eviction and that no core executes any more leave the index (R145). -/
def State.sweepHeap (s : State) (d : Nat) : State :=
  let gone := ((s.die d).index.filter (fun x => !s.indexed d x)).map (·.blk)
  if gone.isEmpty then s
  else (s.modDie d (fun x => { x with index := x.index.filter (s.indexed d) })).xlateEvents d 2 gone

/-- The oldest generation is evicted and becomes current (R145 step 1). Its pinned blocks stay, counted into the current
generation; so do the routines, which no eviction removes (R336). -/
def State.evictGen (s : State) (d : Nat) : State :=
  let x := s.die d
  let n := (x.curGen + 1) % 4
  let stays (b : Installed) : Bool := b.gen != n || b.blk.routine || s.pinnedBlock d b.blk
  let gone := (x.index.filter (fun b => !stays b)).map (·.blk)
  let keep (b : Installed) : Installed := if b.gen = n && !b.blk.routine then { b with pinned := true } else b
  (s.modDie d (fun x =>
    { x with index := (x.index.filter stays).map keep, curGen := n, evictN := (x.evictN + 1) % 2 ^ 16 })).xlateEvents d 2 gone

/-- Make room for `z` bytes in the current generation; false where the heap cannot hold them (R145 step 4). -/
def State.makeRoom (s : State) (d z : Nat) : Nat → Bool × State
  | 0 => (decide ((s.die d).genUse (s.die d).curGen + z ≤ (s.die d).genBytes), s)
  | n + 1 =>
    if (s.die d).genUse (s.die d).curGen + z ≤ (s.die d).genBytes then (true, s) else (s.evictGen d).makeRoom d z n

/-! Lowering and installing (R142, R143). -/

/-- The paths of the words of a block that is to be lowered, as far as they are mapped. -/
def State.codePaths (s : State) (a : Agent) (b : Block) : List (Nat × Path) :=
  (List.range b.words.length).filterMap (fun i =>
    match s.codePath a (b.vpc + 8 * i) with
    | .ok p => some (i, p)
    | .error _ => none)

/-- Whether an agent waits for a block that its die's translator could lower now. -/
def State.lowers (s : State) (a : Agent) : Bool :=
  s.canRun a && s.look a == .absent && s.xlateServes a && (s.die (dieOfAgent a)).lowering.isEmpty

/-- Whether the reads of a block to be lowered wait for a link (R347). -/
def State.codeHeld (s : State) (a : Agent) : Bool :=
  !s.edges.isEmpty && (s.codePaths a (s.lowerBlock a)).any (fun x => s.linkHeld (dieOfAgent a) x.2.home)

/-- What the reads of a block leave at the home L2s (R140, R143): one request for each sector. -/
def State.codeReads (s : State) (a : Agent) : State :=
  let ps := ((s.codePaths a (s.lowerBlock a)).map (fun x => { x.2 with pa := x.2.pa / 64 * 64 })).eraseDups
  ps.foldl (fun s p => (s.readPath (if s.inService a then none else some (s.partOfAgent a)) p 8 [.l2]).2) s

/-- BLOCK_LOWER (R142, R143): the agent in focus has reached a block that is absent. The translator of a die lowers one block
at a time; one translation serves every context that waits for it. -/
def execBlockLower (s : State) : Out :=
  let a := s.focus
  if !s.lowers a || s.codeHeld a then .next s
  else .next ((s.codeReads a).modDie (dieOfAgent a) (fun x => { x with lowering := [s.lowerBlock a] }))

/-- The agents a die's translator serves. -/
def dieAgents (d : Nat) : List Agent :=
  (((List.range 16).map (fun i => Agent.core (d * 16 + i))) ++ [Agent.core (svcOf d)])
    ++ ((List.range 16).filter (fun p => hostDie p = d)).map (fun p => Agent.sfe p)

/-- A HEAP fault of an agent that waits for a block (R145 step 4): it names the block's `enter`, where a context that
lowers a block afresh in its middle resumes at the instruction it had reached (R149). -/
def State.heapTrap (s : State) (a : Agent) : State :=
  let v := (s.ctxOf a).enterPc
  let c := codeCause .heap
  match a with
  | .core g =>
    let k := s.core g
    match k.emul with
    | some e => s.routineTrouble g e c v
    | none =>
    if isSvc g then s.svcTrap g c [] 1 v none
    else s.trapMatched g (k.ctx.pend (s.mkInfo g c v k.ctx.vpc 0 0) [] 1) []
  | .sfe p =>
    if (s.part p).sfe.hmode.isSome then s.trap a c [] 1
    else s.modPart p (fun q => { q with sfe := { q.sfe with wait := .trap 2 c.code c.sub v 0 } })
  | _ => s

/-- A HEAP fault (R145 step 4): every context that waits for the block traps. -/
def State.heapFault (s : State) (d : Nat) (b : Block) : State :=
  let s := (s.modDie d (fun x => { x with heapF := (x.heapF + 1) % 2 ^ 16 })).xlateEvent d b 3
  (dieAgents d).foldl (fun s a =>
    if s.canRun a && s.look a == .absent && s.codeObj a == b.obj && (s.ctxOf a).enterPc == b.vpc then
      s.heapTrap a
    else s) s

/-- BLOCK_INSTALL (R143, R145): the oldest lowered block of the die in focus is installed, or finds no room. -/
def execBlockInstall (s : State) : Out :=
  let d := dieOfAgent s.focus
  let s := s.sweepHeap d
  match (s.die d).lowering.find? (fun b => b.obj == 0 || !s.xlateStopped d) with
  | none => .next s
  | some b =>
    let s := s.modDie d (fun x => { x with lowering := x.lowering.filter (fun y => y != b) })
    let z := Config.loweredBytes b.words.length
    match s.makeRoom d z 4 with
    | (false, s) => .next (s.heapFault d b)
    | (true, s) =>
      .next ((s.modDie d (fun x =>
        { x with
          index := x.index ++ [{ blk := b, gen := x.curGen, size := z, pinned := false }], blocksN := (x.blocksN + 1) % 2 ^ 32 })).xlateEvent d b 1)

/-! XHEAP and SPIN (R144, R377). -/

/-- A write of XHEAP: its effect, or none where it traps OPERAND. -/
def State.writeXheap (s : State) (d : Nat) (v : Word) : Option State :=
  let old := (s.die d).xheap
  if bitsNat v 2 38 != 0 || heapSize v = 3 then none
  else
    let keep := bitsNat v 40 24 == bitsNat old 40 24 && heapSize old ≤ heapSize v
    let s := s.modDie d (fun x => { x with xheap := v })
    some (if keep then s else s.discardBlocks d (fun _ => true))

/-- A write of SPIN: its effect, or none where it traps OPERAND. -/
def State.writeSpin (s : State) (d : Nat) (v : Word) : Option State :=
  if bitsNat v 2 38 != 0 || (s.die d).patched then none else some (s.modDie d (fun x => { x with spin := v }))

/-- The write of a register by the service, as a step of its own: a write that is refused traps OPERAND there (R304). -/
def regStep (s : State) (r : Option State) : Out :=
  match r with
  | some t => .next t
  | none => .next (s.trap s.focus { code := cOPERAND } [] 1)

/-- XHEAP_WRITE (R144). -/
def execXheapWrite (d : Nat) (v : Word) (s : State) : Out := if 8 ≤ d then .next s else regStep s (s.writeXheap d v)
/-- SPIN_WRITE (R377). -/
def execSpinWrite (d : Nat) (v : Word) (s : State) : Out := if 8 ≤ d then .next s else regStep s (s.writeSpin d v)

/-! The service's memory (R377). -/

/-- The homes of the pages of a range as a core meets them, as far as they are mapped. -/
def State.homesOf (s : State) (g va n : Nat) : List Nat :=
  (List.range ((va % 4096 + n + 4095) / 4096)).filterMap (fun i =>
    match s.coreLeaf g (va / 4096 * 4096 + 4096 * i) with
    | .ok (pte, bits) =>
      (match s.leafAccess g pte bits (va / 4096 * 4096 + 4096 * i) { r := false, w := false, x := false, user := false } with
        | .ok p => some p.home
        | .error _ => none)
    | .error _ => none)

/-- Whether the transfer of an image waits for a link (R347). -/
def State.rangeHeld (s : State) (g va n : Nat) : Bool := !s.edges.isEmpty && (s.homesOf g va n).any (s.linkHeld (dieOf g))

/-- Read `n` bytes as a load of a core reads them, or, where `home` says so, at the home L2 of each. -/
def State.readAs (s : State) (g : Nat) (home : Bool) (va : Nat) : Nat → Except Cause (List Byte) × State
  | 0 => (.ok [], s)
  | n + 1 =>
    if 2 ^ 48 ≤ va then (.error { code := cPROT, addr := va }, s)
    else
      match s.translate g va Need.load with
      | (.error c, s) => (.error c, s)
      | (.ok p, s) =>
        match s.readPath (s.partOf g) p 1 (if home then [.l2] else s.pathOf g p) with
        | (.error e, s) => (.error { code := cPOISON, addr := va, ecode := e.toNat }, s)
        | (.ok v, s) =>
          match s.readAs g home (va + 1) n with
          | (.ok vs, s) => (.ok (BitVec.ofNat 8 v :: vs), s)
          | (.error c, s) => (.error c, s)

/-- Write bytes at the home L2 of each, checked as the stores of a core; the cause of the first that may not. The core's
local-store cache and its die's RDC give up the sectors, so that its later accesses see what is written (R327). -/
def State.writeAs (s : State) (g va : Nat) : List Byte → Except Cause Unit × State
  | [] => (.ok (), s)
  | b :: bs =>
    if 2 ^ 48 ≤ va then (.error { code := cPROT, addr := va }, s)
    else
      match s.translate g va Need.store with
      | (.error c, s) => (.error c, s)
      | (.ok p, s) =>
        if s.refused p.home [.l2] then (.error { code := cPOISON, addr := va, ecode := 1 }, s)
        else
          let s := (s.flushSec (.lsc g) (p.pa / 64)).flushSec (.rdc (dieOf g)) (p.pa / 64)
          ((s.writePath (s.partOf g) p 1 b.toNat [.l2]).modCore g (·.noteSec p.pa)).writeAs g (va + 1) bs

/-- Whether a service page of a die lies in its pinned service memory. -/
def State.pinnedVa (s : State) (d va : Nat) : Bool :=
  if 2 ^ 48 ≤ va then false
  else
    match s.walk (s.die d).svcRoot va with
    | .ok (pte, bits) => s.pinned d (leafPath pte bits va).pa
    | .error _ => false

/-- Write a byte of pinned service memory at the home L2 of its die under K0. -/
def State.writePinned (s : State) (d va : Nat) (b : Byte) : State :=
  match s.walk (s.die d).svcRoot va with
  | .ok (pte, bits) => s.writePath none { leafPath pte bits va with home := d, ccls := 2, key := 0 } 1 b.toNat [.l2]
  | .error _ => s

/-! Patch images (R151, R153, R154, R158, R159). -/

/-- Bytes of the signature of an image. -/
def sigBytes : Nat := 2420

/-- A digest as its 32 bytes (assumption 9). -/
def digestBytes (x : BitVec 256) : List Byte := natToBytes 32 x.toNat

/-- Extend a measurement register of a die (R158, R366): the digest of what it holds followed by the new digest. -/
def State.extend (s : State) (d n : Nat) (dg : BitVec 256) : State :=
  s.modDie d (fun x =>
    { x with meas := tput 0 x.meas n (Config.sha3 (digestBytes (tget 0 x.meas n) ++ digestBytes dg)) })

/-- An image read as a number, and its header fields. -/
structure ImgHead where
  mask : Nat
  tbytes : Nat
  ebytes : Nat
  seq : Nat
  step : Nat
  ok : Bool
  deriving DecidableEq, Repr

/-- The header of an image of `len` bytes (R158): `ok` where the first checks of R159 pass. -/
def imgHead (h : List Byte) (len : Nat) : ImgHead :=
  let v := bytesToNat h
  let b (lo w : Nat) : Nat := v / 2 ^ lo % 2 ^ w
  let mask := b 128 32
  let tb := b 160 32
  let eb := b 192 32
  { mask := mask, tbytes := tb, ebytes := eb, seq := b 96 32, step := b 80 16,
    ok := b 0 32 == 0x5A504D49 && b 64 16 == 1 && b 32 32 == 0 && b 224 288 == 0 && tb % 8 == 0 && eb % 8 == 0
      && len == 64 + 32 * ((List.range 32).filter (fun i => mask / 2 ^ i % 2 == 1)).length + tb + eb + sigBytes }

/-- The slots an image replaces. -/
def ImgHead.slots (h : ImgHead) : List Nat := (List.range 32).filter (fun i => h.mask / 2 ^ i % 2 == 1)

/-- The slot records of an image with their slots. -/
def imgRecords (h : ImgHead) (ebase : Nat) (img : List Byte) : List (Nat × Patch) :=
  let n := h.slots.length
  let area := wordsOfBytes ((img.drop (64 + 32 * n)).take h.tbytes)
  (h.slots.zipIdx).map (fun x =>
    let w (k : Nat) : Word := BitVec.ofNat 64 (bytesToNat ((img.drop (64 + 32 * x.2 + 8 * k)).take 8))
    (x.1, { mval := w 0, mmask := w 1, ctrl := w 2, target := w 3, tarea := area, rbase := ebase, rlen := h.ebytes }))

/-- Whether the actions of R153 allow an ACTION for a KIND. -/
def actionOk (kind action : Nat) : Bool :=
  match kind with
  | 0 => action ≤ 2
  | 1 => action == 0 || action == 2 || action == 3 || action == 4
  | 2 => action == 0
  | _ => false

/-- Whether a record stands against R151, R153 and R154 by itself; REDIRECT names a cause that R295 knows. -/
def Patch.legal (p : Patch) (tbytes ebytes : Nat) : Bool :=
  let c (lo w : Nat) : Nat := bitsNat p.ctrl lo w
  let t := p.target.toNat
  let cause := bitsNat p.mval 0 8
  c 1 2 == 0 && c 12 1 == 0 && c 20 2 == 0 && c 40 8 == 0 && c 29 2 != 3 && c 17 3 ≤ 4
    && p.mval &&& ~~~p.mmask == 0 && actionOk p.kind p.action
    && (!p.claims || 0xF0 ≤ p.claimOp)
    && (!(p.action == 3 || p.action == 4) || bitsNat p.mmask 0 8 != 255
        || !(cause == cPRIV || cause == cPATCHTRAP || cause == cPATCHFAULT || cause == cSOFT))
    && (match p.action with
        | 1 => 1 ≤ p.tlen && p.tlen ≤ 16 && t % 8 == 0 && t + 8 * p.tlen ≤ tbytes
        | 2 => t % 8 == 0 && t + 8 ≤ ebytes
        | 4 => t < 2 ^ 16 && t % 256 != cPATCHFAULT && 0 < t % 256 && t % 256 ≤ cTEAM
        | _ => t == 0)

/-- Whether two slots claim one opcode for a shared partition (R154). -/
def claimsClash (x y : Patch) : Bool :=
  x.valid && y.valid && x.claims && y.claims && x.claimOp == y.claimOp && bitsNat x.ctrl 48 16 &&& bitsNat y.ctrl 48 16 != 0

/-- The slots of a die once an image has replaced some; a record with VALID = 0 empties its slot (R158). -/
def newSlots (old : Tab Patch) (recs : List (Nat × Patch)) : Tab Patch :=
  recs.foldl (fun t r => tput Patch.reset t r.1 (if r.2.valid then r.2 else Patch.reset)) old

/-- Whether the load of some records is refused with status 5 (R159). -/
def recordsBad (old : Tab Patch) (recs : List (Nat × Patch)) (h : ImgHead) : Bool :=
  let new := newSlots old recs
  recs.any (fun r => !r.2.legal h.tbytes h.ebytes)
    || (List.range 32).any (fun i => (List.range i).any (fun j =>
        claimsClash (tget Patch.reset new i) (tget Patch.reset new j)))

/-- The status of an image that has been read (R159), 0 where it is to be loaded. -/
def State.imgStatus (s : State) (d ebase : Nat) (h : ImgHead) (img : List Byte) : Nat :=
  let dg := Config.sha3 (img.take (img.length - sigBytes))
  if h.step != 0xFFFF && h.step != (s.die d).stepping then 2
  else if !Config.mldsaVerify dg (img.drop (img.length - sigBytes)) then 3
  else if h.seq < max Config.fuseMin (s.die d).patchSeq then 4
  else if recordsBad (s.die d).patches (imgRecords h ebase img) h then 5
  else if ebase % 4096 != 0 || !((List.range h.ebytes).all (fun i => s.pinnedVa d (ebase + i))) then 6
  else 0

/-- Whether every user core of a die, and every stream front end it hosts, has left the block it was executing (R159,
R338). -/
def State.blocksLeft (s : State) (d : Nat) : Bool :=
  let out (c : Ctx) : Bool := match c.blk with
    | some b => b.stale
    | none => true
  ((List.range 16).map (d * 16 + ·)).all (fun g =>
      (s.core g).cstate != .run || (out (s.core g).ctx && (s.core g).emul.isNone))
    && ((List.range 16).filter (fun p => hostDie p = d)).all (fun p => !(s.part p).sfe.running || out (s.part p).sfe.ctx)

/-- The load itself (R159): routines and templates are copied in, the slots of the image are replaced in one step, every
translation of the die is discarded and MEAS3 is extended. -/
def State.loadImage (s : State) (d ebase : Nat) (img : List Byte) : State :=
  let h := imgHead (img.take 64) img.length
  let recs := imgRecords h ebase img
  let routines := (img.drop (64 + 32 * h.slots.length + h.tbytes)).take h.ebytes
  let s := (routines.zipIdx).foldl (fun s x => s.writePinned d (ebase + x.2) x.1) s
  let s := s.modDie d (fun x =>
    { x with patches := newSlots x.patches recs, patchSeq := h.seq, patched := true })
  (s.discardBlocks d (fun _ => true)).extend d 3 (Config.sha3 (img.take (img.length - sigBytes)))

/-- The end of a `patch.ld` that waits: once the blocks are left it loads. -/
def State.patchLdStep (s : State) (g : Nat) (img : List Byte) (ebase : Nat) : State :=
  if s.blocksLeft (dieOf g) then (s.loadImage (dieOf g) ebase img).endWith g [.scalar 0]
  else s.waitOn g (.patchLd img ebase) none

/-- `patch.ld` (R159) on the executing die. -/
def execPatchLd (f : BaseF) (s : State) : Out :=
  withOps s .system (opsOf (.patchLd f)) [false] 1 (fun a vs =>
    match a with
    | .core g =>
      let d := dieOf g
      let at' := (w0 vs).toNat
      let len := (w1 vs).toNat
      let ebase := (w2 vs).toNat
      let answer (s : State) (n : Nat) : Out :=
        .next ((s.modDie d (fun x => { x with patched := true })).retire a 1 [.scalar (BitVec.ofNat 64 n)])
      (match (s.core g).wait with
        | some { kind := .patchLd img eb, stall := _, bound := _ } => .next (s.patchLdStep g img eb)
        | _ =>
          if !(s.core g).quiet || s.rangeHeld g at' (min len (2 ^ 24)) then .next s
          else if at' % 8 ≠ 0 then .next (s.trap a { code := cALIGN, addr := at' } [false] 1)
          else if 2 ^ 24 < len || len < 64 + sigBytes then answer s 1
          else
            match s.readAs g false at' 64 with
            | (.error c, s) => .next (s.trap a c [false] 1)
            | (.ok hb, s) =>
              let h := imgHead hb len
              if !h.ok then answer s 1
              else
                match s.readAs g false (at' + 64) (len - 64) with
                | (.error c, s) => .next (s.trap a c [false] 1)
                | (.ok rest, s) =>
                  let img := hb ++ rest
                  let st := s.imgStatus d ebase h img
                  if st ≠ 0 then answer s st
                  else
                    .next ((s.modDie d (fun x =>
                      { x with lowering := x.lowering.filter (fun b => b.obj == 0) })).patchLdStep g img ebase))
    | _ => .next s)

end Sys2Proof.Machine
end

