-- ==== Sys2Proof/Machine/Preempt.lean ====
section
/-! DEFINITION. Control of the cores by the service (R300 to R302, R312, R314), the reset of a stream context (R317,
R350), and the context scrub (R318). -/

namespace Sys2Proof.Machine

/-! Answers to a trap (R302). -/

/-- The instruction a stopped context stands at is `halt`. -/
def State.atHalt (s : State) (g : Nat) : Bool :=
  match s.look (.core g) with
  | .instr (.halt _) => true
  | .patchTrap _ _ _ =>
    (match (s.core g).ctx.blk with
      | some b => ((b.words[((s.core g).ctx.vpc - b.vpc) / 8]?).map (fun w => opOf w == 6)).getD false
      | none => false)
  | _ => false

/-- The context runs on from its stopping point: the wait of the instruction or command that trapped begins afresh (R309);
the sequencer goes on with a wait that a command's trap found it in. -/
def Core.runOn (c : Core) : Core :=
  let c := match c.trap with
    | some { info := _, queue := some q, cmdSeq := n, kinds := _, len := _ } => c.modCmd q n (fun k => { k with stall := 0 })
    | _ => c
  { c.unstop with cstate := .run, trap := none, wait := if (c.trap.map (·.ofCmd)).getD false then c.wait else none }

/-- RETRY (R302). -/
def State.retryCore (s : State) (g : Nat) : State := s.modCore g (·.runOn)

/-- The value a result takes from CRES at its kind (R302); a result past CRES3 is left open (assumption 4). -/
def State.cresVal (s : State) (g i : Nat) (isVec : Bool) : Val :=
  let w := if i < 4 then (s.core g).cresN i else Config.freeWord (s.fresh + i)
  if isVec then .vector (broadcast 64 w.toNat) else .scalar w

/-- RESUME (R302): the instruction or command counts as completed. A `halt` goes on from its step 4 (R163). -/
def State.resumeCore (s : State) (g : Nat) : State :=
  match (s.core g).trap with
  | none => s
  | some pend =>
    if pend.queue.isNone && s.atHalt g then (s.modCore g (·.runOn)).haltFinish g
    else
      let vs := (pend.kinds.zipIdx).map (fun x => s.cresVal g x.2 x.1)
      let s := { s with fresh := if 4 < vs.length then s.fresh + vs.length else s.fresh }
      s.modCore g (fun c => (c.complete pend vs).runOn)

/-! Draining (R312, R314). -/

/-- The wait of a sequencer is abandoned with no effect; one that its team has satisfied already completes (R297, R312).
LATE stands (R272). -/
def State.dropWait (s : State) (g : Nat) : State :=
  match (s.core g).wait with
  | none => s
  | some w =>
    if s.waitOpen g w.kind then ((s.undoWait g w.kind).modCore g (fun c => { c with late := (s.core g).late })).endWait g
    else
      match w.kind with
      | .teamJoin key => s.joinStep g key 0
      | .teamBar key gen scope => s.teamBarStep g key gen scope 0
      | _ => s.endWait g

/-- A drain takes effect (R312): the instruction under way is abandoned, a routine too (R157), a gang dissolves
(R210). -/
def State.drainNow (s : State) (g : Nat) : State :=
  let s := ((s.dropWait g).modCore g (·.abandon)).dropWait g
  let s := s.dissolveGang g
  s.modCore g (fun c =>
    { c with cstate := .draining, hold := false, wait := none, drainT := 0, ctx := c.ctx.dropTmpl })

/-- A DRAIN is held until the context has run for its effective slice (R314). -/
def State.drainCore (s : State) (g : Nat) : State :=
  if s.sliceRun g then s.drainNow g else s.modCore g (fun c => { c with hold := true })

/-- Whether every started command of a core has completed and every access performed; a copy that R268 stopped goes on
when the context does (R332). -/
def Core.drainOver (c : Core) : Bool :=
  c.acc.isEmpty && c.cmds.all (fun k => !k.started || k.done || (k.stopped && takesTag k.instr))

/-! Releasing and starting (R300). -/

/-- The number a detached task has in its team instead of a core's. -/
def detachedId (t : Task) : Nat := 1024 + t.entry * 2 ^ 25 + t.idx

/-- The member of a team by one number is known by another. -/
def State.renameMember (s : State) (p key a b : Nat) : State :=
  s.modTeam p key (fun t => { t with members := t.members.map (fun m => if m = a then b else m) })

/-- RELEASE (R300): the core is idle and its task detached, outstanding in its entry; a gang it is in dissolves (R210). -/
def State.releaseCore (s : State) (g : Nat) : State :=
  let s := s.dissolveGang g
  let c := s.core g
  let s := match c.task, c.teamKey with
    | some t, some k => s.renameMember c.part k g (detachedId t)
    | _, _ => s
  s.modCore g (fun c =>
    { c with cstate := .idle, task := none, team := none, teamKey := none, mq := [], vq := [], cq := [], acc := [],
             wait := none, trap := none, hold := false, loaded := false, stopped := false, emul := none,
             pendErr := [] })

/-- A command of CCTL (R300, R301); none where the state does not allow it. A core in IDLE under `ctx.scrub` stays so (R318). -/
def State.cctl (s : State) (g cmd : Nat) : Option State :=
  let c := s.core g
  match cmd, c.cstate with
  | 0, _ => some s
  | 1, .trapped => some (s.retryCore g)
  | 2, .trapped => some (s.resumeCore g)
  | 3, .run => some (s.killCore g)
  | 3, .trapped => some (s.killCore g)
  | 3, .draining => some (s.killCore g)
  | 3, .frozen => some (s.killCore g)
  | 3, .saved => some (s.killCore g)
  | 3, .idle => if c.loaded then some (s.killCore g) else none
  | 4, .run => some (s.drainCore g)
  | 4, .trapped => some (s.drainCore g)
  | 5, .saved => some (s.releaseCore g)
  | 5, .frozen => some (s.releaseCore g)
  | 6, .idle => if s.scrubbing g then none else some (s.modCore g (fun c => { c.runOn with quant := 0, loaded := false }))
  | _, _ => none

/-- A command of CCTL as a step of its own, for the core in focus. -/
def cctlStep (cmd : Nat) (s : State) : Out :=
  match s.focus with
  | .core g => if isSvc g then .next s else .next ((s.cctl g cmd).getD s)
  | _ => .next s

/-- CCTL_RETRY (R302). -/
def execCctlRetry (s : State) : Out := cctlStep 1 s
/-- CCTL_RESUME (R302). A system call the spec does not define answers with all ones first (R306). -/
def execCctlResume (s : State) : Out :=
  cctlStep 2
    (match s.focus with
      | .core g =>
        (match (s.core g).trap with
          | some t =>
            if t.info.cause = cSVC && 16 ≤ t.info.addr && (s.core g).cstate == .trapped then
              s.modCore g (fun c => { c with cres := tput 0 c.cres 0 (BitVec.allOnes 64) })
            else s
          | none => s)
      | _ => s)
/-- CCTL_KILL (R302). -/
def execCctlKill (s : State) : Out := cctlStep 3 s
/-- CCTL_DRAIN (R312). -/
def execCctlDrain (s : State) : Out := cctlStep 4 s
/-- CCTL_RELEASE (R300). -/
def execCctlRelease (s : State) : Out := cctlStep 5 s
/-- CCTL_START (R300). -/
def execCctlStart (s : State) : Out := cctlStep 6 s

/-- Whether a drain under MODE 2 has not ended within its allowance (R312). -/
def State.drainPast (s : State) (g : Nat) : Bool :=
  let w := (s.part (s.core g).part).psched
  let lim := (if bitsNat w 24 16 = 0 then 65536 else bitsNat w 24 16) * 256
  (s.core g).cstate == .draining && bitsNat w 22 2 == 2 && decide (lim < (s.core g).drainT)

/-- DRAIN_END (R312): every started command has completed within the drain's allowance, and the core is SAVED. -/
def execDrainEnd (s : State) : Out :=
  match s.focus with
  | .core g =>
    if (s.core g).cstate == .draining && (s.core g).drainOver && !s.drainPast g then
      .next ((s.modCore g (fun c => { c with cstate := .saved })).dropLats [g])
    else .next s
  | _ => .next s

/-! Stream-context reset (R317, R350). -/

/-- Whether a core holds a context of a partition that a reset ends. -/
def Core.ofPart (c : Core) (p : Nat) : Bool := c.part = p && c.cstate != .idle && c.cstate != .killed

/-- Steps 1 to 3 of a stream-context reset; the commands that a killed task left running are killed too. -/
def State.resetStream (s : State) (p : Nat) : State :=
  let s := s.discardAll p false (((s.part p).live).map (·.1))
  let s := (List.range 128).foldl (fun s g =>
    if (s.core g).ofPart p then s.stopTask g false
    else if (s.core g).part = p && (s.core g).cstate == .killed then s.modCore g (fun c => c.killCmds 6)
    else if (s.core g).part = p && (s.core g).loaded then s.modCore g (fun c => { c with loaded := false, task := none })
    else s) s
  let s := s.modPart p (fun q =>
    { q with
      wcount := 0, srec := none, srecNew := false, evq := [], teams := [],
      sfe := { Sfe.reset with reqid := q.sfe.reqid, serials := q.sfe.serials } })
  { s with outbox := s.outbox.filter (fun x => x.1 / 128 != p) }

/-- Every buffer of a partition returns to FREE. -/
def Part.freeAll (q : Part) : Part :=
  let busy (x : Nat × Option Pb) : Nat × Option Pb := (x.1, x.2.map (fun b => { b with st := .shadow, reads := 0, ballast := false }))
  (q.pbs.map (·.1)).foldl (fun q a => q.freePb a) { q with pbs := q.pbs.map busy }

/-- GO and DONE of SCTL. -/
def sctlGo (w : Word) : Bool := w.getLsbD 0
/-- Steps 4 and 5 of a stream-context reset, and what R350 adds: every write stands at its home, PGEN increments and
DONE is set. -/
def State.resetDone (s : State) (p : Nat) : State :=
  let s := s.releaseRuns (List.range 128) 3 everySector
  s.modPart p (fun q =>
    { q.freeAll with rename := [], committed := [], window := [], pgen := (q.pgen + 1) % 2 ^ 16, sctl := 2 })

/-- A write of SCTL (R317): its effect, or none where it traps OPERAND. -/
def State.writeSctl (s : State) (p : Nat) (v : Word) : Option State :=
  if 4 ≤ v.toNat then none
  else
    let old := (s.part p).sctl
    let keep : Word := if v.getLsbD 1 then old &&& 1 else old
    let s := s.modPart p (fun q => { q with sctl := keep ||| (v &&& 1) })
    some (if v.getLsbD 0 && !sctlGo old then s.resetStream p else s)

/-- STREAM_CONTEXT_RESET (R317): SCTL GO is written for the partition of the agent in focus. -/
def execStreamContextReset (s : State) : Out :=
  match s.focus with
  | .sfe p => .next ((s.writeSctl p 1).getD s)
  | _ => .next s

/-- STREAM_RESET_DONE (R317). -/
def execStreamResetDone (s : State) : Out :=
  match s.focus with
  | .sfe p => if sctlGo (s.part p).sctl && !s.linksHold then .next (s.resetDone p) else .next s
  | _ => .next s

/-! `ctx.scrub` (R318). -/

/-- Clk of empty issue. -/
def scrubClk : Nat := 4096

/-- The kill with which a scrub begins. -/
def State.scrubKill (s : State) (g : Nat) : State :=
  match (s.core g).cstate with
  | .run => s.killCore g
  | .trapped => s.killCore g
  | .draining => s.killCore g
  | .frozen => s.killCore g
  | _ => s

/-- Steps 1 to 4 of the drogue sequence, once the empty issue is over: what has not completed is stopped and flushed,
and the core's state is cleared. The error injection stays (R357). -/
def State.scrubEnd (s : State) (g : Nat) : State :=
  let s := if (s.core g).cstate == .saved then s.releaseCore g else s
  let s := s.setSector g { s.sector g with acc0 := [], acc1 := [], lats := [] }
  s.modCore g (fun c =>
    { Core.reset with
      quant := c.quant, part := c.part, srv := c.srv, srm := c.srm, src := c.src, padUnits := c.padUnits,
      lastTime := c.lastTime, errinj := c.errinj, tlb := c.tlb, lsc := c.lsc, sysSecs := c.sysSecs, serials := c.serials,
      seq := c.seq })

/-- `ctx.scrub` (R318) on a core of the executing die. -/
def execCtxScrub (f : BaseF) (s : State) : Out :=
  withOps s .system (opsOf (.ctxScrub f)) [] 1 (fun a vs =>
    match a with
    | .core me =>
      (match (s.core me).wait with
        | some { kind := .scrub g left, stall := _, bound := _ } =>
          if left = 0 then .next ((s.scrubEnd g).endWith me []) else .next s
        | _ =>
          let n := (w0 vs).toNat
          if 15 < n then .next (s.trap a { code := cOPERAND } [] 1)
          else
            let g := dieOf me * 16 + n
            .next (((s.commit a).scrubKill g).waitOn me (.scrub g scrubClk) none))
    | _ => .next s)

end Sys2Proof.Machine
end

