-- ==== Sys2Proof/Machine/Csr.lean ====
section
/-! DEFINITION. Control registers (R303, R304) and the units behind them: the trap queue (R299), the event log (R315),
shootdowns (R261), key slots (R369), error injection (R357) and the scheduling of partitions (R311). Each write has one
operation, which `csr.w` and the step that stands for that write both take; it answers none where it traps OPERAND. -/

namespace Sys2Proof.Machine

/-! The trap queue and the event log. -/

/-- A read of TQPOP (R299). -/
def State.popTrap (s : State) (d : Nat) : Word × State :=
  match (s.die d).trapq with
  | [] => (0, s)
  | t :: ts => (1, s.modDie d (fun x => { x with trapq := ts, tqbuf := t.words.map (BitVec.ofNat 64) }))

/-- A read of EVPOP (R315): the record goes to EVBUF0 and EVBUF1; 0 is read of an empty log, 1 else. -/
def State.popEvent (s : State) (p : Nat) : Word × State :=
  match (s.part p).evlog with
  | [] => (0, s)
  | e :: es => (1, s.modPart p (fun q => { q with evlog := es, evbuf := wordsOfBytes e.bytes }))

/-- TQPOP (R299) on the die of the agent in focus. -/
def execTqpop (s : State) : Out := .next (s.popTrap (dieOfAgent s.focus)).2
/-- EVPOP (R315) of the partition in focus. -/
def execEvpop (s : State) : Out :=
  match s.focus with
  | .sfe p => .next (s.popEvent p).2
  | _ => .next s

/-- EVSTAT (R315). The count field of a full log, 256 records in eight bits, is left open (assumption 4). -/
def State.evstat (s : State) (p : Nat) : Word × State :=
  let q := s.part p
  let rest := (q.evdrop % 2 ^ 32) * 2 ^ 8 + (q.evstale % 2 ^ 24) * 2 ^ 40
  if q.evlog.length < 256 then (BitVec.ofNat 64 (q.evlog.length + rest), s)
  else
    let (w, s) := s.freeValue
    (BitVec.ofNat 64 (w.toNat % 256 + rest), s)

/-! Shootdowns (R261). -/

/-- Drop the cached translations of a range, or all of them. -/
def Core.shoot (c : Core) (range : Option (Nat × Nat)) : Core := c.dropTlb range

/-- The marker a shootdown puts at the tail of a core's CQ. -/
def shootMark (c : Core) (range : Option (Nat × Nat)) : Cmd :=
  let zero : EngF := { fn := 0, ty := 0, a := 0, b := 0, c := 0, wf := 0, wn := 0, sn := 0, sf := 0, efl := 0 }
  let k := match range with
    | some (lo, n) =>
      mkCmd c (.tlbInv zero) [.ready (.scalar (BitVec.ofNat 64 lo)), .ready (.scalar (BitVec.ofNat 64 n))] [] []
    | none => mkCmd c (.tlbInvAll { zero with fn := 1 }) [] [] []
  { k with seq := c.seq, dest := c.serials, marker := true }

/-- A shootdown reaches a core: its translations of the range are dropped at once, and a marker goes behind the commands of
its CQ. -/
def State.shootCore (s : State) (g : Nat) (range : Option (Nat × Nat)) : State :=
  s.modCore g (fun c =>
    let c := c.shoot range
    if c.cq.all (·.done) then c else { c with cq := c.cq ++ [shootMark c range], seq := c.seq + 1 })

/-- A shootdown of a partition begins on each of its cores (R261). -/
def State.shootdown (s : State) (d p : Nat) (range : Option (Nat × Nat)) : State :=
  (List.range 128).foldl (fun s g =>
    let c := s.core g
    if c.part = p || s.ownsCore p g then
      let s := s.shootCore g range
      if c.cq.all (·.done) then s else s.modDie d (fun x => { x with shootLeft := x.shootLeft ++ [(g, c.seq)] })
    else s) s

/-- The range SHOOT, SHOOTVA and SHOOTLEN name. -/
def Die.shootRange (x : Die) (v : Word) : Option (Nat × Nat) :=
  if v.getLsbD 4 then none else some (x.shootva.toNat, x.shootlen.toNat)

/-- A write of SHOOT: the start bit reads as 0 after it (assumption 44), and busy is the device's (R303). -/
def State.writeShoot (s : State) (d : Nat) (v : Word) : Option State :=
  if bitsNat v 6 57 != 0 then none
  else
    let s := s.modDie d (fun x => { x with shoot := (x.shoot &&& (1 <<< 63)) ||| (v &&& 0x1F) })
    some (if v.getLsbD 5 then
        (s.modDie d (fun x => { x with shoot := x.shoot ||| (1 <<< 63) })).shootdown d (bitsNat v 0 4) ((s.die d).shootRange v)
      else s)

/-- SHOOTDOWN (R261): SHOOT is written with its start bit. -/
def execShootdown (d : Nat) (v : Word) (s : State) : Out :=
  if 8 ≤ d || !v.getLsbD 5 then .next s else regStep s (s.writeShoot d v)

/-- A marker at the head of what a CQ still has to do completes: it drops the translations once more. -/
def State.settleMark (s : State) (g seq : Nat) : State :=
  let c := s.core g
  match c.cq.find? (fun k => k.seq = seq) with
  | none => s
  | some k =>
    if (c.cq.takeWhile (fun x => x.seq != seq)).all (·.done) then
      s.modCore g (fun c =>
        { c.shoot (match k.ops with
            | [.ready (.scalar a), .ready (.scalar b)] => some (a.toNat, b.toNat)
            | _ => none) with
          cq := c.cq.filter (fun x => x.seq != seq) })
    else s

/-- SHOOTDOWN_COMPLETE (R261): the markers whose older commands have completed complete; the shootdown does with the
last of them. -/
def execShootdownComplete (s : State) : Out :=
  let d := dieOfAgent s.focus
  let s := (s.die d).shootLeft.foldl (fun s x => s.settleMark x.1 x.2) s
  let left := (s.die d).shootLeft.filter (fun x => (s.core x.1).cq.any (fun k => k.seq = x.2))
  .next (s.modDie d (fun x =>
    { x with shootLeft := left, shoot := if left.isEmpty then x.shoot &&& 0x1F else x.shoot }))

/-! Key slots (R369). -/

/-- BUSY of KEYCTL. -/
def keyBusy (w : Word) : Bool := w.getLsbD 63

/-- A sweep: every sector recorded with a slot becomes poison. -/
def sweep (t : Tab HMeta) (k : Nat) : Tab HMeta :=
  t.map (fun x => if x.2.key = k then (x.1, { x.2 with poison := true, ecode := 8 }) else x)

/-- Load or clear a key slot: its generation increments; one that comes back to 0 sweeps. -/
def State.setKey (s : State) (k : Nat) (mat : Option (List Byte)) : State :=
  let x := s.keySlot k
  let gen := (x.gen + 1) % 256
  let s := { s with keys := tput KeySlot.reset s.keys k { loaded := mat.isSome, gen := gen, mat := mat.getD [] } }
  if gen = 0 then { s with hbmMeta := sweep s.hbmMeta k } else s

/-- The 64 bytes at a physical address, as the base dies hold them behind the home L2. -/
def State.physSector (s : State) (pa : Nat) : List Byte :=
  let sec := pa / 64
  let x := match s.cached .l2 sec with
    | some x => x.fill (s.hbmRead sec x.key x.home)
    | none => s.hbmRead sec (s.hmeta sec).key 0
  natToBytes 64 x.data.toNat

/-- A write of KEYCTL. -/
def State.writeKeyctl (s : State) (d : Nat) (v : Word) : Option State :=
  let op := bitsNat v 0 2
  let k := bitsNat v 2 7
  if keyBusy (s.die d).keyctl || bitsNat v 24 39 != 0 || bitsNat v 9 7 != 0 || op = 3 then none
  else
    let busy (s : State) : State := s.modDie d (fun x => { x with keyctl := (v &&& 0x1FF) ||| (1 <<< 63) })
    some (match op with
      | 1 => busy (s.setKey k (some (s.physSector (bitsNat (s.die d).keysrc 6 46 * 64))))
      | 2 => busy (s.setKey k none)
      | _ => s.modDie d (fun x => { x with keyctl := v &&& 0x1FF }))

/-- KEYCTL as it reads. -/
def State.readKeyctl (s : State) (d : Nat) : Word :=
  let w := (s.die d).keyctl
  w ||| BitVec.ofNat 64 (s.keyGen (bitsNat w 2 7) % 256 * 2 ^ 16)

/-- KEY_LOAD (R369). -/
def execKeyLoad (d : Nat) (k : BitVec 7) (s : State) : Out :=
  if 8 ≤ d then .next s else regStep s (s.writeKeyctl d (BitVec.ofNat 64 (k.toNat * 4 + 1)))
/-- KEY_CLEAR (R369). -/
def execKeyClear (d : Nat) (k : BitVec 7) (s : State) : Out :=
  if 8 ≤ d then .next s else regStep s (s.writeKeyctl d (BitVec.ofNat 64 (k.toNat * 4 + 2)))
/-- KEY_OPERATION_END (R369). -/
def execKeyOperationEnd (s : State) : Out :=
  .next (s.modDie (dieOfAgent s.focus) (fun x => { x with keyctl := x.keyctl &&& 0x1FF }))

/-! Error injection (R357). -/

/-- A write of ERRINJ. -/
def State.writeErrinj (s : State) (g : Nat) (v : Word) : Option State :=
  let e := bitsNat v 0 6
  if bitsNat v 16 48 != 0 || bitsNat v 10 5 != 0 || bitsNat v 6 2 != 0
      || (v.getLsbD 15 && (bitsNat v 8 2 == 0 || !(e == 1 || e == 2 || e == 3 || e == 8))) then none
  else some (s.modCore g (fun c => { c with errinj := v }))

/-- ERRINJ_ARM (R357). -/
def execErrinjArm (g : Nat) (v : Word) (s : State) : Out :=
  if 128 ≤ g || !v.getLsbD 15 then .next s else regStep s (s.writeErrinj g v)
/-- ERRINJ_CANCEL (R357). -/
def execErrinjCancel (g : Nat) (v : Word) (s : State) : Out :=
  if 128 ≤ g || v.getLsbD 15 then .next s else regStep s (s.writeErrinj g v)

/-! Scheduling (R20, R311, R315). -/

/-- A write of PSCHED: a partition that becomes scheduled gets its logged events first. -/
def State.writePsched (s : State) (p : Nat) (v : Word) : Option State :=
  if bitsNat v 1 19 != 0 || bitsNat v 22 2 = 3 then none
  else
    let s := s.modPart p (fun q => { q with psched := v })
    some (if s.scheduled p then s.deliverLog p else s)

/-- PARTITION_SCHEDULE (R311). -/
def execPartitionSchedule (p : Nat) (v : Word) (s : State) : Out :=
  if 16 ≤ p || !v.getLsbD 0 then .next s else regStep s (s.writePsched p v)
/-- PARTITION_DESCHEDULE (R311). -/
def execPartitionDeschedule (p : Nat) (v : Word) (s : State) : Out :=
  if 16 ≤ p || v.getLsbD 0 then .next s else regStep s (s.writePsched p v)

/-- Whether a SLICE note of a partition is queued (R311). -/
def State.sliceQueued (s : State) (p : Nat) : Bool :=
  (s.die (hostDie p)).trapq.any (fun t => t.note && t.cause == 0 && t.part == p)

/-- SLICE_EXPIRY (R311) for the partition in focus. -/
def execSliceExpiry (s : State) : Out :=
  match s.focus with
  | .sfe p =>
    let q := s.part p
    if q.psched.getLsbD 0 && bitsNat q.psched 40 24 != 0 && s.effSlice p ≤ q.sliceT then
      let s := s.modPart p (fun q => { q with sliceT := 0 })
      .next (if s.sliceQueued p then s else s.queueNote (hostDie p) { TrapInfo.zero with part := p })
    else .next s
  | _ => .next s

/-- EVENT_DELIVERY (R315): an event of TYPE 2 to 5 arises. A TYPE 1 event arises with a stream trap. -/
def execEventDelivery (p : Nat) (typ : BitVec 8) (data : Word) (s : State) : Out :=
  if p < 16 && 2 ≤ typ.toNat && typ.toNat ≤ 5 then .next (s.postEvent p typ.toNat data) else .next s

/-! Page walks (R259). -/

/-- A core's cached translations of an address give way: a TLB may hold them until they are invalidated, and need not
(R260, R261). -/
def State.forgetLeaf (s : State) (g va : Nat) : State :=
  s.modCore g (fun c => { c with tlb := c.tlb.filter (fun e => va / 2 ^ e.bits != e.vpn) })

/-- A core walks an address afresh: a leaf that passes R259 for a load, a store or an atomic fills its TLB (R260); a walk that
fails leaves the trap to the access. -/
def State.pageWalk (s : State) (g va : Nat) : State :=
  let t := s.forgetLeaf g va
  match t.walk (t.rootOf g) va with
  | .error _ => t
  | .ok (pte, bits) =>
    let pass (n : Need) : Bool := (permCheck pte { n with user := n.user && !isSvc g } va).isNone
    if pass Need.load || pass Need.store then t.keepLeaf g va pte bits else t

/-- PAGE_WALK (R259). -/
def execPageWalk (g : Nat) (va : Word) (s : State) : Out :=
  if g < 136 && va.toNat < 2 ^ 48 then .next (s.pageWalk g va.toNat) else .next s

/-! The numbers (R303). -/

/-- The words of a copy tag (R264). -/
def Tag.word (t : Tag) (w : Nat) : Word :=
  if w = 0 then
    let st := match t.st with
      | .free => 0
      | .queued => 1
      | .active => 2
      | .stopped => 3
      | .done => 4
    BitVec.ofNat 64 (st * 2 ^ 61 + (if t.err then 2 ^ 60 else 0) + t.ecode.toNat * 2 ^ 54 + t.bytes % 2 ^ 40)
  else BitVec.ofNat 64 (t.time % 2 ^ 56)

/-- The code of a context state (R300). -/
def CState.code : CState → Nat
  | .idle => 0
  | .run => 1
  | .trapped => 2
  | .draining => 3
  | .frozen => 4
  | .saved => 5
  | .killed => 6

/-- A control register number taken apart: die, group and index; none where it has nonzero high bits or names no die. -/
structure CsrNum where
  die : Nat
  group : Nat
  index : Nat
  deriving DecidableEq, Repr

/-- Read a register number on a die (R303). DIE counts where the group has a unit for each die: it is ignored by the
partition registers other than OWN and SHARE. -/
def csrNum (here : Nat) (n : Word) : Option CsrNum :=
  let d := bitsNat n 20 4
  let grp := bitsNat n 12 8
  let idx := bitsNat n 0 12
  let die := if d = 15 then here else d
  let ignores := 0x40 ≤ grp && grp ≤ 0x4F && idx < 0x010
  if bitsNat n 24 40 != 0 || (8 ≤ die && !ignores) then none else some { die := die, group := grp, index := idx }

/-- A register of a die (GROUP 0x00). -/
def State.readDieReg (s : State) (d i : Nat) : Option (Word × State) :=
  let x := s.die d
  let c := s.core (svcOf d)
  match i with
  | 0x000 => some (x.xheap, s)
  | 0x001 => some (BitVec.ofNat 64 (x.blocksN * 2 ^ 32 + x.evictN * 2 ^ 16 + x.heapF), s)
  | 0x002 => some (c.stvec, s)
  | 0x003 => some (c.sepc, s)
  | 0x004 => some (c.scause, s)
  | 0x005 => some (c.saddr, s)
  | 0x006 => some (x.spin, s)
  | 0x008 => some (BitVec.ofNat 64 (x.trapq.length % 64 + x.tqdrop % 2 ^ 16 * 2 ^ 16), s)
  | 0x009 => some (s.popTrap d)
  | 0x020 => some (x.shoot, s)
  | 0x021 => some (x.shootva, s)
  | 0x022 => some (x.shootlen, s)
  | 0x030 => some (s.readKeyctl d, s)
  | 0x031 => some (x.keysrc, s)
  | i => if 0x010 ≤ i && i ≤ 0x017 then some ((x.tqbuf[i - 0x010]?).getD 0, s) else none

/-- A register of a user core (GROUP 0x01 to 0x10). -/
def State.readCoreReg (s : State) (g i : Nat) : Option Word :=
  let c := s.core g
  match i with
  | 0x000 => some (if c.hold then 4 else 0)
  | 0x001 => some (BitVec.ofNat 64 (c.quant % 2 ^ 48 * 2 ^ 16 + c.cstate.code))
  | 0x006 => some c.errinj
  | i =>
    if 0x002 ≤ i && i ≤ 0x005 then some (c.cresN (i - 0x002))
    else if 0x100 ≤ i && i < 0x140 then some ((c.tag ((i - 0x100) / 2)).word (i % 2))
    else none

/-- A register of a patch slot (GROUP 0x20). -/
def State.readPatchReg (s : State) (d i : Nat) : Option Word :=
  if 128 ≤ i then none
  else
    let p := s.patch d (i / 4)
    some (match i % 4 with
      | 0 => p.mval
      | 1 => p.mmask
      | 2 => p.ctrl
      | _ => p.target)

/-- A register of a partition (GROUP 0x40 to 0x4F). -/
def State.readPartReg (s : State) (d p i : Nat) : Option (Word × State) :=
  let q := s.part p
  match i with
  | 0x000 => some (q.psched, s)
  | 0x001 => some (q.pswap, s)
  | 0x002 => some (q.seed, s)
  | 0x003 => some (q.ptroot, s)
  | 0x004 => some (q.sctl, s)
  | 0x005 => some (BitVec.ofNat 64 q.pgen, s)
  | 0x006 => some (s.evstat p)
  | 0x007 => some (s.popEvent p)
  | 0x008 => some ((q.evbuf[0]?).getD 0, s)
  | 0x009 => some ((q.evbuf[1]?).getD 0, s)
  | 0x00A => some (BitVec.ofNat 64 q.wstallCkpt, s)
  | 0x00B => some (BitVec.ofNat 64 q.wstallFull, s)
  | 0x00C => some (BitVec.ofNat 64 q.wstallPool, s)
  | 0x010 => some (s.own p d, s)
  | i => if 0x020 ≤ i && i ≤ 0x02F then some (tget 0 q.share (d * 16 + (i - 0x020)), s) else none

/-- Read a control register (R303, R304); none for an unassigned number. -/
def State.csrRead (s : State) (here : Nat) (n : Word) : Option (Word × State) :=
  match csrNum here n with
  | none => none
  | some x =>
    if x.group = 0 then s.readDieReg x.die x.index
    else if x.group ≤ 0x10 then (s.readCoreReg (x.die * 16 + (x.group - 1)) x.index).map (fun w => (w, s))
    else if x.group = 0x20 then (s.readPatchReg x.die x.index).map (fun w => (w, s))
    else if 0x40 ≤ x.group && x.group ≤ 0x4F then s.readPartReg x.die (x.group - 0x40) x.index
    else none

/-- Write a register of a die. -/
def State.writeDieReg (s : State) (d i : Nat) (v : Word) : Option State :=
  let svc (f : Core → Core) : Option State := some (s.modCore (svcOf d) f)
  match i with
  | 0x000 => s.writeXheap d v
  | 0x002 => svc (fun c => { c with stvec := v })
  | 0x003 => svc (fun c => { c with sepc := v })
  | 0x004 => svc (fun c => { c with scause := v })
  | 0x005 => svc (fun c => { c with saddr := v })
  | 0x006 => s.writeSpin d v
  | 0x020 => s.writeShoot d v
  | 0x021 => some (s.modDie d (fun x => { x with shootva := v }))
  | 0x022 => some (s.modDie d (fun x => { x with shootlen := v }))
  | 0x030 => s.writeKeyctl d v
  | 0x031 => some (s.modDie d (fun x => { x with keysrc := v }))
  | _ => none

/-- Write a register of a user core. -/
def State.writeCoreReg (s : State) (g i : Nat) (v : Word) : Option State :=
  match i with
  | 0x000 => if 8 ≤ v.toNat then none else s.cctl g v.toNat
  | 0x006 => s.writeErrinj g v
  | i => if 0x002 ≤ i && i ≤ 0x005 then some (s.modCore g (fun c => { c with cres := tput 0 c.cres (i - 0x002) v })) else none

/-- Write a register of a partition. -/
def State.writePartReg (s : State) (d p i : Nat) (v : Word) : Option State :=
  let put (f : Part → Part) : Option State := some (s.modPart p f)
  match i with
  | 0x000 => s.writePsched p v
  | 0x001 => put (fun q => { q with pswap := v })
  | 0x002 => if v.toNat < 2 ^ 32 then put (fun q => { q with seed := v }) else none
  | 0x003 => if bitsNat v 0 12 = 0 ∧ bitsNat v 52 12 = 0 then put (fun q => { q with ptroot := v }) else none
  | 0x004 => s.writeSctl p v
  | 0x00A => put (fun q => { q with wstallCkpt := v.toNat })
  | 0x00B => put (fun q => { q with wstallFull := v.toNat })
  | 0x00C => put (fun q => { q with wstallPool := v.toNat })
  | 0x010 => if s.ownLegal p d v then some (s.setOwn p d v) else none
  | i =>
    if 0x020 ≤ i && i ≤ 0x02F && v.toNat < 2 ^ 17 then
      put (fun q => { q with share := tput 0 q.share (d * 16 + (i - 0x020)) v })
    else none

/-- Write a control register (R303, R304); none where it traps OPERAND. -/
def State.csrWrite (s : State) (here : Nat) (n v : Word) : Option State :=
  match csrNum here n with
  | none => none
  | some x =>
    if x.group = 0 then s.writeDieReg x.die x.index v
    else if x.group ≤ 0x10 then s.writeCoreReg (x.die * 16 + (x.group - 1)) x.index v
    else if 0x40 ≤ x.group && x.group ≤ 0x4F then s.writePartReg x.die (x.group - 0x40) x.index v
    else none

/-- `csr.r` (R304). -/
def execCsrR (f : BaseF) (s : State) : Out :=
  withOps s .system (opsOf (.csrR f)) [false] 1 (fun a vs =>
    match (s.commit a).csrRead (dieOfAgent a) (w0 vs) with
    | some (w, s) => .next (s.retire a 1 [.scalar w])
    | none => .next (s.trap a { code := cOPERAND } [false] 1))

/-- `csr.w` (R304). -/
def execCsrW (f : BaseF) (s : State) : Out :=
  withOps s .system (opsOf (.csrW f)) [] 1 (fun a vs =>
    match (s.commit a).csrWrite (dieOfAgent a) (w0 vs) (w1 vs) with
    | some s => .next (s.retire a 1 [])
    | none => .next (s.trap a { code := cOPERAND } [] 1))

end Sys2Proof.Machine
end

