-- ==== Sys2Proof/Machine/Image.lean ====
section
/-! DEFINITION. Scan images (R319, R321 to R323, R332): what each segment holds, how a portable image is read back, and
the header. A segment is a number, its byte at offset `o` standing at weight 256^`o`. -/

namespace Sys2Proof.Machine

/-! Fields of a segment. -/

/-- A value at a byte offset. -/
def putAt (off v : Nat) : Nat := v * 2 ^ (8 * off)
/-- `w` bytes at a byte offset. -/
def getAt (seg off w : Nat) : Nat := seg / 2 ^ (8 * off) % 2 ^ (8 * w)
/-- Items of one size side by side from an offset. -/
def putRow (off size : Nat) (l : List Nat) : Nat := ((l.zipIdx).map (fun x => putAt (off + size * x.2) x.1)).sum

/-! Lengths (R319, R332). -/

/-- Length of a segment in KiB in the image of a frozen core of layout 0x0001_0000. -/
def segKib (n : Nat) : Nat :=
  match n with
  | 0 => 4
  | 1 => 24
  | 2 => 3
  | 3 => 49
  | 4 => 8
  | 5 => 16
  | 6 => 20
  | 23 => 1
  | _ => 50

/-- Length of a segment in units of 4 KiB in a portable image. -/
def segUnits (n : Nat) : Nat :=
  match n with
  | 0 => 28
  | 1 => 34
  | 2 => 1
  | 3 => 13
  | 4 => 1
  | 5 => 0
  | 6 => 31
  | 23 => 1
  | _ => 13

/-- Bytes of a segment in an image. -/
def segBytes (portable : Bool) (n : Nat) : Nat := if portable then segUnits n * 4096 else segKib n * 1024

/-! The sector (R321, R322). -/

/-- The core that drives a sector now, with the place of the sector among those it drives (R208, R325). -/
def State.driver (s : State) (x : Nat) : Option (Nat × Nat) :=
  let member := ((List.range 16).map (dieOf x * 16 + ·)).findSome? (fun g =>
    if (s.core g).gang.isSome then ((s.driven g (s.core g).gang).findIdx? (· == x)).map (fun i => (g, i)) else none)
  match member with
  | some r => some r
  | none => if (List.range 16).any (fun p => s.ownsCore p x && s.ownsSect p x) then some (x, 0) else none

/-- The command that feeds A to the running `mm` of a core: that of the west member of its gang, or its own, which keeps what
had come over the bridle columns once they are sealed (R209, R324). -/
def State.feedsA (s : State) (g : Nat) (k : Cmd) : Cmd :=
  if (s.core g).sealedOff k then k else ((s.core (westOf g k)).mmRunning.map (·.1)).getD k

/-- What the running `mm` has put into the latches of PE(i, j) of a sector, and whether the PE is amid its steps: ALAT, BLAT
and BUSY (R321). -/
def State.peDerived (s : State) (x i j : Nat) : Option (BitVec 16) × Option (BitVec 16) × Bool :=
  match s.driver x with
  | none => (none, none, false)
  | some (g, n) =>
    match (s.core g).mmRunning with
    | none => (none, none, false)
    | some (k, m) =>
      let col := j + 256 * n
      let pos := gangPos g k.gang
      let d := j + 257 * (pos + n) + 1
      let kw := s.feedsA g k
      if m.m ≤ i || m.n ≤ col || k.rowCnt i < d then (none, none, false)
      else
        let u := k.rowCnt i - d
        (latchVal m.a.fmt m.t2 m.k u (fun n => elemAt kw.aBuf kw.aOver (i * m.k + n) (256 * pos + col + 1)),
          latchVal m.b.fmt m.t2 m.k u (fun n => elemAt k.bBuf k.bOver (col * m.k + n) (i + 1)),
          stepClk m.t2 (m.k - 1) > u)

/-- The latches and BUSY of a PE: what a `scan.in` has loaded, else what the running `mm` has put there (R321). -/
def State.peLatches (s : State) (x i j : Nat) : Option (BitVec 16) × Option (BitVec 16) × Bool :=
  match tget none (s.sector x).lats (256 * i + j) with
  | some l => (l.a, l.b, l.busy)
  | none => s.peDerived x i j

/-- A PE record (R321). -/
def State.peRecord (s : State) (x i j : Nat) : Nat :=
  let c := s.sector x
  let key := i * 256 + j
  let acc (t : Tab (Option (BitVec 80))) : Nat × Nat := match tget none t key with
    | some v => (v.toNat, 1)
    | none => (0, 0)
  let lat (v : Option (BitVec 16)) : Nat × Nat := match v with
    | some b => (b.toNat, 1)
    | none => (0, 0)
  let (a, b, busy) := s.peLatches x i j
  (acc c.acc0).2 + (acc c.acc1).2 * 2 + (lat a).2 * 4 + (lat b).2 * 8 + (if busy then 16 else 0) + (lat b).1 * 2 ^ 8
    + (lat a).1 * 2 ^ 24 + (acc c.acc0).1 * 2 ^ 40 + (acc c.acc1).1 * 2 ^ 120

/-- Band `b` of a sector (R322). -/
def State.bandSeg (s : State) (x b : Nat) : Nat :=
  ((List.range 2048).map (fun n => putAt (25 * n) (s.peRecord x (8 * b + n / 256) (n % 256)))).sum

/-- The west bridle latches of a sector (R322). -/
def State.latchSeg (s : State) (x : Nat) : Nat :=
  ((List.range 128).map (fun r => putAt (4 * r) (match tget none (s.sector x).latch r with
    | some v => v.toNat + 2 ^ 16
    | none => 0))).sum

/-- Whether the column west of a sector is open: a formed gang spans it and its west neighbour (R324). -/
def State.columnOpen (s : State) (x : Nat) : Bool :=
  (s.die (dieOf x)).gangs.any (fun k => k.row == sectRow x && k.west < sectCol x && sectCol x < k.west + k.width)

/-- What a latch value loaded in place of another makes of the elements of the steps it holds (R321): it stands for them in
every latch they have still to reach, and one loaded as not valid leaves them invalid there. `el` gives the element of a step.
What an f32 element becomes with another piece is left open (assumption 7). -/
def overLatch (over' : Tab (Option (Nat × Option Nat))) (fmt t2 k u row at' : Nat) (el : Nat → Option Nat)
    (old new : Option (BitVec 16)) : Tab (Option (Nat × Option Nat)) :=
  if old = new || old = none then over'
  else if fmt = 11 then
    tput none over' (row * k + u / 8)
      (some (at', new.map (fun v => (Config.pieceElem (((el (u / 8)).getD 0) * 8 + u % 8) v).toNat)))
  else
    let low (v : BitVec 16) : Nat := v.toNat % 2 ^ tyWidth fmt
    match stepsAt t2 k u with
    | [a] => tput none over' (row * k + a) (some (at', new.map low))
    | a :: b :: _ =>
      tput none (tput none over' (row * k + a) (some (at', new.map (fun v => v.toNat % 256 % 2 ^ tyWidth fmt)))) (row * k + b)
        (some (at', new.map (fun v => v.toNat / 256 % 2 ^ tyWidth fmt)))
    | [] => over'

/-- The latches and BUSY that a PE record loads (R321). -/
def latOf (rec' : Nat) : PeLat :=
  let val (on lo : Nat) : Option (BitVec 16) := if rec' / 2 ^ on % 2 = 1 then some (BitVec.ofNat 16 (rec' / 2 ^ lo)) else none
  { a := val 2 24, b := val 3 8, busy := rec' / 16 % 2 = 1 }

/-- Load the latches of a band into the running `mm` of the core that drives the sector: the elements they hold go on to the PEs
east and south of them. -/
def State.feedLatches (s : State) (x b seg : Nat) : State :=
  match s.driver x with
  | none => s
  | some (g, n) =>
    match (s.core g).mmRunning with
    | none => s
    | some (k, m) =>
      let kw := s.feedsA g k
      let west := if (s.core g).sealedOff k then g else westOf g k
      let pos := gangPos g k.gang
      let r := (List.range 2048).foldl (fun (r : Tab (Option (Nat × Option Nat)) × Tab (Option (Nat × Option Nat))) e =>
        let new := latOf (getAt seg (25 * e) 25)
        let i := 8 * b + e / 256
        let j := e % 256
        let col := j + 256 * n
        let u := k.rowCnt i - (j + 257 * (pos + n) + 1)
        let (la, lb, _) := s.peDerived x i j
        (overLatch r.1 m.a.fmt m.t2 m.k u i (256 * pos + col)
            (fun n => elemAt kw.aBuf kw.aOver (i * m.k + n) (256 * pos + col + 1)) la new.a,
          overLatch r.2 m.b.fmt m.t2 m.k u col i (fun n => elemAt k.bBuf k.bOver (col * m.k + n) (i + 1)) lb new.b))
        (kw.aOver, k.bOver)
      let s := match (s.core west).mmRunning with
        | some (kw, _) => s.modCore west (fun c => c.modCmd .m kw.seq (fun k => { k with aOver := r.1 }))
        | none => s
      s.modCore g (fun c => c.modCmd .m k.seq (fun k => { k with bOver := r.2 }))

/-- Load the latches of a band (R321, R328): what differs from what the running `mm` puts there by itself is held, until the
row takes its next clk (assumption 20). -/
def State.loadLatches (s : State) (x b seg : Nat) : State :=
  let s := s.feedLatches x b seg
  s.setSector x { s.sector x with
    lats := (List.range 2048).foldl (fun t e =>
      let i := 8 * b + e / 256
      let l := latOf (getAt seg (25 * e) 25)
      let d := s.peDerived x i (e % 256)
      tput none t (256 * i + e % 256) (if d = (l.a, l.b, l.busy) then none else some l)) (s.sector x).lats }

/-- Load a band: each record sets the accumulators and their valid bits (R321). -/
def Sector.loadBand (x : Sector) (b seg : Nat) : Sector :=
  (List.range 2048).foldl (fun x n =>
    let r := getAt seg (25 * n) 25
    let key := (8 * b + n / 256) * 256 + n % 256
    let val (on lo : Nat) : Option (BitVec 80) := if r / 2 ^ on % 2 = 1 then some (BitVec.ofNat 80 (r / 2 ^ lo)) else none
    { x with acc0 := tput none x.acc0 key (val 0 40), acc1 := tput none x.acc1 key (val 1 120) }) x

/-- Load the bridle latches; a sealed column drops them (R328), and those of an open one go on into their sector (R324). -/
def State.loadLatch (s : State) (x seg : Nat) : State :=
  let col : Tab (Option (BitVec 16)) := if s.columnOpen x then
      (List.range 128).foldl (fun t r =>
        let w := getAt seg (4 * r) 4
        tput none t r (if w / 2 ^ 16 % 2 = 1 then some (BitVec.ofNat 16 w) else none)) []
    else []
  let s := s.setSector x { s.sector x with latch := col }
  match (s.die (dieOf x)).gangs.find? (fun k => k.row == sectRow x && k.west < sectCol x && sectCol x < k.west + k.width) with
  | none => s
  | some y =>
    let west := coreAt (dieOf x) y.row y.west
    match (s.core west).mmRunning with
    | none => s
    | some (kw, m) =>
      let q := sectCol x - y.west
      let r := (List.range m.m).foldl (fun r i =>
        let u := kw.rowCnt i - 257 * q
        let old := if kw.rowCnt i < 257 * q then none
          else latchVal m.a.fmt m.t2 m.k u (fun n => elemAt kw.aBuf kw.aOver (i * m.k + n) (256 * q))
        overLatch r m.a.fmt m.t2 m.k u i (256 * q - 1) (fun n => elemAt kw.aBuf kw.aOver (i * m.k + n) (256 * q)) old
          (tget none col i)) kw.aOver
      s.modCore west (fun c => c.modCmd .m kw.seq (fun k => { k with aOver := r }))

/-! The portable form (R332): writing. -/

/-- A value as it stands in a value slot; one not produced yet, or poisoned, stands as zero (assumption 21). -/
def slotNat : Slot → Nat
  | .ready (.scalar w) => w.toNat
  | .ready (.vector v) => v.toNat
  | _ => 0
/-- A value of a channel entry. -/
def valNat : Val → Nat
  | .scalar w => w.toNat
  | .vector v => v.toNat
  | .poisoned _ _ => 0

/-- The position value slot `n` holds in a block whose next free position is `p`. -/
def slotPos (p n : Nat) : Option Nat :=
  if n < 16 then (if n < p then some n else none)
  else if 191 ≤ p + (n - 16) && p + (n - 16) - 191 < p then some (p + (n - 16) - 191) else none

/-- The value at a position. -/
def Ctx.atPos (c : Ctx) (n : Nat) : Option Slot := if n < c.pos then c.vals[c.pos - 1 - n]? else none

/-- SRC as a portable image holds it: what the elements still to come of a stopped copy that draws are to draw from (R29, R268;
assumption 46). -/
def Core.srcOut (c : Core) : BitVec 32 :=
  match c.cq.find? (fun k => k.stopped && !k.done && k.draws) with
  | some k => drawN (k.prog - k.col) k.sr
  | none => c.src

/-- SEG0. -/
def Core.seg0 (c : Core) : Nat :=
  let x := c.ctx
  let sl := (List.range 207).map (fun n => (slotPos x.pos n).bind x.atPos)
  let rets := x.rets.reverse.map (fun r => match r with
    | .pc v => v
    | .mark => 0)
  putAt 0 x.vpc + putAt 8 x.pos + putAt 16 x.head.toNat + putAt 24 ((if c.late then 1 else 0) + 256)
    + putAt 32 c.srv.toNat + putAt 36 c.srm.toNat + putAt 40 c.srcOut.toNat + putAt 44 c.padUnits + putAt 45 rets.length
    + putRow 64 8 rets
    + putAt 576 ((sl.zipIdx).map (fun v => if (v.1.map slotVec).getD false then 2 ^ v.2 else 0)).sum
    + putRow 1024 512 (sl.map (fun v => (v.map slotNat).getD 0))

/-- The fields that the operand values of an instruction belong to, 0 to 3 for A to D, in the order of `pushOps`. -/
def opFields (i : Instr) : List Nat :=
  let w := wantsOf i
  (if w.1 = .none then [] else [0]) ++ (if w.2.1 = .none then [] else [1]) ++ (if w.2.2 = .none then [] else [2]) ++ [3]

/-- How many descriptors stand before the first that a command names: a drain into q0 has no destination. -/
def unnamed : Instr → Nat
  | .mmDrainQ0 _ => 1
  | _ => 0

/-- A queue entry of SEG1. -/
def Cmd.entry (k : Cmd) : Nat :=
  putAt 0 k.word.toNat + putAt 8 k.vpc + putAt 16 (1 + (if k.stopped then 2 else 0))
    + putRow 32 32 (((k.desc.drop (unnamed k.instr)).take 3).map (·.toNat))
    + ((k.ops.zip (opFields k.instr)).map (fun x => putAt (128 + 512 * x.2) (slotNat x.1))).sum

/-- SEG1. -/
def Core.seg1 (c : Core) : Nat :=
  let q (base : Nat) (l : List Cmd) : Nat := putRow (2176 * base) 2176 (l.map Cmd.entry)
  q 0 c.mq + q 16 c.vq + q 48 c.cq

/-- A channel's configuration word. -/
def cfgNat : Option ChanCfg → Nat
  | some f => f.mod.toNat + f.snk % 16 * 2 ^ 24 + 2 ^ 31
  | none => 0

/-- SEG2. -/
def Core.seg2 (c : Core) : Nat :=
  putRow 0 4 ((List.range 32).map (fun n => (c.flag n).toNat)) + putRow 128 32 ((List.range 64).map (fun n => (c.slot n).toNat))
    + putRow 2176 8 ((List.range 4).map (fun q => cfgNat (c.chan q).cfg))
    + putAt 2208 (match c.vqErr with
      | some e => e.toNat + 64
      | none => 0)

/-- State of a port. -/
def Port.stateBits (p : Port) : Nat :=
  match p.dir with
  | .unbound => 0
  | .read => if p.exhausted then 3 else 1
  | .write => if p.exhausted then 7 else 2

/-- Where the entries of a channel start, and how many there are (R222). -/
def chanBase (q : Nat) : Nat × Nat :=
  match q with
  | 0 => (0, 16)
  | 1 => (16, 16)
  | 2 => (32, 32)
  | _ => (64, 32)

/-- SEG3. -/
def Core.seg3 (c : Core) : Nat :=
  let port (p : Port) : Nat := putAt 0 p.slot.toNat + putAt 32 p.walk.toNat + putAt 40 p.pos + putAt 48 p.stateBits
  putRow 0 64 ((List.range 8).map (fun n => port (c.port n)))
    + putRow 512 8 ((List.range 4).map (fun q =>
        (c.chan q).ents.length + (if (c.chan q).held.isSome then 256 else 0) + (c.chan q).popped % 8 * 512))
    + putRow 1024 512 ((List.range 4).map (fun q => (((c.chan q).held).map valNat).getD 0))
    + ((List.range 4).map (fun q => putRow (3072 + 512 * (chanBase q).1) 512 ((c.chan q).ents.map valNat))).sum

/-- SEG4. -/
def Core.seg4 (c : Core) : Nat :=
  putRow 0 16 ((List.range 32).map (fun t => ((c.tag t).word 0).toNat + ((c.tag t).word 1).toNat * 2 ^ 64)) + putAt 512 c.lastTag

/-- A scale reference. -/
def ScaleRef.nat (r : ScaleRef) : Nat := r.base % 2 ^ 48 + (if r.scaled then 2 ^ 48 else 0) + (if r.fmt32 then 2 ^ 49 else 0)
/-- Mode of a bank. -/
def modeNat : Option BankMode → Nat
  | some .fp => 0
  | some .int => 1
  | some .scaled => 2
  | none => 3

/-- A bank's state. -/
def Bank.nat (b : Bank) : Nat :=
  let bit (v : Bool) (n : Nat) : Nat := if v then 2 ^ n else 0
  putAt 0 (modeNat b.mode) + putAt 2 b.m + putAt 4 b.n + putAt 8 b.refA.nat + putAt 16 b.refB.nat
    + putAt 24 (bit b.ovf 0 + bit b.poison 1 + bit b.chkVoid 2 + bit b.chkOn 3 + bit b.chkNan 4)
    + putRow 256 80 ((List.range 768).map (fun n => wrapNat 640 (tget 0 b.sums n)))

/-- SEG6. -/
def Core.seg6 (c : Core) : Nat := putAt 0 c.bank0.nat + putAt 63488 c.bank1.nat

/-- A core segment in the portable form. -/
def Core.portableSeg (c : Core) (n : Nat) : Nat :=
  match n with
  | 0 => c.seg0
  | 1 => c.seg1
  | 2 => c.seg2
  | 3 => c.seg3
  | 4 => c.seg4
  | 6 => c.seg6
  | _ => 0

/-! The portable form: reading. -/

/-- A value of a kind. -/
def valOf (isVec : Bool) (v : Nat) : Val := if isVec then .vector (BitVec.ofNat 4096 v) else .scalar (BitVec.ofNat 64 v)

/-- Load SEG0. The block is lowered afresh from the resume point. -/
def Core.loadSeg0 (c : Core) (v : Nat) : Core :=
  let p := getAt v 8 8
  let kinds := getAt v 576 32
  let at' (n : Nat) : Slot := .ready (valOf (kinds / 2 ^ n % 2 = 1) (getAt v (1024 + 512 * n) 512))
  let val (pos : Nat) : Slot :=
    if pos < 16 then at' pos else if p ≤ pos + 191 then at' (pos + 191 + 16 - p) else .ready (.scalar 0)
  let depth := min (getAt v 45 1) 64
  { c with
    ctx := { vpc := getAt v 0 8, blk := none, head := BitVec.ofNat 21 (getAt v 16 4), pos := p, vals := ((List.range p).map val).reverse,
             rets := ((List.range depth).map (fun i => RetEntry.pc (getAt v (64 + 8 * i) 8))).reverse, tmpl := [] },
    late := getAt v 24 1 % 2 = 1, srv := BitVec.ofNat 32 (getAt v 32 4), srm := BitVec.ofNat 32 (getAt v 36 4),
    src := BitVec.ofNat 32 (getAt v 40 4), padUnits := min (getAt v 44 1) 24, frozenFrom := .run, wait := none, acc := [],
    pendErr := [] }

/-- Whether an operand is read as a vector. -/
def wantVec : Want → Bool
  | .vec _ _ => true
  | _ => false

/-- A queue entry read back: none where it is not valid. -/
def loadEntry (c : Core) (v seq : Nat) : Option Cmd :=
  let w := BitVec.ofNat 64 (getAt v 0 8)
  match getAt v 16 1 % 2, decode [w] with
  | 1, .ok (i, _) =>
    let ops := pushOps i
    let vals := (ops.zip (opFields i)).map (fun o => Slot.ready (valOf (wantVec o.1.1) (getAt v (128 + 512 * o.2) 512)))
    let srcs := ops.map (fun o => if isPop c.ctx o.2 then c.ctx.expand o.2 else 0)
    some { mkCmd c i vals srcs (List.replicate (unnamed i) 0
        ++ (List.range 3).map (fun n => BitVec.ofNat 256 (getAt v (32 + 32 * n) 32))) with
      word := w, vpc := getAt v 8 8, seq := seq, dest := c.serials + 8 * seq, stopped := getAt v 16 1 / 2 % 2 = 1,
      started := getAt v 16 1 / 2 % 2 = 1 }
  | _, _ => none

/-- Load SEG1. -/
def Core.loadSeg1 (c : Core) (v : Nat) : Core :=
  let q (lo n : Nat) : List Cmd :=
    (List.range n).filterMap (fun i => loadEntry c (getAt v (2176 * (lo + i)) 2176) (c.seq + lo + i))
  { c with mq := q 0 16, vq := q 16 32, cq := q 48 16, seq := c.seq + 64, serials := c.serials + 8 * (c.seq + 64) }

/-- Load SEG2. -/
def Core.loadSeg2 (c : Core) (v : Nat) : Core :=
  let cfg (q : Nat) : Option ChanCfg :=
    let w := getAt v (2176 + 8 * q) 8
    if w / 2 ^ 31 % 2 = 1 then some { snk := w / 2 ^ 24 % 16, mod := BitVec.ofNat 24 w } else none
  let c := { c with
    flags := tputs 0 [] 0 ((List.range 32).map (fun n => BitVec.ofNat 32 (getAt v (4 * n) 4))),
    slots := tputs 0 [] 0 ((List.range 64).map (fun n => BitVec.ofNat 256 (getAt v (128 + 32 * n) 32))),
    vqErr := if getAt v 2208 1 / 64 % 2 = 1 then some (BitVec.ofNat 6 (getAt v 2208 1)) else none }
  (List.range 4).foldl (fun c q => c.setChan q { c.chan q with cfg := cfg q }) c

/-- Load SEG3. -/
def Core.loadSeg3 (c : Core) (v : Nat) : Core :=
  let port (n : Nat) : Port :=
    let x := getAt v (64 * n) 64
    let st := getAt x 48 1
    { dir := if st % 4 = 0 then .unbound else if st % 4 = 1 then .read else if st % 4 = 2 || st / 4 % 2 = 1 then .write else .read,
      slot := BitVec.ofNat 256 (getAt x 0 32), walk := BitVec.ofNat 64 (getAt x 32 8), pos := getAt x 40 8 }
  let chan (q : Nat) : Chan :=
    let w := getAt v (512 + 8 * q) 8
    { cfg := (c.chan q).cfg,
      ents := (List.range (min (w % 256) (chanBase q).2)).map (fun e => valOf true (getAt v (3072 + 512 * ((chanBase q).1 + e)) 512)),
      held := if w / 256 % 2 = 1 then some (valOf true (getAt v (1024 + 512 * q) 512)) else none,
      popped := w / 512 % 8, spoilt := [] }
  { c with
    ports := tputs Port.reset [] 0 ((List.range 8).map port),
    chans := tputs Chan.reset [] 0 ((List.range 4).map chan) }

/-- A tag read back from its two words (R264). -/
def tagOf (a b : Nat) : Tag :=
  { st := match a / 2 ^ 61 % 8 with
      | 1 => .queued
      | 2 => .active
      | 3 => .stopped
      | 4 => .done
      | _ => .free,
    err := a / 2 ^ 60 % 2 = 1, ecode := BitVec.ofNat 6 (a / 2 ^ 54), bytes := a % 2 ^ 40, time := b % 2 ^ 56 }

/-- Load SEG4. -/
def Core.loadSeg4 (c : Core) (v : Nat) : Core :=
  { c with
    tags := tputs Tag.reset [] 0 ((List.range 32).map (fun t => tagOf (getAt v (16 * t) 8) (getAt v (16 * t + 8) 8))),
    lastTag := getAt v 512 1 % 32 }

/-- A scale reference read back. -/
def scaleOf (v : Nat) : ScaleRef := { scaled := v / 2 ^ 48 % 2 = 1, fmt32 := v / 2 ^ 49 % 2 = 1, base := v % 2 ^ 48 }

/-- A bank read back. -/
def bankOf (v : Nat) : Bank :=
  let f := getAt v 24 1
  { mode := match getAt v 0 1 with
      | 0 => some .fp
      | 1 => some .int
      | 2 => some .scaled
      | _ => none,
    m := getAt v 2 2, n := getAt v 4 2, refA := scaleOf (getAt v 8 8), refB := scaleOf (getAt v 16 8),
    ovf := f % 2 = 1, poison := f / 2 % 2 = 1, chkVoid := f / 4 % 2 = 1, chkOn := f / 8 % 2 = 1, chkNan := f / 16 % 2 = 1,
    sums := tputs 0 [] 0 ((List.range 768).map (fun n => toSigned 640 (getAt v (256 + 80 * n) 80))) }

/-- Load SEG6. -/
def Core.loadSeg6 (c : Core) (v : Nat) : Core :=
  let x := bankOf (getAt v 0 63488)
  let y := bankOf (getAt v 63488 63488)
  { c with bank0 := x, bank1 := y }

/-- A copy that was stopped goes on from its tag's BYTES (R332): the elements written, for a copy into q2 those of whole
entries. -/
def Cmd.fromBytes (k : Cmd) (bytes : Nat) : Cmd :=
  let d := Desc.of ((k.desc[0]?).getD 0)
  let n := min (8 * bytes / d.ebits) k.elems
  let per := 4096 / d.ebits
  let at' := match k.instr with
    | .cpQ2 _ => n - n % d.n0 % per
    | _ => n
  if k.stopped then { k with prog := at', bytes := at' * d.ebits } else k

/-- A stopped copy that draws goes on drawing from SRC, which then stands past its last element (R29). -/
def Cmd.redraw (k : Cmd) (src : BitVec 32) : Cmd × BitVec 32 :=
  if k.stopped && k.draws then ({ k with sr := src, col := k.prog }, drawN (k.elems - k.prog) src) else (k, src)

/-- The queued copy commands of a loaded context have their tags again, in the order the tags are taken (R264). -/
def Core.relink (c : Core) : Core :=
  let busy := ((List.range 32).map (fun i => (c.lastTag + 1 + i) % 32)).filter (fun t =>
    (c.tag t).st == TagState.queued || (c.tag t).st == TagState.stopped || (c.tag t).st == TagState.active)
  let tagged (k : Cmd) (t : Option Nat) : Cmd :=
    { k with tag := t, kinds := [] }.fromBytes ((t.map (fun t => (c.tag t).bytes)).getD 0)
  let step (r : List Cmd × List Nat × BitVec 32) (k : Cmd) : List Cmd × List Nat × BitVec 32 :=
    if takesTag k.instr then
      let x := (tagged k r.2.1.head?).redraw r.2.2
      (r.1 ++ [x.1], r.2.1.tail, x.2)
    else (r.1 ++ [k], r.2)
  let r := c.cq.foldl step ([], busy, c.src)
  { c with cq := r.1, src := r.2.2 }

/-- The `enter` of the block that a virtual PC lies in: the nearest word of OP 0x01 at or before it (R67). -/
def State.blockStart (s : State) (a : Agent) (lo v : Nat) : Nat → Option Nat
  | 0 => none
  | n + 1 =>
    match s.readCode a v with
    | .error _ => none
    | .ok w => if opOf w == 1 then some v else if v < lo + 8 then none else s.blockStart a lo (v - 8) n

/-- The instructions of a block from `v` up to `hi`, each with its first result's position and how many results it has. -/
def State.resultsUpTo (s : State) (a : Agent) (hi v pos : Nat) : Nat → List (Nat × Nat × Nat)
  | 0 => []
  | fuel + 1 =>
    let ws := s.wordsAt a v
    if hi ≤ v || ws.isEmpty then []
    else
      let n := (matchedKinds (s.die (dieOfAgent a)).patches (s.partOfAgent a) (s.ctxOf a) (ws.headD 0)).length
      let len := match decode ws with
        | .ok (_, l) => l
        | .error _ => 1
      (v, pos, n) :: s.resultsUpTo a hi (v + 8 * len) (pos + n) fuel

/-- Positions wait for the results of a command. -/
def Core.awaitAt (c : Core) (k : Cmd) (p n : Nat) : Core :=
  { c with ctx := { c.ctx with
      vals := (c.ctx.vals.zipIdx).map (fun x =>
        let at' := c.ctx.pos - 1 - x.2
        if p ≤ at' && at' < p + n then Slot.pending (slotVec x.1) (k.dest + (at' - p)) else x.1) } }

/-- The queued commands of a loaded context that stand in its block deliver their results to the positions that the block's
code gives them (R65, R332); of several at one virtual PC the youngest is the one of this pass through the block
(assumption 21). -/
def State.awaitResults (s : State) (g : Nat) : State :=
  let a := Agent.core g
  let v := (s.core g).ctx.vpc
  let lo := (s.textOf a).1
  match s.blockStart a lo v (v / 8 + 1) with
  | none => s
  | some e =>
    let l := s.resultsUpTo a v e ((s.core g).ctx.head.toNat % 32) ((v - e) / 8 + 1)
    s.modCore g (fun c => (c.mq ++ c.vq).foldl (fun c k =>
      match l.find? (fun x => x.1 = k.vpc) with
      | some (_, p, n) => c.awaitAt k p n
      | none => c) c)

/-- Load a core segment of a portable image. -/
def Core.loadPortable (c : Core) (n v : Nat) : Core :=
  match n with
  | 0 => c.loadSeg0 v
  | 1 => c.loadSeg1 v
  | 2 => c.loadSeg2 v
  | 3 => c.loadSeg3 v
  | 4 => c.loadSeg4 v
  | 6 => c.loadSeg6 v
  | _ => c

/-! Segments taken from a core's state as it was written. -/

/-- What a queue holds of a command whether it has started or not (SEG1). -/
def Cmd.fresh (k : Cmd) (g : Nat) : Cmd :=
  { mkCmd Core.reset k.instr k.ops k.srcs k.desc with
    word := k.word, vpc := k.vpc, seq := k.seq, dest := k.dest, kinds := k.kinds, tag := k.tag, bad := k.bad,
    secs := if k.started && k.gang.isNone then [g] else k.secs }

/-- How far a command has come takes the place of that of another (SEG4 to SEG6). -/
def Cmd.progressOf (k x : Cmd) : Cmd :=
  { x with instr := k.instr, word := k.word, vpc := k.vpc, seq := k.seq, dest := k.dest, kinds := k.kinds, desc := k.desc,
           ops := k.ops, srcs := k.srcs, tag := k.tag, bad := k.bad, stall := k.stall, stallAt := k.stallAt,
           secs := if x.started then x.secs else k.secs }

/-- The command of a list with a place in program order. -/
def findSeq (l : List Cmd) (n : Nat) : Option Cmd := l.find? (fun x => x.seq = n)

/-- A queue of SEG1, with the progress and the stall counters that the core has for its commands already. -/
def takeQueue (g : Nat) (mine new : List Cmd) : List Cmd :=
  new.map (fun k =>
    let f := k.fresh g
    match findSeq mine k.seq with
    | none => f
    | some x => { f.progressOf x with stall := x.stall, stallAt := x.stallAt })

/-- The progress of an engine's commands, from those of `new`; a command that is not there has not started. -/
def takeProgress (g : Nat) (mine new : List Cmd) : List Cmd :=
  mine.map (fun k => k.progressOf ((findSeq new k.seq).getD { k.fresh g with secs := k.secs }))

/-- The stall counters of a queue's commands (SEG0). -/
def takeStalls (mine new : List Cmd) : List Cmd :=
  mine.map (fun k =>
    match findSeq new k.seq with
    | some x => { k with stall := x.stall, stallAt := x.stallAt }
    | none => { k with stall := 0, stallAt := 0 })

/-- Take the state of core segment `n` of core `g` from `x`; `portable` is the division of R332, else that of R319: the
progress of a command belongs to its engine's segment, with the engine's stochastic state, and the stall counters to SEG0. -/
def Core.takeSeg (c x : Core) (g : Nat) (portable : Bool) (n : Nat) : Core :=
  match n with
  | 0 =>
    let c := { c with
      ctx := if portable then { x.ctx with blk := none } else x.ctx, late := x.late, quant := x.quant,
      frozenFrom := x.frozenFrom, wait := x.wait, acc := x.acc, trap := x.trap, pendErr := x.pendErr, cres := x.cres,
      emul := x.emul, padUnits := x.padUnits, drainT := x.drainT, serials := max c.serials x.serials, seq := max c.seq x.seq }
    if portable then { c with srv := x.srv, srm := x.srm, src := x.src }
    else { c with mq := takeStalls c.mq x.mq, vq := takeStalls c.vq x.vq, cq := takeStalls c.cq x.cq }
  | 1 =>
    let q (mine new : List Cmd) : List Cmd := if portable then new else takeQueue g mine new
    { c with mq := q c.mq x.mq, vq := q c.vq x.vq, cq := q c.cq x.cq, serials := max c.serials x.serials,
             seq := max c.seq x.seq }
  | 2 =>
    let c := { c with flags := x.flags, slots := x.slots }
    if portable then
      (List.range 4).foldl (fun c q => c.setChan q { c.chan q with cfg := (x.chan q).cfg }) { c with vqErr := x.vqErr }
    else c
  | 3 =>
    if portable then
      (List.range 4).foldl (fun c q => c.setChan q { x.chan q with cfg := (c.chan q).cfg }) { c with ports := x.ports }
    else { c with ports := x.ports, chans := x.chans }
  | 4 =>
    let c := { c with tags := x.tags, lastTag := x.lastTag, lastTime := x.lastTime }
    if portable then c else { c with cq := takeProgress g c.cq x.cq, src := x.src }
  | 5 => if portable then c else { c with vq := takeProgress g c.vq x.vq, srv := x.srv, vqErr := x.vqErr }
  | 6 =>
    let c := { c with bank0 := x.bank0, bank1 := x.bank1 }
    if portable then c else { c with mq := takeProgress g c.mq x.mq, srm := x.srm, gangOff := x.gangOff }
  | _ => c

/-- Whether a core segment is occupied: its state differs from what `ctx.scrub` leaves (R319). -/
def Core.occupied (c : Core) (portable : Bool) (n : Nat) : Bool :=
  let r := Core.reset
  let live (l : List Cmd) : Bool := l.any (fun k => k.started)
  match n with
  | 0 =>
    c.ctx != r.ctx || c.late || c.wait.isSome || c.trap.isSome || !c.acc.isEmpty
      || (if portable then c.srv != r.srv || c.srm != r.srm || c.src != r.src || c.padUnits != r.padUnits
          else c.quant != r.quant || c.frozenFrom != r.frozenFrom || c.cmds.any (fun k => k.stall != 0))
  | 1 => !(c.mq.isEmpty && c.vq.isEmpty && c.cq.isEmpty)
  | 2 => !c.flags.isEmpty || !c.slots.isEmpty || (portable && (c.vqErr.isSome || (List.range 4).any (fun q => (c.chan q).cfg.isSome)))
  | 3 =>
    !c.ports.isEmpty
      || (if portable then (List.range 4).any (fun q => !(c.chan q).ents.isEmpty || (c.chan q).held.isSome || (c.chan q).popped != 0)
          else !c.chans.isEmpty)
  | 4 => !c.tags.isEmpty || c.lastTag != r.lastTag || (!portable && (c.src != r.src || live c.cq))
  | 5 => !portable && (c.vqErr.isSome || c.srv != r.srv || live c.vq)
  | 6 => c.bank0 != r.bank0 || c.bank1 != r.bank1 || (!portable && (c.srm != r.srm || c.gangOff || live c.mq))
  | _ => false

/-- Whether a segment of a core and its sector is occupied. -/
def State.occupied (s : State) (k : Nat) (portable : Bool) (n : Nat) : Bool :=
  if n ≤ 6 then (s.core k).occupied portable n
  else if n = 23 then s.latchSeg k != 0
  else s.bandSeg k (n - 7) != 0

/-! The image (R323). -/

/-- The bytes of segment `n` of core `k`: the content of SEG0 to SEG6 of a frozen core is what only the device interprets
(assumption 8), known by the number of its snapshot. -/
def State.segOut (s : State) (k : Nat) (portable : Bool) (shot n : Nat) : List Byte :=
  let len := segBytes portable n
  if n ≤ 6 then
    if portable then natToBytes len ((s.core k).portableSeg n) else (List.range len).map (fun o => Config.imageByte shot n o)
  else if n = 23 then natToBytes len (s.latchSeg k)
  else natToBytes len (s.bandSeg k (n - 7))

/-- The segments of a mask in ascending order. -/
def segsOf (mask : Nat) : List Nat := (List.range 24).filter (fun n => mask / 2 ^ n % 2 = 1)
/-- A mask of segments. -/
def segMask (l : List Nat) : Nat := (l.map (2 ^ ·)).sum
/-- SLEN of a form: six bits for each segment. -/
def slenOf (portable : Bool) : Nat :=
  ((List.range 24).map (fun n => (if portable then segUnits n else segKib n) * 2 ^ (6 * n))).sum

/-- MAGIC of an image. -/
def scanMagic : Nat := 0x5A53434E

/-- The header of an image. -/
def scanHeader (layout step core mask : Nat) (portable : Bool) (payload : List Byte) : List Byte :=
  natToBytes 64 (scanMagic + layout % 2 ^ 32 * 2 ^ 32 + step % 2 ^ 16 * 2 ^ 64 + core % 256 * 2 ^ 80 + mask * 2 ^ 88
    + slenOf portable * 2 ^ 112 + (Config.sha3 payload).toNat * 2 ^ 256)

/-- A header read back. -/
structure ScanHead where
  magic : Nat
  layout : Nat
  core : Nat
  mask : Nat
  slen : Nat
  digest : Nat
  deriving DecidableEq, Repr

/-- Read a header. -/
def scanHead (h : List Byte) : ScanHead :=
  let v := bytesToNat h
  let b (lo w : Nat) : Nat := v / 2 ^ lo % 2 ^ w
  { magic := b 0 32, layout := b 32 32, core := b 80 8, mask := b 88 24, slen := b 112 144, digest := b 256 256 }

/-- Cut a payload into the segments of a mask. -/
def cutSegs (portable : Bool) : List Nat → List Byte → List (Nat × List Byte)
  | [], _ => []
  | n :: ns, p => (n, p.take (segBytes portable n)) :: cutSegs portable ns (p.drop (segBytes portable n))

end Sys2Proof.Machine
end

