-- ==== Sys2Proof/Machine/Scan.lean ====
section
/-! DEFINITION. Freezing and thawing (R313, R314, R325, R326, R329), the scan instructions (R327, R328), and the drain that
ends in a freeze (R312). -/

namespace Sys2Proof.Machine

/-! The closure of R325. -/

/-- The sectors of the gang of a die that spans a sector, if any. -/
def State.gangSecs (s : State) (x : Nat) : List Nat :=
  match (s.die (dieOf x)).gangs.find? (fun k =>
      k.row == sectRow x && k.west ≤ sectCol x && sectCol x < k.west + k.width) with
  | some k => (List.range k.width).map (fun i => coreAt (dieOf x) k.row (k.west + i))
  | none => []

/-- The cores that drive some sector of a set. -/
def State.driversOf (s : State) (d : Nat) (secs : List Nat) : List Nat :=
  ((List.range 16).map (d * 16 + ·)).filter (fun g => secs.any (fun x => (s.driver x).map (·.1) == some g))

/-- One round of the closure over the sectors of a die for which `p` holds. -/
def State.widen1 (s : State) (d : Nat) (p : Nat → Bool) (secs : List Nat) : List Nat :=
  let a := secs ++ secs.flatMap s.gangSecs
  let cs := s.driversOf d a
  ((List.range 16).map (d * 16 + ·)).filter (fun x =>
    p x && (a.contains x || ((s.driver x).map (fun r => cs.contains r.1)).getD false))

/-- The closure: after as many rounds as a die has sectors it no longer changes. -/
def State.widen (s : State) (d : Nat) (p : Nat → Bool) (secs : List Nat) : Nat → List Nat
  | 0 => secs
  | n + 1 => s.widen d p (s.widen1 d p secs) n

/-- The sectors a mask names. -/
def maskSecs (d mask : Nat) : List Nat := ((List.range 16).filter (fun i => mask / 2 ^ i % 2 = 1)).map (d * 16 + ·)

/-- A result word (R325): WMASK, FCORES and PASSED. -/
def frzWord (secs cores : List Nat) (passed : Bool) : Word :=
  BitVec.ofNat 64 ((secs.map (fun x => 2 ^ (x % 16))).sum + (cores.map (fun g => 2 ^ (16 + g % 16))).sum
    + (if passed then 2 ^ 32 else 0))

/-- Whether a context runs, so that a freeze stops it (R300). -/
def Core.freezes (c : Core) : Bool := c.cstate == .run || c.cstate == .trapped || c.cstate == .draining

/-- A core goes to FROZEN: an EMULATE routine is abandoned (R157); everything else is kept. -/
def Core.freeze (c : Core) : Core := { c.abandon with cstate := .frozen, frozenFrom := c.cstate }

/-- Freeze a widened set in one step: its sectors, and the cores that drive them stop; those that run go to FROZEN (R325).
Which cores do, and which sectors were not frozen before. -/
def State.freezeSet (s : State) (d : Nat) (secs : List Nat) : List Nat × List Nat × State :=
  let cs := s.driversOf d secs
  let fs := cs.filter (fun g => (s.core g).freezes)
  let new := secs.filter (fun x => !(s.sector x).frozen)
  let t := secs.foldl (fun s x => s.setSector x { s.sector x with frozen := true }) s
  (fs, new, cs.foldl (fun t g => t.modCore g (fun c => if fs.contains g then c.freeze else { c with iced := true })) t)

/-! `scan.frz` (R325, R326). -/

/-- What a freeze that waits, or begins, answers: the point at which it is made has come, with PASSED, or not yet. -/
def State.frzPoint (s : State) (at? : Option Nat) (cur : Option (Nat × Nat)) (left : Nat) : Option Bool :=
  match at?, cur with
  | none, _ => some false
  | some _, none => some true
  | some n, some (y, q) =>
    match (s.core y).mq.find? (fun k => k.seq = q) with
    | none => some true
    | some k =>
      if k.done then some true
      else if !k.started then (if left = 0 then some true else none)
      else if k.clk < n then none
      else some (decide (k.clk ≠ n))

/-- The current command of FN 1: the oldest `mm` not completed on the lowest-numbered core of C (R325). -/
def State.frzCur (s : State) (cores : List Nat) : Option (Nat × Nat) :=
  cores.head?.bind (fun y =>
    ((s.core y).mq.find? (fun k => !k.done && (match k.instr with
      | .mm _ => true
      | _ => false))).map (fun k => (y, k.seq)))

/-- A freeze asked for by service core `me`: made once every context of F has run for its slice (R314) and its point has
come. Every request of an engine has been answered by then (R326). -/
def State.frzStep (s : State) (me d mask part : Nat) (at? : Option Nat) (cur : Option (Nat × Nat)) (left : Nat) : State :=
  let secs := s.widen d (fun _ => true) (maskSecs d mask) 16
  let fs := (s.driversOf d secs).filter (fun g => (s.core g).freezes)
  match fs.all (fun g => s.sliceRun g), s.frzPoint at? cur left with
  | true, some passed =>
    let (fs, new, s) := s.freezeSet d secs
    s.endWith me [.scalar (frzWord new fs passed)]
  | _, _ => s.waitOn me (.frz d mask part at? cur left) none

/-- The clk for which a freeze waits for the start of its command. -/
def frzLimit : Nat := 2 ^ 24

/-- `scan.frz` and `scan.frz.at` (R325). -/
def frzOp (i : Instr) (f : BaseF) (deferred : Bool) (s : State) : Out :=
  withOps s .system (opsOf i) [false] 1 (fun a vs =>
    match a with
    | .core me =>
      (match (s.core me).wait with
        | some { kind := .frz d mask part at? cur left, stall := _, bound := _ } => .next (s.frzStep me d mask part at? cur left)
        | _ =>
          let d := (w0 vs).toNat
          let mask := (w1 vs).toNat
          let n := (w2 vs).toNat
          let part := bitsNat f.mod 0 4
          if 7 < d || mask = 0 || 2 ^ 16 ≤ mask || (deferred && (n < 1 || 2 ^ 16 < n))
              || !((maskSecs d mask).all (fun x => s.ownsSect part x)) then
            .next (s.trap a { code := cOPERAND } [false] 1)
          else
            let secs := s.widen d (fun _ => true) (maskSecs d mask) 16
            let cur := s.frzCur (s.driversOf d secs)
            .next ((s.commit a).frzStep me d mask part (if deferred then some n else none) cur frzLimit))
    | _ => .next s)

/-- `scan.frz`, FN 0 (R325). -/
def execScanFrz (f : BaseF) (s : State) : Out := frzOp (.scanFrz f) f false s
/-- `scan.frz.at`, FN 1 (R325). -/
def execScanFrzAt (f : BaseF) (s : State) : Out := frzOp (.scanFrzAt f) f true s

/-- A freeze that waits on the core in focus goes on, if it is of the kind asked for. -/
def frzResume (s : State) (p : Option Nat → Bool) : State :=
  match s.focus with
  | .core me =>
    (match (s.core me).wait with
      | some { kind := .frz d mask part at? cur left, stall := _, bound := _ } =>
        if p at? then s.frzStep me d mask part at? cur left else s
      | _ => s)
  | _ => s

/-- SCAN_FREEZE_DEFERRED (R325). -/
def execScanFreezeDeferred (s : State) : Out := .next (frzResume s (·.isSome))
/-- SCAN_FREEZE_COMPLETE (R326): the freeze that waited completes. -/
def execScanFreezeComplete (s : State) : Out := .next (frzResume s (·.isNone))

/-- PREEMPTION_HOLD_END (R314): a held DRAIN, or a freeze that waits for it, takes effect. -/
def execPreemptionHoldEnd (s : State) : Out :=
  match s.focus with
  | .core g =>
    let c := s.core g
    if isSvc g then .next (frzResume s (fun _ => true))
    else if c.hold && (c.cstate == .run || c.cstate == .trapped) && s.sliceRun g then .next (s.drainNow g)
    else .next s
  | _ => .next s

/-- DRAIN_LIMIT_FREEZE (R312): under MODE 2 a drain past its allowance freezes the core's sector as `scan.frz` does. -/
def execDrainLimitFreeze (s : State) : Out :=
  match s.focus with
  | .core g =>
    if s.drainPast g then
      .next ((s.freezeSet (dieOf g) (s.widen (dieOf g) (fun _ => true) [g] 16)).2.2.modCore g (fun c =>
        if c.freezes then c.freeze else c))
    else .next s
  | _ => .next s

/-! `scan.run` (R329). -/

/-- A frozen core goes back to the state it was frozen from, or that `scan.in` loaded; the engines of one that was not FROZEN
itself move again. -/
def Core.thaw (c : Core) : Core :=
  let c := { c with iced := false }
  if c.cstate == .frozen then { c with cstate := c.frozenFrom } else c

/-- `scan.run` (R329). -/
def execScanRun (f : BaseF) (s : State) : Out :=
  withOps s .system (opsOf (.scanRun f)) [false] 1 (fun a vs =>
    let d := (w0 vs).toNat
    let mask := (w1 vs).toNat
    if 7 < d || 2 ^ 16 ≤ mask then .next (s.trap a { code := cOPERAND } [false] 1)
    else
      let frozen (x : Nat) : Bool := (s.sector x).frozen
      let secs := s.widen d frozen ((maskSecs d mask).filter frozen) 16
      let drivers := s.driversOf d secs
      let cs := drivers.filter (fun g => (s.core g).cstate == .frozen)
      let t := secs.foldl (fun s x => s.setSector x { s.sector x with frozen := false }) (s.commit a)
      let t := drivers.foldl (fun s g => s.modCore g (·.thaw)) t
      .next (t.retire a 1 [.scalar (frzWord secs cs false)]))

/-! `scan.out` (R327). -/

/-- The snapshot an image of a core stands for: one that is there already, or a new one. -/
def State.shotFor (s : State) (k : Nat) (portable : Bool) : Nat × State :=
  match s.shots.find? (fun x => x.g == k && x.portable == portable && x.core == s.core k) with
  | some x => (x.id, s)
  | none =>
    let id := s.shots.length
    (id, { s with shots := s.shots ++ [{ id := id, g := k, portable := portable, core := s.core k }] })

/-- Whether `scan.out` may read a segment of a core (R327). -/
def State.outOk (s : State) (k n : Nat) : Bool :=
  let c := s.core k
  if n ≤ 6 then c.cstate == .frozen || c.cstate == .saved else (s.sector k).frozen || c.cstate == .saved

/-- `scan.out` (R327). -/
def execScanOut (f : BaseF) (s : State) : Out :=
  withOps s .system (opsOf (.scanOut f)) [false] 1 (fun a vs =>
    match a with
    | .core me =>
      let k := (w0 vs).toNat
      let at' := (w1 vs).toNat
      let segs := segsOf f.mod.toNat
      if !(s.core me).quiet then .next s
      else if 127 < k || !(segs.all (s.outOk k)) then .next (s.trap a { code := cOPERAND } [false] 1)
      else if at' % 64 ≠ 0 then .next (s.trap a { code := cALIGN, addr := at' } [false] 1)
      else
        let portable := (s.core k).cstate == .saved
        let w := segs.filter (s.occupied k portable)
        let (shot, t) := s.shotFor k portable
        let payload := w.flatMap (t.segOut k portable shot)
        if s.rangeHeld me at' (64 + payload.length) then .next s else
        let x := s.die (dieOf k)
        let head := scanHeader (if portable then 0 else x.layout) x.stepping k (segMask w) portable payload
        (match t.writeAs me (at' + 64) payload with
          | (.error c, s) => .next (s.trap a c [false] 1)
          | (.ok _, s) =>
            match s.writeAs me at' head with
            | (.error c, s) => .next (s.trap a c [false] 1)
            | (.ok _, s) => .next (s.retire a 1 [.scalar (BitVec.ofNat 64 (64 + payload.length))]))
    | _ => .next s)

/-! `scan.in` (R328). -/

/-- Whether `scan.in` may write a segment of a core (R328). -/
def State.inOk (s : State) (k n : Nat) : Bool :=
  let c := s.core k
  if n ≤ 6 then c.cstate == .frozen || c.cstate == .idle else (s.sector k).frozen || c.cstate == .idle

/-- Whether a snapshot is what the core segments of an image say (R319, R332). -/
def Shot.fits (x : Shot) (h : ScanHead) (portable : Bool) (segs : List (Nat × List Byte)) : Bool :=
  x.g == h.core && x.portable == portable
    && segs.all (fun v => 6 < v.1
        || v.2 == (if portable then natToBytes (segBytes true v.1) (x.core.portableSeg v.1)
          else (List.range (segBytes false v.1)).map (fun o => Config.imageByte x.id v.1 o)))

/-- The snapshot an image was written from, latest first. -/
def State.shotOf (s : State) (h : ScanHead) (portable : Bool) (segs : List (Nat × List Byte)) : Option Shot :=
  s.shots.reverse.find? (fun x => x.fits h portable segs)

/-- The latest portable snapshot of a core: whose context a portable image of that core's number holds. -/
def State.lastShot (s : State) (g : Nat) : Option Shot := s.shots.reverse.find? (fun x => x.g == g && x.portable)

/-- What a context belongs to: its task, its partition and its team. -/
def Core.belongsTo (c x : Core) : Core :=
  { c with part := x.part, task := x.task, team := x.team, teamKey := x.teamKey, trigd := x.trigd, loaded := true }

/-- Load the identity of a context into an idle core with SEG0: its detached task runs there, and its team knows it by
that core (R300); its entry counts the core among those that ran its tasks (R103). -/
def State.adopt (s : State) (k : Nat) (x : Core) : State :=
  let s := match x.task, x.teamKey with
    | some t, some key => s.renameMember x.part key (detachedId t) k
    | _, _ => s
  (s.modCore k (fun c => c.belongsTo x)).modTaskEntry k (fun e _ =>
    { e with ran := if e.ran.contains k then e.ran else e.ran ++ [k] })

/-- Load one segment of a mask: from the image where it is there, else as `ctx.scrub` leaves it. A frozen image that this
device has not written loads as its bytes say, which is left open (assumption 8). -/
def State.loadSeg (s : State) (k : Nat) (portable : Bool) (shot : Option Shot) (segs : List (Nat × List Byte)) (n : Nat) :
    State :=
  let data := segs.find? (fun v => v.1 = n)
  if n ≤ 6 then
    match data, shot with
    | none, _ => s.modCore k (fun c => c.takeSeg Core.reset k portable n)
    | some _, some x => s.modCore k (fun c => c.takeSeg x.core k portable n)
    | some v, none =>
      s.modCore k (fun c =>
        if portable then c.loadPortable n (bytesToNat v.2)
        else c.takeSeg (foreignCore (segs.filter (fun v => v.1 ≤ 6))) k portable n)
  else if n = 23 then s.loadLatch k ((data.map (fun v => bytesToNat v.2)).getD 0)
  else s.setSector k ((s.sector k).loadBand (n - 7) ((data.map (fun v => bytesToNat v.2)).getD 0))

/-- Load an image that has passed every check (R328). What the sequencer knows of its engines follows from the queues and
engines loaded (R330, R331). -/
def State.loadScan (s : State) (k mask : Nat) (h : ScanHead) (portable : Bool) (segs : List (Nat × List Byte)) : State :=
  let shot := s.shotOf h portable segs
  let idle := (s.core k).cstate == .idle
  let seg0 := mask % 2 = 1
  let owner := match shot with
    | some x => some x
    | none => if portable then s.lastShot h.core else none
  let s := if idle && seg0 && h.mask % 2 = 1 then (match owner with
      | some x => s.adopt k x.core
      | none => s.modCore k (fun c => { c with loaded := true })) else s
  let s := (segsOf mask).foldl (fun s n => s.loadSeg k portable shot segs n) s
  let s := (segsOf mask).foldl (fun s n =>
    if 7 ≤ n && n ≤ 22 then s.loadLatches k (n - 7) (((segs.find? (fun v => v.1 = n)).map (fun v => bytesToNat v.2)).getD 0)
    else s) s
  let s := if 24 ≤ (s.core k).padUnits then s.flushAll (.lsc k) else s
  let s := if portable && shot.isNone then (s.modCore k (·.relink)).awaitResults k else s
  if mask % 2 ^ 7 = 0 then s else s.modCore k (·.review)

/-- The state SEG0 of an image records (R328). -/
def State.imgState (s : State) (h : ScanHead) (portable : Bool) (segs : List (Nat × List Byte)) : Option CState :=
  match segs.find? (fun v => v.1 = 0) with
  | none => none
  | some v =>
    if portable then (if getAt (bytesToNat v.2) 24 4 / 256 % 16 = 1 then some .run else some .idle)
    else some (((s.shotOf h portable segs).map (·.core)).getD (foreignCore (segs.filter (fun v => v.1 ≤ 6)))).frozenFrom

/-- The status of an image whose header has been accepted and whose payload has been read, 0 where it loads (R328). -/
def State.scanStatus (s : State) (k : Nat) (h : ScanHead) (portable : Bool) (payload : List Byte) : Nat :=
  let segs := cutSegs portable (segsOf h.mask) payload
  if (Config.sha3 payload).toNat ≠ h.digest then 2
  else if (s.core k).cstate == .idle && ((s.imgState h portable segs).map (fun x => x != CState.run)).getD false then 5
  else 0

/-- `scan.in` (R328): it reads the image at device scope once every older access of the service core has performed. -/
def execScanIn (f : BaseF) (s : State) : Out :=
  withOps s .system (opsOf (.scanIn f)) [false] 1 (fun a vs =>
    match a with
    | .core me =>
      let k := (w0 vs).toNat
      let at' := (w1 vs).toNat
      let mask := f.mod.toNat
      let answer (s : State) (n : Nat) : Out := .next (s.retire a 1 [.scalar (BitVec.ofNat 64 n)])
      if !(s.core me).quiet then .next s
      else if 127 < k || !((segsOf mask).all (s.inOk k)) then .next (s.trap a { code := cOPERAND } [false] 1)
      else if at' % 64 ≠ 0 then .next (s.trap a { code := cALIGN, addr := at' } [false] 1)
      else if s.rangeHeld me at' 64 then .next s
      else
        (match s.readAs me true at' 64 with
          | (.error c, s) => .next (s.trap a c [false] 1)
          | (.ok hb, s) =>
            let h := scanHead hb
            let portable := h.layout == 0
            if h.magic ≠ scanMagic ∨ 127 < h.core then answer s 1
            else if !portable && h.layout ≠ (s.die (dieOf k)).layout then .next (s.trap a { code := cSCANLAYOUT } [false] 1)
            else if !portable && h.core ≠ k then answer s 3
            else if h.slen ≠ slenOf portable then answer s 4
            else if portable && (s.core k).cstate != .idle then answer s 6
            else if s.rangeHeld me at' (64 + ((segsOf h.mask).map (segBytes portable)).sum) then .next s
            else
              match s.readAs me true (at' + 64) ((segsOf h.mask).map (segBytes portable)).sum with
              | (.error c, s) => .next (s.trap a c [false] 1)
              | (.ok payload, s) =>
                let st := s.scanStatus k h portable payload
                if st ≠ 0 then answer s st
                else answer (s.loadScan k mask h portable (cutSegs portable (segsOf h.mask) payload)) 0)
    | _ => .next s)

end Sys2Proof.Machine
end

