-- ==== Sys2Proof/Machine/Syscalls.lean ====
section
/-! DEFINITION. The system calls (R306, R371, R353, R378, R379): each is one step of the service for the caller in focus: a
user core stopped by an SVC trap, a stream at its `svc`, or a window entry that is a `t.svc`. -/

namespace Sys2Proof.Machine

/-! Callers. -/

/-- A call: the partition it is made for, its first two arguments, and whether it comes from a task. -/
structure Call where
  part : Nat
  a : Word
  b : Word
  task : Bool
  deriving DecidableEq, Repr

/-- The call of number `num` that the agent in focus is making, if it is. -/
def State.callOf (s : State) (num : Nat) : Option Call :=
  match s.focus with
  | .core g =>
    let c := s.core g
    match c.trap with
    | some t =>
      if c.cstate == .trapped && t.info.cause = cSVC && t.info.addr = num then
        some { part := c.part, a := c.cresN 0, b := c.cresN 1, task := true }
      else none
    | none => none
  | .sfe p =>
    (match (s.part p).sfe.wait with
      | .svc n a b => if n = num then some { part := p, a := a, b := b, task := false } else none
      | _ => none)
  | .entry p n =>
    (match s.entry p n with
      | some e =>
        (match e.instr with
          | .tSvc f =>
            if e.st == .issued && ltHi f = num then
              some { part := p, a := (e.args[0]?).getD 0, b := (e.args[1]?).getD 0, task := false }
            else none
          | _ => none)
      | none => none)
  | _ => none

/-- The failure value (R371). -/
def callFailed : Word := BitVec.allOnes 64

/-- Answer a call (R302 RESUME, R306, R127): the value goes to CRES0 and the context is resumed, or it is the result of
the stream's `svc`, or it decides whether the `t.svc` completes. -/
def State.answer (s : State) (num : Nat) (w : Word) : State :=
  match s.focus with
  | .core g => (s.modCore g (fun c => { c with cres := tput 0 c.cres 0 w })).resumeCore g
  | .sfe p => (s.modPart p (fun q => { q with sfe := { q.sfe with wait := .none } })).retire (.sfe p) 1 [.scalar w]
  | .entry p n =>
    (match s.entry p n with
      | some e => if w = callFailed ∨ (num = 11 ∧ w = 1) then s.toFault p n e cSVC 0 else s.toDone p n e
      | none => s)
  | _ => s

/-- A call as a step: `k` gives the answer and the state it leaves. -/
def callStep (num : Nat) (s : State) (k : Call → Word × State) : Out :=
  match s.callOf num with
  | none => .next s
  | some c => let (w, t) := k c; .next (t.answer num w)

/-! The service's accesses to a partition's memory. -/

/-- Read bytes of a partition, or none where a page does not allow it or they are poisoned. -/
def State.readUser (s : State) (p va n : Nat) : Option (List Byte) × State :=
  match s.readVirt (s.ptRoot p) none Need.load va n with
  | (.ok l, s) => (some l, s)
  | (.error _, s) => (none, s)

/-- Write bytes of a partition at a multiple of 8, where every page allows it: whether it was done. -/
def State.writeUser (s : State) (p va : Nat) (need : Need) (l : List Byte) : Bool × State :=
  if va % 8 ≠ 0 ∨ 2 ^ 48 < va + l.length ∨ !s.mapped (s.ptRoot p) need va l.length then (false, s)
  else
    match s.writeVirt (s.ptRoot p) none need va l with
    | (.ok _, s) => (true, s)
    | (.error _, s) => (false, s)

/-! Page tables as the service writes them. -/

/-- Write a page-table entry: the service writes table lines whole, under K0 (assumption 13). -/
def State.writePte (s : State) (pa : Nat) (w : Word) : State :=
  let sec := pa / 64
  let old := match s.cached .l2 sec with
    | some x => x.fill (s.hbmRead sec x.key x.home)
    | none => s.hbmRead sec 0 0
  let base : BitVec 512 := if old.poison = 0 && old.key = 0 then old.data else 0
  let data := setBits base (8 * (pa % 64)) 64 w.toNat
  s.store none sec 0 0 wholeSec data [.l2]

/-- Write the entries of a plan. -/
def State.writePtes (s : State) (l : List (Nat × Word)) : State := l.foldl (fun s x => s.writePte x.1 x.2) s

/-- The address of the leaf entry of a virtual address. -/
def State.leafAddr (s : State) (table va level : Nat) : Nat → Option Nat
  | 0 => none
  | n + 1 =>
    let pa := table + 8 * ((va / 2 ^ leafBits level) % 512)
    match s.peekWord pa with
    | .error _ => none
    | .ok pte =>
      if !pte.getLsbD 0 then none
      else if pte.getLsbD 7 then some pa
      else s.leafAddr (bitsNat pte 12 40 * 4096) va (level + 1) n

/-- Remove the mapping of a range of pages. -/
def State.unmap (s : State) (root va n : Nat) : State :=
  (List.range (n / 4096)).foldl (fun s i =>
    match s.leafAddr root (va + 4096 * i) 1 4 with
    | some pa => s.writePte pa 0
    | none => s) s

/-- A shootdown of a range on every core of a partition begins (R261). -/
def State.shootNow (s : State) (p va n : Nat) : State := (s.partCores p).foldl (fun s g => s.shootCore g (some (va, n))) s

/-- The markers of the shootdown of a range that a core's CQ holds. -/
def Core.marksOf (c : Core) (va n : Nat) : List Nat :=
  (c.cq.filter (fun k => k.marker && k.ops == [.ready (.scalar (BitVec.ofNat 64 va)), .ready (.scalar (BitVec.ofNat 64 n))])).map (·.seq)

/-- The markers of a range whose older commands have completed complete (R261). -/
def State.shootSettle (s : State) (p va n : Nat) : State :=
  (s.partCores p).foldl (fun s g => ((s.core g).marksOf va n).foldl (fun s q => s.settleMark g q) s) s

/-- Whether the shootdown of a range has completed. -/
def State.shootOver (s : State) (p va n : Nat) : Bool := (s.partCores p).all (fun g => ((s.core g).marksOf va n).isEmpty)

/-- Pages of a size. -/
def pageRound (n : Nat) : Nat := (n + 4095) / 4096 * 4096

/-- The range of the patch data window (R335). -/
def windowLo : Nat := 0x0000FFF000000000
/-- Its end. -/
def windowHi : Nat := 0x0000FFF100000000

/-- Whether a range is clear of the patch data window, which no partition maps for itself (R335). -/
def offWindow (va n : Nat) : Bool := n = 0 || va + n ≤ windowLo || windowHi ≤ va

/-- Whether a range of pages is free for a mapping the service chooses. -/
def State.rangeFree (s : State) (p va n : Nat) : Bool :=
  va % 4096 == 0 && va + n ≤ 2 ^ 48 && offWindow va n && (List.range (n / 4096)).all (fun i =>
    match s.walk (s.ptRoot p) (va + 4096 * i) with
    | .ok _ => false
    | .error _ => true)

/-- Whether every page of a range has a leaf for which `k` holds, given its page, entry and path. -/
def State.eachLeaf (s : State) (p va n : Nat) (k : Nat → Word → Path → Bool) : Bool :=
  (List.range (n / 4096)).all (fun i =>
    match s.walk (s.ptRoot p) (va + 4096 * i) with
    | .ok (pte, bits) => k (4096 * i) pte (leafPath pte bits (va + 4096 * i))
    | .error _ => false)

/-- The 4-KiB frames that the pages of a range of a partition are mapped to. -/
def State.frames (s : State) (p va n : Nat) : List Nat :=
  (List.range (n / 4096)).filterMap (fun i =>
    match s.walk (s.ptRoot p) (va + 4096 * i) with
    | .ok (pte, bits) => some ((leafPath pte bits (va + 4096 * i)).pa / 4096)
    | .error _ => none)

/-- The frames of the text of the loaded object of a partition. -/
def State.codeFrames (s : State) (p : Nat) : List Nat :=
  match (s.part p).obj with
  | none => []
  | some o =>
    let of (lo hi : Nat) : List Nat := s.frames p (lo / 4096 * 4096) (pageRound (hi - lo / 4096 * 4096))
    of o.streamLo o.streamHi ++ of o.kernLo o.kernHi

/-! The patch data window (R335). -/

/-- Where the level-4 entry of an address stands, whether it is present or not. -/
def State.entryAddr (s : State) (table va level : Nat) : Nat → Option Nat
  | 0 => none
  | n + 1 =>
    let pa := table + 8 * ((va / 2 ^ leafBits level) % 512)
    if level = 4 then some pa
    else
      match s.peekWord pa with
      | .error _ => none
      | .ok pte =>
        if pte.getLsbD 0 && !pte.getLsbD 7 then s.entryAddr (bitsNat pte 12 40 * 4096) va (level + 1) n else none

/-- The EMULATE slot of a die whose routine area a partition sees at an offset of its window. -/
def State.windowSlot (s : State) (d p off : Nat) : Option Patch :=
  ((List.range 32).map (s.patch d)).find? (fun x => x.valid && x.action == 2 && x.forPart p && off < x.rlen)

/-- The service makes a page of the window present (R335): a leaf that user code may read, of key slot 0 and homed on the die that
holds the area; its class is that of pinned memory (assumption 46). The answer, RETRY, is a step of its own. -/
def State.mapWindow (s : State) (g : Nat) : State :=
  let p := (s.core g).part
  let d := dieOf g
  match (s.core g).trap with
  | none => s
  | some t =>
    let va := t.info.addr / 4096 * 4096
    if t.info.cause != cPAGE || va < windowLo || windowHi ≤ va then s
    else
      match s.windowSlot d p (va - windowLo), s.entryAddr (s.ptRoot p) va 1 4 with
      | some x, some pa =>
        (match s.walk (s.die d).svcRoot (x.rbase + (va - windowLo)) with
          | .ok (pte, bits) =>
            let frame := (leafPath pte bits (x.rbase + (va - windowLo))).pa / 4096
            s.writePte pa (BitVec.ofNat 64 (d * 2 ^ 52 + frame * 4096 + 2 * 2 ^ 9 + 2 ^ 7 + 2 ^ 4 + 3))
          | .error _ => s)
      | _, _ => s

/-! The calls (R371). -/

/-- EXIT, call 0 (R89): from a task the stream ends at once by a stream-context reset, whose writes no link holds back, and its
status is reported; from stream text it ends once its window is empty. -/
def execExit (s : State) : Out :=
  match s.callOf 0 with
  | none => .next s
  | some c =>
    if c.task then
      if s.linksHold then .next s
      else
      let r := (s.part c.part).sfe.reqid
      let t := (s.resetStream c.part).resetDone c.part
      .next { t with ctlOut := t.ctlOut ++ [exitReport r c.a] }
    else .next (s.modPart c.part (fun q =>
      { q with sfe := { q.sfe with wait := match q.sfe.wait with
          | .svc _ _ _ => .endStream c.a
          | w => w } }))

/-- WRITE_LOG, call 1. -/
def execWriteLog (s : State) : Out :=
  callStep 1 s (fun c =>
    if 4096 < c.b.toNat then (callFailed, s)
    else
      match s.readUser c.part c.a.toNat c.b.toNat with
      | (some l, s) => (0, { s with log := s.log ++ [l] })
      | (none, s) => (callFailed, s))

/-- Bytes of device memory that a partition has been given and not taken back: those of `mem_alloc`, its physical buffers and its
code object. -/
def Part.taken (q : Part) : Nat :=
  ((q.allocs.filter (fun x => x.2.2 != 1)).map (fun x => x.2.1)).sum
    + (q.pbs.map (fun x => (x.2.map (fun b => pbBytes b.cls)).getD 0)).sum + (q.obj.map (·.bytes)).getD 0

/-- Bytes of device memory that have been given. -/
def State.allocated (s : State) : Nat := ((List.range 16).map (fun p => (s.part p).taken)).sum

/-- HBM capacity: 16 stacks of 48 GB (R2, R10), a GB being 10^9 bytes (assumption 46). -/
def hbmBytes : Nat := 16 * (48 * 10 ^ 9)

/-- MEM_ALLOC, call 2: the service's plan gives the address and the entries; one that does not give zeroed pages of
that home and class under the partition's key, or names a frame of its code (R48), is no allocation, nor is one past the
capacity of the HBM. -/
def execMemAlloc (plan : AllocPlan) (s : State) : Out :=
  callStep 2 s (fun c =>
    let n := pageRound c.a.toNat
    let home := bitsNat c.b 0 4
    let ccls := bitsNat c.b 4 2
    let p := c.part
    if c.a = 0 ∨ 2 ^ 48 < c.a.toNat ∨ 64 ≤ c.b.toNat ∨ ccls = 3 ∨ (7 < home ∧ home ≠ 15) ∨ hbmBytes < s.allocated + n
        ∨ !s.rangeFree p plan.va n then
      (callFailed, s)
    else
      let t := s.writePtes plan.ptes
      if t.eachLeaf p plan.va n (fun _ pte x =>
          pte.getLsbD 1 && pte.getLsbD 2 && pte.getLsbD 4 && !pte.getLsbD 63 && bitsNat pte 52 4 == home && x.ccls == ccls
            && x.key == (s.part p).keySlot && !(s.codeFrames p).contains (x.pa / 4096)) then
        (BitVec.ofNat 64 plan.va,
          (t.zeroVirt p plan.va n).modPart p (fun q => { q with allocs := q.allocs ++ [(plan.va, n, 0)] }))
      else (callFailed, s))

/-- Record what a range of a partition is: 0 allocated, 1 a view, 2 unmapped while its shootdown is under way. -/
def State.setAlloc (s : State) (p va n k : Nat) : State :=
  s.modPart p (fun q => { q with allocs := q.allocs.map (fun x => if x = (va, n, 0) then (va, n, k) else x) })

/-- MEM_FREE, call 3: the range is unmapped and shot down, and the call returns once the shootdown has completed (R261). -/
def execMemFree (s : State) : Out :=
  match s.callOf 3 with
  | none => .next s
  | some c =>
    let p := c.part
    match (s.part p).allocs.find? (fun x => x.1 = c.a.toNat && x.2.2 != 1) with
    | none => .next (s.answer 3 callFailed)
    | some (va, n, k) =>
      let t := if k = 0 then ((s.unmap (s.ptRoot p) va n).shootNow p va n).setAlloc p va n 2 else s.shootSettle p va n
      if t.shootOver p va n then
        .next ((t.modPart p (fun q => { q with allocs := q.allocs.filter (fun x => x != (va, n, 2)) })).answer 3 0)
      else .next t

/-- VIEW_MAP, call 4: a second mapping of the same pages that may only be read. -/
def execViewMap (plan : AllocPlan) (s : State) : Out :=
  callStep 4 s (fun c =>
    let p := c.part
    let lo := c.a.toNat / 4096 * 4096
    let n := pageRound (c.a.toNat % 4096 + c.b.toNat)
    let inside := (s.part p).allocs.any (fun x => x.2.2 = 0 && x.1 ≤ c.a.toNat && c.a.toNat + c.b.toNat ≤ x.1 + x.2.1)
    if c.b = 0 ∨ !inside ∨ !s.rangeFree p plan.va n then (callFailed, s)
    else
      let t := s.writePtes plan.ptes
      if t.eachLeaf p plan.va n (fun off pte x =>
          pte.getLsbD 1 && !pte.getLsbD 2 && pte.getLsbD 4 && !pte.getLsbD 63 &&
            (match s.walk (s.ptRoot p) (lo + off) with
              | .ok (w, bits) => leafPath w bits (lo + off) == x
              | .error _ => false)) then
        (BitVec.ofNat 64 (plan.va + c.a.toNat % 4096), t.modPart p (fun q => { q with allocs := q.allocs ++ [(plan.va, n, 1)] }))
      else (callFailed, s))

/-- ENDPOINT_OPEN, call 5: the handle is the service's choice. -/
def execEndpointOpen (h : Nat) (s : State) : Out :=
  callStep 5 s (fun c =>
    if 2 < c.b.toNat ∨ 2 ^ 64 - 1 ≤ h ∨ s.endpoints.any (fun x => x.handle == h) then (callFailed, s)
    else
      (BitVec.ofNat 64 h,
        { s with endpoints := s.endpoints ++ [{ handle := h, part := c.part, peer := c.a, service := c.b.toNat, queue := [] }] }))

/-- ENDPOINT_CLOSE, call 6. -/
def execEndpointClose (s : State) : Out :=
  callStep 6 s (fun c =>
    let mine (x : Endpoint) : Bool := x.handle == c.a.toNat && x.part == c.part
    if s.endpoints.any mine then (0, { s with endpoints := s.endpoints.filter (fun x => !mine x) }) else (callFailed, s))

/-- CTL_RECV, call 7: the oldest control message; what does not fit in `len` bytes is dropped (assumption 22). -/
def execCtlRecv (s : State) : Out :=
  callStep 7 s (fun c =>
    match s.ctlIn with
    | [] => (0, s)
    | m :: ms =>
      let l := m.take c.b.toNat
      if !s.mapped (s.ptRoot c.part) Need.store c.a.toNat l.length then (callFailed, s)
      else
        match s.writeVirt (s.ptRoot c.part) none Need.store c.a.toNat l with
        | (.ok _, s) => (BitVec.ofNat 64 l.length, { s with ctlIn := ms })
        | (.error _, s) => (callFailed, s))

/-- CTL_SEND, call 8. -/
def execCtlSend (s : State) : Out :=
  callStep 8 s (fun c =>
    if 65536 < c.b.toNat then (callFailed, s)
    else
      match s.readUser c.part c.a.toNat c.b.toNat with
      | (some l, s) => (0, { s with ctlOut := s.ctlOut ++ [l] })
      | (none, s) => (callFailed, s))

/-- "SZ880-HA" in ASCII (R378). -/
def partNo : List Byte := [0x53, 0x5A, 0x38, 0x38, 0x30, 0x2D, 0x48, 0x41]

/-- The record of topology_query (R378). -/
def State.topology (s : State) (p : Nat) : List Byte :=
  let dies := List.range 8
  partNo ++ dies.flatMap (fun d => natToBytes 2 (s.die d).stepping)
    ++ [BitVec.ofNat 8 ((dies.map (fun d => if (s.die d).admitted then 2 ^ d else 0)).sum), if s.reduced then 1 else 0]
    ++ List.replicate 6 0 ++ dies.flatMap (fun d => natToBytes 4 (s.own p d).toNat)

/-- TOPOLOGY_QUERY, call 9 (R378). -/
def execTopologyQuery (s : State) : Out :=
  callStep 9 s (fun c =>
    match s.writeUser c.part c.a.toNat Need.store (s.topology c.part) with
    | (true, s) => (0, s)
    | (false, s) => (callFailed, s))

/-- TIME_QUERY, call 10: the GTC of the caller's die. -/
def execTimeQuery (s : State) : Out :=
  callStep 10 s (fun _ =>
    (BitVec.ofNat 64 ((s.die (dieOfAgent s.focus)).gtc % 2 ^ 63 + (if s.holdover then 2 ^ 63 else 0)), s))

/-- The first condition of R353 on a handler. -/
def State.handlerOk (s : State) (p h : Nat) : Bool :=
  match (s.part p).obj with
  | none => false
  | some o =>
    h % 8 == 0 && o.streamLo ≤ h && h < o.streamHi &&
      (match s.readCode (.sfe p) h with
        | .ok w => enterKinds w == some [false, false]
        | .error _ => false)

/-- SET_STREAM_HANDLER, call 11 (R353). -/
def execSetStreamHandler (s : State) : Out :=
  callStep 11 s (fun c =>
    let p := c.part
    let h := c.a.toNat
    let buf := c.b.toNat
    let put (x : Option (Nat × Nat)) : Word × State := (0, s.modPart p (fun q => { q with sfe := { q.sfe with handler := x } }))
    if c.task then (1, s)
    else if h = 0 then put none
    else if s.handlerOk p h && buf % 8 == 0 && buf + 128 ≤ 2 ^ 48 && s.permits (s.ptRoot p) Need.both buf 128 then put (some (h, buf))
    else (1, s))

/-- The report of task_report (R379). -/
def Entry.report (e : Entry) : List Byte :=
  let words := ceilDiv e.ntask 64
  natToBytes (8 * words) ((e.bitmap.map (fun x => 2 ^ x.1)).sum) ++ natToBytes 8 e.ecode.toNat

/-- TASK_REPORT, call 12 (R379). -/
def execTaskReport (s : State) : Out :=
  callStep 12 s (fun c =>
    match (s.part c.part).heldEntry with
    | none => (callFailed, s)
    | some (_, e) =>
      match s.writeUser c.part c.a.toNat Need.both e.report with
      | (true, s) => (BitVec.ofNat 64 e.ntask, s)
      | (false, s) => (callFailed, s))

/-- YIELD, call 13: the slice is over. -/
def execYield (s : State) : Out :=
  callStep 13 s (fun c => (0, s.modPart c.part (fun q => { q with sliceT := max q.sliceT (s.effSlice c.part) })))

/-- PATCH_QUERY, call 14: a word for each die, SEQ in its low half and the mask of valid slots in its high half
(assumption 23). -/
def execPatchQuery (s : State) : Out :=
  callStep 14 s (fun c =>
    let word (d : Nat) : Nat :=
      (s.die d).patchSeq % 2 ^ 32
        + (((List.range 32).map (fun n => if (s.patch d n).valid then 2 ^ n else 0)).sum) * 2 ^ 32
    match s.writeUser c.part c.a.toNat Need.store (wordsBytes ((List.range 8).map word)) with
    | (true, s) => (0, s)
    | (false, s) => (callFailed, s))

/-- EVENT_POST, call 15. -/
def execEventPost (s : State) : Out :=
  callStep 15 s (fun c => if 15 < c.a.toNat then (callFailed, s) else (0, s.postEvent c.a.toNat 3 c.b))

/-- ENDPOINT_MESSAGE_ARRIVAL (R315, R371): the message is queued and a TYPE 2 event posted, whose DATA is left open
(assumption 4). -/
def execEndpointMessageArrival (h : Nat) (msg : List Byte) (s : State) : Out :=
  match s.endpoints.find? (fun x => x.handle == h) with
  | none => .next s
  | some x =>
    let add (y : Endpoint) : Endpoint := if y.handle == h then { y with queue := y.queue ++ [msg] } else y
    let (w, t) := s.freeValue
    .next ({ t with endpoints := t.endpoints.map add }.postEvent x.part 2 w)

end Sys2Proof.Machine
end

