-- ==== Sys2Proof/Machine/Launch.lean ====
section
/-! DEFINITION. Launching a stream (R88, R370): the launch record, the checks of a code object (R45 to R54), its
linking (R50, R51), and its placing in the partition's memory (R48). The layout of ELF64 itself is that of its own
standard (assumption 24). -/

namespace Sys2Proof.Machine

/-- A little-endian field of a file. -/
def le (bs : List Byte) (off n : Nat) : Nat := bytesToNat ((bs.drop off).take n)

/-! Sections (R47). -/

/-- A section header with its name. -/
structure Sect where
  name : List Byte
  typ : Nat
  flags : Nat
  addr : Nat
  off : Nat
  size : Nat
  link : Nat
  align : Nat
  deriving DecidableEq, Repr, Inhabited

/-- The characters of a name, as bytes. -/
def nameBytes (n : String) : List Byte := n.toList.map (fun c => BitVec.ofNat 8 c.toNat)

/-- What R47 lists: name, type, flags, alignment, whether users may read and write it, whether it is text. -/
structure Listed where
  name : List Byte
  typ : Nat
  flags : Nat
  align : Nat
  r : Bool
  w : Bool
  x : Bool
  deriving DecidableEq, Repr

/-- The sections of R47. -/
def listed : List Listed :=
  [{ name := nameBytes ".gn.stream", typ := 1, flags := 6, align := 8, r := false, w := false, x := true },
   { name := nameBytes ".gn.kern", typ := 1, flags := 6, align := 8, r := false, w := false, x := true },
   { name := nameBytes ".gn.rodata", typ := 1, flags := 2, align := 8, r := true, w := false, x := false },
   { name := nameBytes ".data", typ := 1, flags := 3, align := 8, r := true, w := true, x := false },
   { name := nameBytes ".bss", typ := 8, flags := 3, align := 8, r := true, w := true, x := false },
   { name := nameBytes ".gn.tinit", typ := 1, flags := 2, align := 32, r := true, w := false, x := false },
   { name := nameBytes ".gn.meta", typ := 1, flags := 0, align := 8, r := false, w := false, x := false }]

/-- The row of R47 a section falls under. -/
def Sect.row (x : Sect) : Option Listed := listed.find? (fun l => l.name == x.name)

/-- Whether a section is loaded (ALLOC). -/
def Sect.alloc (x : Sect) : Bool := x.flags / 2 % 2 == 1

/-- Whether a section stands against R47, and what is read of it lies in the file: a section with an unlisted name is
ignored, but for the symbol table and the relocations. -/
def Sect.ok (x : Sect) (fileLen : Nat) : Bool :=
  (x.typ == 8 || (x.row.isNone && x.typ != 2 && x.typ != 4) || x.off + x.size ≤ fileLen) &&
    (match x.row with
      | some l =>
        x.typ == l.typ && x.flags == l.flags && l.align ≤ x.align && (x.align == 0 || x.addr % x.align == 0)
          && x.addr + x.size ≤ 2 ^ 48
      | none => !x.alloc)

/-- The name at an offset of a string table: its bytes up to the first zero. -/
def nameAt (f : List Byte) (off : Nat) : List Byte := (f.drop off).takeWhile (· != 0)

/-- The section headers of a file. -/
def sections (f : List Byte) : List Sect :=
  let shoff := le f 40 8
  let num := le f 60 2
  let strOff := le f (shoff + 64 * le f 62 2 + 24) 8
  (List.range num).map (fun i =>
    let b := shoff + 64 * i
    { name := nameAt f (strOff + le f b 4), typ := le f (b + 4) 4, flags := le f (b + 8) 8, addr := le f (b + 16) 8,
      off := le f (b + 24) 8, size := le f (b + 32) 8, link := le f (b + 40) 4, align := le f (b + 48) 8 })

/-- The section of a name. -/
def sectionOf (l : List Sect) (n : String) : Option Sect := l.find? (fun x => x.name == nameBytes n)

/-- Bytes of a section in the file; none for `.bss`. -/
def Sect.content (x : Sect) (f : List Byte) : List Byte := if x.typ = 8 then [] else (f.drop x.off).take x.size

/-- Whether an address lies in a section. -/
def Sect.has (x : Sect) (a : Nat) : Bool := decide (x.addr ≤ a) && decide (a < x.addr + x.size)

/-! Symbols and relocations (R49, R50). -/

/-- A symbol. -/
structure Sym where
  info : Nat
  shndx : Nat
  value : Nat
  size : Nat
  deriving DecidableEq, Repr, Inhabited

/-- The symbols of the object, from its first symbol table (assumption 44). -/
def symbols (f : List Byte) (l : List Sect) : List Sym :=
  match l.find? (fun x => x.typ = 2) with
  | none => []
  | some t =>
    (List.range (t.size / 24)).map (fun i =>
      let b := t.off + 24 * i
      { info := le f (b + 4) 1, shndx := le f (b + 6) 2, value := le f (b + 8) 8, size := le f (b + 16) 8 })

/-- Whether a symbol is defined in the object (R49). An index past the sections (SHN_ABS, SHN_COMMON), on which the rule is
silent, defines a symbol of a file or of a type past 3, which names no section, and no other (assumption 44). -/
def Sym.defined (x : Sym) (nsect : Nat) : Bool :=
  decide (0 < x.shndx) && (decide (x.shndx < nsect) || decide (3 ≤ x.info % 16))

/-- Whether a symbol is a function of a section. -/
def Sym.funcIn (x : Sym) (l : List Sect) (n : String) : Bool :=
  x.info % 16 == 2 &&
    (match l[x.shndx]? with
      | some s => s.name == nameBytes n && s.has x.value
      | none => false)

/-- A relocation. -/
structure Reloc where
  off : Nat
  sym : Nat
  typ : Nat
  addend : Int
  deriving DecidableEq, Repr, Inhabited

/-- The relocations of the object: those of every SHT_RELA section, whatever its sh_info and sh_link, against the first
SHT_SYMTAB (assumption 44). -/
def relocs (f : List Byte) (l : List Sect) : List Reloc :=
  (l.filter (fun x => x.typ = 4)).flatMap (fun t =>
    (List.range (t.size / 24)).map (fun i =>
      let b := t.off + 24 * i
      { off := le f b 8, sym := le f (b + 8) 8 / 2 ^ 32, typ := le f (b + 8) 8 % 2 ^ 32,
        addend := toSigned 64 (le f (b + 16) 8) }))

/-- A part of the loaded image: section, and its bytes. -/
structure Piece where
  sect : Sect
  bytes : List Byte
  deriving DecidableEq, Repr, Inhabited

/-- Replace bytes of a list at an offset. -/
def patchBytes (l : List Byte) (off : Nat) (v : List Byte) : List Byte := l.take off ++ v ++ l.drop (off + v.length)

/-- The word at an offset of a piece. -/
def Piece.word (p : Piece) (off : Nat) : Word := BitVec.ofNat 64 (le p.bytes off 8)

/-- Whether the word at an offset of text is the LIT64 word of a `li64` (R61). -/
def Piece.isLit (p : Piece) (off : Nat) : Bool :=
  off % 8 == 0 && 8 ≤ off && off + 8 ≤ p.bytes.length && opOf (p.word off) == 0x0E
    && opOf (p.word (off - 8)) == 0x15 && fnOf (p.word (off - 8)) == 2

/-- Whether a word is of form I, which OP fixes, and FN for OP 0x15 (R57, R58, R176, R177, R305, R306). -/
def isFormI (w : Word) : Bool :=
  [0x09, 0x0A, 0x30, 0x31].contains (opOf w).toNat || (opOf w == 0x15 && decide ((fnOf w).toNat < 2))

/-- Write a 64-bit value where a relocation points: a word of data, at any offset (assumption 46), or the packing of a LIT64 word
(R61). -/
def Piece.put64 (p : Piece) (off : Nat) (v : Int) : Option Piece :=
  let n := wrapNat 64 v
  if p.sect.flags = 6 then
    if p.isLit off then
      let lit := setBits (p.word off) 0 56 n
      let host := setBits (p.word (off - 8)) 0 8 (n / 2 ^ 56)
      some { p with bytes := patchBytes p.bytes (off - 8) (natToBytes 8 host.toNat ++ natToBytes 8 lit.toNat) }
    else none
  else if off + 8 ≤ p.sect.size then
    some { p with bytes := patchBytes (p.bytes ++ List.replicate (off + 8 - p.bytes.length) 0) off (natToBytes 8 n) }
  else none

/-- Whether relocations may point into a section: text, and every section of data (R49, R50). -/
def Sect.relocatable (x : Sect) : Bool := x.alloc && (x.typ == 1 || x.typ == 8)

/-- Apply a relocation to the pieces (R50): `kern` says which symbols are kernel entries, `bias` where the object lies. The symbol
of index 0 stands for 0 (assumption 46). -/
def applyReloc (ps : List Piece) (syms : List Sym) (kern : Nat → Bool) (bias : Nat) (r : Reloc) : Option (List Piece) :=
  if r.typ = 0 then some ps
  else
    match syms[r.sym]? with
    | none => none
    | some y =>
      let v : Int := (if r.sym = 0 then 0 else (bias : Int) + y.value) + r.addend
      let one (p : Piece) : Option Piece :=
        let off := r.off - p.sect.addr
        match r.typ with
        | 1 => p.put64 off v
        | 2 =>
          if p.sect.flags = 6 && off % 8 = 0 && isFormI (p.word off) && decide (-(2 ^ 31 : Int) ≤ v) && decide (v < (2 ^ 32 : Int)) then
            some { p with bytes := patchBytes p.bytes off (natToBytes 4 (wrapNat 32 v)) }
          else none
        | 3 => if kern r.sym && r.addend == 0 then p.put64 off v else none
        | _ => none
      match ps.findIdx? (fun p => p.sect.relocatable && p.sect.has r.off) with
      | none => none
      | some i =>
        match ps[i]? with
        | none => none
        | some p => (one p).map (fun q => ps.set i q)

/-- Apply every relocation in order. -/
def applyRelocs (syms : List Sym) (kern : Nat → Bool) (bias : Nat) : List Piece → List Reloc → Option (List Piece)
  | ps, [] => some ps
  | ps, r :: rs =>
    match applyReloc ps syms kern bias r with
    | none => none
    | some ps => applyRelocs syms kern bias ps rs

/-! Kernel metadata (R52 to R54). -/

/-- A metadata record and its symbol. -/
structure Meta where
  sym : Nat
  kernel : Kernel
  deriving DecidableEq, Repr

/-- The least BUDGET of a move from `a` to `b` pad units. -/
def leastBudget (a b : Nat) : Nat := 2112 * (b - a) + 64 * (a - b)

/-- Whether the plan entries of a kernel stand against R54: `at'` is its entry in its section's bytes. -/
def plansOk (text : Piece) (at' size : Nat) : Nat → List Word → Bool
  | _, [] => true
  | prev, w :: ws =>
    let k := bitsNat w 32 5
    let off := 8 * bitsNat w 0 32
    bitsNat w 37 3 == 0 && k ≤ 24 && leastBudget prev k ≤ bitsNat w 40 24 && off + 8 ≤ size &&
      (match decode [text.word (at' + off)] with
        | .ok (.phase f, _) => bitsNat f.mod 16 5 == k
        | _ => false)
      && plansOk text at' size k ws

/-- Read the records of `.gn.meta`; `none` where one of R54's checks fails, or a kernel's entry is not 8-aligned or its end lies past
the section (assumption 46). -/
def metaRecords (syms : List Sym) (secs : List Sect) (text : Option Piece) (bias : Nat) : Nat → List Word → Option (List Meta)
  | _, [] => some []
  | 0, _ => none
  | n + 1, w0 :: rest =>
    match rest with
    | [] => none
    | w1 :: ws =>
      let np := bitsNat w0 40 8
      let sym := bitsNat w0 0 32
      match syms[sym]?, text with
      | some y, some t =>
        let at' := y.value - t.sect.addr
        if bitsNat w0 53 11 == 0 && w0.getLsbD 39 == false && np ≤ 64 && np ≤ ws.length && bitsNat w0 35 4 ≤ 8
            && bitsNat w0 48 5 ≤ 24 && bitsNat w1 25 39 == 0 && y.funcIn secs ".gn.kern" && y.value % 8 == 0
            && y.value + y.size ≤ t.sect.addr + t.sect.size
            && plansOk t at' y.size (bitsNat w0 48 5) (ws.take np) then
          match metaRecords syms secs text bias n (ws.drop np) with
          | none => none
          | some l =>
            if l.any (fun m => m.sym == sym || m.kernel.addr == bias + y.value) then none
            else
              some ({ sym := sym,
                      kernel :=
                        { addr := bias + y.value, size := y.size, ntens := bitsNat w0 32 3, nargs := bitsNat w0 35 4,
                          initpad := bitsNat w0 48 5, bpush := bitsNat w1 20 5, bchan := bitsNat w1 15 5,
                          bsleep := bitsNat w1 10 5, bbar := bitsNat w1 5 5, bflag := bitsNat w1 0 5 } } :: l)
        else none
      | _, _ => none

/-! The object (R45, R46, R51). -/

/-- Whether the header stands against R45 and R46. -/
def headerOk (f : List Byte) : Bool :=
  64 ≤ f.length && le f 0 4 == 0x464C457F && le f 4 1 == 2 && le f 5 1 == 1 && le f 16 2 == 3 && le f 18 2 == 0x9A07
    && le f 48 4 == 0x100 && le f 58 2 == 64 && le f 40 8 + 64 * le f 60 2 ≤ f.length

/-- A linked object: its pieces, and what the service keeps of it. -/
structure Linked where
  pieces : List Piece
  obj : Obj
  deriving DecidableEq, Repr

/-- Check and link an object at a bias, or fail (R46 to R54, R88). `narg` is NARG of the launch record. -/
def linkObject (f : List Byte) (objId bias narg : Nat) : Option Linked :=
  if !headerOk f then none
  else
    let secs := sections f
    let named := secs.filter (fun x => x.row.isSome)
    let syms := symbols f secs
    if !(secs.all (fun x => x.ok f.length)) || !(named.map (·.name)).Nodup
        || !((syms.drop 1).all (fun y => y.defined secs.length)) then none
    else
      let pieces := (secs.filter (·.alloc)).map (fun x => { sect := x, bytes := x.content f })
      let text (n : String) : Option Piece := pieces.find? (fun p => p.sect.name == nameBytes n)
      let words := match sectionOf secs ".gn.meta" with
        | some m => if m.size % 8 = 0 then some (wordsOfBytes (m.content f)) else none
        | none => some []
      match words.bind (fun ws => metaRecords syms secs (text ".gn.kern") bias ws.length ws), text ".gn.stream" with
      | some metas, some st =>
        let e := le f 24 8
        let kinds := enterKinds (st.word (e - st.sect.addr))
        if !st.sect.has e || e % 8 != 0 || 8 < narg || kinds != some (List.replicate narg false) then none
        else
          match applyRelocs syms (fun n => metas.any (fun m => m.sym = n)) bias pieces (relocs f secs) with
          | none => none
          | some ps =>
            let (kl, kh) := match text ".gn.kern" with
              | some k => (bias + k.sect.addr, bias + k.sect.addr + k.sect.size)
              | none => (0, 0)
            some { pieces := ps,
                   obj := { id := objId, streamLo := bias + st.sect.addr, streamHi := bias + st.sect.addr + st.sect.size,
                            kernLo := kl, kernHi := kh, bytes := 0, entry := bias + e, kernels := metas.map (·.kernel) } }
      | _, _ => none

/-! Placing (R48). -/

/-- First page and bytes of whole pages that a section takes. -/
def Sect.pages (x : Sect) (bias : Nat) : Nat × Nat :=
  let lo := (bias + x.addr) / 4096 * 4096
  (lo, if x.size = 0 then 0 else pageRound (bias + x.addr + x.size - lo))

/-- Whether the pages of a section are mapped with the accesses of R47, the partition's key, and HOME 15 for data. -/
def State.placed (s : State) (p bias : Nat) (x : Sect) : Bool :=
  match x.row with
  | none => true
  | some l =>
    let (lo, n) := x.pages bias
    s.eachLeaf p lo n (fun _ pte y =>
      pte.getLsbD 4 && pte.getLsbD 1 == l.r && pte.getLsbD 2 == l.w && pte.getLsbD 3 == l.x && !pte.getLsbD 63
        && y.key == (s.part p).keySlot && (l.x || bitsNat pte 52 4 == 15))

/-- Whether no page that may be written, of the object, of the partition's allocations or of its pools, is a second mapping of
the frame of a page of text: code cannot be changed after load (R48). -/
def State.codeApart (s : State) (p bias : Nat) (ps : List Piece) : Bool :=
  let frames (f : Listed → Bool) : List Nat :=
    (ps.filter (fun x => (x.sect.row.map f).getD false)).flatMap (fun x =>
      s.frames p (x.sect.pages bias).1 (x.sect.pages bias).2)
  let code := frames (·.x)
  (frames (·.w)).all (fun x => !code.contains x)
    && (s.part p).allocs.all (fun a => (s.frames p a.1 a.2.1).all (fun x => !code.contains x))
    && (s.part p).pbs.all (fun b => match b.2 with
      | some y => (s.frames p b.1 (pbBytes y.cls)).all (fun x => !code.contains x)
      | none => true)

/-- Write bytes of a partition past its permissions, as the service does. -/
def State.fillVirt (s : State) (p va : Nat) : List Byte → State
  | [] => s
  | b :: bs =>
    match s.walk (s.ptRoot p) va with
    | .ok (pte, bits) => (s.writePath none (leafPath pte bits va) 1 b.toNat [.l2]).fillVirt p (va + 1) bs
    | .error _ => s.fillVirt p (va + 1) bs

/-- Place the pieces of a linked object: pages of zeros first, then what the file holds. -/
def State.place (s : State) (p bias : Nat) (ps : List Piece) : State :=
  let s := ps.foldl (fun s x => let r := x.sect.pages bias; (s.shootNow p r.1 r.2).zeroVirt p r.1 r.2) s
  ps.foldl (fun s x => s.fillVirt p (bias + x.sect.addr) x.bytes) s

/-- Whether the choices of the service are ones it may make (R48, R142): a page-aligned bias, an object id that no
other loaded object and no translation holds, pages within the space and clear of the partition's allocations. -/
def State.planOk (s : State) (p : Nat) (plan : LoadPlan) (ps : List Piece) : Bool :=
  plan.bias % 4096 == 0 && 0 < plan.objId && plan.objId < 2 ^ 16
    && (List.range 16).all (fun q => q == p || ((s.part q).obj.map (·.id)) != some plan.objId)
    && (List.range 8).all (fun d => (s.die d).index.all (fun b => b.blk.obj != plan.objId))
    && ps.all (fun x =>
        let (lo, n) := x.sect.pages plan.bias
        lo + n ≤ 2 ^ 48 && offWindow lo n && (s.part p).allocs.all (fun a => a.1 + a.2.1 ≤ lo || lo + n ≤ a.1))

/-! The record (R370). -/

/-- A launch record read as a number, with the object that follows it. -/
structure Launch where
  v : Nat
  object : List Byte
  deriving DecidableEq, Repr

/-- A field of the record. -/
def Launch.field (x : Launch) (lo w : Nat) : Nat := x.v / 2 ^ lo % 2 ^ w
/-- PART -/
def Launch.part (x : Launch) : Nat := x.field 40 4
/-- NARG -/
def Launch.narg (x : Launch) : Nat := x.field 44 4
/-- REQID -/
def Launch.reqid (x : Launch) : Word := BitVec.ofNat 64 (x.field 64 64)
/-- The argument words. -/
def Launch.args (x : Launch) : List Word := (List.range x.narg).map (fun k => BitVec.ofNat 64 (x.field (512 + 64 * k) 64))

/-- Split a message. -/
def launchOf (msg : List Byte) : Launch := { v := bytesToNat (msg.take 128), object := msg.drop 128 }

/-- Whether MAGIC, VERSION, the reserved fields, NARG, OBJLEN and DIGEST are as R370 says. -/
def Launch.ok (x : Launch) : Bool :=
  x.field 0 32 == 0x5A4C4E43 && x.field 32 8 == 1 && x.field 48 16 == 0 && x.field 128 64 == 0 && x.narg ≤ 8
    && (List.range 8).all (fun k => k < x.narg || x.field (512 + 64 * k) 64 == 0)
    && 1 ≤ x.field 192 64 && x.field 192 64 ≤ 2 ^ 32 && x.field 192 64 == x.object.length
    && x.field 256 256 == (Config.sha3 x.object).toNat

/-- Whether a launch needs a die that has not been admitted (R365): the host of the stream context, or one on which
the partition owns something. -/
def State.needsAbsent (s : State) (p : Nat) : Bool :=
  (List.range 8).any (fun d => !(s.die d).admitted && (d == hostDie p || s.own p d != 0))

/-- A refusal: REQID and some nonzero status (assumption 4). -/
def State.refuseLaunch (s : State) (reqid : Word) : State :=
  let (w, t) := s.freeValue
  { t with ctlOut := t.ctlOut ++ [exitReport reqid (if w = 0 then 1 else w)] }

/-- The stream context of an accepted launch (R88): the window empty, every tensor unallocated, the stall counters
reset, and the entry block reached with the record's arguments. -/
def Part.startStream (q : Part) (o : Obj) (reqid : Word) (args : List Word) : Part :=
  { q.freeAll with
    lastDie := 7, rename := [], committed := [], window := [], whead := 0, wcount := 0, wstallCkpt := 0, wstallFull := 0,
    wstallPool := 0, srec := none, srecNew := false, obj := some o,
    sfe := { Sfe.reset with
      running := true, serials := q.sfe.serials, reqid := reqid,
      ctx := Ctx.reset.enterBlock o.entry (args.map (fun w => .ready (.scalar w))) } }

/-- LAUNCH_RECORD (R370): the service checks the record and its object, and starts the stream or refuses it. None arrives before
a port has trained (R366). -/
def execLaunchRecord (msg : List Byte) (plan : LoadPlan) (s : State) : Out :=
  let x := launchOf msg
  let p := x.part
  if s.ctlPort.isNone then .next s
  else if msg.length < 128 || !x.ok || (s.part p).sfe.running || s.coresOwned p = 0 || s.needsAbsent p then
    .next (s.refuseLaunch x.reqid)
  else
    match linkObject x.object plan.objId plan.bias x.narg with
    | none => .next (s.refuseLaunch x.reqid)
    | some l =>
      let t := s.writePtes plan.ptes
      let size := (l.pieces.map (fun y => (y.sect.pages plan.bias).2)).sum
      if hbmBytes < s.allocated - ((s.part p).obj.map (·.bytes)).getD 0 + size || !s.planOk p plan l.pieces || !(l.pieces.all (fun y => t.placed p plan.bias y.sect))
          || !t.codeApart p plan.bias l.pieces then
        .next (s.refuseLaunch x.reqid)
      else
        .next (((t.place p plan.bias l.pieces).extend (hostDie p) 4 (BitVec.ofNat 256 (x.field 256 256))).modPart p
          (fun q => q.startStream { l.obj with bytes := size } x.reqid x.args))

end Sys2Proof.Machine
end

