-- ==== Sys2Proof/Machine/Board.lean ====
section
/-! DEFINITION. The part in its system (R346 to R352, R360 to R368): clocks, boot and measurement, admission, attestation,
the reliability record, errors of stores and links, and the warm reset of one die. -/

namespace Sys2Proof.Machine

/-- Count up to a limit. -/
def satAdd (lim x : Nat) : Nat := min (x + 1) lim

/-! Clocks and time (R360 to R362). -/

/-- An event of TYPE 4 in every partition (R315, R361). -/
def State.refEvent (s : State) (w : Word) : State := (List.range 16).foldl (fun s p => s.postEvent p 4 w) s

/-- REFCLK_LOSS (R361). -/
def execRefclkLoss (s : State) : Out := if s.holdover then .next s else .next ({ s with holdover := true }.refEvent 1)
/-- REFCLK_RETURN (R361). -/
def execRefclkReturn (s : State) : Out := if s.holdover then .next ({ s with holdover := false }.refEvent 0) else .next s

/-- The value a die's GTC has after the next clk, where it is not corrected any more. -/
def Die.dueGtc (x : Die) : Nat := if x.slow then x.gtc else x.gtc + 1

/-- GTC_CORRECTION (R362): the copy of the die in focus gains a tick, or its next clk brings none, or neither: in holdover as it
lags or leads CD0's copy, else as the reference says, which is left open (assumption 25). No copy moves more than 16 ticks from
another, and none is corrected by more than 1 tick in 64. -/
def execGtcCorrection (s : State) : Out :=
  match s.focus with
  | .die d =>
    if 8 ≤ d then .next s
    else
      let x := s.die d
      let (w, t) := s.freeValue
      let gains := if s.holdover then decide (x.gtc < (s.die 0).gtc) else w.getLsbD 0
      let loses := if s.holdover then decide ((s.die 0).gtc < x.gtc) else w.getLsbD 1
      if x.slow || x.gtc < x.slewAt + 64 then .next t
      else if gains && (List.range 8).all (fun k => x.gtc + 2 ≤ (s.die k).dueGtc + 16) then
        .next (t.modDie d (fun x => { x with gtc := x.gtc + 1, slewAt := x.gtc + 1 }))
      else if !gains && loses && (List.range 8).all (fun k => (s.die k).dueGtc ≤ x.gtc + 16) then
        .next (t.modDie d (fun x => { x with slow := true, slewAt := x.gtc }))
      else .next t
  | _ => .next s

/-- SUPPLY_DROOP (R360): no value depends on it. -/
def execSupplyDroop (s : State) : Out := .next s

/-! Boot (R364, R365). -/

/-- The lowest-numbered physical core that passes the test. -/
def lowestPass (m : BitVec 17) : Nat := ((List.range 17).find? (fun i => m.getLsbD i)).getD 0

/-- A die stays in ROM and reports what it found. -/
def State.stayInRom (s : State) (d : Nat) (b : BootInfo) : State :=
  let r : List Byte := BitVec.ofNat 8 d :: natToBytes 3 b.passed.toNat
  { s.modDie d (fun x => { x with romOnly := true, report := r }) with board := s.board ++ [r] }

/-- Whether every physical core passed. -/
def allPass (b : BootInfo) : Bool := b.passed == BitVec.allOnes 17
/-- Whether the service image's signature verifies. -/
def signedOk (b : BootInfo) : Bool := Config.mldsaVerify b.imageDigest b.signature

/-- K0 is loaded at the first boot of a cold reset, with key material nobody can read (R369). -/
def State.loadK0 (s : State) : State :=
  if (s.keySlot 0).loaded then s
  else
    let mat := (List.range 8).flatMap (fun i => natToBytes 8 (Config.freeWord (s.fresh + i)).toNat)
    { s with fresh := s.fresh + 8 }.setKey 0 (some mat)

/-- What a cold reset of the device leaves: the reset state, with the steps to come. -/
def State.coldState (s : State) : State :=
  { State.reset with focus := s.focus, agenda := s.agenda, clock := s.clock, fresh := s.fresh }

/-- What MEAS0 is extended with (R364): the digest of the ROM and the fuse state, which holds the part number and the die's
stepping (R1; assumption 9). -/
def State.romDigest (s : State) (d : Nat) (b : BootInfo) : BitVec 256 :=
  Config.sha3 (partNo ++ natToBytes 2 (s.die d).stepping ++ b.rom)

/-- COLD_RESET (R364): the boot of one die. A die that has booted before boots again only with the whole device. Its GTC has
counted from the reset of the device on (R362). The service of CD0 brings up port E0 at 400 Gb/s (R365). -/
def execColdReset (d : Nat) (boot : BootInfo) (s : State) : Out :=
  if 8 ≤ d then .next s
  else
    let s := if (s.die d).booted then s.coldState else s
    let s := s.modDie d (fun x =>
      { Die.reset with booted := true, svcCore := lowestPass boot.passed, gtc := x.gtc, slewAt := x.slewAt, slow := x.slow })
    if !allPass boot then .next (s.stayInRom d boot)
    else
      let s := s.extend d 0 (s.romDigest d boot)
      if !signedOk boot then .next (s.stayInRom d boot)
      else
        let s := (((s.extend d 1 boot.imageDigest).extend d 2 boot.configDigest).loadK0).modDie d (fun x =>
          { x with admitted := d == 0 })
        .next (if d = 0 then s.trainPort 0 400 else s)

/-- DIE_ADMISSION (R365): the service of CD0 admits the others in ascending order, each once it has booted; one that stays in ROM
is passed over. -/
def execDieAdmission (s : State) : Out :=
  match s.focus with
  | .die d =>
    let x := s.die d
    if d < 8 && x.booted && !x.romOnly && (s.warm.map (·.1)) != some d
        && (List.range d).all (fun k => (s.die k).admitted || (k != 0 && (s.die k).romOnly)) then
      .next (s.modDie d (fun x => { x with admitted := true }))
    else .next s
  | _ => .next s

/-- CALIBRATION_END (R365): the reduced service ends, and every port trains at 1.6 Tb/s. -/
def execCalibrationEnd (s : State) : Out :=
  .next ((List.range 16).foldl (fun s n => s.trainPort n 1600) { s with reduced := false })

/-- Whether a die is in its ROM: it has not booted yet, its boot has failed, or a warm reset is booting it (R351, R364). -/
def State.inRom (s : State) (d : Nat) : Bool := (s.die d).romOnly || !(s.die d).booted || s.warm == some (d, 3)

/-! Attestation (R367). -/

/-- A reply of the SPDM responder of a die; a die in ROM answers with its report (R368). -/
def State.spdmSay (s : State) (d : Nat) (m : List Byte) : State :=
  { s with spdm := s.spdm ++ [if s.inRom d then (s.die d).report else m] }

/-- A request whose reply the spec names and does not lay out (assumption 10). -/
def spdmStep (code : Nat) (s : State) : Out :=
  let d := dieOfAgent s.focus
  .next ({ s with fresh := s.fresh + 1 }.spdmSay d (Config.spdmReply code d s.fresh))

/-- An ERROR reply (assumption 10). -/
def spdmError (code data : Nat) : List Byte := [0x14, 0x7F, BitVec.ofNat 8 code, BitVec.ofNat 8 data]

/-- MEASn of a die. -/
def State.measure (s : State) (i : Nat) : List Byte := digestBytes (tget 0 (s.die (i / 16)).meas (i % 16))

/-- VERSION: 1.4 is the one version. The layout is that of DSP0274 (assumption 10). -/
def spdmVersion : List Byte := [0x10, 0x04, 0, 0, 0, 1, 0x00, 0x14]

/-- ALGORITHMS: SHA3-256 is the one hash, of messages and of measurements, and ML-DSA-44 the one asymmetric algorithm. The
layout is that of DSP0274 (assumption 10). -/
def spdmAlgorithms : List Byte :=
  [0x14, 0x63, 0, 0] ++ natToBytes 2 36 ++ [1, 0] ++ natToBytes 4 0x10 ++ natToBytes 4 0 ++ natToBytes 4 0x08 ++ natToBytes 4 1
    ++ List.replicate 12 0

/-- GET_VERSION (R367). -/
def execGetVersion (s : State) : Out := .next (s.spdmSay (dieOfAgent s.focus) spdmVersion)
/-- GET_CAPABILITIES (R367). -/
def execGetCapabilities (s : State) : Out := spdmStep 0xE1 s
/-- NEGOTIATE_ALGORITHMS (R367): ML-DSA-44 and SHA3-256 only. -/
def execNegotiateAlgorithms (s : State) : Out := .next (s.spdmSay (dieOfAgent s.focus) spdmAlgorithms)
/-- GET_DIGESTS (R367). -/
def execGetDigests (s : State) : Out := spdmStep 0x81 s
/-- GET_CERTIFICATE (R367). -/
def execGetCertificate (s : State) : Out := spdmStep 0x82 s
/-- CHALLENGE (R367). -/
def execChallenge (s : State) : Out := spdmStep 0x83 s

/-- GET_MEASUREMENTS (R367): index 1 + 16 × die + n gives MEASn of the die, 0xFF all of them. -/
def execGetMeasurements (d : Nat) (idx : BitVec 8) (s : State) : Out :=
  let i := idx.toNat
  let m : List Byte :=
    if 1 ≤ i ∧ i ≤ 128 then s.measure (i - 1)
    else if i = 0xFF then (List.range 128).flatMap s.measure
    else spdmError 0x01 0
  .next (s.spdmSay d m)

/-- SPDM_UNSUPPORTED_REQUEST (R367). -/
def execSpdmUnsupportedRequest (d : Nat) (code : BitVec 8) (s : State) : Out := .next (s.spdmSay d (spdmError 0x07 code.toNat))

/-! Management (R349, R368). -/

/-- A reply to the board manager; a die in ROM answers with its report. -/
def State.boardSay (s : State) (d : Nat) (m : List Byte) : State :=
  { s with board := s.board ++ [if s.inRom d then (s.die d).report else m] }

/-- A reading of a sensor: a free value (assumption 10). -/
def readingStep (s : State) : Out :=
  let d := dieOfAgent s.focus
  .next ({ s with fresh := s.fresh + 1 }.boardSay d (natToBytes 8 (Config.reading d s.fresh).toNat))

/-- READ_TEMPERATURE (R368). -/
def execReadTemperature (s : State) : Out := readingStep s
/-- READ_POWER (R368). -/
def execReadPower (s : State) : Out := readingStep s

/-- The two words of the reliability record (R349). -/
def Die.reliability (x : Die) : List Byte :=
  natToBytes 8 (x.replay / 1024 + x.repfail * 2 ^ 16 + x.sramce * 2 ^ 32)
    ++ natToBytes 8 (x.uciefail + x.sramue * 2 ^ 16 + x.uciertry * 2 ^ 32)

/-- READ_RELIABILITY_RECORD (R349). -/
def execReadReliabilityRecord (s : State) : Out :=
  let d := dieOfAgent s.focus
  .next (s.boardSay d (s.die d).reliability)

/-! Errors of stores and links (R346 to R348). -/

/-- SRAM_CORRECTED_ERROR (R347), on the die in focus. -/
def execSramCorrectedError (s : State) : Out :=
  .next (s.modDie (dieOfAgent s.focus) (fun x => { x with sramce := satAdd 0xFFFFFFFF x.sramce }))

/-- Count a poisoned SRAM word. -/
def State.countSramue (s : State) (d : Nat) : State := s.modDie d (fun x => { x with sramue := satAdd 0xFFFF x.sramue })

/-- A word of a cached sector is poisoned; what no key decrypts goes on reading with ECODE 8 (R262). -/
def CSec.spoil (x : CSec) (k : Nat) : CSec :=
  { x with poison := x.poison ||| BitVec.ofNat 8 (2 ^ k), ecode := if x.poison != 0 && x.ecode == 8 then 8 else 1 }

/-- A word of a cache is poisoned, where the cache holds its sector. -/
def State.spoilCache (s : State) (d : Nat) (c : CacheId) (sec k : Nat) : State :=
  match s.cached c sec with
  | some x => if k < 8 then (s.setCached c sec (some (x.spoil k))).countSramue d else s
  | none => s

/-- How many 64-bit words an entry of a channel has. -/
def Val.words (v : Val) : Nat := if v.isVec then 64 else 1

/-- A word of queue storage is poisoned: word `k` of an entry of a channel, a command that has not started, an entry of LQ or
SQ. -/
def Core.spoilQueue (c : Core) (w : SramWord) : Option Core :=
  match w with
  | .chan _ ch i k =>
    let x := c.chan ch
    (match x.ents[i]? with
      | some v =>
        if k < v.words then
          some (c.setChan ch { x with spoilt := tput 0 x.spoilt i (tget 0 x.spoilt i ||| BitVec.ofNat 64 (2 ^ k)) })
        else none
      | none => none)
  | .cmd _ q i =>
    (match (c.queue q)[i]? with
      | some k => if k.started then none else some (c.modCmd q k.seq (fun k => { k with bad := some 1 }))
      | none => none)
  | .acc _ i =>
    (match c.acc[i]? with
      | some x =>
        if x.op.inLq || x.op.inSq then some { c with acc := c.acc.modify i (fun x => { x with bad := some 1 }) } else none
      | none => none)
  | _ => none

/-- The same of a core, counted. -/
def State.spoilQueue (s : State) (g : Nat) (w : SramWord) : State :=
  match (s.core g).spoilQueue w with
  | some c => if g < 136 then (s.setCore g c).countSramue (dieOf g) else s
  | none => s

/-- SRAM_UNCORRECTED_ERROR (R347). -/
def execSramUncorrectedError (w : SramWord) (s : State) : Out :=
  match w with
  | .chan g ch i k => .next (s.spoilQueue g (.chan g ch i k))
  | .acc g i => .next (s.spoilQueue g (.acc g i))
  | .cmd g q i => .next (s.spoilQueue g (.cmd g q i))
  | .pad g sec k =>
    if g < 128 && k < 8 && 64 * sec < padBytes (s.core g) then
      .next ((s.modCore g (fun c => { c with padP := tput none c.padP (8 * sec + k) (some 1) })).countSramue (dieOf g))
    else .next s
  | .lsc g sec k => .next (s.spoilCache (dieOf g) (.lsc g) sec k)
  | .rdc d sec k => .next (s.spoilCache d (.rdc d) sec k)
  | .l2 d sec k => if ((s.cached .l2 sec).map (·.home)) == some d then .next (s.spoilCache d .l2 sec k) else .next s

/-- HBM_UNCORRECTED_ERROR (R347): the sector is poisoned with ECODE 1; one that a partial write under another key has spoiled goes
on reading with ECODE 8 (R346). -/
def execHbmUncorrectedError (sec : Nat) (s : State) : Out :=
  let m := s.hmeta sec
  .next { s with
    hbmMeta := tput HMeta.reset s.hbmMeta sec { m with poison := true, ecode := if m.poison && m.ecode == 8 then 8 else 1 } }

/-- UCIE_FLIT_RETRY (R347), on the die in focus. -/
def execUcieFlitRetry (s : State) : Out :=
  .next (s.modDie (dieOfAgent s.focus) (fun x => { x with uciertry := satAdd 0xFFFFFFFF x.uciertry }))

/-- Whether an access of a core has to cross an edge now: one that performs next of its kind, behind no older access that
holds it back. -/
def State.onLink (s : State) (g j : Nat) (x : Acc) (via : Nat × Nat) : Bool :=
  let older := (s.core g).acc.take j
  !x.pad && usesEdge (dieOf g) x.path.home via &&
    (match x.op, x.stage with
      | .load _ _ _, .waiting => mayPass older x && s.crosses x.path false (s.accPath g x)
      | .tdRec _, .waiting => mayPass older x && s.crosses x.path false (s.accPath g x)
      | .store _, _ => mayPass older x && s.crosses x.path true (s.accPath g x)
      | .amo _ _ sc _ _ _, st => j = 0 && st != .performed && s.crosses x.path false (s.atomicPath g (s.scopeOf g sc) x.path)
      | .barArr _ _ sc, _ => j = 0 && s.crosses x.path false (s.atomicPath g (s.scopeOf g sc) x.path)
      | _, _ => false)

/-- Whether the next read or write of a copy crosses an edge. -/
def State.copyOnLink (s : State) (g : Nat) (k : Cmd) (via : Nat × Nat) : Bool :=
  let d := Desc.of ((k.desc[0]?).getD 0)
  let x := match k.instr with
    | .cp _ => Desc.of ((k.desc[1]?).getD 0)
    | .cpGather _ => Desc.of ((k.desc[1]?).getD 0)
    | _ => d
  let far (d : Desc) (va : Nat) (write : Bool) : Bool :=
    d.space != 1 &&
      (match s.coreLeaf g va with
        | .ok (pte, bits) =>
          let p := leafPath pte bits va
          usesEdge (dieOf g) p.home via && s.crosses p write (s.pathNoAlloc g p)
        | .error _ => false)
  k.started && !k.done && !k.stopped && k.prog < k.elems &&
    (match k.instr, tget none k.bBuf 0 with
      | .cpFill _, _ => far d (d.place k.prog).1 true
      | .cpQ3 _, _ => !k.rows.isEmpty && far d (d.place k.prog).1 true
      | .cpQ2 _, none => far d (d.place k.prog).1 false
      | .cpQ2 _, some _ => false
      | .cpGather _, none =>
        (match tget none k.aBuf 0 with
          | some iv =>
            (match x.locate ((k.prog % d.n0 : Nat) : Int) (toSigned 32 iv) 0 false with
              | .at b _ => far x b false
              | _ => false)
          | none => false)
      | .cp _, none => far x (x.place k.prog).1 false
      | _, some _ => far d (d.place k.prog).1 true
      | _, none => false)

/-- The running drain of a core whose next read is of a scale that crosses an edge. -/
def State.scaleOnLink (s : State) (g : Nat) (via : Nat × Nat) : Option Cmd :=
  match (s.core g).drainRunning with
  | none => none
  | some (k, f, _) =>
    let bank := (s.core g).bank (f.fn.getLsbD 0)
    let far (r : ScaleRef) (n : Nat) : Bool :=
      match s.scalePath g r n with
      | some p => usesEdge (dieOf g) p.home via && s.crosses p false (s.pathOf g p)
      | none => false
    let next : Bool :=
      match k.drainRead f bank with
      | .row => far bank.refA k.prog
      | .col => far bank.refB k.col
      | _ => false
    if !bank.poison && k.rows.isEmpty && k.prog < bank.m && next then some k else none

/-- The operand values of an instruction that an agent can execute now, where they are all there. -/
def State.readyOps (s : State) (a : Agent) (i : Instr) : Option (List Val) :=
  match collect ((opsOf i).map (fun o => s.operand a (s.ctxOf a) o.1 o.2)) with
  | .ok vs => some vs
  | _ => none

/-- An instruction of a service core that moves an image and its range, of which some page lies beyond an edge: the address and
the kinds of its results. -/
def State.imageOnLink (s : State) (g : Nat) (via : Nat × Nat) : Option Nat :=
  let of (i : Instr) (j n : Nat) : Option Nat :=
    match (s.readyOps (.core g) i).bind (fun vs => vs[j]?) with
    | some v => if (s.homesOf g v.word.toNat n).any (fun h => usesEdge (dieOf g) h via) then some v.word.toNat else none
    | none => none
  if !isSvc g || !s.canRun (.core g) || (s.core g).wait.isSome then none
  else
    match s.look (.core g) with
    | .instr (.scanOut f) => of (.scanOut f) 1 64
    | .instr (.scanIn f) => of (.scanIn f) 1 64
    | .instr (.patchLd f) => of (.patchLd f) 0 64
    | _ => none

/-- The reads of a block that an agent waits for lose the first that crosses an edge: its word cannot be read (R148). -/
def State.loseCode (s : State) (a : Agent) (via : Nat × Nat) : Option State :=
  if !s.lowers a then none
  else
    let b := s.lowerBlock a
    ((s.codePaths a b).find? (fun x => usesEdge (dieOfAgent a) x.2.home via)).map (fun x =>
      s.modDie (dieOfAgent a) (fun y =>
        { y with lowering := [{ b with bad := b.bad.filter (fun z => z.1 < x.1) ++ (x.1, .integrity)
                                          :: b.bad.filter (fun z => x.1 < z.1) }] }))

/-- A request of a core is lost to an edge (R347): it is answered with an error and not performed, so that the sequencer's
access traps POISON with ECODE 2, or else a command under way is killed with it, or a code word is not read. An access past
which a younger effect has been made is sent again (assumption 15), and so is a write-back (assumption 44). -/
def State.loseRequest (s : State) (g : Nat) (via : Nat × Nat) : Option State :=
  let c := s.core g
  match (c.acc.zipIdx).find? (fun x => s.onLink g x.2 x.1 via), c.wait with
  | some (x, j), _ =>
    if x.committed || !s.takesTrap g || s.mustTrap g j then none
    else some (s.accTrap g j x (x.poisonCause 2).1 (x.poisonCause 2).2)
  | none, some { kind := .barWait x _ _ sc, stall := _, bound := _ } =>
    if usesEdge (dieOf g) x.path.home via && s.crosses x.path false (s.atomicPath g (s.scopeOf g sc) x.path)
        && !c.barHeld x && s.canRun (.core g) then
      some (s.endTrap g { code := cPOISON, ecode := 2, addr := x.addr } [false])
    else none
  | none, _ =>
    match c.cq.find? (fun k => s.copyOnLink g k via && c.sigOpen .c k), s.scaleOnLink g via, s.imageOnLink g via with
    | some k, _, _ => if c.enginesRun then some (s.cmdKill g .c k 2) else none
    | none, some k, _ => if c.enginesRun && c.sigOpen .m k then some (s.cmdKill g .m k 2) else none
    | none, none, some va => some (s.trap (.core g) { code := cPOISON, ecode := 2, addr := va } [false] 1)
    | none, none, none => s.loseCode (.core g) via

/-- A load or store of a stream front end is lost to an edge: it traps POISON with ECODE 2 (R182, R347). -/
def State.loseStreamAcc (s : State) (p : Nat) (via : Nat × Nat) : Option State :=
  let of (i : Instr) (f : ImmF) (need : Need) (kinds : List Bool) : Option State :=
    (s.readyOps (.sfe p) i).bind (fun vs =>
      match s.streamPath p (immAddr f vs) (sizeOfTy f.ty.toNat) need with
      | .ok x =>
        if usesEdge (hostDie p) x.home via then
          some (s.trap (.sfe p) { code := cPOISON, ecode := 2, addr := wrapNat 64 (immAddr f vs) } kinds 1)
        else none
      | .error _ => none)
  if !s.canRun (.sfe p) then none
  else
    match s.look (.sfe p) with
    | .instr (.ld f) => of (.ld f) f Need.load [false]
    | .instr (.st f) => if s.windowEmpty p then of (.st f) f Need.store [] else none
    | _ => s.loseCode (.sfe p) via

/-- A request of a partition's stream is lost to an edge: the window entry it belongs to goes to FAULT with ERRBIT and ECODE 2
(R343), or the front end's own access traps. -/
def State.loseEntry (s : State) (p : Nat) (via : Nat × Nat) : Option State :=
  let far (va : Nat) : Bool :=
    match s.walk (s.ptRoot p) va with
    | .ok (pte, bits) => usesEdge (hostDie p) (leafPath pte bits va).home via
    | .error _ => false
  let arg (e : Entry) : Nat := ((e.args[0]?).getD 0).toNat
  let t (e : Entry) (k : Nat) : Desc := Desc.of (((e.tens[k]?).map (·.desc)).getD 0)
  let next (d : Desc) (n : Nat) : Bool := n < d.elems && far (d.place n).1
  let hit (e : Entry) : Bool :=
    e.st == .issued && e.issueFault.isNone &&
      (match e.instr with
        | .tMap _ _ _ _ =>
          (match e.pieces[e.prog]? with
            | some x => far x.1 || far x.2.1
            | none => false)
        | .tCopy _ _ => next (t e 0) e.buf.length || next (t e 1) e.prog
        | .tFill _ => next (t e 0) e.prog
        | .tSend _ => next (t e 0) e.buf.length
        | .tRecv _ => e.got && next (t e 0) e.prog
        | .tRead _ =>
          (match (t e 0).locate ((e.args[0]?).getD 0).toInt ((e.args[1]?).getD 0).toInt ((e.args[2]?).getD 0).toInt false with
            | .at b _ => far b
            | _ => false)
        | .tSignalAdd _ => far (arg e)
        | .tSignalStore _ => far (arg e)
        | i => isTWait i && far (arg e))
  match (s.part p).live.find? (fun x => hit x.2) with
  | some (n, e) => some (s.toFault p n e cERRBIT 2)
  | none => s.loseStreamAcc p via

/-- UCIE_FLIT_FAILURE (R347): a flit fails its retries on die `d`'s link to the adjacent die `e`, which starts to retrain.
It carries a request of core `g`, or of the stream front end of partition `g` - 136; a failure that loses none is counted
all the same. No traffic passes a link that retrains. -/
def execUcieFlitFailure (d e g : Nat) (s : State) : Out :=
  if 8 ≤ d || 8 ≤ e || !adjacentDies d e || s.edges.contains (edge d e) then .next s
  else
    let t := if g < 136 then (if (s.core g).cstate == .frozen || (s.core g).iced then none else s.loseRequest g (edge d e))
      else if g < 152 then s.loseEntry (g - 136) (edge d e) else none
    .next ({ t.getD s with edges := s.edges ++ [edge d e] }.modDie d (fun x => { x with uciefail := satAdd 0xFFFF x.uciefail }))

/-- LINK_RETRAIN_END (R347). -/
def execLinkRetrainEnd (d e : Nat) (s : State) : Out := .next { s with edges := s.edges.filter (fun x => x != edge d e) }

/-- Command number `n` of an engine where its pipeline executes it now: an `mm` or a drain started in MQ, whose context may have
trapped or be draining (R296, R312), or the entry at the head of VQ while it neither waits nor traps. -/
def State.executing (s : State) (g : Nat) (q : Eng) (n : Nat) : Option Cmd :=
  let c := s.core g
  match q with
  | .m =>
    if c.enginesRun then
      c.mq.find? (fun k => k.seq == n && k.started && !k.done && !k.killed && !k.stopped && c.sigOpen .m k &&
        (match k.instr with
          | .mm _ => true
          | i => (drainF i).isSome))
    else none
  | .v => if s.vExecutes g then (c.vHead.map (·.1)).filter (fun k => k.seq == n) else none
  | .c => none

/-- TIMING_REPLAY (R348): a detector trips; the cycle is repeated at half clock, once more if that trips too, and a third
trip kills the command with ECODE 3. -/
def execTimingReplay (g : Nat) (q : Eng × Nat) (trips : Nat) (s : State) : Out :=
  match s.executing g q.1 q.2 with
  | none => .next s
  | some k =>
    if trips = 0 then .next s
    else
      let s := s.modDie (dieOf g) (fun x => { x with replay := min (x.replay + min trips 2) (0xFFFF * 1024 + 1023) })
      if trips < 3 then .next s
      else
        .next ((s.modDie (dieOf g) (fun x => { x with repfail := satAdd 0xFFFF x.repfail })).cmdKill g q.1 k 3)

/-! Warm reset of one die (R351, R352). -/

/-- Phase 1 begins: the die's cores, stream front ends and translator issue no new request. -/
def State.startWarm (s : State) (d : Nat) : State :=
  { s.modDie d (fun x => { x with holdStop := true }) with warm := some (d, 1) }

/-- WARM_RESET (R351) of the die in focus: one that begins during another waits for it; a die in ROM answers with its report
(R368). -/
def execWarmReset (s : State) : Out :=
  match s.focus with
  | .die d =>
    if 8 ≤ d then .next s
    else if s.inRom d then .next (s.boardSay d [])
    else if s.warm.isSome then .next { s with warmQueue := s.warmQueue ++ [d] }
    else .next (s.startWarm d)
  | _ => .next s

/-- Phase 2: dirty sectors homed on the die are written back by the other dies' RDCs, then by its L2. -/
def State.warmWriteBack (s : State) (d : Nat) : State :=
  let homed (s : State) (c : CacheId) : List Nat := (s.cachedSecs c).filter (fun x => ((s.cached c x).map (·.home)) == some d)
  let one (s : State) (c : CacheId) : State := (homed s c).foldl (fun s x => s.writeBack c x) s
  one (((List.range 8).filter (· != d)).foldl (fun s k => one s (.rdc k)) s) .l2

/-- WARM_RESET_WRITE_BACK (R351). -/
def execWarmResetWriteBack (s : State) : Out :=
  match s.warm with
  | some (d, 1) => .next { s.warmWriteBack d with warm := some (d, 2) }
  | _ => .next s

/-- Whether a core holds a context that a reset of its die kills; one that `scan.in` has loaded into an IDLE core is such a
context (R300, R352). -/
def Core.hasContext (c : Core) : Bool := (c.cstate != .idle || c.loaded) && c.cstate != .killed

/-- The partitions that had a task on a die, or a stream hosted there (R352). -/
def State.partsOn (s : State) (d : Nat) : List Nat :=
  (List.range 16).filter (fun p =>
    (hostDie p = d && (s.part p).sfe.running)
      || (List.range 16).any (fun i => (s.core (d * 16 + i)).part = p && (s.core (d * 16 + i)).hasContext))

/-- A user core of a die whose logic is reset: a context goes to KILLED, and nothing else is left (R352). -/
def State.resetCore (s : State) (g : Nat) : State :=
  let s := if (s.core g).hasContext then s.killCore g else s
  (s.setSector g Sector.reset).modCore g (fun c =>
    { Core.reset with
      cstate := if c.cstate == .killed then .killed else .idle, part := c.part, serials := c.serials, seq := c.seq })

/-- What the die's own caches hold dirty for other dies reaches them before the logic is reset: the writes its contexts
made there stand (R352). -/
def State.warmPushOut (s : State) (d : Nat) : State :=
  let away (s : State) (c : CacheId) : List Nat := (s.cachedSecs c).filter (fun x => ((s.cached c x).map (·.home)) != some d)
  let one (s : State) (c : CacheId) : State := (away s c).foldl (fun s x => s.writeBack c x) s
  one (((List.range 16).map (d * 16 + ·)).foldl (fun s g => one s (.lsc g)) s) (.rdc d)

/-- Phase 3: contexts are killed, the hosted stream contexts are reset, every write of theirs standing at its home, and the die's
logic is reset. Measurements, the reliability record and the GTC stay, as do HBM and the key slots. -/
def State.logicReset (s : State) (d : Nat) : State :=
  let s := { s.warmPushOut d with warmParts := s.partsOn d }
  let s := ((List.range 16).map (d * 16 + ·)).foldl (fun s g => s.resetCore g) s
  let s := [d, d + 8].foldl (fun s p => (s.resetStream p).resetDone p) s
  let s := { s.warmWriteBack d with warm := some (d, 3) }
  let s := s.modCore (svcOf d) (fun c => { Core.reset with serials := c.serials, seq := c.seq })
  let elsewhere (x : Nat × Option CSec) : Bool := (x.2.map (·.home)) != some d
  let s := { s with l2 := s.l2.filter elsewhere, l2sets := s.l2sets.filter (fun x => x.1 / (16 * 2048) != d) }
  s.modDie d (fun x =>
    { Die.reset with
      gtc := x.gtc, slewAt := x.slewAt, slow := x.slow, meas := x.meas, stepping := x.stepping, layout := x.layout, booted := true,
      patchSeq := x.patchSeq, replay := x.replay, repfail := x.repfail, sramce := x.sramce, uciefail := x.uciefail,
      sramue := x.sramue, uciertry := x.uciertry, ready := x.ready, holdStop := true })

/-- WARM_RESET_LOGIC_RESET (R351): once no link holds a write-back (R347). -/
def execWarmResetLogicReset (s : State) : Out :=
  match s.warm with
  | some (d, 2) => if s.linksHold then .next s else .next (s.logicReset d)
  | _ => .next s

/-- WARM_RESET_READMIT (R351, R352, R364): the ROM boots the die, which is admitted; a boot that fails leaves it in ROM.
The events of TYPE 5 are posted, and a warm reset that waits begins. -/
def execWarmResetReadmit (boot : BootInfo) (s : State) : Out :=
  match s.warm with
  | some (d, 3) =>
    let s := s.modDie d (fun x => { x with svcCore := lowestPass boot.passed })
    let s :=
      if allPass boot && signedOk boot then
        (s.extend d 1 boot.imageDigest).modDie d (fun x => { x with admitted := true, holdStop := false })
      else s.stayInRom d boot
    let s := { s with edges := s.edges.filter (fun x => x.1 != d && x.2 != d) }
    let s := s.warmParts.foldl (fun s p => s.postEvent p 5 (BitVec.ofNat 64 d)) s
    let s := { s with warm := none, warmParts := [] }
    (match s.warmQueue with
      | [] => .next s
      | k :: ks => .next ({ s with warmQueue := ks }.startWarm k))
  | _ => .next s

end Sys2Proof.Machine
end

