-- ==== Sys2Proof/Machine/Control.lean ====
section
/-! DEFINITION. Meanings of the control instructions (R164 to R168, R305 to R307) and of what stands at a virtual PC
besides an instruction (R74, R142 to R157). -/

namespace Sys2Proof.Machine

/-- The carried values of a branch, as operands of either kind (R62, R68). -/
def carryOps (l : List (BitVec 8)) : List (Want × BitVec 8) := l.map (fun sp => (Want.carry, sp))

/-- Whether an operand list pops or peeks nothing. -/
def noPops (c : Ctx) (ops : List (Want × BitVec 8)) : Bool := ops.all (fun o => !isPop c o.2)

/-- Take what the operands of an instruction of the sequencer pop, all in one step (R66), once every check on it has
passed and every older entry of VQ has taken its own (assumption 43); then go on with all the values. The wait for an
entry has the kernel's channel bound. `vs` are the values of the operands that do not pop. -/
def State.popThen (s : State) (a : Agent) (ops : List (Want × BitVec 8)) (vs : List Val) (len : Nat)
    (k : State → List Val → Out) : Out :=
  match a with
  | .core g =>
    let ctx := (s.core g).ctx
    if noPops ctx ops then k s vs
    else
      let srcs := ops.map (fun o => if isPop ctx o.2 then ctx.expand o.2 else 0)
      match (s.core g).popChk ctx (ops.map (·.2)) with
      | some e => .next ((s.endWait g).trap a e [] len)
      | none =>
        if !(s.core g).vq.all (·.done) then .next s
        else
          match (s.core g).takeAll (srcs.zip (vs.map .ready)) with
          | .wait => .next (s.waitB g (.pops srcs) 0 ((s.core g).dflt (·.bchan)))
          | .bad e => .next ((s.endWait g).trap a e [] len)
          | .got vs c =>
            match firstPoison vs with
            | some e => .next ((s.endWait g).trap a { code := cERRBIT, ecode := e.toNat } [] len)
            | none => k ((s.setCore g { c with wait := none }).commit a) vs
  | _ => k s vs

/-- A check of R68 that fails, or a code word that cannot be read: the block leaves the index where R149 says so, and
the fault is reported at the instruction. -/
def State.codeTrap (s : State) (a : Agent) (f : CodeFault) (len : Nat) : State :=
  (s.dropFaulty a f).trap a (codeCause f) [] len

/-- Pass control to a block with arguments (R68). -/
def State.goTo (s : State) (a : Agent) (target : Nat) (vs : List Val) (rets : List RetEntry) : State :=
  s.modCtx a (fun c => { c.enterBlock target (vs.map .ready) with rets := rets })

/-- Where a form B instruction leads: OFFSET counts words from it (R58). -/
def branchTarget (c : Ctx) (off : BitVec 32) : Int := (c.vpc : Int) + 8 * off.toInt

/-- A branch (R165): taken when `cond` says so of the word COND names. -/
def branchOp (i : Instr) (f : BrF) (cond : Bool → Word → Bool) (s : State) : Out :=
  let always := f.cond = 0
  let ops := (if always then [] else [(Want.int, f.cond)]) ++ carryOps f.carry
  withOps s .both ops [] (lenOf i) (fun a vs =>
    let len := lenOf i
    let args (vs : List Val) : List Val := if always then vs else vs.drop 1
    if cond always (w0 vs) then
      let c := s.ctxOf a
      let t := branchTarget c f.off
      match s.checkTarget a t ((args vs).map Val.isVec) with
      | some e => .next (s.codeTrap a e len)
      | none => s.popThen a ops vs len (fun s vs => .next (s.goTo a t.toNat (args vs) c.rets))
    else s.popThen a ops vs len (fun s _ => .next (s.retire a len [])))

/-- `br`, FN 0 (R165). -/
def execBr (f : BrF) (s : State) : Out := branchOp (.br f) f (fun always w => always || w != 0) s
/-- `br.z`, FN 1 (R165). -/
def execBrZ (f : BrF) (s : State) : Out := branchOp (.brZ f) f (fun _ w => w == 0) s

/-- How many virtual PCs a return stack holds (R166, R354). -/
def retDepth (l : List RetEntry) : Nat := (l.filter (fun x => match x with
  | .pc _ => true
  | .mark => false)).length

/-- Whether the word at a return point is an `enter` of the same text section (R166). -/
def State.checkReturn (s : State) (a : Agent) (at' : Nat) : Option CodeFault :=
  let t := s.textOf a
  if at' < t.1 || t.2 ≤ at' then some .carry
  else
    match s.readCode a at' with
    | .error f => some f
    | .ok w => if (enterKinds w).isSome then none else some .carry

/-- `call` (R166). -/
def execCall (f : BrF) (s : State) : Out :=
  withOps s .both (carryOps f.carry) [] (lenOf (.call f)) (fun a vs =>
    let len := lenOf (.call f)
    let c := s.ctxOf a
    let t := branchTarget c f.off
    let back := c.vpc + 8 * len
    if 64 ≤ retDepth c.rets then .next (s.trap a { code := cOPERAND } [] len)
    else
      match s.checkTarget a t (vs.map Val.isVec), s.checkReturn a back with
      | some e, _ => .next (s.codeTrap a e len)
      | none, some e => .next (s.codeTrap a e len)
      | none, none =>
        s.popThen a (carryOps f.carry) vs len (fun s vs => .next (s.goTo a t.toNat vs (.pc back :: c.rets))))

/-- `ret` (R167); one that pops the handler mark returns from the stream handler (R356). -/
def execRet (f : BrF) (s : State) : Out :=
  withOps s .both (carryOps f.carry) [] (lenOf (.ret f)) (fun a vs =>
    let len := lenOf (.ret f)
    match (s.ctxOf a).rets with
    | [] => .next (s.trap a { code := cOPERAND } [] len)
    | .pc v :: rets =>
      (match s.checkTarget a (v : Int) (vs.map Val.isVec) with
        | some e => .next (s.codeTrap a e len)
        | none => s.popThen a (carryOps f.carry) vs len (fun s vs => .next (s.goTo a v vs rets)))
    | .mark :: _ =>
      match a with
      | .sfe p =>
        .next (s.handlerReturn p (match vs with
          | [.scalar w] => some w
          | _ => none))
      | _ => .next s)

/-- `trap` (R305): a SOFT trap with its number and a value; in stream text once every older window entry has retired
(R90). -/
def execTrap (f : ImmF) (s : State) : Out :=
  withOps s .both (opsOf (.trap f)) [] 1 (fun a vs =>
    .next (s.trapAt a { code := cSOFT, addr := f.imm.toNat } [] 1 [w0 vs] 0 0))

/-- `svc` (R306): a system call; in stream text once every older window entry has retired (R90), where a number the table
does not have answers all ones. -/
def execSvc (f : ImmF) (s : State) : Out :=
  withOps s .both (opsOf (.svc f)) [false] 1 (fun a vs =>
    let num := bitsNat f.imm 0 8
    match a with
    | .sfe p =>
      if !s.windowEmpty p then .next s
      else if 16 ≤ num then .next (s.retire a 1 [.scalar (BitVec.ofNat 64 (2 ^ 64 - 1))])
      else .next (s.modPart p (fun q => { q with sfe := { q.sfe with wait := .svc num (w0 vs) (w1 vs) } }))
    | _ => .next (s.trapAt a { code := cSVC, addr := num } [false] 1 [w0 vs, w1 vs] 0 0))

/-! Returning from service code (R307). -/

/-- The kinds of some values agree with a list of kinds. -/
def kindsAgree (vs : List Val) (kinds : List Bool) : Bool := vs.map Val.isVec == kinds

/-- The result kinds and the length of the instruction at SEPC (R307), and the context there: SEPC may have been written
since the trap. One outside the block that trapped starts another block. After HEAP in the middle of a block that is to be
lowered afresh, SEPC names its `enter`, which the context has passed: it goes on where it was (R145, R149). -/
def State.sepcShape (s : State) (g : Nat) (k : Ctx) : Ctx × List Bool × Nat :=
  let c := s.core g
  let v := c.sepc.toNat
  if c.svcCmd.isNone && v = k.vpc then (k, c.svcKinds, c.svcLen)
  else if c.svcCmd.isNone && v = k.enterPc && bitsNat c.scause 0 16 = cTRANSLATE + 256 then (k, [], 0)
  else
    let inside (b : Block) : Bool := b.vpc ≤ v && v < b.vpc + 8 * b.words.length
    let ws := match k.blk with
      | some b => if inside b then b.words.drop ((v - b.vpc) / 8) else s.wordsAt (.core g) v
      | none => s.wordsAt (.core g) v
    let shape := match decode ws with
      | .ok (i, n) => (resultKinds k i, n)
      | .error _ => ([], 1)
    ({ k with vpc := v, blk := k.blk.filter inside }, shape.1, shape.2)

/-- `eret` with its values (R156, R307): in a routine it returns the results of the matched instruction; in a service trap handler it goes on after the instruction at SEPC. -/
def State.eretNow (s : State) (a : Agent) (vs : List Val) (again : Bool) (len : Nat) : State :=
  match a with
  | .core g =>
    let c := s.core g
    (match c.emul, c.svcKept with
      | some e, _ =>
        if again || !kindsAgree vs e.kinds then s.routineTrouble g e { code := cPATCHFAULT } c.ctx.vpc
        else s.modCore g (fun c => c.leaveRoutine e vs)
      | none, some k =>
        match c.svcCmd.filter (fun x => x.2.2 = c.sepc.toNat) with
        | some (q, seq, _) => (s.commit a).modCore g (fun c => c.leaveForCmd k q seq again)
        | none => (s.commit a).modCore g (fun c => c.unstop.leaveHandler (s.sepcShape g k) again)
      | none, none => s.trap a { code := cOPERAND } [] len)
  | _ => s

/-- Whether an `eret` waits for the accesses of its routine (assumption 15). -/
def State.eretWaits (s : State) (a : Agent) : Bool :=
  match a with
  | .core g => (s.core g).emul.isSome && !(s.core g).quiet
  | _ => false

/-- `eret`, FN 0 (R307). -/
def execEret (f : BaseF) (carry : List (BitVec 8)) (s : State) : Out :=
  withOps s .system (carryOps carry) [] (lenOf (.eret f carry)) (fun a vs =>
    if s.eretWaits a then .next s else s.popThen a (carryOps carry) vs (lenOf (.eret f carry)) (fun s vs =>
      .next (s.eretNow a vs false (lenOf (.eret f carry)))))
/-- `eret.retry`, FN 1 (R307). -/
def execEretRetry (f : BaseF) (s : State) : Out :=
  withOps s .system (opsOf (.eretRetry f)) [] 1 (fun a _ => .next (s.eretNow a [] true 1))

/-! What stands at a virtual PC (R74, R152 to R157). -/

/-- TRANSLATION_FAULT (R74, R148, R149). -/
def execTranslationFault (f : CodeFault) (s : State) : Out :=
  let a := s.focus
  if !s.canRun a then .next s else .next ((s.dropFaulty a f).trap a (codeCause f) (s.faultKinds a) 1)

/-- EMULATE_CALL (R156, R337): the matched operands are resolved and checked, then the routine runs in place of the
instruction. What they pop is popped, once every older entry of VQ has done so (R225). -/
def execEmulateCall (slot : Nat) (w : Word) (s : State) : Out :=
  let a := s.focus
  match a with
  | .core g =>
    if !s.canRun a || (s.core g).emul.isSome then .next s
    else
      let c := (s.core g).ctx
      let p := s.slotAt a slot
      let kinds := matchedKinds ((c.blk.map (·.slots)).getD []) (s.core g).part c w
      let ops := routineArgs w
      if !(ops.all (argOk c)) || c.full kinds.length then
        .next (s.trap a (operandFault c) kinds 1)
      else
        let slots := ops.map (fun o => if o.1 = .none then Slot.ready (.scalar 0) else s.operand a c o.1 o.2)
        let srcs := ops.map (fun o => if o.1 != .none && isPop c o.2 then c.expand o.2 else 0)
        match collect slots with
        | .wait => .next s
        | .poison e => .next (s.trap a { code := cERRBIT, ecode := e.toNat } kinds 1)
        | .ok _ =>
          if !(s.core g).quiet || (srcs.any (· != 0) && !(s.core g).vq.all (·.done)) then .next s
          else
            match (s.core g).takeAll (srcs.zip slots) with
            | .wait => .next (s.waitB g (.pops srcs) (bitsNat w 11 5) ((s.core g).dflt (·.bchan)))
            | .bad e => .next ((s.endWait g).trap a e kinds 1)
            | .got vs c' =>
              let k := s.core g
              let t := (s.setCore g { c' with wait := none }).callRoutine g slot p w 1 kinds none
                ([Slot.ready (.scalar w), .ready (.scalar (BitVec.ofNat 64 c.vpc))] ++ (vs.take 3).map .ready)
              .next (t.modCore g (fun x => { x with emul := x.emul.map (fun e => { e with chans := (k.taken c').1, ports := (k.taken c').2, sr := k.srPack }) }))
  | _ => .next s

/-- CLAIMED_INSTRUCTION (R154, R73): a word of OP 0xF0 to 0xFF that no slot acts on. Where a slot claims its opcode for
the partition it traps PATCHTRAP, with the class the claim gives; else it is ILLEGAL. -/
def execClaimedInstruction (w : Word) (s : State) : Out :=
  let a := s.focus
  if !s.canRun a then .next s
  else
    let slots := ((s.ctxOf a).blk.map (·.slots)).getD []
    match (if s.inService a then none else claimFor slots (s.partOfAgent a) (opOf w).toNat) with
    | none => .next (s.trap a { code := cILLEGAL } [] 1)
    | some n =>
      let p := tget Patch.reset slots n
      let cls := bitsNat p.ctrl 29 2
      if (isStream a && cls = 0) || (!isStream a && cls = 1) then
        .next (s.trap a { code := cTRANSLATE, sub := 5 } p.claimKinds 1)
      else .next (s.patchTrap a n p.claimKinds 1)

end Sys2Proof.Machine
end

