-- ==== Sys2Proof/Machine/Scalar.lean ====
section
/-! DEFINITION. Meanings of the scalar instructions that compute a value from values: integer arithmetic, logic, shifts
and bit fields, compare and select, immediates, `nop`, `keep` and `enter` (R164, R168 to R176). -/

namespace Sys2Proof.Machine

/-- Width of the operation's type. -/
def BaseF.w (f : BaseF) : Nat := tyWidth f.ty.toNat
/-- UNS of a scalar instruction (R169 to R175). -/
def BaseF.uns (f : BaseF) : Bool := f.mod.getLsbD 0
/-- SAT of an integer instruction (R169). -/
def BaseF.sat (f : BaseF) : Bool := f.mod.getLsbD 1

/-- An integer instruction (R170): its operands are read by UNS at the width of TY, and the `w` bits `op` gives are
extended to 64. -/
def intOp (i : Instr) (f : BaseF) (s : State) (op : Int → Int → Nat) : Out :=
  pureScalar s (opsOf i) (fun vs =>
    extend (BaseF.w f) (BaseF.uns f) (op (readInt (BaseF.w f) (BaseF.uns f) (w0 vs).toNat) (readInt (BaseF.w f) (BaseF.uns f) (w1 vs).toNat)))

/-- A logic or shift instruction (R171, R172): `op` works on the bits of A and of B. -/
def bitOp (i : Instr) (f : BaseF) (s : State) (op : Nat → Nat → Nat) : Out :=
  pureScalar s (opsOf i) (fun vs =>
    extend (BaseF.w f) (BaseF.uns f) (op ((w0 vs).toNat % 2 ^ BaseF.w f) ((w1 vs).toNat % 2 ^ BaseF.w f)))

/-- A compare (R174). -/
def cmpOp (i : Instr) (f : BaseF) (s : State) (r : Rel) : Out :=
  pureScalar s (opsOf i) (fun vs =>
    if relInt r (readInt (BaseF.w f) (BaseF.uns f) (w0 vs).toNat) (readInt (BaseF.w f) (BaseF.uns f) (w1 vs).toNat) then 1 else 0)

/-- `add` (R170). -/
def execAdd (f : BaseF) (s : State) : Out :=
  intOp (.add f) f s (fun x y => storeInt (BaseF.w f) (BaseF.uns f) (BaseF.sat f) (x + y))

/-- `sub` (R170). -/
def execSub (f : BaseF) (s : State) : Out :=
  intOp (.sub f) f s (fun x y => storeInt (BaseF.w f) (BaseF.uns f) (BaseF.sat f) (x - y))

/-- `mul` (R170). -/
def execMul (f : BaseF) (s : State) : Out :=
  intOp (.mul f) f s (fun x y => storeInt (BaseF.w f) (BaseF.uns f) (BaseF.sat f) (x * y))

/-- `mulh` (R170): the high half of the product. -/
def execMulh (f : BaseF) (s : State) : Out :=
  intOp (.mulh f) f s (fun x y => intMulh (BaseF.w f) x y)

/-- `div` (R170, R25). -/
def execDiv (f : BaseF) (s : State) : Out :=
  intOp (.div f) f s (fun x y => intDiv (BaseF.w f) (BaseF.uns f) (BaseF.sat f) x y)

/-- `rem` (R170, R25). -/
def execRem (f : BaseF) (s : State) : Out :=
  intOp (.rem f) f s (fun x y => intRem (BaseF.w f) x y)

/-- `min` (R170). -/
def execMin (f : BaseF) (s : State) : Out :=
  intOp (.min f) f s (fun x y => wrapNat (BaseF.w f) (if x ≤ y then x else y))

/-- `max` (R170). -/
def execMax (f : BaseF) (s : State) : Out :=
  intOp (.max f) f s (fun x y => wrapNat (BaseF.w f) (if x ≥ y then x else y))

/-- `abs` (R170, R25). -/
def execAbs (f : BaseF) (s : State) : Out :=
  intOp (.abs f) f s (fun x _ => storeInt (BaseF.w f) (BaseF.uns f) (BaseF.sat f) (x.natAbs : Int))

/-- `neg` (R170, R25). -/
def execNeg (f : BaseF) (s : State) : Out :=
  intOp (.neg f) f s (fun x _ => storeInt (BaseF.w f) (BaseF.uns f) (BaseF.sat f) (-x))

/-- `and` (R171). -/
def execAnd (f : BaseF) (s : State) : Out :=
  bitOp (.and f) f s (fun x y => x &&& y)

/-- `or` (R171). -/
def execOr (f : BaseF) (s : State) : Out :=
  bitOp (.or f) f s (fun x y => x ||| y)

/-- `xor` (R171). -/
def execXor (f : BaseF) (s : State) : Out :=
  bitOp (.xor f) f s (fun x y => x ^^^ y)

/-- `andn` (R171). -/
def execAndn (f : BaseF) (s : State) : Out :=
  bitOp (.andn f) f s (fun x y => x &&& (2 ^ (BaseF.w f) - 1 - y))

/-- `not` (R171). -/
def execNot (f : BaseF) (s : State) : Out :=
  bitOp (.not f) f s (fun x _ => 2 ^ (BaseF.w f) - 1 - x)

/-- `shl` (R172). -/
def execShl (f : BaseF) (s : State) : Out :=
  bitOp (.shl f) f s (shlNat (BaseF.w f))

/-- `shr` (R172). -/
def execShr (f : BaseF) (s : State) : Out :=
  bitOp (.shr f) f s (shrNat (BaseF.w f))

/-- `sar` (R172). -/
def execSar (f : BaseF) (s : State) : Out :=
  bitOp (.sar f) f s (sarNat (BaseF.w f))

/-- `rot` (R172). -/
def execRot (f : BaseF) (s : State) : Out :=
  bitOp (.rot f) f s (rotNat (BaseF.w f))

/-- `clz` (R172). -/
def execClz (f : BaseF) (s : State) : Out :=
  bitOp (.clz f) f s (fun x _ => clzNat (BaseF.w f) x)

/-- `ffs` (R172). -/
def execFfs (f : BaseF) (s : State) : Out :=
  bitOp (.ffs f) f s (fun x _ => ffsNat (BaseF.w f) x)

/-- `popc` (R172). -/
def execPopc (f : BaseF) (s : State) : Out :=
  bitOp (.popc f) f s (fun x _ => popcNat (BaseF.w f) x)

/-- `ext` (R173): LEN bits of A from POS, extended from bit LEN − 1. -/
def execExt (f : BaseF) (s : State) : Out :=
  pureScalar s (opsOf (.ext f)) (fun vs => extend (bitsNat f.mod 8 6 + 1) (BaseF.uns f) ((w0 vs).toNat >>> bitsNat f.mod 16 6))

/-- `cmp.eq` (R174). -/
def execCmpEq (f : BaseF) (s : State) : Out :=
  cmpOp (.cmpEq f) f s .eq

/-- `cmp.ne` (R174). -/
def execCmpNe (f : BaseF) (s : State) : Out :=
  cmpOp (.cmpNe f) f s .ne

/-- `cmp.lt` (R174). -/
def execCmpLt (f : BaseF) (s : State) : Out :=
  cmpOp (.cmpLt f) f s .lt

/-- `cmp.le` (R174). -/
def execCmpLe (f : BaseF) (s : State) : Out :=
  cmpOp (.cmpLe f) f s .le

/-- `cmp.gt` (R174). -/
def execCmpGt (f : BaseF) (s : State) : Out :=
  cmpOp (.cmpGt f) f s .gt

/-- `cmp.ge` (R174). -/
def execCmpGe (f : BaseF) (s : State) : Out :=
  cmpOp (.cmpGe f) f s .ge

/-- `sel` (R175): B when A is nonzero at 64 bits, else C. -/
def execSel (f : BaseF) (s : State) : Out :=
  pureScalar s (opsOf (.sel f)) (fun vs => extend (BaseF.w f) (BaseF.uns f) (if w0 vs ≠ 0 then w1 vs else w2 vs).toNat)

/-- `li` (R176): IMM32 sign-extended. -/
def execLi (f : ImmF) (s : State) : Out :=
  pureScalar s [] (fun _ => f.imm.signExtend 64)

/-- `li.z` (R176): IMM32 zero-extended. -/
def execLiZ (f : ImmF) (s : State) : Out :=
  pureScalar s [] (fun _ => f.imm.zeroExtend 64)

/-- `li64` (R61, R176): the literal of LHI and the LIT64 word. -/
def execLi64 (f : BaseF) (lit : BitVec 56) (s : State) : Out :=
  withOps s .both [] [false] 2 (fun a _ => .next (s.retire a 2 [.scalar (f.mod.extractLsb' 0 8 ++ lit)]))

/-- `nop` (R168). -/
def execNop (f : BaseF) (s : State) : Out :=
  withOps s .both (opsOf (.nop f)) [] 1 (fun a _ => .next (s.retire a 1 []))

/-- `keep` (R168): its operand's value at a new position. -/
def execKeep (f : BaseF) (s : State) : Out :=
  withOps s .both (opsOf (.keep f)) (slotKinds [s.operand s.focus (s.ctxOf s.focus) .noPop f.a]) 1 (fun a vs =>
    .next (s.retire a 1 (vs.take 1)))

/-- `enter` (R164): its block's arguments hold positions 0 to NARG − 1 already (R68). -/
def execEnter (f : BaseF) (s : State) : Out :=
  withOps s .both (opsOf (.enter f)) [] 1 (fun a _ => .next (s.retire a 1 []))

end Sys2Proof.Machine
end

