-- ==== Sys2Proof/Machine/StreamOps.lean ====
section
/-! DEFINITION. Meanings of the stream instructions and of the steps of the window and of streams (R89 to R130,
R353 to R356). -/

namespace Sys2Proof.Machine

/-- `t.new` (R115). -/
def execTNew (f : BaseF) (s : State) : Out := streamOp (.tNew f) s
/-- `t.free` (R116). -/
def execTFree (f : BaseF) (s : State) : Out := streamOp (.tFree f) s
/-- `t.view` (R117). -/
def execTView (f : BaseF) (s : State) : Out := streamOp (.tView f) s
/-- `t.map` (R118 to R120). -/
def execTMap (n : BitVec 4) (f : BaseF) (tl args : List (BitVec 8)) (s : State) : Out := streamOp (.tMap n f tl args) s
/-- `t.copy` (R121). -/
def execTCopy (n : BitVec 4) (f : BaseF) (s : State) : Out := streamOp (.tCopy n f) s
/-- `t.fill` (R122). -/
def execTFill (f : BaseF) (s : State) : Out := streamOp (.tFill f) s
/-- `t.read` (R123). -/
def execTRead (f : BaseF) (s : State) : Out := streamOp (.tRead f) s
/-- `t.fence` (R124). -/
def execTFence (f : BaseF) (s : State) : Out := streamOp (.tFence f) s
/-- `t.sync` (R125). -/
def execTSync (f : BaseF) (s : State) : Out := streamOp (.tSync f) s
/-- `t.signal.add` (R126). -/
def execTSignalAdd (f : BaseF) (s : State) : Out := streamOp (.tSignalAdd f) s
/-- `t.signal.store` (R126). -/
def execTSignalStore (f : BaseF) (s : State) : Out := streamOp (.tSignalStore f) s
/-- `t.svc` (R127). -/
def execTSvc (f : BaseF) (s : State) : Out := streamOp (.tSvc f) s
/-- `t.send` (R128). -/
def execTSend (f : BaseF) (s : State) : Out := streamOp (.tSend f) s
/-- `t.recv` (R129). -/
def execTRecv (f : BaseF) (s : State) : Out := streamOp (.tRecv f) s
/-- `t.wait.eq` (R130). -/
def execTWaitEq (f : BaseF) (s : State) : Out := streamOp (.tWaitEq f) s
/-- `t.wait.ne` (R130). -/
def execTWaitNe (f : BaseF) (s : State) : Out := streamOp (.tWaitNe f) s
/-- `t.wait.ge` (R130). -/
def execTWaitGe (f : BaseF) (s : State) : Out := streamOp (.tWaitGe f) s

/-- A step of the window at the entry in focus. -/
def onEntry (s : State) (k : Nat → Nat → State) : Out :=
  match s.focus with
  | .entry p n => .next (k p n)
  | _ => .next s

/-- A step of the stream of the partition in focus. -/
def onStream (s : State) (k : Nat → State) : Out :=
  match s.focus with
  | .sfe p => .next (k p)
  | .entry p _ => .next (k p)
  | _ => .next s

/-- ENTRY_ISSUE (R93). -/
def execEntryIssue (s : State) : Out := onEntry s s.issue
/-- ENTRY_DONE (R92). -/
def execEntryDone (s : State) : Out := onEntry s s.entryDone
/-- ENTRY_FAULT (R92). -/
def execEntryFault (s : State) : Out := onEntry s s.entryFault
/-- ENTRY_RETIRE (R106). -/
def execEntryRetire (s : State) : Out := onStream s s.retireEntry

/-- T_WAIT_POLL (R130): one read of the word of a `t.wait` entry. -/
def execTWaitPoll (s : State) : Out :=
  onEntry s (fun p n =>
    match s.entry p n with
    | some e => if isTWait e.instr then s.entryDone p n else s
    | none => s)

/-- WINDOW_WAIT_BOUND_PASSED (R129). -/
def execWindowWaitBoundPassed (s : State) : Out := onEntry s s.entryExpire

/-- SEND_DELIVERY_COMPLETE (R128): the delivery service reports the message of a `t.send` complete, or failed. -/
def execSendDeliveryComplete (p n : Nat) (ok : Bool) (s : State) : Out :=
  match s.entry p n, s.outbox.find? (fun x => x.1 = p * 128 + n) with
  | some e, some (key, h, m) =>
    if e.st == .issued then
      let s := { s with outbox := s.outbox.filter (fun x => x.1 != key) }
      if ok then .next ({ s with sent := s.sent ++ [(h, m)] }.toDone p n e) else .next (s.toFault p n e cERRBIT 7)
    else .next s
  | _, _ => .next s

/-- STREAM_END (R89): the stream ends once every window entry has retired; from handler mode it ends at once, the held
entry being discarded (R355). -/
def execStreamEnd (s : State) : Out :=
  onStream s (fun p =>
    match (s.part p).sfe.wait with
    | .endStream status => if s.windowEmpty p then s.endStream p status else s
    | _ => s)

/-- STREAM_TRAP (R106). -/
def execStreamTrap (s : State) : Out := onStream s s.streamTrap

/-- STREAM_COMPLETE (R108): for a trap that Complete is not legal for the service kills the stream. -/
def execStreamComplete (s : State) : Out := onStream s (fun p => if (s.part p).trapHeld then s.takeOn p 1 else s)
/-- STREAM_RESTART (R108). -/
def execStreamRestart (s : State) : Out := onStream s (fun p => if (s.part p).trapHeld then s.takeOn p 2 else s)
/-- STREAM_KILL (R108). -/
def execStreamKill (s : State) : Out := onStream s (fun p => if (s.part p).trapHeld then s.takeOn p 0 else s)

end Sys2Proof.Machine
end

