-- ==== Sys2Proof/Machine/Dispatch.lean ====
section
/-! DEFINITION. The dispatch of a decoded instruction, or of a step without an encoding, to its meaning. -/

namespace Sys2Proof.Machine

def exec (i : Instr) (s : State) : Host.Outcome State Fault Refusal :=
  match i with
  | .launchRecord msg plan => Sys2Proof.Machine.execLaunchRecord msg plan s
  | .translationFault f => Sys2Proof.Machine.execTranslationFault f s
  | .emulateCall slot w => Sys2Proof.Machine.execEmulateCall slot w s
  | .engineCommandStart g q => Sys2Proof.Machine.execEngineCommandStart g q s
  | .commandComplete g q k => Sys2Proof.Machine.execCommandComplete g q k s
  | .commandKill g q k ecode => Sys2Proof.Machine.execCommandKill g q k ecode s
  | .gangFormed d row => Sys2Proof.Machine.execGangFormed d row s
  | .copyFault g k => Sys2Proof.Machine.execCopyFault g k s
  | .waitBoundExpiry g site => Sys2Proof.Machine.execWaitBoundExpiry g site s
  | .teamBarComplete p key => Sys2Proof.Machine.execTeamBarComplete p key s
  | .storeMove c sec => Sys2Proof.Machine.execStoreMove c sec s
  | .cacheWriteBack c sec => Sys2Proof.Machine.execCacheWriteBack c sec s
  | .cacheLineDrop c sec => Sys2Proof.Machine.execCacheLineDrop c sec s
  | .pageWalk g va => Sys2Proof.Machine.execPageWalk g va s
  | .shootdown d v => Sys2Proof.Machine.execShootdown d v s
  | .eventDelivery p typ data => Sys2Proof.Machine.execEventDelivery p typ data s
  | .partitionSchedule p v => Sys2Proof.Machine.execPartitionSchedule p v s
  | .partitionDeschedule p v => Sys2Proof.Machine.execPartitionDeschedule p v s
  | .ownWrite p d v => Sys2Proof.Machine.execOwnWrite p d v s
  | .xheapWrite d v => Sys2Proof.Machine.execXheapWrite d v s
  | .spinWrite d v => Sys2Proof.Machine.execSpinWrite d v s
  | .keyLoad d k => Sys2Proof.Machine.execKeyLoad d k s
  | .keyClear d k => Sys2Proof.Machine.execKeyClear d k s
  | .errinjArm g v => Sys2Proof.Machine.execErrinjArm g v s
  | .errinjCancel g v => Sys2Proof.Machine.execErrinjCancel g v s
  | .memAlloc plan => Sys2Proof.Machine.execMemAlloc plan s
  | .viewMap plan => Sys2Proof.Machine.execViewMap plan s
  | .endpointOpen h => Sys2Proof.Machine.execEndpointOpen h s
  | .endpointMessageArrival h msg => Sys2Proof.Machine.execEndpointMessageArrival h msg s
  | .sendDeliveryComplete p n ok => Sys2Proof.Machine.execSendDeliveryComplete p n ok s
  | .getMeasurements d idx => Sys2Proof.Machine.execGetMeasurements d idx s
  | .spdmUnsupportedRequest d code => Sys2Proof.Machine.execSpdmUnsupportedRequest d code s
  | .warmResetReadmit boot => Sys2Proof.Machine.execWarmResetReadmit boot s
  | .coldReset d boot => Sys2Proof.Machine.execColdReset d boot s
  | .ucieFlitFailure d e g => Sys2Proof.Machine.execUcieFlitFailure d e g s
  | .linkRetrainEnd d e => Sys2Proof.Machine.execLinkRetrainEnd d e s
  | .sramUncorrectedError w => Sys2Proof.Machine.execSramUncorrectedError w s
  | .hbmUncorrectedError sec => Sys2Proof.Machine.execHbmUncorrectedError sec s
  | .timingReplay g q trips => Sys2Proof.Machine.execTimingReplay g q trips s
  | .claimedInstruction w => Sys2Proof.Machine.execClaimedInstruction w s
  | .enter f => Sys2Proof.Machine.execEnter f s
  | .br f => Sys2Proof.Machine.execBr f s
  | .brZ f => Sys2Proof.Machine.execBrZ f s
  | .call f => Sys2Proof.Machine.execCall f s
  | .ret f => Sys2Proof.Machine.execRet f s
  | .halt f => Sys2Proof.Machine.execHalt f s
  | .nop f => Sys2Proof.Machine.execNop f s
  | .keep f => Sys2Proof.Machine.execKeep f s
  | .trap f => Sys2Proof.Machine.execTrap f s
  | .svc f => Sys2Proof.Machine.execSvc f s
  | .add f => Sys2Proof.Machine.execAdd f s
  | .sub f => Sys2Proof.Machine.execSub f s
  | .mul f => Sys2Proof.Machine.execMul f s
  | .mulh f => Sys2Proof.Machine.execMulh f s
  | .div f => Sys2Proof.Machine.execDiv f s
  | .rem f => Sys2Proof.Machine.execRem f s
  | .min f => Sys2Proof.Machine.execMin f s
  | .max f => Sys2Proof.Machine.execMax f s
  | .abs f => Sys2Proof.Machine.execAbs f s
  | .neg f => Sys2Proof.Machine.execNeg f s
  | .and f => Sys2Proof.Machine.execAnd f s
  | .or f => Sys2Proof.Machine.execOr f s
  | .xor f => Sys2Proof.Machine.execXor f s
  | .andn f => Sys2Proof.Machine.execAndn f s
  | .not f => Sys2Proof.Machine.execNot f s
  | .shl f => Sys2Proof.Machine.execShl f s
  | .shr f => Sys2Proof.Machine.execShr f s
  | .sar f => Sys2Proof.Machine.execSar f s
  | .rot f => Sys2Proof.Machine.execRot f s
  | .clz f => Sys2Proof.Machine.execClz f s
  | .ffs f => Sys2Proof.Machine.execFfs f s
  | .popc f => Sys2Proof.Machine.execPopc f s
  | .ext f => Sys2Proof.Machine.execExt f s
  | .cmpEq f => Sys2Proof.Machine.execCmpEq f s
  | .cmpNe f => Sys2Proof.Machine.execCmpNe f s
  | .cmpLt f => Sys2Proof.Machine.execCmpLt f s
  | .cmpLe f => Sys2Proof.Machine.execCmpLe f s
  | .cmpGt f => Sys2Proof.Machine.execCmpGt f s
  | .cmpGe f => Sys2Proof.Machine.execCmpGe f s
  | .sel f => Sys2Proof.Machine.execSel f s
  | .li f => Sys2Proof.Machine.execLi f s
  | .liZ f => Sys2Proof.Machine.execLiZ f s
  | .li64 f lit => Sys2Proof.Machine.execLi64 f lit s
  | .ld f => Sys2Proof.Machine.execLd f s
  | .st f => Sys2Proof.Machine.execSt f s
  | .ldD f => Sys2Proof.Machine.execLdD f s
  | .stD f => Sys2Proof.Machine.execStD f s
  | .amoAdd f => Sys2Proof.Machine.execAmoAdd f s
  | .amoMin f => Sys2Proof.Machine.execAmoMin f s
  | .amoMax f => Sys2Proof.Machine.execAmoMax f s
  | .amoAnd f => Sys2Proof.Machine.execAmoAnd f s
  | .amoOr f => Sys2Proof.Machine.execAmoOr f s
  | .amoXor f => Sys2Proof.Machine.execAmoXor f s
  | .amoSwap f => Sys2Proof.Machine.execAmoSwap f s
  | .cas f => Sys2Proof.Machine.execCas f s
  | .fenceAcq f => Sys2Proof.Machine.execFenceAcq f s
  | .fenceRel f => Sys2Proof.Machine.execFenceRel f s
  | .fenceAr f => Sys2Proof.Machine.execFenceAr f s
  | .align f => Sys2Proof.Machine.execAlign f s
  | .cwb f => Sys2Proof.Machine.execCwb f s
  | .cinv f => Sys2Proof.Machine.execCinv f s
  | .semSig f => Sys2Proof.Machine.execSemSig f s
  | .semSigErr f => Sys2Proof.Machine.execSemSigErr f s
  | .semWait f => Sys2Proof.Machine.execSemWait f s
  | .semWaitT f => Sys2Proof.Machine.execSemWaitT f s
  | .semClr f => Sys2Proof.Machine.execSemClr f s
  | .semClrAll f => Sys2Proof.Machine.execSemClrAll f s
  | .barArr f => Sys2Proof.Machine.execBarArr f s
  | .barArrErr f => Sys2Proof.Machine.execBarArrErr f s
  | .barWait f => Sys2Proof.Machine.execBarWait f s
  | .barWaitT f => Sys2Proof.Machine.execBarWaitT f s
  | .teamJoin f => Sys2Proof.Machine.execTeamJoin f s
  | .teamLeave f => Sys2Proof.Machine.execTeamLeave f s
  | .teamBar f => Sys2Proof.Machine.execTeamBar f s
  | .trig f => Sys2Proof.Machine.execTrig f s
  | .sleepGt f => Sys2Proof.Machine.execSleepGt f s
  | .sleepGtNt f => Sys2Proof.Machine.execSleepGtNt f s
  | .vsemSig f => Sys2Proof.Machine.execVsemSig f s
  | .vsemSigErr f => Sys2Proof.Machine.execVsemSigErr f s
  | .vsemWait f => Sys2Proof.Machine.execVsemWait f s
  | .tdSet f => Sys2Proof.Machine.execTdSet f s
  | .tdSetRec f => Sys2Proof.Machine.execTdSetRec f s
  | .tdGet f => Sys2Proof.Machine.execTdGet f s
  | .portSet f => Sys2Proof.Machine.execPortSet f s
  | .portSetW f => Sys2Proof.Machine.execPortSetW f s
  | .portRst f => Sys2Proof.Machine.execPortRst f s
  | .portRstOff f => Sys2Proof.Machine.execPortRstOff f s
  | .chanCfg f => Sys2Proof.Machine.execChanCfg f s
  | .phase f => Sys2Proof.Machine.execPhase f s
  | .vadd f => Sys2Proof.Machine.execVadd f s
  | .vsub f => Sys2Proof.Machine.execVsub f s
  | .vmul f => Sys2Proof.Machine.execVmul f s
  | .vmin f => Sys2Proof.Machine.execVmin f s
  | .vmax f => Sys2Proof.Machine.execVmax f s
  | .vabs f => Sys2Proof.Machine.execVabs f s
  | .vneg f => Sys2Proof.Machine.execVneg f s
  | .vfma f => Sys2Proof.Machine.execVfma f s
  | .vfms f => Sys2Proof.Machine.execVfms f s
  | .vfnma f => Sys2Proof.Machine.execVfnma f s
  | .vfnms f => Sys2Proof.Machine.execVfnms f s
  | .vand f => Sys2Proof.Machine.execVand f s
  | .vor f => Sys2Proof.Machine.execVor f s
  | .vxor f => Sys2Proof.Machine.execVxor f s
  | .vandn f => Sys2Proof.Machine.execVandn f s
  | .vnot f => Sys2Proof.Machine.execVnot f s
  | .vshl f => Sys2Proof.Machine.execVshl f s
  | .vshr f => Sys2Proof.Machine.execVshr f s
  | .vsar f => Sys2Proof.Machine.execVsar f s
  | .vclz f => Sys2Proof.Machine.execVclz f s
  | .vffs f => Sys2Proof.Machine.execVffs f s
  | .vpopc f => Sys2Proof.Machine.execVpopc f s
  | .vcmpEq f => Sys2Proof.Machine.execVcmpEq f s
  | .vcmpNe f => Sys2Proof.Machine.execVcmpNe f s
  | .vcmpLt f => Sys2Proof.Machine.execVcmpLt f s
  | .vcmpLe f => Sys2Proof.Machine.execVcmpLe f s
  | .vcmpGt f => Sys2Proof.Machine.execVcmpGt f s
  | .vcmpGe f => Sys2Proof.Machine.execVcmpGe f s
  | .vsel f => Sys2Proof.Machine.execVsel f s
  | .vmulh f => Sys2Proof.Machine.execVmulh f s
  | .vbc f => Sys2Proof.Machine.execVbc f s
  | .vbcLane f => Sys2Proof.Machine.execVbcLane f s
  | .vext f => Sys2Proof.Machine.execVext f s
  | .vins f => Sys2Proof.Machine.execVins f s
  | .vperm f => Sys2Proof.Machine.execVperm f s
  | .vrot f => Sys2Proof.Machine.execVrot f s
  | .vredSum f => Sys2Proof.Machine.execVredSum f s
  | .vredMin f => Sys2Proof.Machine.execVredMin f s
  | .vredMax f => Sys2Proof.Machine.execVredMax f s
  | .vredAnd f => Sys2Proof.Machine.execVredAnd f s
  | .vredOr f => Sys2Proof.Machine.execVredOr f s
  | .vredXor f => Sys2Proof.Machine.execVredXor f s
  | .vscanSum f => Sys2Proof.Machine.execVscanSum f s
  | .vscanMin f => Sys2Proof.Machine.execVscanMin f s
  | .vscanMax f => Sys2Proof.Machine.execVscanMax f s
  | .vput f => Sys2Proof.Machine.execVput f s
  | .vputNb f => Sys2Proof.Machine.execVputNb f s
  | .vtry f => Sys2Proof.Machine.execVtry f s
  | .vcvt f => Sys2Proof.Machine.execVcvt f s
  | .vwid f => Sys2Proof.Machine.execVwid f s
  | .vnar f => Sys2Proof.Machine.execVnar f s
  | .vexp2 f => Sys2Proof.Machine.execVexp2 f s
  | .vlog2 f => Sys2Proof.Machine.execVlog2 f s
  | .vrcp f => Sys2Proof.Machine.execVrcp f s
  | .vrsq f => Sys2Proof.Machine.execVrsq f s
  | .vsqrt f => Sys2Proof.Machine.execVsqrt f s
  | .vtanh f => Sys2Proof.Machine.execVtanh f s
  | .mm f => Sys2Proof.Machine.execMm f s
  | .mmDrain f => Sys2Proof.Machine.execMmDrain f s
  | .mmDrainQ0 f => Sys2Proof.Machine.execMmDrainQ0 f s
  | .mmGang f => Sys2Proof.Machine.execMmGang f s
  | .mmGangOff f => Sys2Proof.Machine.execMmGangOff f s
  | .cp f => Sys2Proof.Machine.execCp f s
  | .cpQ2 f => Sys2Proof.Machine.execCpQ2 f s
  | .cpQ3 f => Sys2Proof.Machine.execCpQ3 f s
  | .cpFill f => Sys2Proof.Machine.execCpFill f s
  | .cpGather f => Sys2Proof.Machine.execCpGather f s
  | .tlbInv f => Sys2Proof.Machine.execTlbInv f s
  | .tlbInvAll f => Sys2Proof.Machine.execTlbInvAll f s
  | .tNew f => Sys2Proof.Machine.execTNew f s
  | .tFree f => Sys2Proof.Machine.execTFree f s
  | .tView f => Sys2Proof.Machine.execTView f s
  | .tMap n f tl args => Sys2Proof.Machine.execTMap n f tl args s
  | .tCopy n f => Sys2Proof.Machine.execTCopy n f s
  | .tFill f => Sys2Proof.Machine.execTFill f s
  | .tRead f => Sys2Proof.Machine.execTRead f s
  | .tFence f => Sys2Proof.Machine.execTFence f s
  | .tSync f => Sys2Proof.Machine.execTSync f s
  | .tSignalAdd f => Sys2Proof.Machine.execTSignalAdd f s
  | .tSignalStore f => Sys2Proof.Machine.execTSignalStore f s
  | .tSvc f => Sys2Proof.Machine.execTSvc f s
  | .tSend f => Sys2Proof.Machine.execTSend f s
  | .tRecv f => Sys2Proof.Machine.execTRecv f s
  | .tWaitEq f => Sys2Proof.Machine.execTWaitEq f s
  | .tWaitNe f => Sys2Proof.Machine.execTWaitNe f s
  | .tWaitGe f => Sys2Proof.Machine.execTWaitGe f s
  | .eret f carry => Sys2Proof.Machine.execEret f carry s
  | .eretRetry f => Sys2Proof.Machine.execEretRetry f s
  | .csrR f => Sys2Proof.Machine.execCsrR f s
  | .csrW f => Sys2Proof.Machine.execCsrW f s
  | .codeInv f => Sys2Proof.Machine.execCodeInv f s
  | .codeInvObj f => Sys2Proof.Machine.execCodeInvObj f s
  | .codeInvAll f => Sys2Proof.Machine.execCodeInvAll f s
  | .scanFrz f => Sys2Proof.Machine.execScanFrz f s
  | .scanFrzAt f => Sys2Proof.Machine.execScanFrzAt f s
  | .scanOut f => Sys2Proof.Machine.execScanOut f s
  | .scanIn f => Sys2Proof.Machine.execScanIn f s
  | .scanRun f => Sys2Proof.Machine.execScanRun f s
  | .patchLd f => Sys2Proof.Machine.execPatchLd f s
  | .ctxScrub f => Sys2Proof.Machine.execCtxScrub f s
  | .streamEnd => Sys2Proof.Machine.execStreamEnd s
  | .entryIssue => Sys2Proof.Machine.execEntryIssue s
  | .entryDone => Sys2Proof.Machine.execEntryDone s
  | .entryFault => Sys2Proof.Machine.execEntryFault s
  | .entryRetire => Sys2Proof.Machine.execEntryRetire s
  | .streamTrap => Sys2Proof.Machine.execStreamTrap s
  | .streamComplete => Sys2Proof.Machine.execStreamComplete s
  | .streamRestart => Sys2Proof.Machine.execStreamRestart s
  | .streamKill => Sys2Proof.Machine.execStreamKill s
  | .globalDispatch => Sys2Proof.Machine.execGlobalDispatch s
  | .batchArrival => Sys2Proof.Machine.execBatchArrival s
  | .taskStart => Sys2Proof.Machine.execTaskStart s
  | .haltDrainEnd => Sys2Proof.Machine.execHaltDrainEnd s
  | .blockLower => Sys2Proof.Machine.execBlockLower s
  | .blockInstall => Sys2Proof.Machine.execBlockInstall s
  | .queuePush => Sys2Proof.Machine.execQueuePush s
  | .promiseTimeReached => Sys2Proof.Machine.execPromiseTimeReached s
  | .semWaitSatisfied => Sys2Proof.Machine.execSemWaitSatisfied s
  | .barWaitPoll => Sys2Proof.Machine.execBarWaitPoll s
  | .tWaitPoll => Sys2Proof.Machine.execTWaitPoll s
  | .teamJoinComplete => Sys2Proof.Machine.execTeamJoinComplete s
  | .trigRelease => Sys2Proof.Machine.execTrigRelease s
  | .chanCfgPerform => Sys2Proof.Machine.execChanCfgPerform s
  | .phaseMove => Sys2Proof.Machine.execPhaseMove s
  | .loadPerform => Sys2Proof.Machine.execLoadPerform s
  | .storeLeaveSq => Sys2Proof.Machine.execStoreLeaveSq s
  | .releaseComplete => Sys2Proof.Machine.execReleaseComplete s
  | .acquireComplete => Sys2Proof.Machine.execAcquireComplete s
  | .atomicPerform => Sys2Proof.Machine.execAtomicPerform s
  | .shootdownComplete => Sys2Proof.Machine.execShootdownComplete s
  | .tqpop => Sys2Proof.Machine.execTqpop s
  | .evpop => Sys2Proof.Machine.execEvpop s
  | .sliceExpiry => Sys2Proof.Machine.execSliceExpiry s
  | .cctlRetry => Sys2Proof.Machine.execCctlRetry s
  | .cctlResume => Sys2Proof.Machine.execCctlResume s
  | .cctlKill => Sys2Proof.Machine.execCctlKill s
  | .cctlDrain => Sys2Proof.Machine.execCctlDrain s
  | .cctlRelease => Sys2Proof.Machine.execCctlRelease s
  | .cctlStart => Sys2Proof.Machine.execCctlStart s
  | .drainEnd => Sys2Proof.Machine.execDrainEnd s
  | .drainLimitFreeze => Sys2Proof.Machine.execDrainLimitFreeze s
  | .preemptionHoldEnd => Sys2Proof.Machine.execPreemptionHoldEnd s
  | .streamContextReset => Sys2Proof.Machine.execStreamContextReset s
  | .streamResetDone => Sys2Proof.Machine.execStreamResetDone s
  | .keyOperationEnd => Sys2Proof.Machine.execKeyOperationEnd s
  | .scanFreezeDeferred => Sys2Proof.Machine.execScanFreezeDeferred s
  | .scanFreezeComplete => Sys2Proof.Machine.execScanFreezeComplete s
  | .exit => Sys2Proof.Machine.execExit s
  | .writeLog => Sys2Proof.Machine.execWriteLog s
  | .memFree => Sys2Proof.Machine.execMemFree s
  | .endpointClose => Sys2Proof.Machine.execEndpointClose s
  | .ctlRecv => Sys2Proof.Machine.execCtlRecv s
  | .ctlSend => Sys2Proof.Machine.execCtlSend s
  | .topologyQuery => Sys2Proof.Machine.execTopologyQuery s
  | .timeQuery => Sys2Proof.Machine.execTimeQuery s
  | .setStreamHandler => Sys2Proof.Machine.execSetStreamHandler s
  | .taskReport => Sys2Proof.Machine.execTaskReport s
  | .yield => Sys2Proof.Machine.execYield s
  | .patchQuery => Sys2Proof.Machine.execPatchQuery s
  | .eventPost => Sys2Proof.Machine.execEventPost s
  | .getVersion => Sys2Proof.Machine.execGetVersion s
  | .getCapabilities => Sys2Proof.Machine.execGetCapabilities s
  | .negotiateAlgorithms => Sys2Proof.Machine.execNegotiateAlgorithms s
  | .getDigests => Sys2Proof.Machine.execGetDigests s
  | .getCertificate => Sys2Proof.Machine.execGetCertificate s
  | .challenge => Sys2Proof.Machine.execChallenge s
  | .readTemperature => Sys2Proof.Machine.execReadTemperature s
  | .readPower => Sys2Proof.Machine.execReadPower s
  | .readReliabilityRecord => Sys2Proof.Machine.execReadReliabilityRecord s
  | .warmReset => Sys2Proof.Machine.execWarmReset s
  | .warmResetWriteBack => Sys2Proof.Machine.execWarmResetWriteBack s
  | .warmResetLogicReset => Sys2Proof.Machine.execWarmResetLogicReset s
  | .dieAdmission => Sys2Proof.Machine.execDieAdmission s
  | .calibrationEnd => Sys2Proof.Machine.execCalibrationEnd s
  | .refclkLoss => Sys2Proof.Machine.execRefclkLoss s
  | .refclkReturn => Sys2Proof.Machine.execRefclkReturn s
  | .gtcCorrection => Sys2Proof.Machine.execGtcCorrection s
  | .supplyDroop => Sys2Proof.Machine.execSupplyDroop s
  | .ucieFlitRetry => Sys2Proof.Machine.execUcieFlitRetry s
  | .sramCorrectedError => Sys2Proof.Machine.execSramCorrectedError s
  | .windowWaitBoundPassed => Sys2Proof.Machine.execWindowWaitBoundPassed s

end Sys2Proof.Machine
end

