-- ==== Sys2Proof/Machine/Sched.lean ====
section
/-! DEFINITION. What moves besides instructions: clk passing, boundary errors, and the service's own bookkeeping. -/

namespace Sys2Proof.Machine

/-- Whether the device has an agent (R10, R15, R92): 128 user cores and 8 service cores, 16 stream front ends, 8 dies,
16 windows of 128 entries. -/
def agentExists : Agent → Bool
  | .core g => g < 136
  | .sfe p => p < 16
  | .die d => d < 8
  | .entry p n => p < 16 && n < 128

/-- What is taken at an instruction boundary before the next instruction: the ERRBIT of R186 on a user core (R296), the
oldest waiting event in stream text (R354). -/
def State.boundary (s : State) (a : Agent) : Option State :=
  match a with
  | .core g => s.errBoundary g
  | .sfe p => s.handlerBoundary p
  | _ => none

/-! Clk (R301, R309, R311, R325). -/

/-- The wait of a core after `n` clk: `ctx.scrub` and `scan.frz` count down, and the stall counter of an unsatisfied wait
counts up where `counts` says that it does. -/
def Wait.after (w : Wait) (n : Nat) (counts : Bool) : Wait :=
  let kind := match w.kind with
    | .scrub g left => .scrub g (left - n)
    | .frz d mask part (some k) cur left => .frz d mask part (some k) cur (left - n)
    | k => k
  { w with kind := kind, stall := if counts then w.stall + n else w.stall }

/-- Whether the waits of a core count (R309): the context is in RUN and its partition scheduled. -/
def State.counts (s : State) (g : Nat) : Bool :=
  (((s.core g).cstate == .run && !(s.core g).iced) || isSvc g) && (isSvc g || s.scheduled (s.core g).part) && !(s.die (dieOf g)).holdStop

/-- The commands of a queue after `n` clk: the stall counter of each that waits counts up (R309). -/
def State.tickQueue (s : State) (n g : Nat) (q : Eng) : List Cmd :=
  let waits := if s.counts g then s.headWaits g q else []
  ((s.core g).queue q).map (fun k =>
    match waits.find? (fun x => x.1.seq = k.seq) with
    | none => k
    | some (_, res, _) => { k with stall := k.waited res + n, stallAt := res })

/-- `n` clk pass for a core: the turns of its flag words begin afresh (R188). -/
def State.tickCore (s : State) (n g : Nat) : State :=
  let c := s.core g
  s.setCore g { c with
    quant := if c.cstate == .run && !c.iced then min (c.quant + n) (2 ^ 48 - 1) else c.quant,
    drainT := if c.cstate == .draining && !c.iced && !c.drainOver then c.drainT + n else c.drainT,
    wait := c.wait.map (fun w => w.after n (s.counts g && s.waitOpen g w.kind)),
    flagTurn := [], mq := s.tickQueue n g .m, vq := s.tickQueue n g .v, cq := s.tickQueue n g .c }

/-- The clk until a counter that counts passes a bound, where it has not yet. -/
def clkLeft (bound stall : Nat) : List Nat := if stall ≤ bound then [bound + 1 - stall] else []

/-- The clk that may pass before the wait of a core must do something: trap at its bound, read its barrier word again
(R286), or judge its copy as the GTC reaches the promised time (R272). -/
def State.waitDue (s : State) (g : Nat) : List Nat :=
  match (s.core g).wait with
  | none => []
  | some w =>
    let gtc := (s.die (dieOf g)).gtc
    let bound := if s.counts g && s.waitOpen g w.kind then
        (match w.bound with
          | some b => clkLeft b w.stall
          | none => [])
      else []
    let own := match w.kind with
      | .barWait _ _ _ _ => if s.counts g then [256 - w.stall % 256] else []
      | .sleep time _ _ fin =>
        if fin || (s.core g).late || gtcReached gtc time then [] else [(time + 2 ^ 56 - gtc % 2 ^ 56) % 2 ^ 56]
      | _ => []
    bound ++ own

/-- The clk that may pass before a wait of a queue must trap. -/
def State.queueDue (s : State) (g : Nat) (q : Eng) : List Nat :=
  if s.counts g then (s.headWaits g q).flatMap (fun x => clkLeft (2 ^ x.2.2) (x.1.waited x.2.1)) else []

/-- How many of `n` clk may pass at once: up to the first in which some wait must do something. -/
def State.clkRoom (s : State) (n : Nat) : Nat :=
  ((s.cores.map (·.1)).flatMap (fun g => s.waitDue g ++ s.queueDue g .m ++ s.queueDue g .v ++ s.queueDue g .c)
    ++ (s.parts.map (·.1)).flatMap s.entryDue).foldl min n

/-- The queue of a core whose oldest command past its bound is the oldest of all (R297). -/
def State.expired (s : State) (g : Nat) : Option Eng :=
  let of (q : Eng) : List (Nat × Eng) :=
    (((s.headWaits g q).find? (fun x => 2 ^ x.2.2 < x.1.waited x.2.1)).map (fun x => (x.1.seq, q))).toList
  ((of .m ++ of .v ++ of .c).foldl (fun (r : Option (Nat × Eng)) x =>
    match r with
    | none => some x
    | some y => if x.1 < y.1 then some x else r) none).map (·.2)

/-- What the waits of a core must do in the clk that has come: of several that have passed their bounds the oldest traps, a
queued command before the instruction the sequencer waits at (R297). -/
def State.waitNow (s : State) (g : Nat) : State :=
  let s := (match s.expired g with
    | some q => s.expireHead g q
    | none => s).expireSeq g
  match (s.core g).wait with
  | some { kind := .barWait x gen t scope, stall := n, bound := _ } =>
    if n % 256 = 0 && n != 0 && s.canRun (.core g) then s.barStep g x gen t scope 0 else s
  | some { kind := .sleep time tag nt false, stall := _, bound := _ } =>
    if !(s.core g).late && gtcReached (s.die (dieOf g)).gtc time && s.canRun (.core g) then s.sleepStep g time tag nt false 0
    else s
  | _ => s

/-- `n` clk pass for a partition: the slice timer, the window stall counters, the bounds of its waiting entries. -/
def State.tickPart (s : State) (n p : Nat) : State :=
  let why := s.sfeStall p
  let add (k x : Nat) : Nat := if why == some k then (x + n) % 2 ^ 64 else x
  let live := s.scheduled p
  s.modPart p (fun q =>
    { q with
      sliceT := if q.psched.getLsbD 0 then q.sliceT + n else q.sliceT,
      wstallCkpt := add 1 q.wstallCkpt, wstallFull := add 2 q.wstallFull, wstallPool := add 3 q.wstallPool,
      window := q.window.map (fun x =>
        (x.1, x.2.map (fun e => if live && s.entryCounts p e then { e with stall := e.stall + n } else e))) })

/-- `n` clk pass for the GTC of a die: a tick for each, but for the one that a slowing takes (R362). -/
def Die.passClk (x : Die) (n : Nat) : Die :=
  if x.slow && n != 0 then { x with gtc := (x.gtc + (n - 1)) % 2 ^ 64, slow := false } else { x with gtc := (x.gtc + n) % 2 ^ 64 }

/-- `n` clk pass for every counter of the device; a tick of the GTC is a clk at the nominal rate (R362). -/
def State.count (s : State) (n : Nat) : State :=
  let t := (s.cores.map (·.1)).foldl (fun s g => s.tickCore n g) s
  let t := (t.parts.map (·.1)).foldl (fun s p => s.tickPart n p) t
  (List.range 8).foldl (fun s d => s.modDie d (fun x => x.passClk n)) t

/-- `n` clk pass on the whole device, or fewer where a wait must do something in an earlier one (R129, R130, R272, R286,
R309). -/
def State.ticks (s : State) (n : Nat) : State :=
  let t := s.count (s.clkRoom n)
  let t := (s.cores.map (·.1)).foldl (fun t g => t.waitNow g) t
  (s.parts.map (·.1)).foldl (fun t p => ((t.part p).live.map (·.1)).foldl (fun t n => t.entryNow p n) t) t

/-! The service's own bookkeeping. -/

/-- Whether a range meets a region that a view of a partition names (R95). -/
def Part.hitsView (q : Part) (lo n : Nat) : Bool :=
  let at' (x : Option LTensor) : Bool :=
    match x with
    | some t => t.view && (let r := tensorRange t.desc; lo < r.1 + r.2 && r.1 < lo + n)
    | none => false
  q.rename.any (fun x => at' x.2) || q.committed.any (fun x => at' x.2)
    || q.live.any (fun x => x.2.tens.any (fun t => at' t.before || at' t.after))

/-- A pool of a partition gains buffers (R95, R96): one that is not aligned to its size, meets another, a view or the patch data
window (R335), names a frame of the partition's text (R48) or passes the
capacity of the HBM (R2), is passed over, and nothing changes where the class would be
left with one buffer, its ballast being two. -/
def State.addPool (s : State) (p home cls : Nat) (bases : List Nat) : State :=
  let code := s.codeFrames p
  s.modPart p (fun q =>
    let n := pbBytes cls
    let r := bases.foldl (fun (q : Part) a =>
      if a % n ≠ 0 || 2 ^ 48 < a + n || q.hitsPool a n || q.hitsView a n || !offWindow a n
          || (s.frames p a n).any code.contains
          || hbmBytes < s.allocated + (q.pbs.length - (s.part p).pbs.length + 1) * n then q
      else ({ q with pbs := tput none q.pbs a (some { home := home, cls := cls, st := .shadow, reads := 0, ballast := false }) }).freePb a)
      (if q.pools.contains (home, cls) then q else { q with pools := q.pools ++ [(home, cls)] })
    let count := (r.pbs.filter (fun x => match x.2 with
      | some b => b.home == home && b.cls == cls
      | none => false)).length
    if (home ≤ 7 || home = 15) && cls ≤ 20 && 2 ≤ count then r else q)

/-- The service pauses a partition for migration, or ends the pause: the events logged meanwhile are delivered (R315). -/
def State.pausePart (s : State) (p : Nat) (on : Bool) : State :=
  let s := s.modPart p (fun q => { q with paused := on })
  if s.scheduled p then s.deliverLog p else s

end Sys2Proof.Machine
end

