-- ==== Sys2Proof/Machine/Run.lean ====
section
/-! DEFINITION. What one step carries out: an agent executes what stands at its virtual PC, an event happens, an engine
advances, clk pass (R22, R277; assumption 3); and how an instruction is placed where the next step fetches it
(assumption 5). -/

namespace Sys2Proof.Machine

/-- An agent executes what it finds at its virtual PC. -/
def runAgent (a : Agent) (s : State) : Host.Outcome State Fault Refusal :=
  let s := { s with focus := a }
  if !s.canRun a then .next s
  else
    match s.boundary a with
    | some t => .next t
    | none =>
      match s.look a with
      | .instr i => exec i s
      | .fault f => exec (.translationFault f) s
      | .absent => exec .blockLower s
      | .install b => .next (s.modCtx a (fun c => { c with blk := some b }))
      | .patchTrap n k l => .next (s.patchTrap a n k l)
      | .rewrite t => .next (s.modCtx a (fun c => { c with tmpl := t :: c.tmpl }))
      | .emulate n w => exec (.emulateCall n w) s

/-- Carry out one item. -/
def doAction (x : Action) (s : State) : Host.Outcome State Fault Refusal :=
  match x with
  | .run a => if agentExists a then runAgent a s else .fault .noSuchUnit
  | .event a i =>
    if !agentExists a then .fault .noSuchUnit
    else if i.isEvent then exec i { s with focus := a }
    else .fault .notAnEvent
  | .engine g q k => if g < 136 then .next (s.engineAdvance g q k) else .fault .noSuchUnit
  | .early g q k n => if g < 136 then .next (s.engineEarly g q k n) else .fault .noSuchUnit
  | .advance p n w => if p < 16 then .next (s.advance p n w) else .fault .noSuchUnit
  | .clk n => .next (s.ticks n)
  | .pool p home cls bases => if p < 16 then .next (s.addPool p home cls bases) else .fault .noSuchUnit
  | .keyOf p k => if p < 16 then .next (s.modPart p (fun q => { q with keySlot := k % 128 })) else .fault .noSuchUnit
  | .pause p on => if p < 16 then .next (s.pausePart p on) else .fault .noSuchUnit
  | .window g => if g < 128 then .next (s.mapWindow g) else .fault .noSuchUnit
  | .portRetry n k => if n < 16 then .next (s.countRetry n k) else .fault .noSuchUnit
  | .message m => if s.ctlPort.isSome then .next { s with ctlIn := s.ctlIn ++ [m] } else .next s
  | .svcRoot d root => if d < 8 then .next (s.modDie d (fun x => { x with svcRoot := root })) else .fault .noSuchUnit
  | .svcStart d vpc args =>
    if d < 8 then
      .next (s.modCore (svcOf d)
        (fun c => { c with ctx := c.ctx.enterBlock vpc.toNat (args.map (fun w => .ready (.scalar w))) }))
    else .fault .noSuchUnit

/-- Which agent runs an instruction whose first word is `w`: a stream front end the stream instructions, a service
core the system instructions, a user core the rest (R75). -/
def placeFor (w : Nat) : Agent :=
  let op := (w / 2 ^ 56) % 256
  if 0xA0 ≤ op && op ≤ 0xAD then .sfe 0 else if 0xB0 ≤ op && op ≤ 0xB9 then .core 128 else .core 0

/-- The state with an instruction placed so that the next step runs it: the agent it belongs to runs, stands at its
word, and is next on the agenda (assumption 5). -/
def State.placeWord (s : State) (nbits w : Nat) : State :=
  let v := w % 2 ^ nbits
  let ws := wordsOfBytes (natToBytes (8 * maxInstrWords) v)
  let a := placeFor v
  let b : Block := { obj := 0, vpc := 4096, part := 0, words := ws, bad := [], next := none, slots := [], routine := false, stale := false }
  let put (c : Ctx) : Ctx := { c with vpc := 4096, tmpl := [], blk := some b }
  let s := { s with agenda := [.run a], focus := a }
  match a with
  | .core g => s.modCore g (fun c => { c with cstate := .run, ctx := put c.ctx })
  | .sfe p => s.modPart p (fun q => { q with sfe := { q.sfe with running := true, ctx := put q.sfe.ctx } })
  | _ => s

end Sys2Proof.Machine
end

