-- ==== Sys2Proof/Machine/Step.lean ====
section
/-! DEFINITION. One step of the device: the next item of the agenda, or, once that is empty, the free scheduling choice
(R22, R277; assumption 3). -/

namespace Sys2Proof.Machine

/-- One step. -/
def step (s : State) : Host.Outcome State Fault Refusal :=
  match s.agenda with
  | [] => doAction (Config.choose s.clock) { s with clock := s.clock + 1 }
  | x :: xs => doAction x { s with agenda := xs }

/-- The state with an instruction placed so that the next step runs it (assumption 5). -/
def State.withFetchWord (s : State) (nbits w : Nat) : State := s.placeWord nbits w

end Sys2Proof.Machine
end

