-- ==== Sys2Proof/Laws/Encoding.lean ====
section
/-! SUPPORT. What the decoder reads back from the words the encoder packs, field by field. -/

namespace Sys2Proof

@[simp] theorem opOf_packBase (op : BitVec 8) (fn : BitVec 4) (f : BaseF) : opOf (packBase op fn f) = op := by
  apply BitVec.eq_of_getLsbD_eq
  intro i hi
  simp only [opOf, packBase, BitVec.getLsbD_extractLsb', BitVec.getLsbD_append, hi, decide_true, Bool.true_and]
  repeat' split
  all_goals first | omega | (congr 1; omega)

@[simp] theorem fnOf_packBase (op : BitVec 8) (fn : BitVec 4) (f : BaseF) : fnOf (packBase op fn f) = fn := by
  apply BitVec.eq_of_getLsbD_eq
  intro i hi
  simp only [fnOf, packBase, BitVec.getLsbD_extractLsb', BitVec.getLsbD_append, hi, decide_true, Bool.true_and]
  repeat' split
  all_goals first | omega | (congr 1; omega)

@[simp] theorem opOf_packBr (op : BitVec 8) (fn : BitVec 4) (f : BrF) : opOf (packBr op fn f) = op := by
  apply BitVec.eq_of_getLsbD_eq
  intro i hi
  simp only [opOf, packBr, BitVec.getLsbD_extractLsb', BitVec.getLsbD_append, hi, decide_true, Bool.true_and]
  repeat' split
  all_goals first | omega | (congr 1; omega)

@[simp] theorem fnOf_packBr (op : BitVec 8) (fn : BitVec 4) (f : BrF) : fnOf (packBr op fn f) = fn := by
  apply BitVec.eq_of_getLsbD_eq
  intro i hi
  simp only [fnOf, packBr, BitVec.getLsbD_extractLsb', BitVec.getLsbD_append, hi, decide_true, Bool.true_and]
  repeat' split
  all_goals first | omega | (congr 1; omega)

@[simp] theorem opOf_packImm (op : BitVec 8) (f : ImmF) : opOf (packImm op f) = op := by
  apply BitVec.eq_of_getLsbD_eq
  intro i hi
  simp only [opOf, packImm, BitVec.getLsbD_extractLsb', BitVec.getLsbD_append, hi, decide_true, Bool.true_and]
  repeat' split
  all_goals first | omega | (congr 1; omega)

@[simp] theorem fnOf_packImm (op : BitVec 8) (f : ImmF) : fnOf (packImm op f) = f.fn := by
  apply BitVec.eq_of_getLsbD_eq
  intro i hi
  simp only [fnOf, packImm, BitVec.getLsbD_extractLsb', BitVec.getLsbD_append, hi, decide_true, Bool.true_and]
  repeat' split
  all_goals first | omega | (congr 1; omega)

@[simp] theorem opOf_packEng (op : BitVec 8) (f : EngF) : opOf (packEng op f) = op := by
  apply BitVec.eq_of_getLsbD_eq
  intro i hi
  simp only [opOf, packEng, BitVec.getLsbD_extractLsb', BitVec.getLsbD_append, hi, decide_true, Bool.true_and]
  repeat' split
  all_goals first | omega | (congr 1; omega)

@[simp] theorem fnOf_packEng (op : BitVec 8) (f : EngF) : fnOf (packEng op f) = f.fn := by
  apply BitVec.eq_of_getLsbD_eq
  intro i hi
  simp only [fnOf, packEng, BitVec.getLsbD_extractLsb', BitVec.getLsbD_append, hi, decide_true, Bool.true_and]
  repeat' split
  all_goals first | omega | (congr 1; omega)

theorem packBase_ty (op : BitVec 8) (fn : BitVec 4) (f : BaseF) : (packBase op fn f).extractLsb' 48 4 = f.ty := by
  apply BitVec.eq_of_getLsbD_eq
  intro i hi
  simp only [packBase, BitVec.getLsbD_extractLsb', BitVec.getLsbD_append, hi, decide_true, Bool.true_and]
  repeat' split
  all_goals first | omega | (congr 1; omega)

theorem packBase_a (op : BitVec 8) (fn : BitVec 4) (f : BaseF) : (packBase op fn f).extractLsb' 40 8 = f.a := by
  apply BitVec.eq_of_getLsbD_eq
  intro i hi
  simp only [packBase, BitVec.getLsbD_extractLsb', BitVec.getLsbD_append, hi, decide_true, Bool.true_and]
  repeat' split
  all_goals first | omega | (congr 1; omega)

theorem packBase_b (op : BitVec 8) (fn : BitVec 4) (f : BaseF) : (packBase op fn f).extractLsb' 32 8 = f.b := by
  apply BitVec.eq_of_getLsbD_eq
  intro i hi
  simp only [packBase, BitVec.getLsbD_extractLsb', BitVec.getLsbD_append, hi, decide_true, Bool.true_and]
  repeat' split
  all_goals first | omega | (congr 1; omega)

theorem packBase_c (op : BitVec 8) (fn : BitVec 4) (f : BaseF) : (packBase op fn f).extractLsb' 24 8 = f.c := by
  apply BitVec.eq_of_getLsbD_eq
  intro i hi
  simp only [packBase, BitVec.getLsbD_extractLsb', BitVec.getLsbD_append, hi, decide_true, Bool.true_and]
  repeat' split
  all_goals first | omega | (congr 1; omega)

theorem packBase_mod (op : BitVec 8) (fn : BitVec 4) (f : BaseF) : (packBase op fn f).extractLsb' 0 24 = f.mod := by
  apply BitVec.eq_of_getLsbD_eq
  intro i hi
  simp only [packBase, BitVec.getLsbD_extractLsb', BitVec.getLsbD_append, hi, decide_true, Bool.true_and]
  repeat' split
  all_goals first | omega | (congr 1; omega)

theorem packImm_fn (op : BitVec 8) (f : ImmF) : (packImm op f).extractLsb' 52 4 = f.fn := by
  apply BitVec.eq_of_getLsbD_eq
  intro i hi
  simp only [packImm, BitVec.getLsbD_extractLsb', BitVec.getLsbD_append, hi, decide_true, Bool.true_and]
  repeat' split
  all_goals first | omega | (congr 1; omega)

theorem packImm_ty (op : BitVec 8) (f : ImmF) : (packImm op f).extractLsb' 48 4 = f.ty := by
  apply BitVec.eq_of_getLsbD_eq
  intro i hi
  simp only [packImm, BitVec.getLsbD_extractLsb', BitVec.getLsbD_append, hi, decide_true, Bool.true_and]
  repeat' split
  all_goals first | omega | (congr 1; omega)

theorem packImm_a (op : BitVec 8) (f : ImmF) : (packImm op f).extractLsb' 40 8 = f.a := by
  apply BitVec.eq_of_getLsbD_eq
  intro i hi
  simp only [packImm, BitVec.getLsbD_extractLsb', BitVec.getLsbD_append, hi, decide_true, Bool.true_and]
  repeat' split
  all_goals first | omega | (congr 1; omega)

theorem packImm_b (op : BitVec 8) (f : ImmF) : (packImm op f).extractLsb' 32 8 = f.b := by
  apply BitVec.eq_of_getLsbD_eq
  intro i hi
  simp only [packImm, BitVec.getLsbD_extractLsb', BitVec.getLsbD_append, hi, decide_true, Bool.true_and]
  repeat' split
  all_goals first | omega | (congr 1; omega)

theorem packImm_imm (op : BitVec 8) (f : ImmF) : (packImm op f).extractLsb' 0 32 = f.imm := by
  apply BitVec.eq_of_getLsbD_eq
  intro i hi
  simp only [packImm, BitVec.getLsbD_extractLsb', BitVec.getLsbD_append, hi, decide_true, Bool.true_and]
  repeat' split
  all_goals first | omega | (congr 1; omega)

theorem packEng_fn (op : BitVec 8) (f : EngF) : (packEng op f).extractLsb' 52 4 = f.fn := by
  apply BitVec.eq_of_getLsbD_eq
  intro i hi
  simp only [packEng, BitVec.getLsbD_extractLsb', BitVec.getLsbD_append, hi, decide_true, Bool.true_and]
  repeat' split
  all_goals first | omega | (congr 1; omega)

theorem packEng_ty (op : BitVec 8) (f : EngF) : (packEng op f).extractLsb' 48 4 = f.ty := by
  apply BitVec.eq_of_getLsbD_eq
  intro i hi
  simp only [packEng, BitVec.getLsbD_extractLsb', BitVec.getLsbD_append, hi, decide_true, Bool.true_and]
  repeat' split
  all_goals first | omega | (congr 1; omega)

theorem packEng_a (op : BitVec 8) (f : EngF) : (packEng op f).extractLsb' 40 8 = f.a := by
  apply BitVec.eq_of_getLsbD_eq
  intro i hi
  simp only [packEng, BitVec.getLsbD_extractLsb', BitVec.getLsbD_append, hi, decide_true, Bool.true_and]
  repeat' split
  all_goals first | omega | (congr 1; omega)

theorem packEng_b (op : BitVec 8) (f : EngF) : (packEng op f).extractLsb' 32 8 = f.b := by
  apply BitVec.eq_of_getLsbD_eq
  intro i hi
  simp only [packEng, BitVec.getLsbD_extractLsb', BitVec.getLsbD_append, hi, decide_true, Bool.true_and]
  repeat' split
  all_goals first | omega | (congr 1; omega)

theorem packEng_c (op : BitVec 8) (f : EngF) : (packEng op f).extractLsb' 24 8 = f.c := by
  apply BitVec.eq_of_getLsbD_eq
  intro i hi
  simp only [packEng, BitVec.getLsbD_extractLsb', BitVec.getLsbD_append, hi, decide_true, Bool.true_and]
  repeat' split
  all_goals first | omega | (congr 1; omega)

theorem packEng_wf (op : BitVec 8) (f : EngF) : (packEng op f).extractLsb' 19 5 = f.wf := by
  apply BitVec.eq_of_getLsbD_eq
  intro i hi
  simp only [packEng, BitVec.getLsbD_extractLsb', BitVec.getLsbD_append, hi, decide_true, Bool.true_and]
  repeat' split
  all_goals first | omega | (congr 1; omega)

theorem packEng_wn (op : BitVec 8) (f : EngF) : (packEng op f).extractLsb' 16 3 = f.wn := by
  apply BitVec.eq_of_getLsbD_eq
  intro i hi
  simp only [packEng, BitVec.getLsbD_extractLsb', BitVec.getLsbD_append, hi, decide_true, Bool.true_and]
  repeat' split
  all_goals first | omega | (congr 1; omega)

theorem packEng_sf (op : BitVec 8) (f : EngF) : (packEng op f).extractLsb' 11 5 = f.sf := by
  apply BitVec.eq_of_getLsbD_eq
  intro i hi
  simp only [packEng, BitVec.getLsbD_extractLsb', BitVec.getLsbD_append, hi, decide_true, Bool.true_and]
  repeat' split
  all_goals first | omega | (congr 1; omega)

theorem packEng_sn (op : BitVec 8) (f : EngF) : (packEng op f).extractLsb' 8 3 = f.sn := by
  apply BitVec.eq_of_getLsbD_eq
  intro i hi
  simp only [packEng, BitVec.getLsbD_extractLsb', BitVec.getLsbD_append, hi, decide_true, Bool.true_and]
  repeat' split
  all_goals first | omega | (congr 1; omega)

theorem packEng_efl (op : BitVec 8) (f : EngF) : (packEng op f).extractLsb' 0 8 = f.efl := by
  apply BitVec.eq_of_getLsbD_eq
  intro i hi
  simp only [packEng, BitVec.getLsbD_extractLsb', BitVec.getLsbD_append, hi, decide_true, Bool.true_and]
  repeat' split
  all_goals first | omega | (congr 1; omega)

theorem packBr_cond (op : BitVec 8) (fn : BitVec 4) (f : BrF) : (packBr op fn f).extractLsb' 40 8 = f.cond := by
  apply BitVec.eq_of_getLsbD_eq
  intro i hi
  simp only [packBr, BitVec.getLsbD_extractLsb', BitVec.getLsbD_append, hi, decide_true, Bool.true_and]
  repeat' split
  all_goals first | omega | (congr 1; omega)

theorem packBr_off (op : BitVec 8) (fn : BitVec 4) (f : BrF) : (packBr op fn f).extractLsb' 0 32 = f.off := by
  apply BitVec.eq_of_getLsbD_eq
  intro i hi
  simp only [packBr, BitVec.getLsbD_extractLsb', BitVec.getLsbD_append, hi, decide_true, Bool.true_and]
  repeat' split
  all_goals first | omega | (congr 1; omega)

@[simp] theorem unpackBase_packBase (op : BitVec 8) (fn : BitVec 4) (f : BaseF) : unpackBase (packBase op fn f) = f := by
  simp [unpackBase, packBase_ty, packBase_a, packBase_b, packBase_c, packBase_mod]

@[simp] theorem unpackImm_packImm (op : BitVec 8) (f : ImmF) : unpackImm (packImm op f) = f := by
  simp [unpackImm, packImm_fn, packImm_ty, packImm_a, packImm_b, packImm_imm]

@[simp] theorem unpackEng_packEng (op : BitVec 8) (f : EngF) : unpackEng (packEng op f) = f := by
  simp [unpackEng, packEng_fn, packEng_ty, packEng_a, packEng_b, packEng_c, packEng_wf, packEng_wn, packEng_sf, packEng_sn,
    packEng_efl]

end Sys2Proof
end

