-- ==== Sys2Proof/Laws/Tab.lean ====
section
/-! SUPPORT. Laws of sparse tables: what a key reads as after a write, and that every operation keeps the canonical
form. -/

namespace Sys2Proof.Machine

variable {α : Type} [DecidableEq α]

/-- A write is read back, and every other key reads as before. -/
theorem tget_tput (d : α) (t : Tab α) (k : Nat) (v : α) (k' : Nat) :
    tget d (tput d t k v) k' = if k' = k then v else tget d t k' := by
  induction t with
  | nil => by_cases h : v = d <;> simp [tput, tget, h]
  | cons x t ih =>
    obtain ⟨j, w⟩ := x
    simp only [tput]
    split
    · subst_vars
      split
      · simp only [ih, tget]; split <;> simp_all
      · simp only [tget]; split <;> simp_all
    · split
      · simp only [tget]
      · simp only [tget, ih]
        split
        · subst_vars; simp [Ne.symm ‹_›]
        · rfl

@[simp] theorem tget_tput_self (d : α) (t : Tab α) (k : Nat) (v : α) : tget d (tput d t k v) k = v := by
  simp [tget_tput]

theorem tget_tput_other (d : α) (t : Tab α) {k k' : Nat} (v : α) (h : k' ≠ k) :
    tget d (tput d t k v) k' = tget d t k' := by
  simp [tget_tput, h]

/-- A weaker lower bound keeps the canonical form. -/
theorem tabWfFrom_lower (d : α) (t : Tab α) {a b : Nat} (h : a ≤ b) (hw : tabWfFrom d (some b) t = true) :
    tabWfFrom d (some a) t = true := by
  cases t with
  | nil => rfl
  | cons x t => simp_all [tabWfFrom]; omega

/-- No lower bound at all keeps it. -/
theorem tabWfFrom_none (d : α) (t : Tab α) {b : Nat} (hw : tabWfFrom d (some b) t = true) :
    tabWfFrom d none t = true := by
  cases t with
  | nil => rfl
  | cons x t => simp_all [tabWfFrom]

/-- A write above the lower bound keeps the canonical form. -/
theorem tabWfFrom_tput (d : α) (t : Tab α) (lo : Option Nat) (k : Nat) (v : α) (hk : ∀ l, lo = some l → l < k)
    (hw : tabWfFrom d lo t = true) : tabWfFrom d lo (tput d t k v) = true := by
  induction t generalizing lo with
  | nil => cases lo <;> by_cases h : v = d <;> simp_all [tput, tabWfFrom]
  | cons x t ih =>
    obtain ⟨j, w⟩ := x
    simp only [tabWfFrom, Bool.and_eq_true] at hw
    obtain ⟨⟨hlo, hne⟩, ht⟩ := hw
    simp only [tput]
    split
    · rename_i hkj
      subst hkj
      split
      · refine ih lo hk ?_
        cases lo with
        | none => exact tabWfFrom_none d t ht
        | some l => exact tabWfFrom_lower d t (Nat.le_of_lt (hk l rfl)) ht
      · simp_all [tabWfFrom]
    · rename_i hkj
      split
      · rename_i hc
        simp only [tabWfFrom, Bool.and_eq_true, decide_eq_true_eq]
        refine ⟨⟨?_, hc.2⟩, ⟨hc.1, by simpa using hne⟩, ht⟩
        cases lo with
        | none => rfl
        | some l => simpa using hk l rfl
      · rename_i hc
        simp only [tabWfFrom, Bool.and_eq_true]
        refine ⟨⟨hlo, hne⟩, ?_⟩
        by_cases hv : v = d
        · clear ih
          subst hv
          have key : ∀ (l : Nat) (t : Tab α), tabWfFrom v (some l) t = true → tabWfFrom v (some l) (tput v t k v) = true := by
            intro l t
            induction t generalizing l with
            | nil => intro _; simp [tput, tabWfFrom]
            | cons y t ih =>
              obtain ⟨i, u⟩ := y
              intro h
              simp only [tabWfFrom, Bool.and_eq_true] at h
              simp only [tput]
              split
              · simp only [if_true]
                have := h.1.1
                simp only [decide_eq_true_eq] at this
                exact ih l (tabWfFrom_lower v t (Nat.le_of_lt this) h.2)
              · simp only [ne_eq, not_true_eq_false, and_false, if_false, tabWfFrom, Bool.and_eq_true]
                exact ⟨h.1, ih i h.2⟩
          exact key j t ht
        · refine ih (some j) ?_ ht
          intro l hl
          cases hl
          have : ¬ k < j := fun hlt => hc ⟨hlt, hv⟩
          omega

/-- A write keeps the canonical form. -/
theorem tabWf_tput (d : α) (t : Tab α) (k : Nat) (v : α) (h : tabWf d t = true) : tabWf d (tput d t k v) = true :=
  tabWfFrom_tput d t none k v (by simp) h

/-- Removing entries keeps the canonical form. -/
theorem tabWfFrom_filter (d : α) (p : Nat × α → Bool) (t : Tab α) (lo : Option Nat) (h : tabWfFrom d lo t = true) :
    tabWfFrom d lo (t.filter p) = true := by
  induction t generalizing lo with
  | nil => simp [tabWfFrom]
  | cons x t ih =>
    obtain ⟨j, w⟩ := x
    simp only [tabWfFrom, Bool.and_eq_true] at h
    obtain ⟨⟨hlo, hne⟩, ht⟩ := h
    by_cases hp : p (j, w)
    · simp only [List.filter_cons, hp, if_true, tabWfFrom, Bool.and_eq_true]
      exact ⟨⟨hlo, hne⟩, ih _ ht⟩
    · simp only [List.filter_cons, hp]
      refine ih lo ?_
      cases lo with
      | none => exact tabWfFrom_none d t ht
      | some l => exact tabWfFrom_lower d t (Nat.le_of_lt (by simpa using hlo)) ht

/-- Clearing a range keeps the canonical form. -/
theorem tabWf_tclear (d : α) (t : Tab α) (lo n : Nat) (h : tabWf d t = true) : tabWf d (tclear t lo n) = true :=
  tabWfFrom_filter d _ t none h

/-- Writing a list of values keeps the canonical form. -/
theorem tabWf_tputs (d : α) (vs : List α) (t : Tab α) (k : Nat) (h : tabWf d t = true) :
    tabWf d (tputs d t k vs) = true := by
  induction vs generalizing t k with
  | nil => exact h
  | cons v vs ih => exact ih _ _ (tabWf_tput d t k v h)

/-- What a key reads as after a list of values has been written. -/
theorem tget_tputs (d : α) (vs : List α) (t : Tab α) (k k' : Nat) :
    tget d (tputs d t k vs) k' = if k ≤ k' ∧ k' < k + vs.length then (vs[k' - k]?).getD d else tget d t k' := by
  induction vs generalizing t k with
  | nil => simp [tputs]
  | cons v vs ih =>
    simp only [tputs, ih, List.length_cons, tget_tput]
    by_cases h : k' = k
    · subst h; simp
    · by_cases h2 : k + 1 ≤ k' ∧ k' < k + 1 + vs.length
      · have h3 : k ≤ k' ∧ k' < k + (vs.length + 1) := by omega
        have h4 : k' - k = (k' - (k + 1)) + 1 := by omega
        simp [h2, h3, h4]
      · have h3 : ¬ (k ≤ k' ∧ k' < k + (vs.length + 1)) := by omega
        rw [if_neg h2, if_neg h3, if_neg h]

end Sys2Proof.Machine
end

