-- ==== Sys2Proof/Laws/State.lean ====
section
/-! SUPPORT. Laws of the state's updates: each changes its own table and no other field, what it writes is read back,
and every other unit reads as before. -/

namespace Sys2Proof.Machine

/-! `State.setCore`. -/

@[simp] theorem State.setCore_focus (s : State) (g : Nat) (c : Core) : (s.setCore g c).focus = s.focus := rfl
@[simp] theorem State.setCore_agenda (s : State) (g : Nat) (c : Core) : (s.setCore g c).agenda = s.agenda := rfl
@[simp] theorem State.setCore_clock (s : State) (g : Nat) (c : Core) : (s.setCore g c).clock = s.clock := rfl
@[simp] theorem State.setCore_fresh (s : State) (g : Nat) (c : Core) : (s.setCore g c).fresh = s.fresh := rfl
@[simp] theorem State.setCore_sectors (s : State) (g : Nat) (c : Core) : (s.setCore g c).sectors = s.sectors := rfl
@[simp] theorem State.setCore_dies (s : State) (g : Nat) (c : Core) : (s.setCore g c).dies = s.dies := rfl
@[simp] theorem State.setCore_parts (s : State) (g : Nat) (c : Core) : (s.setCore g c).parts = s.parts := rfl
@[simp] theorem State.setCore_hbm (s : State) (g : Nat) (c : Core) : (s.setCore g c).hbm = s.hbm := rfl
@[simp] theorem State.setCore_hbmMeta (s : State) (g : Nat) (c : Core) : (s.setCore g c).hbmMeta = s.hbmMeta := rfl
@[simp] theorem State.setCore_l2 (s : State) (g : Nat) (c : Core) : (s.setCore g c).l2 = s.l2 := rfl
@[simp] theorem State.setCore_l2sets (s : State) (g : Nat) (c : Core) : (s.setCore g c).l2sets = s.l2sets := rfl
@[simp] theorem State.setCore_keys (s : State) (g : Nat) (c : Core) : (s.setCore g c).keys = s.keys := rfl
@[simp] theorem State.setCore_xfer (s : State) (g : Nat) (c : Core) : (s.setCore g c).xfer = s.xfer := rfl
@[simp] theorem State.setCore_sending (s : State) (g : Nat) (c : Core) : (s.setCore g c).sending = s.sending := rfl
@[simp] theorem State.setCore_lastPart (s : State) (g : Nat) (c : Core) : (s.setCore g c).lastPart = s.lastPart := rfl
@[simp] theorem State.setCore_endpoints (s : State) (g : Nat) (c : Core) : (s.setCore g c).endpoints = s.endpoints := rfl
@[simp] theorem State.setCore_ctlIn (s : State) (g : Nat) (c : Core) : (s.setCore g c).ctlIn = s.ctlIn := rfl
@[simp] theorem State.setCore_ctlOut (s : State) (g : Nat) (c : Core) : (s.setCore g c).ctlOut = s.ctlOut := rfl
@[simp] theorem State.setCore_log (s : State) (g : Nat) (c : Core) : (s.setCore g c).log = s.log := rfl
@[simp] theorem State.setCore_outbox (s : State) (g : Nat) (c : Core) : (s.setCore g c).outbox = s.outbox := rfl
@[simp] theorem State.setCore_sent (s : State) (g : Nat) (c : Core) : (s.setCore g c).sent = s.sent := rfl
@[simp] theorem State.setCore_spdm (s : State) (g : Nat) (c : Core) : (s.setCore g c).spdm = s.spdm := rfl
@[simp] theorem State.setCore_board (s : State) (g : Nat) (c : Core) : (s.setCore g c).board = s.board := rfl
@[simp] theorem State.setCore_holdover (s : State) (g : Nat) (c : Core) : (s.setCore g c).holdover = s.holdover := rfl
@[simp] theorem State.setCore_reduced (s : State) (g : Nat) (c : Core) : (s.setCore g c).reduced = s.reduced := rfl
@[simp] theorem State.setCore_warm (s : State) (g : Nat) (c : Core) : (s.setCore g c).warm = s.warm := rfl
@[simp] theorem State.setCore_warmQueue (s : State) (g : Nat) (c : Core) : (s.setCore g c).warmQueue = s.warmQueue := rfl
@[simp] theorem State.setCore_warmParts (s : State) (g : Nat) (c : Core) : (s.setCore g c).warmParts = s.warmParts := rfl
@[simp] theorem State.setCore_edges (s : State) (g : Nat) (c : Core) : (s.setCore g c).edges = s.edges := rfl
@[simp] theorem State.setCore_ports (s : State) (g : Nat) (c : Core) : (s.setCore g c).ports = s.ports := rfl
@[simp] theorem State.setCore_shots (s : State) (g : Nat) (c : Core) : (s.setCore g c).shots = s.shots := rfl

/-! `State.modCore`. -/

@[simp] theorem State.modCore_focus (s : State) (g : Nat) (f : Core → Core) : (s.modCore g f).focus = s.focus := rfl
@[simp] theorem State.modCore_agenda (s : State) (g : Nat) (f : Core → Core) : (s.modCore g f).agenda = s.agenda := rfl
@[simp] theorem State.modCore_clock (s : State) (g : Nat) (f : Core → Core) : (s.modCore g f).clock = s.clock := rfl
@[simp] theorem State.modCore_fresh (s : State) (g : Nat) (f : Core → Core) : (s.modCore g f).fresh = s.fresh := rfl
@[simp] theorem State.modCore_sectors (s : State) (g : Nat) (f : Core → Core) : (s.modCore g f).sectors = s.sectors := rfl
@[simp] theorem State.modCore_dies (s : State) (g : Nat) (f : Core → Core) : (s.modCore g f).dies = s.dies := rfl
@[simp] theorem State.modCore_parts (s : State) (g : Nat) (f : Core → Core) : (s.modCore g f).parts = s.parts := rfl
@[simp] theorem State.modCore_hbm (s : State) (g : Nat) (f : Core → Core) : (s.modCore g f).hbm = s.hbm := rfl
@[simp] theorem State.modCore_hbmMeta (s : State) (g : Nat) (f : Core → Core) : (s.modCore g f).hbmMeta = s.hbmMeta := rfl
@[simp] theorem State.modCore_l2 (s : State) (g : Nat) (f : Core → Core) : (s.modCore g f).l2 = s.l2 := rfl
@[simp] theorem State.modCore_l2sets (s : State) (g : Nat) (f : Core → Core) : (s.modCore g f).l2sets = s.l2sets := rfl
@[simp] theorem State.modCore_keys (s : State) (g : Nat) (f : Core → Core) : (s.modCore g f).keys = s.keys := rfl
@[simp] theorem State.modCore_xfer (s : State) (g : Nat) (f : Core → Core) : (s.modCore g f).xfer = s.xfer := rfl
@[simp] theorem State.modCore_sending (s : State) (g : Nat) (f : Core → Core) : (s.modCore g f).sending = s.sending := rfl
@[simp] theorem State.modCore_lastPart (s : State) (g : Nat) (f : Core → Core) : (s.modCore g f).lastPart = s.lastPart := rfl
@[simp] theorem State.modCore_endpoints (s : State) (g : Nat) (f : Core → Core) : (s.modCore g f).endpoints = s.endpoints := rfl
@[simp] theorem State.modCore_ctlIn (s : State) (g : Nat) (f : Core → Core) : (s.modCore g f).ctlIn = s.ctlIn := rfl
@[simp] theorem State.modCore_ctlOut (s : State) (g : Nat) (f : Core → Core) : (s.modCore g f).ctlOut = s.ctlOut := rfl
@[simp] theorem State.modCore_log (s : State) (g : Nat) (f : Core → Core) : (s.modCore g f).log = s.log := rfl
@[simp] theorem State.modCore_outbox (s : State) (g : Nat) (f : Core → Core) : (s.modCore g f).outbox = s.outbox := rfl
@[simp] theorem State.modCore_sent (s : State) (g : Nat) (f : Core → Core) : (s.modCore g f).sent = s.sent := rfl
@[simp] theorem State.modCore_spdm (s : State) (g : Nat) (f : Core → Core) : (s.modCore g f).spdm = s.spdm := rfl
@[simp] theorem State.modCore_board (s : State) (g : Nat) (f : Core → Core) : (s.modCore g f).board = s.board := rfl
@[simp] theorem State.modCore_holdover (s : State) (g : Nat) (f : Core → Core) : (s.modCore g f).holdover = s.holdover := rfl
@[simp] theorem State.modCore_reduced (s : State) (g : Nat) (f : Core → Core) : (s.modCore g f).reduced = s.reduced := rfl
@[simp] theorem State.modCore_warm (s : State) (g : Nat) (f : Core → Core) : (s.modCore g f).warm = s.warm := rfl
@[simp] theorem State.modCore_warmQueue (s : State) (g : Nat) (f : Core → Core) : (s.modCore g f).warmQueue = s.warmQueue := rfl
@[simp] theorem State.modCore_warmParts (s : State) (g : Nat) (f : Core → Core) : (s.modCore g f).warmParts = s.warmParts := rfl
@[simp] theorem State.modCore_edges (s : State) (g : Nat) (f : Core → Core) : (s.modCore g f).edges = s.edges := rfl
@[simp] theorem State.modCore_ports (s : State) (g : Nat) (f : Core → Core) : (s.modCore g f).ports = s.ports := rfl
@[simp] theorem State.modCore_shots (s : State) (g : Nat) (f : Core → Core) : (s.modCore g f).shots = s.shots := rfl

/-! `State.setDie`. -/

@[simp] theorem State.setDie_focus (s : State) (d : Nat) (x : Die) : (s.setDie d x).focus = s.focus := rfl
@[simp] theorem State.setDie_agenda (s : State) (d : Nat) (x : Die) : (s.setDie d x).agenda = s.agenda := rfl
@[simp] theorem State.setDie_clock (s : State) (d : Nat) (x : Die) : (s.setDie d x).clock = s.clock := rfl
@[simp] theorem State.setDie_fresh (s : State) (d : Nat) (x : Die) : (s.setDie d x).fresh = s.fresh := rfl
@[simp] theorem State.setDie_cores (s : State) (d : Nat) (x : Die) : (s.setDie d x).cores = s.cores := rfl
@[simp] theorem State.setDie_sectors (s : State) (d : Nat) (x : Die) : (s.setDie d x).sectors = s.sectors := rfl
@[simp] theorem State.setDie_parts (s : State) (d : Nat) (x : Die) : (s.setDie d x).parts = s.parts := rfl
@[simp] theorem State.setDie_hbm (s : State) (d : Nat) (x : Die) : (s.setDie d x).hbm = s.hbm := rfl
@[simp] theorem State.setDie_hbmMeta (s : State) (d : Nat) (x : Die) : (s.setDie d x).hbmMeta = s.hbmMeta := rfl
@[simp] theorem State.setDie_l2 (s : State) (d : Nat) (x : Die) : (s.setDie d x).l2 = s.l2 := rfl
@[simp] theorem State.setDie_l2sets (s : State) (d : Nat) (x : Die) : (s.setDie d x).l2sets = s.l2sets := rfl
@[simp] theorem State.setDie_keys (s : State) (d : Nat) (x : Die) : (s.setDie d x).keys = s.keys := rfl
@[simp] theorem State.setDie_xfer (s : State) (d : Nat) (x : Die) : (s.setDie d x).xfer = s.xfer := rfl
@[simp] theorem State.setDie_sending (s : State) (d : Nat) (x : Die) : (s.setDie d x).sending = s.sending := rfl
@[simp] theorem State.setDie_lastPart (s : State) (d : Nat) (x : Die) : (s.setDie d x).lastPart = s.lastPart := rfl
@[simp] theorem State.setDie_endpoints (s : State) (d : Nat) (x : Die) : (s.setDie d x).endpoints = s.endpoints := rfl
@[simp] theorem State.setDie_ctlIn (s : State) (d : Nat) (x : Die) : (s.setDie d x).ctlIn = s.ctlIn := rfl
@[simp] theorem State.setDie_ctlOut (s : State) (d : Nat) (x : Die) : (s.setDie d x).ctlOut = s.ctlOut := rfl
@[simp] theorem State.setDie_log (s : State) (d : Nat) (x : Die) : (s.setDie d x).log = s.log := rfl
@[simp] theorem State.setDie_outbox (s : State) (d : Nat) (x : Die) : (s.setDie d x).outbox = s.outbox := rfl
@[simp] theorem State.setDie_sent (s : State) (d : Nat) (x : Die) : (s.setDie d x).sent = s.sent := rfl
@[simp] theorem State.setDie_spdm (s : State) (d : Nat) (x : Die) : (s.setDie d x).spdm = s.spdm := rfl
@[simp] theorem State.setDie_board (s : State) (d : Nat) (x : Die) : (s.setDie d x).board = s.board := rfl
@[simp] theorem State.setDie_holdover (s : State) (d : Nat) (x : Die) : (s.setDie d x).holdover = s.holdover := rfl
@[simp] theorem State.setDie_reduced (s : State) (d : Nat) (x : Die) : (s.setDie d x).reduced = s.reduced := rfl
@[simp] theorem State.setDie_warm (s : State) (d : Nat) (x : Die) : (s.setDie d x).warm = s.warm := rfl
@[simp] theorem State.setDie_warmQueue (s : State) (d : Nat) (x : Die) : (s.setDie d x).warmQueue = s.warmQueue := rfl
@[simp] theorem State.setDie_warmParts (s : State) (d : Nat) (x : Die) : (s.setDie d x).warmParts = s.warmParts := rfl
@[simp] theorem State.setDie_edges (s : State) (d : Nat) (x : Die) : (s.setDie d x).edges = s.edges := rfl
@[simp] theorem State.setDie_ports (s : State) (d : Nat) (x : Die) : (s.setDie d x).ports = s.ports := rfl
@[simp] theorem State.setDie_shots (s : State) (d : Nat) (x : Die) : (s.setDie d x).shots = s.shots := rfl

/-! `State.modDie`. -/

@[simp] theorem State.modDie_focus (s : State) (d : Nat) (f : Die → Die) : (s.modDie d f).focus = s.focus := rfl
@[simp] theorem State.modDie_agenda (s : State) (d : Nat) (f : Die → Die) : (s.modDie d f).agenda = s.agenda := rfl
@[simp] theorem State.modDie_clock (s : State) (d : Nat) (f : Die → Die) : (s.modDie d f).clock = s.clock := rfl
@[simp] theorem State.modDie_fresh (s : State) (d : Nat) (f : Die → Die) : (s.modDie d f).fresh = s.fresh := rfl
@[simp] theorem State.modDie_cores (s : State) (d : Nat) (f : Die → Die) : (s.modDie d f).cores = s.cores := rfl
@[simp] theorem State.modDie_sectors (s : State) (d : Nat) (f : Die → Die) : (s.modDie d f).sectors = s.sectors := rfl
@[simp] theorem State.modDie_parts (s : State) (d : Nat) (f : Die → Die) : (s.modDie d f).parts = s.parts := rfl
@[simp] theorem State.modDie_hbm (s : State) (d : Nat) (f : Die → Die) : (s.modDie d f).hbm = s.hbm := rfl
@[simp] theorem State.modDie_hbmMeta (s : State) (d : Nat) (f : Die → Die) : (s.modDie d f).hbmMeta = s.hbmMeta := rfl
@[simp] theorem State.modDie_l2 (s : State) (d : Nat) (f : Die → Die) : (s.modDie d f).l2 = s.l2 := rfl
@[simp] theorem State.modDie_l2sets (s : State) (d : Nat) (f : Die → Die) : (s.modDie d f).l2sets = s.l2sets := rfl
@[simp] theorem State.modDie_keys (s : State) (d : Nat) (f : Die → Die) : (s.modDie d f).keys = s.keys := rfl
@[simp] theorem State.modDie_xfer (s : State) (d : Nat) (f : Die → Die) : (s.modDie d f).xfer = s.xfer := rfl
@[simp] theorem State.modDie_sending (s : State) (d : Nat) (f : Die → Die) : (s.modDie d f).sending = s.sending := rfl
@[simp] theorem State.modDie_lastPart (s : State) (d : Nat) (f : Die → Die) : (s.modDie d f).lastPart = s.lastPart := rfl
@[simp] theorem State.modDie_endpoints (s : State) (d : Nat) (f : Die → Die) : (s.modDie d f).endpoints = s.endpoints := rfl
@[simp] theorem State.modDie_ctlIn (s : State) (d : Nat) (f : Die → Die) : (s.modDie d f).ctlIn = s.ctlIn := rfl
@[simp] theorem State.modDie_ctlOut (s : State) (d : Nat) (f : Die → Die) : (s.modDie d f).ctlOut = s.ctlOut := rfl
@[simp] theorem State.modDie_log (s : State) (d : Nat) (f : Die → Die) : (s.modDie d f).log = s.log := rfl
@[simp] theorem State.modDie_outbox (s : State) (d : Nat) (f : Die → Die) : (s.modDie d f).outbox = s.outbox := rfl
@[simp] theorem State.modDie_sent (s : State) (d : Nat) (f : Die → Die) : (s.modDie d f).sent = s.sent := rfl
@[simp] theorem State.modDie_spdm (s : State) (d : Nat) (f : Die → Die) : (s.modDie d f).spdm = s.spdm := rfl
@[simp] theorem State.modDie_board (s : State) (d : Nat) (f : Die → Die) : (s.modDie d f).board = s.board := rfl
@[simp] theorem State.modDie_holdover (s : State) (d : Nat) (f : Die → Die) : (s.modDie d f).holdover = s.holdover := rfl
@[simp] theorem State.modDie_reduced (s : State) (d : Nat) (f : Die → Die) : (s.modDie d f).reduced = s.reduced := rfl
@[simp] theorem State.modDie_warm (s : State) (d : Nat) (f : Die → Die) : (s.modDie d f).warm = s.warm := rfl
@[simp] theorem State.modDie_warmQueue (s : State) (d : Nat) (f : Die → Die) : (s.modDie d f).warmQueue = s.warmQueue := rfl
@[simp] theorem State.modDie_warmParts (s : State) (d : Nat) (f : Die → Die) : (s.modDie d f).warmParts = s.warmParts := rfl
@[simp] theorem State.modDie_edges (s : State) (d : Nat) (f : Die → Die) : (s.modDie d f).edges = s.edges := rfl
@[simp] theorem State.modDie_ports (s : State) (d : Nat) (f : Die → Die) : (s.modDie d f).ports = s.ports := rfl
@[simp] theorem State.modDie_shots (s : State) (d : Nat) (f : Die → Die) : (s.modDie d f).shots = s.shots := rfl

/-! `State.setPart`. -/

@[simp] theorem State.setPart_focus (s : State) (p : Nat) (x : Part) : (s.setPart p x).focus = s.focus := rfl
@[simp] theorem State.setPart_agenda (s : State) (p : Nat) (x : Part) : (s.setPart p x).agenda = s.agenda := rfl
@[simp] theorem State.setPart_clock (s : State) (p : Nat) (x : Part) : (s.setPart p x).clock = s.clock := rfl
@[simp] theorem State.setPart_fresh (s : State) (p : Nat) (x : Part) : (s.setPart p x).fresh = s.fresh := rfl
@[simp] theorem State.setPart_cores (s : State) (p : Nat) (x : Part) : (s.setPart p x).cores = s.cores := rfl
@[simp] theorem State.setPart_sectors (s : State) (p : Nat) (x : Part) : (s.setPart p x).sectors = s.sectors := rfl
@[simp] theorem State.setPart_dies (s : State) (p : Nat) (x : Part) : (s.setPart p x).dies = s.dies := rfl
@[simp] theorem State.setPart_hbm (s : State) (p : Nat) (x : Part) : (s.setPart p x).hbm = s.hbm := rfl
@[simp] theorem State.setPart_hbmMeta (s : State) (p : Nat) (x : Part) : (s.setPart p x).hbmMeta = s.hbmMeta := rfl
@[simp] theorem State.setPart_l2 (s : State) (p : Nat) (x : Part) : (s.setPart p x).l2 = s.l2 := rfl
@[simp] theorem State.setPart_l2sets (s : State) (p : Nat) (x : Part) : (s.setPart p x).l2sets = s.l2sets := rfl
@[simp] theorem State.setPart_keys (s : State) (p : Nat) (x : Part) : (s.setPart p x).keys = s.keys := rfl
@[simp] theorem State.setPart_xfer (s : State) (p : Nat) (x : Part) : (s.setPart p x).xfer = s.xfer := rfl
@[simp] theorem State.setPart_sending (s : State) (p : Nat) (x : Part) : (s.setPart p x).sending = s.sending := rfl
@[simp] theorem State.setPart_lastPart (s : State) (p : Nat) (x : Part) : (s.setPart p x).lastPart = s.lastPart := rfl
@[simp] theorem State.setPart_endpoints (s : State) (p : Nat) (x : Part) : (s.setPart p x).endpoints = s.endpoints := rfl
@[simp] theorem State.setPart_ctlIn (s : State) (p : Nat) (x : Part) : (s.setPart p x).ctlIn = s.ctlIn := rfl
@[simp] theorem State.setPart_ctlOut (s : State) (p : Nat) (x : Part) : (s.setPart p x).ctlOut = s.ctlOut := rfl
@[simp] theorem State.setPart_log (s : State) (p : Nat) (x : Part) : (s.setPart p x).log = s.log := rfl
@[simp] theorem State.setPart_outbox (s : State) (p : Nat) (x : Part) : (s.setPart p x).outbox = s.outbox := rfl
@[simp] theorem State.setPart_sent (s : State) (p : Nat) (x : Part) : (s.setPart p x).sent = s.sent := rfl
@[simp] theorem State.setPart_spdm (s : State) (p : Nat) (x : Part) : (s.setPart p x).spdm = s.spdm := rfl
@[simp] theorem State.setPart_board (s : State) (p : Nat) (x : Part) : (s.setPart p x).board = s.board := rfl
@[simp] theorem State.setPart_holdover (s : State) (p : Nat) (x : Part) : (s.setPart p x).holdover = s.holdover := rfl
@[simp] theorem State.setPart_reduced (s : State) (p : Nat) (x : Part) : (s.setPart p x).reduced = s.reduced := rfl
@[simp] theorem State.setPart_warm (s : State) (p : Nat) (x : Part) : (s.setPart p x).warm = s.warm := rfl
@[simp] theorem State.setPart_warmQueue (s : State) (p : Nat) (x : Part) : (s.setPart p x).warmQueue = s.warmQueue := rfl
@[simp] theorem State.setPart_warmParts (s : State) (p : Nat) (x : Part) : (s.setPart p x).warmParts = s.warmParts := rfl
@[simp] theorem State.setPart_edges (s : State) (p : Nat) (x : Part) : (s.setPart p x).edges = s.edges := rfl
@[simp] theorem State.setPart_ports (s : State) (p : Nat) (x : Part) : (s.setPart p x).ports = s.ports := rfl
@[simp] theorem State.setPart_shots (s : State) (p : Nat) (x : Part) : (s.setPart p x).shots = s.shots := rfl

/-! `State.modPart`. -/

@[simp] theorem State.modPart_focus (s : State) (p : Nat) (f : Part → Part) : (s.modPart p f).focus = s.focus := rfl
@[simp] theorem State.modPart_agenda (s : State) (p : Nat) (f : Part → Part) : (s.modPart p f).agenda = s.agenda := rfl
@[simp] theorem State.modPart_clock (s : State) (p : Nat) (f : Part → Part) : (s.modPart p f).clock = s.clock := rfl
@[simp] theorem State.modPart_fresh (s : State) (p : Nat) (f : Part → Part) : (s.modPart p f).fresh = s.fresh := rfl
@[simp] theorem State.modPart_cores (s : State) (p : Nat) (f : Part → Part) : (s.modPart p f).cores = s.cores := rfl
@[simp] theorem State.modPart_sectors (s : State) (p : Nat) (f : Part → Part) : (s.modPart p f).sectors = s.sectors := rfl
@[simp] theorem State.modPart_dies (s : State) (p : Nat) (f : Part → Part) : (s.modPart p f).dies = s.dies := rfl
@[simp] theorem State.modPart_hbm (s : State) (p : Nat) (f : Part → Part) : (s.modPart p f).hbm = s.hbm := rfl
@[simp] theorem State.modPart_hbmMeta (s : State) (p : Nat) (f : Part → Part) : (s.modPart p f).hbmMeta = s.hbmMeta := rfl
@[simp] theorem State.modPart_l2 (s : State) (p : Nat) (f : Part → Part) : (s.modPart p f).l2 = s.l2 := rfl
@[simp] theorem State.modPart_l2sets (s : State) (p : Nat) (f : Part → Part) : (s.modPart p f).l2sets = s.l2sets := rfl
@[simp] theorem State.modPart_keys (s : State) (p : Nat) (f : Part → Part) : (s.modPart p f).keys = s.keys := rfl
@[simp] theorem State.modPart_xfer (s : State) (p : Nat) (f : Part → Part) : (s.modPart p f).xfer = s.xfer := rfl
@[simp] theorem State.modPart_sending (s : State) (p : Nat) (f : Part → Part) : (s.modPart p f).sending = s.sending := rfl
@[simp] theorem State.modPart_lastPart (s : State) (p : Nat) (f : Part → Part) : (s.modPart p f).lastPart = s.lastPart := rfl
@[simp] theorem State.modPart_endpoints (s : State) (p : Nat) (f : Part → Part) : (s.modPart p f).endpoints = s.endpoints := rfl
@[simp] theorem State.modPart_ctlIn (s : State) (p : Nat) (f : Part → Part) : (s.modPart p f).ctlIn = s.ctlIn := rfl
@[simp] theorem State.modPart_ctlOut (s : State) (p : Nat) (f : Part → Part) : (s.modPart p f).ctlOut = s.ctlOut := rfl
@[simp] theorem State.modPart_log (s : State) (p : Nat) (f : Part → Part) : (s.modPart p f).log = s.log := rfl
@[simp] theorem State.modPart_outbox (s : State) (p : Nat) (f : Part → Part) : (s.modPart p f).outbox = s.outbox := rfl
@[simp] theorem State.modPart_sent (s : State) (p : Nat) (f : Part → Part) : (s.modPart p f).sent = s.sent := rfl
@[simp] theorem State.modPart_spdm (s : State) (p : Nat) (f : Part → Part) : (s.modPart p f).spdm = s.spdm := rfl
@[simp] theorem State.modPart_board (s : State) (p : Nat) (f : Part → Part) : (s.modPart p f).board = s.board := rfl
@[simp] theorem State.modPart_holdover (s : State) (p : Nat) (f : Part → Part) : (s.modPart p f).holdover = s.holdover := rfl
@[simp] theorem State.modPart_reduced (s : State) (p : Nat) (f : Part → Part) : (s.modPart p f).reduced = s.reduced := rfl
@[simp] theorem State.modPart_warm (s : State) (p : Nat) (f : Part → Part) : (s.modPart p f).warm = s.warm := rfl
@[simp] theorem State.modPart_warmQueue (s : State) (p : Nat) (f : Part → Part) : (s.modPart p f).warmQueue = s.warmQueue := rfl
@[simp] theorem State.modPart_warmParts (s : State) (p : Nat) (f : Part → Part) : (s.modPart p f).warmParts = s.warmParts := rfl
@[simp] theorem State.modPart_edges (s : State) (p : Nat) (f : Part → Part) : (s.modPart p f).edges = s.edges := rfl
@[simp] theorem State.modPart_ports (s : State) (p : Nat) (f : Part → Part) : (s.modPart p f).ports = s.ports := rfl
@[simp] theorem State.modPart_shots (s : State) (p : Nat) (f : Part → Part) : (s.modPart p f).shots = s.shots := rfl

/-! `State.setSector`. -/

@[simp] theorem State.setSector_focus (s : State) (g : Nat) (x : Sector) : (s.setSector g x).focus = s.focus := rfl
@[simp] theorem State.setSector_agenda (s : State) (g : Nat) (x : Sector) : (s.setSector g x).agenda = s.agenda := rfl
@[simp] theorem State.setSector_clock (s : State) (g : Nat) (x : Sector) : (s.setSector g x).clock = s.clock := rfl
@[simp] theorem State.setSector_fresh (s : State) (g : Nat) (x : Sector) : (s.setSector g x).fresh = s.fresh := rfl
@[simp] theorem State.setSector_cores (s : State) (g : Nat) (x : Sector) : (s.setSector g x).cores = s.cores := rfl
@[simp] theorem State.setSector_dies (s : State) (g : Nat) (x : Sector) : (s.setSector g x).dies = s.dies := rfl
@[simp] theorem State.setSector_parts (s : State) (g : Nat) (x : Sector) : (s.setSector g x).parts = s.parts := rfl
@[simp] theorem State.setSector_hbm (s : State) (g : Nat) (x : Sector) : (s.setSector g x).hbm = s.hbm := rfl
@[simp] theorem State.setSector_hbmMeta (s : State) (g : Nat) (x : Sector) : (s.setSector g x).hbmMeta = s.hbmMeta := rfl
@[simp] theorem State.setSector_l2 (s : State) (g : Nat) (x : Sector) : (s.setSector g x).l2 = s.l2 := rfl
@[simp] theorem State.setSector_l2sets (s : State) (g : Nat) (x : Sector) : (s.setSector g x).l2sets = s.l2sets := rfl
@[simp] theorem State.setSector_keys (s : State) (g : Nat) (x : Sector) : (s.setSector g x).keys = s.keys := rfl
@[simp] theorem State.setSector_xfer (s : State) (g : Nat) (x : Sector) : (s.setSector g x).xfer = s.xfer := rfl
@[simp] theorem State.setSector_sending (s : State) (g : Nat) (x : Sector) : (s.setSector g x).sending = s.sending := rfl
@[simp] theorem State.setSector_lastPart (s : State) (g : Nat) (x : Sector) : (s.setSector g x).lastPart = s.lastPart := rfl
@[simp] theorem State.setSector_endpoints (s : State) (g : Nat) (x : Sector) : (s.setSector g x).endpoints = s.endpoints := rfl
@[simp] theorem State.setSector_ctlIn (s : State) (g : Nat) (x : Sector) : (s.setSector g x).ctlIn = s.ctlIn := rfl
@[simp] theorem State.setSector_ctlOut (s : State) (g : Nat) (x : Sector) : (s.setSector g x).ctlOut = s.ctlOut := rfl
@[simp] theorem State.setSector_log (s : State) (g : Nat) (x : Sector) : (s.setSector g x).log = s.log := rfl
@[simp] theorem State.setSector_outbox (s : State) (g : Nat) (x : Sector) : (s.setSector g x).outbox = s.outbox := rfl
@[simp] theorem State.setSector_sent (s : State) (g : Nat) (x : Sector) : (s.setSector g x).sent = s.sent := rfl
@[simp] theorem State.setSector_spdm (s : State) (g : Nat) (x : Sector) : (s.setSector g x).spdm = s.spdm := rfl
@[simp] theorem State.setSector_board (s : State) (g : Nat) (x : Sector) : (s.setSector g x).board = s.board := rfl
@[simp] theorem State.setSector_holdover (s : State) (g : Nat) (x : Sector) : (s.setSector g x).holdover = s.holdover := rfl
@[simp] theorem State.setSector_reduced (s : State) (g : Nat) (x : Sector) : (s.setSector g x).reduced = s.reduced := rfl
@[simp] theorem State.setSector_warm (s : State) (g : Nat) (x : Sector) : (s.setSector g x).warm = s.warm := rfl
@[simp] theorem State.setSector_warmQueue (s : State) (g : Nat) (x : Sector) : (s.setSector g x).warmQueue = s.warmQueue := rfl
@[simp] theorem State.setSector_warmParts (s : State) (g : Nat) (x : Sector) : (s.setSector g x).warmParts = s.warmParts := rfl
@[simp] theorem State.setSector_edges (s : State) (g : Nat) (x : Sector) : (s.setSector g x).edges = s.edges := rfl
@[simp] theorem State.setSector_ports (s : State) (g : Nat) (x : Sector) : (s.setSector g x).ports = s.ports := rfl
@[simp] theorem State.setSector_shots (s : State) (g : Nat) (x : Sector) : (s.setSector g x).shots = s.shots := rfl

/-! Reading a unit after an update. -/

theorem State.core_setCore (s : State) (g : Nat) (c : Core) (h : Nat) :
    (s.setCore g c).core h = if h = g then c else s.core h :=
  tget_tput _ _ _ _ _
@[simp] theorem State.core_setCore_self (s : State) (g : Nat) (c : Core) : (s.setCore g c).core g = c :=
  tget_tput_self _ _ _ _
@[simp] theorem State.die_setCore (s : State) (g : Nat) (c : Core) (h : Nat) : (s.setCore g c).die h = s.die h := rfl
@[simp] theorem State.part_setCore (s : State) (g : Nat) (c : Core) (h : Nat) : (s.setCore g c).part h = s.part h := rfl
@[simp] theorem State.sector_setCore (s : State) (g : Nat) (c : Core) (h : Nat) : (s.setCore g c).sector h = s.sector h := rfl

theorem State.core_modCore (s : State) (g : Nat) (f : Core → Core) (h : Nat) :
    (s.modCore g f).core h = if h = g then f (s.core g) else s.core h :=
  tget_tput _ _ _ _ _
@[simp] theorem State.core_modCore_self (s : State) (g : Nat) (f : Core → Core) : (s.modCore g f).core g = f (s.core g) :=
  tget_tput_self _ _ _ _
@[simp] theorem State.die_modCore (s : State) (g : Nat) (f : Core → Core) (h : Nat) : (s.modCore g f).die h = s.die h := rfl
@[simp] theorem State.part_modCore (s : State) (g : Nat) (f : Core → Core) (h : Nat) : (s.modCore g f).part h = s.part h := rfl
@[simp] theorem State.sector_modCore (s : State) (g : Nat) (f : Core → Core) (h : Nat) : (s.modCore g f).sector h = s.sector h := rfl

@[simp] theorem State.core_setDie (s : State) (d : Nat) (x : Die) (h : Nat) : (s.setDie d x).core h = s.core h := rfl
theorem State.die_setDie (s : State) (d : Nat) (x : Die) (h : Nat) :
    (s.setDie d x).die h = if h = d then x else s.die h :=
  tget_tput _ _ _ _ _
@[simp] theorem State.die_setDie_self (s : State) (d : Nat) (x : Die) : (s.setDie d x).die d = x :=
  tget_tput_self _ _ _ _
@[simp] theorem State.part_setDie (s : State) (d : Nat) (x : Die) (h : Nat) : (s.setDie d x).part h = s.part h := rfl
@[simp] theorem State.sector_setDie (s : State) (d : Nat) (x : Die) (h : Nat) : (s.setDie d x).sector h = s.sector h := rfl

@[simp] theorem State.core_modDie (s : State) (d : Nat) (f : Die → Die) (h : Nat) : (s.modDie d f).core h = s.core h := rfl
theorem State.die_modDie (s : State) (d : Nat) (f : Die → Die) (h : Nat) :
    (s.modDie d f).die h = if h = d then f (s.die d) else s.die h :=
  tget_tput _ _ _ _ _
@[simp] theorem State.die_modDie_self (s : State) (d : Nat) (f : Die → Die) : (s.modDie d f).die d = f (s.die d) :=
  tget_tput_self _ _ _ _
@[simp] theorem State.part_modDie (s : State) (d : Nat) (f : Die → Die) (h : Nat) : (s.modDie d f).part h = s.part h := rfl
@[simp] theorem State.sector_modDie (s : State) (d : Nat) (f : Die → Die) (h : Nat) : (s.modDie d f).sector h = s.sector h := rfl

@[simp] theorem State.core_setPart (s : State) (p : Nat) (x : Part) (h : Nat) : (s.setPart p x).core h = s.core h := rfl
@[simp] theorem State.die_setPart (s : State) (p : Nat) (x : Part) (h : Nat) : (s.setPart p x).die h = s.die h := rfl
theorem State.part_setPart (s : State) (p : Nat) (x : Part) (h : Nat) :
    (s.setPart p x).part h = if h = p then x else s.part h :=
  tget_tput _ _ _ _ _
@[simp] theorem State.part_setPart_self (s : State) (p : Nat) (x : Part) : (s.setPart p x).part p = x :=
  tget_tput_self _ _ _ _
@[simp] theorem State.sector_setPart (s : State) (p : Nat) (x : Part) (h : Nat) : (s.setPart p x).sector h = s.sector h := rfl

@[simp] theorem State.core_modPart (s : State) (p : Nat) (f : Part → Part) (h : Nat) : (s.modPart p f).core h = s.core h := rfl
@[simp] theorem State.die_modPart (s : State) (p : Nat) (f : Part → Part) (h : Nat) : (s.modPart p f).die h = s.die h := rfl
theorem State.part_modPart (s : State) (p : Nat) (f : Part → Part) (h : Nat) :
    (s.modPart p f).part h = if h = p then f (s.part p) else s.part h :=
  tget_tput _ _ _ _ _
@[simp] theorem State.part_modPart_self (s : State) (p : Nat) (f : Part → Part) : (s.modPart p f).part p = f (s.part p) :=
  tget_tput_self _ _ _ _
@[simp] theorem State.sector_modPart (s : State) (p : Nat) (f : Part → Part) (h : Nat) : (s.modPart p f).sector h = s.sector h := rfl

@[simp] theorem State.core_setSector (s : State) (g : Nat) (x : Sector) (h : Nat) : (s.setSector g x).core h = s.core h := rfl
@[simp] theorem State.die_setSector (s : State) (g : Nat) (x : Sector) (h : Nat) : (s.setSector g x).die h = s.die h := rfl
@[simp] theorem State.part_setSector (s : State) (g : Nat) (x : Sector) (h : Nat) : (s.setSector g x).part h = s.part h := rfl
theorem State.sector_setSector (s : State) (g : Nat) (x : Sector) (h : Nat) :
    (s.setSector g x).sector h = if h = g then x else s.sector h :=
  tget_tput _ _ _ _ _
@[simp] theorem State.sector_setSector_self (s : State) (g : Nat) (x : Sector) : (s.setSector g x).sector g = x :=
  tget_tput_self _ _ _ _

end Sys2Proof.Machine
end

