-- ==== Sys2Proof/Laws/Memory.lean ====
section
/-! SUPPORT. Laws of memory: what a store to HBM leaves, and that every memory operation keeps HBM in its canonical form.
`Keeps` says it of an operation that answers a state. -/

namespace Sys2Proof.Machine

/-- HBM in canonical form stays so from one state to another. -/
structure Keeps (s t : State) : Prop where
  keep : Memory.wf s.hbm = true → Memory.wf t.hbm = true

theorem Keeps.rfl {s : State} : Keeps s s := ⟨id⟩
theorem Keeps.of_hbm {s t : State} (h : t.hbm = s.hbm) : Keeps s t := ⟨fun w => h ▸ w⟩
theorem Keeps.trans {s t u : State} (h : Keeps s t) (k : Keeps t u) : Keeps s u := ⟨fun w => k.keep (h.keep w)⟩

/-- A loop of steps that keep the form keeps it. -/
theorem Keeps.foldl {α : Type} (f : State → α → State) (h : ∀ s x, Keeps s (f s x)) :
    ∀ (l : List α) (s : State), Keeps s (l.foldl f s)
  | [], _ => Keeps.rfl
  | x :: xs, s => (h s x).trans (Keeps.foldl f h xs (f s x))

@[simp] theorem State.modEntry_hbm (s : State) (p n : Nat) (f : Entry → Entry) : (s.modEntry p n f).hbm = s.hbm := by
  unfold State.modEntry; split <;> simp [State.setEntry]

@[simp] theorem State.setCached_hbm (s : State) (c : CacheId) (sec : Nat) (x : Option CSec) :
    (s.setCached c sec x).hbm = s.hbm := by
  cases c <;> simp [State.setCached]

theorem State.cached_setCached (s : State) (c : CacheId) (sec : Nat) (x : Option CSec) (k : Nat) :
    (s.setCached c sec x).cached c k = if k = sec then x else s.cached c k := by
  cases c <;> simp [State.setCached, State.cached, tget_tput]

@[simp] theorem State.l2Forget_hbm (s : State) (home sec : Nat) : (s.l2Forget home sec).hbm = s.hbm := by
  unfold State.l2Forget; split <;> rfl

@[simp] theorem State.uncache_hbm (s : State) (c : CacheId) (sec : Nat) (x : CSec) : (s.uncache c sec x).hbm = s.hbm := by
  unfold State.uncache; split <;> simp

/-! HBM. -/

/-- The list a store leaves reads the stored nibbles where the mask has them and the old ones elsewhere. -/
theorem tget_hbmStore (m : List Host.Cell) (sec : Nat) (mask : BitVec 128) (data : BitVec 512) (a : Nat) :
    tget unlistedByte (hbmStore m sec mask data) a =
      if a / 64 = sec then
        mergeByte (bitsNat mask (2 * (a % 64)) 2) (tget unlistedByte m a) (data.extractLsb' (8 * (a % 64)) 8)
      else tget unlistedByte m a := by
  have key : ∀ n : Nat, n ≤ 64 →
      tget unlistedByte ((List.range n).foldl (fun m i =>
          let k := bitsNat mask (2 * i) 2
          if k = 0 then m
          else
            let a := sec * 64 + i
            tput unlistedByte m a (mergeByte k (tget unlistedByte m a) (data.extractLsb' (8 * i) 8))) m) a =
      if a / 64 = sec ∧ a % 64 < n then
        mergeByte (bitsNat mask (2 * (a % 64)) 2) (tget unlistedByte m a) (data.extractLsb' (8 * (a % 64)) 8)
      else tget unlistedByte m a := by
    intro n hn
    induction n with
    | zero => simp
    | succ n ih =>
      rw [List.range_succ, List.foldl_append]
      simp only [List.foldl_cons, List.foldl_nil]
      have ih := ih (by omega)
      by_cases ha : a = sec * 64 + n
      · have h1 : a / 64 = sec := by omega
        have h2 : a % 64 = n := by omega
        have old : tget unlistedByte ((List.range n).foldl (fun m i =>
            if bitsNat mask (2 * i) 2 = 0 then m
            else tput unlistedByte m (sec * 64 + i)
              (mergeByte (bitsNat mask (2 * i) 2) (tget unlistedByte m (sec * 64 + i)) (data.extractLsb' (8 * i) 8))) m) a
            = tget unlistedByte m a := by rw [ih, if_neg (by omega)]
        rw [h2, if_pos (show a / 64 = sec ∧ n < n + 1 from ⟨h1, by omega⟩)]
        by_cases h0 : bitsNat mask (2 * n) 2 = 0
        · rw [if_pos h0, old, h0]; rfl
        · rw [if_neg h0, tget_tput, if_pos ha, ← ha, old]
      · have same : (a / 64 = sec ∧ a % 64 < n + 1) ↔ (a / 64 = sec ∧ a % 64 < n) := by
          constructor <;> rintro ⟨h1, h2⟩ <;> exact ⟨h1, by omega⟩
        simp only [same]
        split
        · exact ih
        · rw [tget_tput, if_neg ha, ih]
  rw [hbmStore, key 64 (Nat.le_refl _)]
  have : a % 64 < 64 := Nat.mod_lt _ (by omega)
  simp [this]

theorem hbmStore_wf (m : List Host.Cell) (sec : Nat) (mask : BitVec 128) (data : BitVec 512) (h : Memory.wf m = true) :
    Memory.wf (hbmStore m sec mask data) = true := by
  unfold hbmStore
  generalize List.range 64 = l
  induction l generalizing m with
  | nil => exact h
  | cons i l ih =>
    simp only [List.foldl_cons]
    split
    · exact ih _ h
    · exact ih _ (tabWf_tput _ _ _ _ h)

theorem keeps_hbmWrite (s : State) (sec : Nat) (mask : BitVec 128) (data : BitVec 512) (poison : BitVec 8) (ecode : BitVec 6)
    (key gen : Nat) : Keeps s (s.hbmWrite sec mask data poison ecode key gen) := by
  unfold State.hbmWrite
  split
  · exact Keeps.rfl
  · exact ⟨fun h => hbmStore_wf _ _ _ _ h⟩

/-! Caches and paths. -/

theorem keeps_putBytes (s : State) (c : Option CacheId) (sec : Nat) (mask : BitVec 128) (data : BitVec 512) (poison : BitVec 8)
    (ecode : BitVec 6) (key gen home owner : Nat) : Keeps s (s.putBytes c sec mask data poison ecode key gen home owner) := by
  cases c with
  | none => exact keeps_hbmWrite ..
  | some c => exact Keeps.of_hbm (by simp [State.putBytes])

theorem keeps_l2Evict (s : State) (sec : Nat) : Keeps s (s.l2Evict sec) := by
  unfold State.l2Evict
  split
  · exact Keeps.rfl
  · exact (Keeps.of_hbm (by simp)).trans (keeps_hbmWrite ..)

/-- A request at an L2 slice changes HBM only by what it evicts. -/
theorem keeps_l2Request (s : State) (part : Option Nat) (home sec : Nat) : Keeps s (s.l2Request part home sec).2 := by
  simp only [State.l2Request]
  split
  · simp only; split <;> exact Keeps.of_hbm rfl
  · split
    · exact Keeps.rfl
    · split
      · exact Keeps.of_hbm rfl
      · split
        · exact Keeps.rfl
        · exact ((keeps_l2Evict ..).trans (keeps_l2Evict ..)).trans (Keeps.of_hbm rfl)

theorem keeps_l2Touch (s : State) (part : Option Nat) (home sec : Nat) : Keeps s (s.l2Touch part home sec) := by
  unfold State.l2Touch
  split
  · exact keeps_l2Request ..
  · exact Keeps.rfl

theorem keeps_pushDown (sec : Nat) : ∀ (fuel : Nat) (s : State) (c : CacheId) (x : CSec), Keeps s (s.pushDown c sec x fuel)
  | 0, _, _, _ => Keeps.rfl
  | fuel + 1, s, c, x => by
    unfold State.pushDown
    split
    · exact keeps_hbmWrite ..
    · rename_i n _
      have tail : ∀ t : State, Keeps s t → Keeps s (
          if x.dirty = 0 then t
          else if n == .l2 then
            let (held, t) := t.l2Request (if x.owner < 16 then some x.owner else none) x.home sec
            t.putBytes (if held then some n else none) sec x.dirty x.data x.poison x.ecode x.key x.gen x.home x.owner
          else if t.hasRoom n sec then
            t.putBytes (some n) sec x.dirty x.data x.poison x.ecode x.key x.gen x.home x.owner
          else t.pushDown n sec x fuel) := by
        intro t h
        split
        · exact h
        · split
          · exact (h.trans (keeps_l2Request ..)).trans (keeps_putBytes ..)
          · split
            · exact h.trans (keeps_putBytes ..)
            · exact h.trans (keeps_pushDown sec fuel ..)
      refine tail _ ?_
      split
      · exact Keeps.rfl
      · split
        · exact Keeps.rfl
        · exact (Keeps.of_hbm (by simp)).trans (keeps_pushDown sec fuel ..)

theorem keeps_dropOther (s : State) (c : CacheId) (sec key gen : Nat) : Keeps s (s.dropOther c sec key gen) := by
  unfold State.dropOther
  split
  · exact Keeps.rfl
  · split
    · exact Keeps.rfl
    · split
      · exact Keeps.of_hbm (by simp)
      · exact (Keeps.of_hbm (by simp)).trans (keeps_pushDown ..)

theorem keeps_writeBack (s : State) (c : CacheId) (sec : Nat) : Keeps s (s.writeBack c sec) := by
  unfold State.writeBack
  split
  · exact Keeps.rfl
  · split
    · exact Keeps.rfl
    · split
      · exact Keeps.rfl
      · exact (Keeps.of_hbm (by simp)).trans (keeps_pushDown ..)

theorem keeps_dropClean (s : State) (c : CacheId) (sec : Nat) : Keeps s (s.dropClean c sec) := by
  unfold State.dropClean
  split
  · split
    · exact Keeps.of_hbm (by simp)
    · exact Keeps.rfl
  · exact Keeps.rfl

theorem keeps_flushSec (s : State) (c : CacheId) (sec : Nat) : Keeps s (s.flushSec c sec) :=
  (keeps_writeBack ..).trans (keeps_dropClean ..)

theorem keeps_writeBackAll (s : State) (c : CacheId) : Keeps s (s.writeBackAll c) :=
  Keeps.foldl _ (fun s x => keeps_writeBack s c x) _ _

theorem keeps_flushAll (s : State) (c : CacheId) : Keeps s (s.flushAll c) :=
  Keeps.foldl _ (fun s x => keeps_flushSec s c x) _ _

theorem keeps_evictLine (s : State) (c : CacheId) (lines : List Nat) : Keeps s (s.evictLine c lines).2 := by
  unfold State.evictLine
  simp only
  split
  · exact Keeps.rfl
  · have tick : Keeps s { s with fresh := s.fresh + 1 } := Keeps.of_hbm rfl
    exact (tick.trans (keeps_flushSec ..)).trans (keeps_flushSec ..)

theorem keeps_claimLine (s : State) (part : Option Nat) (c : CacheId) (home sec : Nat) :
    Keeps s (s.claimLine part c home sec).2 := by
  unfold State.claimLine
  split
  · exact keeps_l2Request ..
  · unfold State.lineRoom
    split
    · exact Keeps.rfl
    · exact keeps_evictLine ..

theorem keeps_fetch (part : Option Nat) (sec key home : Nat) : ∀ (cs : List CacheId) (s : State) (need : BitVec 128),
    Keeps s (s.fetch part sec key home need cs).2
  | [], _, _ => Keeps.rfl
  | c :: cs, s, need => by
    have below := fun s => keeps_fetch part sec key home cs s wholeSec
    have drop := keeps_dropOther s c sec key (s.keyGen key)
    unfold State.fetch
    simp only
    split
    · exact Keeps.rfl
    · split
      · have hit : Keeps s (if c == .l2 then ((s.dropOther c sec key (s.keyGen key)).l2Request part home sec).2
            else s.dropOther c sec key (s.keyGen key)) := by
          split
          · exact drop.trans (keeps_l2Request ..)
          · exact drop
        split
        · exact hit
        · exact (hit.trans (below _)).trans (Keeps.of_hbm (State.setCached_hbm ..))
      · have miss := drop.trans (below (s.dropOther c sec key (s.keyGen key)))
        split
        · exact miss
        · have claim := miss.trans (keeps_claimLine _ part c home sec)
          split
          · rename_i u hu; rw [hu] at claim; exact claim.trans (Keeps.of_hbm (State.setCached_hbm ..))
          · rename_i u hu; rw [hu] at claim; exact claim

theorem keeps_store (part : Option Nat) (sec key home : Nat) (mask : BitVec 128) (data : BitVec 512) :
    ∀ (cs : List CacheId) (s : State), Keeps s (s.store part sec key home mask data cs)
  | [], _ => keeps_hbmWrite ..
  | c :: cs, s => by
    simp only [State.store]
    split
    · exact Keeps.rfl
    · have claim := (keeps_dropOther s c sec key (s.keyGen key)).trans (keeps_claimLine _ part c home sec)
      split
      · rename_i u hu; rw [hu] at claim; exact claim.trans (keeps_putBytes ..)
      · rename_i u hu; rw [hu] at claim; exact claim.trans (keeps_store part sec key home mask data cs _)

theorem keeps_storeHeld (sec key home : Nat) (mask : BitVec 128) (data : BitVec 512) :
    ∀ (cs : List CacheId) (s : State), Keeps s (s.storeHeld sec key home mask data cs)
  | [], _ => keeps_hbmWrite ..
  | c :: cs, s => by
    unfold State.storeHeld
    split
    · exact keeps_putBytes ..
    · exact keeps_storeHeld sec key home mask data cs s

theorem keeps_spoilAt (sec : Nat) (w : BitVec 8) (e : BitVec 6) :
    ∀ (cs : List CacheId) (s : State), Keeps s (s.spoilAt sec w e cs)
  | [], s => by simp only [State.spoilAt]; split <;> exact Keeps.of_hbm rfl
  | c :: cs, s => by
    unfold State.spoilAt
    split
    · exact Keeps.of_hbm (State.setCached_hbm ..)
    · exact keeps_spoilAt sec w e cs s

theorem keeps_readPath (s : State) (part : Option Nat) (p : Path) (len : Nat) (cs : List CacheId) :
    Keeps s (s.readPath part p len cs).2 := by
  simp only [State.readPath]
  have h := keeps_fetch part (p.pa / 64) p.key p.home cs s (byteMask (p.pa % 64) len)
  split <;> exact h

theorem keeps_writePath (s : State) (part : Option Nat) (p : Path) (len v : Nat) (cs : List CacheId) :
    Keeps s (s.writePath part p len v cs) := keeps_store ..

theorem keeps_writeNibble (s : State) (part : Option Nat) (p : Path) (hi : Bool) (v : Nat) (cs : List CacheId) :
    Keeps s (s.writeNibble part p hi v cs) := keeps_store ..

theorem keeps_writeHeld (s : State) (p : Path) (len v : Nat) (cs : List CacheId) : Keeps s (s.writeHeld p len v cs) :=
  keeps_storeHeld ..

theorem keeps_readHome (s : State) (part : Option Nat) (p : Path) (len : Nat) : Keeps s (s.readHome part p len).2 := by
  have h := (keeps_dropOther s .l2 (p.pa / 64) p.key (s.keyGen p.key)).trans (keeps_l2Touch _ part p.home (p.pa / 64))
  simp only [State.readHome]
  split <;> exact h

theorem keeps_readVirt (root : Nat) (part : Option Nat) (need : Need) : ∀ (n : Nat) (s : State) (va : Nat),
    Keeps s (s.readVirt root part need va n).2
  | 0, _, _ => Keeps.rfl
  | n + 1, s, va => by
    unfold State.readVirt
    split
    · exact Keeps.rfl
    · rename_i p _
      have h := keeps_readPath s part p 1 [.l2]
      split
      · rename_i e t he; rw [he] at h; exact h
      · rename_i v t he
        rw [he] at h
        have r := keeps_readVirt root part need n t (va + 1)
        split
        · rename_i vs u hu; rw [hu] at r; exact h.trans r
        · rename_i c u hu; rw [hu] at r; exact h.trans r

theorem keeps_writeVirt (root : Nat) (part : Option Nat) (need : Need) : ∀ (bs : List Byte) (s : State) (va : Nat),
    Keeps s (s.writeVirt root part need va bs).2
  | [], _, _ => Keeps.rfl
  | b :: bs, s, va => by
    unfold State.writeVirt
    split
    · exact Keeps.rfl
    · split
      · exact Keeps.rfl
      · exact (keeps_writePath ..).trans (keeps_writeVirt root part need bs _ _)

/-! Translation and page clearing. -/

@[simp] theorem State.keepLeaf_hbm (s : State) (g va : Nat) (pte : Word) (bits : Nat) :
    (s.keepLeaf g va pte bits).hbm = s.hbm := by
  unfold State.keepLeaf; split <;> simp

@[simp] theorem State.translate_hbm (s : State) (g va : Nat) (n : Need) : (s.translate g va n).2.hbm = s.hbm := by
  unfold State.translate
  split
  · split <;> rfl
  · split
    · rfl
    · split
      · rfl
      · simp

theorem foldl_hbm {α : Type} (f : State → α → State) (h : ∀ s x, (f s x).hbm = s.hbm) (l : List α) (s : State) :
    (l.foldl f s).hbm = s.hbm := by
  induction l generalizing s with
  | nil => rfl
  | cons x xs ih => rw [List.foldl_cons, ih, h]

@[simp] theorem State.dropNear_hbm (s : State) (sec : Nat) : (s.dropNear sec).hbm = s.hbm := by
  simp only [State.dropNear]
  rw [foldl_hbm, foldl_hbm]
  · intro s g; split <;> rfl
  · intro s g; split <;> rfl

theorem keeps_clearPage (s : State) (pa key : Nat) : Keeps s (s.clearPage pa key) := by
  refine ⟨fun h => ?_⟩
  simp only [State.clearPage]
  rw [foldl_hbm]
  · simp only [Memory.wf, State.dropNear_hbm] at h ⊢
    exact tabWf_tclear unlistedByte s.hbm _ _ h
  · intro s x; split <;> simp

/-- What keeps the form on each page keeps it over a range. -/
theorem keeps_overPages (s : State) (p lo n : Nat) (k : State → Path → State) (h : ∀ s x, Keeps s (k s x)) :
    Keeps s (s.overPages p lo n k) := by
  refine Keeps.foldl _ (fun s i => ?_) _ _
  split
  · exact h ..
  · exact Keeps.rfl

theorem keeps_zeroVirt (s : State) (p lo n : Nat) : Keeps s (s.zeroVirt p lo n) :=
  keeps_overPages _ _ _ _ _ (fun _ _ => keeps_clearPage ..)

theorem keeps_freshVirt (s : State) (p lo n : Nat) : Keeps s (s.freshVirt p lo n) :=
  keeps_overPages _ _ _ _ _ (fun _ _ => Keeps.of_hbm (State.dropNear_hbm ..))

/-- The memory of the machine after reset is in its canonical form. -/
theorem reset_memory_wf : Memory.wf State.reset.hbm = true := rfl

end Sys2Proof.Machine
end

