-- ==== Sys2Proof/Safety.lean ====
section
/-! DEFINITION. What claims about the machine say of a state: when an instruction may act on its operands, how far a
change reaches, and the arithmetic of R170 to R173 over bit vectors, which the meanings do not use. -/

namespace Sys2Proof.Machine

/-- The opcodes that R73 makes ILLEGAL on every word, with 0x0E and 0x0F where an instruction begins (R60). -/
def reservedOp (n : Nat) : Bool :=
  n = 0 || n = 5 || (0x0B ≤ n && n ≤ 0x0F) || (0x16 ≤ n && n ≤ 0x2F) || (0x3A ≤ n && n ≤ 0x3F) || (0x4C ≤ n && n ≤ 0x4F)
    || (0x56 ≤ n && n ≤ 0x5F) || (0x67 ≤ n && n ≤ 0x6F) || (0x79 ≤ n && n ≤ 0x7F) || (0x84 ≤ n && n ≤ 0x8F)
    || (0x97 ≤ n && n ≤ 0x9F) || (0xAE ≤ n && n ≤ 0xAF) || (0xBA ≤ n && n ≤ 0xEF)

/-- Memory is in its canonical form. -/
def State.memWf (s : State) : Prop := Memory.wf s.hbm = true

/-- A step that answers a next state. -/
def State.steps (s t : State) : Prop := step s = .next t

/-- The instruction the agent in focus stands at may act: the agent runs (R300), its text may hold the instruction
(R75), every specifier in `ops` passes R63 to R65, the `n` results find positions (R65), and the operands resolve to
`vs`, none of them still to come or poisoned (R161, R226). -/
structure MayAct (s : State) (cl : Cls) (ops : List (Want × BitVec 8)) (n : Nat) (vs : List Val) : Prop where
  runs : s.canRun s.focus = true
  text : s.clsFault s.focus cl = none
  specs : ops.all (fun o => specOk (s.ctxOf s.focus) (isStream s.focus) o.1 o.2) = true
  room : (s.ctxOf s.focus).pos + n ≤ 65535
  values : collect (ops.map (fun o => s.operand s.focus (s.ctxOf s.focus) o.1 o.2)) = .ok vs

/-- As `MayAct`, for an instruction of one word that core `g` executes. -/
structure MayActOn (s : State) (g : Nat) (cl : Cls) (i : Instr) (vs : List Val) : Prop where
  focus : s.focus = .core g
  ready : MayAct s cl (opsOf i) (kindsOf i).length vs

/-- As `MayAct`, for an engine command of core `g`: its operands may also pop (R225), and queue `q` has room, with a copy
tag free where the command takes one (R183, R264), and no acquire holds the push back (R280). -/
structure MayPush (s : State) (g : Nat) (q : Eng) (i : Instr) (vs : List Val) : Prop where
  focus : s.focus = .core g
  ready : MayAct s .kernel (pushOps i) (kindsOf i).length vs
  held : (s.core g).pushHeld = false
  room : (s.core g).canPush q i = true

/-- The command of an instruction that core `g` stands at, as it is pushed to a queue; one of MQ keeps the sectors it drives
(R132). -/
def State.command (s : State) (g : Nat) (q : Eng) (i : Instr) (desc : List (BitVec 256)) : Cmd :=
  let c := (s.core g).ctx
  { mkCmd (s.core g) i ((pushOps i).map (fun o => s.operand (.core g) c o.1 o.2))
    ((pushOps i).map (fun o => if isPop c o.2 then c.expand o.2 else 0)) desc with
    secs := if q == .m then s.driven g (s.core g).gview else [] }

/-- Only core `g` differs. -/
def OnlyCore (s t : State) (g : Nat) : Prop := t = { s with cores := t.cores } ∧ ∀ h, h ≠ g → t.core h = s.core h

/-- Only partition `p` differs. -/
def OnlyPart (s t : State) (p : Nat) : Prop := t = { s with parts := t.parts } ∧ ∀ q, q ≠ p → t.part q = s.part q

/-- Only die `d` differs. -/
def OnlyDie (s t : State) (d : Nat) : Prop := t = { s with dies := t.dies } ∧ ∀ e, e ≠ d → t.die e = s.die e

/-- Only the context of agent `a` differs: every register, queue, cache and byte of memory is as before. -/
def OnlyCtx (s t : State) (a : Agent) : Prop :=
  match a with
  | .core g => OnlyCore s t g ∧ t.core g = { s.core g with ctx := (t.core g).ctx }
  | .sfe p => OnlyPart s t p ∧ t.part p = { s.part p with sfe := { (s.part p).sfe with ctx := (t.part p).sfe.ctx } }
  | _ => t = s

/-! The arithmetic of R23, R24, R64 and R170 over bit vectors. -/

/-- A result of `w` bits extended to a scalar: by zeros for an n-type, by the sign for an i-type. -/
def Spec.ext {w : Nat} (uns : Bool) (r : BitVec w) : Word := if uns then r.setWidth 64 else r.signExtend 64

/-- An operand read as an integer. -/
def Spec.val {w : Nat} (uns : Bool) (x : BitVec w) : Int := if uns then (x.toNat : Int) else x.toInt

/-- The exact result clamped when SAT is set, then reduced to its low `w` bits. -/
def Spec.fit (w : Nat) (uns sat : Bool) (i : Int) : BitVec w :=
  BitVec.ofInt w
    (if !sat then i
     else if uns then max 0 (min i (2 ^ w - 1))
     else max (-(2 ^ (w - 1))) (min i (2 ^ (w - 1) - 1)))

/-- The quotient with its edge cases. -/
def Spec.quot {w : Nat} (uns sat : Bool) (x y : BitVec w) : BitVec w :=
  if y = 0 then BitVec.allOnes w else Spec.fit w uns sat ((Spec.val uns x).tdiv (Spec.val uns y))

/-- The remainder with its edge case. -/
def Spec.rem {w : Nat} (uns : Bool) (x y : BitVec w) : BitVec w :=
  if y = 0 then x
  else BitVec.ofInt w (Spec.val uns x - (Spec.val uns x).tdiv (Spec.val uns y) * Spec.val uns y)

/-- The number of leading zeros of a bit vector is `r`. -/
def Spec.isClz {w : Nat} (x : BitVec w) (r : Nat) : Prop :=
  (x = 0 ∧ r = w) ∨ (r < w ∧ x.getLsbD (w - 1 - r) = true ∧ ∀ j, w - 1 - r < j → x.getLsbD j = false)

/-- The index of the lowest set bit of a bit vector is `r`. -/
def Spec.isFfs {w : Nat} (x : BitVec w) (r : Nat) : Prop :=
  (x = 0 ∧ r = w) ∨ (r < w ∧ x.getLsbD r = true ∧ ∀ j, j < r → x.getLsbD j = false)

/-- The number of set bits of a bit vector. -/
def Spec.popc {w : Nat} (x : BitVec w) : Nat := ((List.range w).filter x.getLsbD).length

/-- The first operand at the width of an instruction's type. -/
def Spec.a (f : BaseF) (vs : List Val) : BitVec (BaseF.w f) := (w0 vs).setWidth (BaseF.w f)

/-- The second operand at the width of an instruction's type. -/
def Spec.b (f : BaseF) (vs : List Val) : BitVec (BaseF.w f) := (w1 vs).setWidth (BaseF.w f)

/-- The first operand read as an integer. -/
def Spec.x (f : BaseF) (vs : List Val) : Int := Spec.val (BaseF.uns f) (Spec.a f vs)

/-- The second operand read as an integer. -/
def Spec.y (f : BaseF) (vs : List Val) : Int := Spec.val (BaseF.uns f) (Spec.b f vs)

/-- Executed where it may act, an instruction goes on past its word, and its one result, a scalar at the next position,
is the value `r` gives for its operands. -/
def Computes (i : Instr) (r : List Val → Word) : Prop :=
  i.wf = true → ∀ s vs, MayAct s .both (opsOf i) 1 vs → exec i s = .next (s.retire s.focus 1 [.scalar (r vs)])

/-- Executed where it may act, an instruction of a type computes the bits `r` gives for its operands, extended to a
scalar. -/
def ComputesBits (i : Instr) (f : BaseF) (r : List Val → BitVec (BaseF.w f)) : Prop :=
  Computes i (fun vs => Spec.ext (BaseF.uns f) (r vs))

/-- An instruction of one word is encoded as `w`; the decoder reads `w` as that instruction where its fields meet `good`,
and calls it ILLEGAL where they do not. -/
structure EncodesAs (i : Instr) (w : Word) (good : Prop) : Prop where
  word : encode i = some [w]
  legal : good → ∀ ws, decode (w :: ws) = .ok (i, 1)
  illegal : ¬good → ∀ ws, decode (w :: ws) = .error .illegal

/-- Under a base-form opcode every FN from `n` on is ILLEGAL. -/
def FnIllegal (op : BitVec 8) (n : Nat) : Prop :=
  ∀ (fn : BitVec 4) (f : BaseF) (ws : List Word), n ≤ fn.toNat → decode (packBase op fn f :: ws) = .error .illegal

/-- TY, B, C and MOD of the scalar families of R171 to R175: TY from `lo` to 5, B zero unless `b`, C zero unless `c`, and
no MOD bit outside `mask`; UNS needs an integer type. -/
def ScalarFields (lo : Nat) (b c : Bool) (mask : BitVec 24) (f : BaseF) : Prop :=
  lo ≤ f.ty.toNat ∧ f.ty.toNat ≤ 5 ∧ (b = false → f.b = 0) ∧ (c = false → f.c = 0) ∧ f.mod &&& ~~~mask = 0
    ∧ (f.ty = 0 → f.mod.getLsbD 0 = false)

/-- The instructions that compute one scalar from scalars. -/
def isScalarOp : Instr → Bool
  | .add _ | .sub _ | .mul _ | .mulh _ | .div _ | .rem _ | .min _ | .max _ | .abs _ | .neg _ => true
  | .and _ | .or _ | .xor _ | .andn _ | .not _ | .shl _ | .shr _ | .sar _ | .rot _ | .clz _ | .ffs _ | .popc _ => true
  | .ext _ | .cmpEq _ | .cmpNe _ | .cmpLt _ | .cmpLe _ | .cmpGt _ | .cmpGe _ | .sel _ | .li _ | .liZ _ => true
  | _ => false

/-- The system instructions (R75): those that trap PRIV in user mode. -/
def isSystem : Instr → Bool
  | .eret _ _ | .eretRetry _ | .csrR _ | .csrW _ | .codeInv _ | .codeInvObj _ | .codeInvAll _ => true
  | .scanFrz _ | .scanFrzAt _ | .scanOut _ | .scanIn _ | .scanRun _ | .patchLd _ | .ctxScrub _ => true
  | _ => false

/-- The stream instructions (R109). -/
def isStreamOp : Instr → Bool
  | .tNew _ | .tFree _ | .tView _ | .tMap _ _ _ _ | .tCopy _ _ | .tFill _ | .tRead _ | .tFence _ | .tSync _ => true
  | .tSignalAdd _ | .tSignalStore _ | .tSvc _ | .tSend _ | .tRecv _ | .tWaitEq _ | .tWaitNe _ | .tWaitGe _ => true
  | _ => false

/-- Vector instructions that compute values from values (R225, R230 to R249). -/
def isVecOp : Instr → Bool
  | .vadd _ | .vsub _ | .vmul _ | .vmin _ | .vmax _ | .vabs _ | .vneg _ | .vfma _ | .vfms _ | .vfnma _ | .vfnms _ => true
  | .vand _ | .vor _ | .vxor _ | .vandn _ | .vnot _ | .vshl _ | .vshr _ | .vsar _ | .vclz _ | .vffs _ | .vpopc _ => true
  | .vcmpEq _ | .vcmpNe _ | .vcmpLt _ | .vcmpLe _ | .vcmpGt _ | .vcmpGe _ | .vsel _ | .vmulh _ | .vbc _ | .vbcLane _ => true
  | .vext _ | .vins _ | .vperm _ | .vrot _ | .vredSum _ | .vredMin _ | .vredMax _ | .vredAnd _ | .vredOr _ | .vredXor _ => true
  | .vscanSum _ | .vscanMin _ | .vscanMax _ | .vcvt _ | .vwid _ | .vnar _ => true
  | .vexp2 _ | .vlog2 _ | .vrcp _ | .vrsq _ | .vsqrt _ | .vtanh _ => true
  | _ => false

/-- A user core that runs: in RUN, none of the sectors it drives frozen (R325), on a die that no warm reset has stopped, none of
its older accesses having a trap to take first (R147). -/
structure Runs (s : State) (g : Nat) : Prop where
  user : g < 128
  run : (s.core g).cstate = .run
  whole : (s.core g).iced = false
  up : (s.die (dieOf g)).holdStop = false
  calm : s.mustTrap g (s.core g).acc.length = false

/-- Core `g` is in focus, and the steps of its ordering machine are taken: it is not frozen, the sectors it drives are not, and no
warm reset has stopped its die (R300, R325, R351). -/
structure Performs (s : State) (g : Nat) : Prop where
  focus : s.focus = .core g
  thawed : (s.core g).cstate ≠ .frozen
  whole : (s.core g).iced = false
  up : (s.die (dieOf g)).holdStop = false

/-- The operands `ops` of an instruction of agent `a` that may pop have the values `ws`, and `t` is the state once what
they pop is taken: `s` itself where they pop nothing, else what is left once every older entry of VQ has taken its own
(R66, R225). `vs` are the values of those that do not pop. -/
def Takes (s : State) (a : Agent) (ops : List (Want × BitVec 8)) (vs : List Val) (t : State) (ws : List Val) : Prop :=
  (noPops (s.ctxOf a) ops = true ∧ t = s ∧ ws = vs)
  ∨ ∃ g c, a = .core g ∧ noPops (s.ctxOf a) ops = false ∧ (s.core g).popChk (s.core g).ctx (ops.map (·.2)) = none
      ∧ (s.core g).vq.all (·.done) = true
      ∧ (s.core g).takeAll ((ops.map (fun o => if isPop (s.core g).ctx o.2 then (s.core g).ctx.expand o.2 else 0)).zip
          (vs.map Slot.ready)) = .got ws c
      ∧ firstPoison ws = none ∧ t = (s.setCore g { c with wait := none }).commit a

/-- Where its address passes its checks and its queues have room, an instruction of core `g` becomes the youngest access:
what it does, where and on how many bytes, its hint, with `res` positions that wait for its result. -/
def QueuesAccess (s : State) (g : Nat) (i : Instr) (op : AccOp) (sp : Bool) (a : Int) (n : Nat) (need : Need) (data : Nat)
    (hint : Nat) (res : Nat) : Prop :=
  ∀ p t, s.checkAddr g sp a n need = (.ok p, t) → (s.core g).noRoom op = false →
    exec i s = .next (t.modCore g (fun c => c.issueAcc (mkAcc c op sp a.toNat n p data hint) res 1))

/-- Where its queues have room, an instruction of core `g` that names no address becomes the youngest access. -/
def QueuesPlain (s : State) (g : Nat) (i : Instr) (op : AccOp) : Prop :=
  (s.core g).noRoom op = false →
    exec i s = .next (s.modCore g (fun c =>
      c.issueAcc (mkAcc c op false 0 0 { pa := 0, home := 0, ccls := 0, key := 0 } 0 0) 0 1))

/-- `t` is `s` with the sectors `secs` and the contexts `fs` of the cores `cs` that drive them frozen in one step, the engines
of the other cores of `cs` stopped, and service core `me` past the freeze with its result (R325, R326): no other core and no
byte of memory changes. -/
structure Froze (s t : State) (me : Nat) (secs cs fs : List Nat) (passed : Bool) : Prop where
  sectors : ∀ x, t.sector x = if x ∈ secs then { s.sector x with frozen := true } else s.sector x
  state : ∀ g ∈ fs, (t.core g).cstate = .frozen ∧ (t.core g).frozenFrom = (s.core g).cstate
  kept : ∀ g ∈ fs, (s.core g).emul = none →
    t.core g = { s.core g with cstate := .frozen, frozenFrom := (s.core g).cstate }
  iced : ∀ g ∈ cs, g ∉ fs → t.core g = { s.core g with iced := true }
  others : ∀ g, g ∉ cs → g ≠ me → t.core g = s.core g
  result : (t.core me).ctx
    = ((s.retire (.core me) 1 [.scalar (frzWord (secs.filter (fun x => !(s.sector x).frozen)) fs passed)]).core me).ctx
  done : (t.core me).wait = none
  memory : t.hbm = s.hbm

/-- A byte of a core's pad. -/
def Core.padByte (c : Core) (a : Nat) : Byte := tget 0 c.pad a

/-- A byte of HBM. -/
def State.hbmByte (s : State) (a : Nat) : Byte := tget unlistedByte s.hbm a

end Sys2Proof.Machine
end

