-- ==== Sys2Proof/Laws/Ops.lean ====
section
/-! SUPPORT. What the shared fronts of the meanings do: once a claim knows that an instruction may act, these lemmas say
what it does without unfolding the checks. -/

namespace Sys2Proof.Machine

/-- The results of an instruction that is ready find positions. -/
theorem MayAct.fits {s : State} {cl : Cls} {ops : List (Want × BitVec 8)} {n : Nat} {vs : List Val} (h : MayAct s cl ops n vs) :
    (s.ctxOf s.focus).full n = false := by
  simp [Ctx.full, Nat.not_lt.mpr h.room]

/-- An instruction that is ready acts on the values of its operands. -/
theorem withOps_ready {s : State} {cl : Cls} {ops : List (Want × BitVec 8)} {kinds : List Bool} {vs : List Val}
    (len : Nat) (k : Agent → List Val → Out) (h : MayAct s cl ops kinds.length vs) :
    withOps s cl ops kinds len k = k s.focus vs := by
  simp [withOps, h.runs, h.text, h.specs, h.values, h.fits]

/-- A scalar computation retires with its one result. -/
theorem pureScalar_ready {s : State} {ops : List (Want × BitVec 8)} {vs : List Val} (f : List Val → Word)
    (h : MayAct s .both ops 1 vs) : pureScalar s ops f = .next (s.retire s.focus 1 [.scalar (f vs)]) :=
  withOps_ready (kinds := [false]) 1 _ h

/-- A kernel instruction that is ready is carried out for its core. -/
theorem coreOp_ready {s : State} {g : Nat} {i : Instr} {vs : List Val} (k : Nat → List Val → Out)
    (h : MayActOn s g .kernel i vs) : coreOp s i k = k g vs := by
  have := h.focus
  simp [coreOp, withOps_ready _ _ h.ready, h.focus]

/-- An engine command that is ready, and passes the checks made at push, is pushed. -/
theorem withPush_ready {s : State} {g : Nat} {q : Eng} {i : Instr} {vs : List Val} (poison : Bool)
    {chk : Nat → List Val → Except Cause (List (BitVec 256))} {desc : List (BitVec 256)} (h : MayPush s g q i vs)
    (hc : chk g vs = .ok desc) : withPush s i q poison chk = .next (s.pushNow g q (s.command g q i desc)) := by
  have hr := h.ready.fits
  have hf := h.focus
  have h1 := h.ready.runs
  have h2 := h.ready.text
  have h3 := h.ready.specs
  have h4 := h.ready.values
  rw [hf] at h1 h2 h3 h4 hr
  simp only [isStream, State.ctxOf] at h3 h4 hr
  have hcp : (s.core g).canPush q (s.command g q i desc).instr = true := h.room
  have hcp' : (s.core g).canPush q (mkCmd (s.core g) i
      ((pushOps i).map (fun o => s.operand (.core g) (s.core g).ctx o.1 o.2))
      ((pushOps i).map (fun o => if isPop (s.core g).ctx o.2 then (s.core g).ctx.expand o.2 else 0)) desc).instr = true := hcp
  unfold withPush
  simp only [hf, h1, h2, State.ctxOf, h3, hr, h4, hc]
  simp [State.tryPush, h.held, hcp', State.command]

/-- A step is its action, the next item of the agenda having been taken. -/
theorem step_cons {s : State} {x : Action} {xs : List Action} (h : s.agenda = x :: xs) :
    step s = doAction x { s with agenda := xs } := by
  simp [step, h]

/-- An event that the agenda offers is carried out with its agent in focus. -/
theorem step_event {s : State} {a : Agent} {i : Instr} {xs : List Action} (h : s.agenda = .event a i :: xs)
    (ha : agentExists a = true) (hi : i.isEvent = true) : step s = exec i { s with agenda := xs, focus := a } := by
  simp [step, h, doAction, ha, hi]

/-- A step of the ordering machine acts unless its core is frozen or stopped. -/
theorem onCore_run {s : State} {g : Nat} (k : Nat → State) (hf : s.focus = .core g)
    (hc : (s.core g).cstate ≠ .frozen)
    (hi : (s.core g).iced = false) (hd : (s.die (dieOf g)).holdStop = false) : onCore s k = .next (k g) := by
  simp [onCore, hf, hc, hi, hd]

/-! How far an update reaches. -/

theorem onlyCore_modCore (s : State) (g : Nat) (f : Core → Core) : OnlyCore s (s.modCore g f) g :=
  ⟨rfl, fun h hh => by simp [State.core_modCore, hh]⟩
theorem onlyPart_modPart (s : State) (p : Nat) (f : Part → Part) : OnlyPart s (s.modPart p f) p :=
  ⟨rfl, fun h hh => by simp [State.part_modPart, hh]⟩
theorem onlyDie_modDie (s : State) (d : Nat) (f : Die → Die) : OnlyDie s (s.modDie d f) d :=
  ⟨rfl, fun h hh => by simp [State.die_modDie, hh]⟩

/-- Two changes of one core are a change of that core. -/
theorem OnlyCore.trans {s t u : State} {g : Nat} (h : OnlyCore s t g) (k : OnlyCore t u g) : OnlyCore s u g :=
  ⟨by rw [k.1, h.1], fun x hx => (k.2 x hx).trans (h.2 x hx)⟩
/-- Two changes of one partition are a change of that partition. -/
theorem OnlyPart.trans {s t u : State} {p : Nat} (h : OnlyPart s t p) (k : OnlyPart t u p) : OnlyPart s u p :=
  ⟨by rw [k.1, h.1], fun x hx => (k.2 x hx).trans (h.2 x hx)⟩
/-- Two changes of one die are a change of that die. -/
theorem OnlyDie.trans {s t u : State} {d : Nat} (h : OnlyDie s t d) (k : OnlyDie t u d) : OnlyDie s u d :=
  ⟨by rw [k.1, h.1], fun x hx => (k.2 x hx).trans (h.2 x hx)⟩

/-- Only cores and stream front ends execute instructions. -/
theorem canRun_cases {s : State} {a : Agent} (h : s.canRun a = true) : (∃ g, a = .core g) ∨ ∃ p, a = .sfe p := by
  cases a <;> simp_all [State.canRun]

/-! Taking an exception, ending a task and finishing an instruction leave HBM as it is. -/

@[simp] theorem State.modCtx_hbm (s : State) (a : Agent) (f : Ctx → Ctx) : (s.modCtx a f).hbm = s.hbm := by
  cases a <;> simp [State.modCtx]
@[simp] theorem State.retire_hbm (s : State) (a : Agent) (len : Nat) (vs : List Val) : (s.retire a len vs).hbm = s.hbm :=
  State.modCtx_hbm ..
@[simp] theorem State.commitFirst_hbm (s : State) (g n : Nat) : (s.commitFirst g n).hbm = s.hbm := by
  simp only [State.commitFirst]
  split <;> rfl
@[simp] theorem State.commitAll_hbm (s : State) (g : Nat) : (s.commitAll g).hbm = s.hbm := State.commitFirst_hbm ..
@[simp] theorem State.commit_hbm (s : State) (a : Agent) : (s.commit a).hbm = s.hbm := by
  cases a <;> simp [State.commit]
@[simp] theorem State.svcSignal_hbm (s : State) (d : Nat) : (s.svcSignal d).hbm = s.hbm := by simp [State.svcSignal]
@[simp] theorem State.queueRecord_hbm (s : State) (d : Nat) (r : TrapInfo) : (s.queueRecord d r).hbm = s.hbm := by
  simp [State.queueRecord]
@[simp] theorem State.sealGang_hbm (s : State) (d : Nat) (x : Gang) : (s.sealGang d x).hbm = s.hbm := by
  unfold State.sealGang
  rw [foldl_hbm]
  intro s i
  rfl
@[simp] theorem State.keepBridled_hbm (s : State) (d : Nat) (x : Gang) : (s.keepBridled d x).hbm = s.hbm := by
  simp only [State.keepBridled]
  split
  · rfl
  · rw [foldl_hbm]
    intro s m
    rfl
@[simp] theorem State.dissolveGang_hbm (s : State) (g : Nat) : (s.dissolveGang g).hbm = s.hbm := by
  simp only [State.dissolveGang]
  split
  · rfl
  · rw [foldl_hbm, State.sealGang_hbm, State.keepBridled_hbm, State.modDie_hbm]
    intro s m
    rfl
@[simp] theorem State.leaveTeam_hbm (s : State) (g : Nat) : (s.leaveTeam g).hbm = s.hbm := by simp [State.leaveTeam]
@[simp] theorem State.modTaskEntry_hbm (s : State) (g : Nat) (f : Entry → Task → Entry) :
    (s.modTaskEntry g f).hbm = s.hbm := by
  simp only [State.modTaskEntry]
  split
  · rfl
  · split
    · split <;> rfl
    · rfl
@[simp] theorem State.taskTrapped_hbm (s : State) (g : Nat) (r : TrapInfo) : (s.taskTrapped g r).hbm = s.hbm :=
  State.modTaskEntry_hbm ..
@[simp] theorem State.killCore_hbm (s : State) (g : Nat) : (s.killCore g).hbm = s.hbm := by simp [State.killCore]
@[simp] theorem State.report_hbm (s : State) (g : Nat) (i : TrapInfo) (p : TrapPend) (cres : List Word) :
    (s.report g i p cres).hbm = s.hbm := by
  simp only [State.report]
  split <;> simp
@[simp] theorem State.patchFault_hbm (s : State) (g : Nat) (e : Emul) (c : Cause) (vpc : Nat) :
    (s.patchFault g e c vpc).hbm = s.hbm := by
  simp [State.patchFault]
@[simp] theorem State.callRoutine_hbm (s : State) (g slot : Nat) (p : Patch) (word : Word) (len : Nat) (kinds : List Bool)
    (fault : Option TrapPend) (args : List Slot) : (s.callRoutine g slot p word len kinds fault args).hbm = s.hbm := by
  simp only [State.callRoutine]
  split
  · rfl
  · split
    · rw [State.patchFault_hbm]; rfl
    · rfl
@[simp] theorem State.trapMatched_hbm (s : State) (g : Nat) (p : TrapPend) (cres : List Word) :
    (s.trapMatched g p cres).hbm = s.hbm := by
  simp only [State.trapMatched]
  split
  · simp
  · split
    · simp
    · split <;> simp
@[simp] theorem State.routineTrouble_hbm (s : State) (g : Nat) (e : Emul) (c : Cause) (vpc : Nat) :
    (s.routineTrouble g e c vpc).hbm = s.hbm := by
  simp only [State.routineTrouble]
  split
  · split <;> simp
  · simp
@[simp] theorem State.svcTrap_hbm (s : State) (g : Nat) (c : Cause) (kinds : List Bool) (len vpc : Nat)
    (cmd : Option (Eng × Nat)) : (s.svcTrap g c kinds len vpc cmd).hbm = s.hbm := by
  simp only [State.svcTrap]
  split
  · simp
  · split <;> simp
@[simp] theorem State.sfeTrap_hbm (s : State) (p : Nat) (c : Cause) : (s.sfeTrap p c).hbm = s.hbm := by simp [State.sfeTrap]
@[simp] theorem State.trapAt_hbm (s : State) (a : Agent) (c : Cause) (kinds : List Bool) (len : Nat) (cres : List Word)
    (res qpos : Nat) : (s.trapAt a c kinds len cres res qpos).hbm = s.hbm := by
  cases a <;> simp only [State.trapAt] <;> try simp
  split
  · simp
  · split <;> simp
@[simp] theorem State.trap_hbm (s : State) (a : Agent) (c : Cause) (kinds : List Bool) (len : Nat) :
    (s.trap a c kinds len).hbm = s.hbm := State.trapAt_hbm ..
@[simp] theorem State.stopCmd_hbm (s : State) (g : Nat) (q : Eng) (k : Cmd) : (s.stopCmd g q k).hbm = s.hbm := by
  simp only [State.stopCmd]
  split <;> rfl
@[simp] theorem State.trapCmd_hbm (s : State) (g : Nat) (q : Eng) (k : Cmd) (c : Cause) (res qpos : Nat) :
    (s.trapCmd g q k c res qpos).hbm = s.hbm := by
  simp only [State.trapCmd]
  split
  · split <;> simp
  · split
    · simp
    · split <;> simp

end Sys2Proof.Machine
end

