-- ==== Sys2Proof/Certificates/Slice0/Obligations.lean ====
section
/-! DEFINITION. The statements for the provers. -/

open Sys2Proof Sys2Proof.Machine

/-! Encoding (R57 to R73). -/

/-- R57, R58, R62, R72: the decoder reads every well-formed encoded instruction back from its words, with every operand,
whatever words follow. -/
def Obligations.DecodeEncode : Prop :=
  ∀ (i : Instr) (ws rest : List Word), i.wf = true → encode i = some ws → decode (ws ++ rest) = .ok (i, ws.length)

/-- R60, R71: what the decoder accepts is well-formed, and encodes to exactly the words it was read from.
R73: a word whose opcode the table of R73 keeps, or one that begins with a LIT64 or CARRY opcode, is ILLEGAL. -/
def Obligations.AcceptedWordsAreCanonical : Prop :=
  (∀ (ws : List Word) (i : Instr) (n : Nat), decode ws = .ok (i, n) →
      i.wf = true ∧ encode i = some (ws.take n) ∧ n ≤ ws.length)
  ∧ (∀ (w : Word) (ws : List Word), reservedOp (opOf w).toNat = true → decode (w :: ws) = .error .illegal)

/-- The worked encodings of the spec decode to the instructions they stand for. -/
def Obligations.DecodeWords : Prop :=
  decode [0x1273010000040700] = .ok (.ext { ty := 3, a := 1, b := 0, c := 0, mod := 0x040700 }, 1)
    ∧ decode [0x3405020100000380] = .ok (.amoAdd { ty := 5, a := 2, b := 1, c := 0, mod := 0x000380 }, 1)
    ∧ decode [0x1004020300000000] = .ok (.add { ty := 4, a := 2, b := 3, c := 0, mod := 0 }, 1)
    ∧ decode [0x0A0002010000000B] = .ok (.svc { fn := 0, ty := 0, a := 2, b := 1, imm := 11 }, 1)
    ∧ decode [0x1520000000000012, 0x0E3456789ABCDEF0]
        = .ok (.li64 { ty := 0, a := 0, b := 0, c := 0, mod := 0x12 } 0x3456789ABCDEF0, 2)
    ∧ decode [0x0400000200000000, 0x0F00000000000201] = .ok (.ret { cond := 0, off := 0, carry := [1, 2] }, 2)
    ∧ decode [0x4100E20000036000] = .ok (.semWait { ty := 0, a := 0xE2, b := 0, c := 0, mod := 0x036000 }, 1)
    ∧ decode [0xB70 * 2 ^ 52 + 0x0E305 * 2 ^ 32] = .ok (.scanRun { ty := 0, a := 0xE3, b := 0x05, c := 0, mod := 0 }, 1)

/-! One step. -/

/-- R74, R149, R152: a running agent that stands at a word of its installed block that is an instruction, and that none of
the patch slots the block was lowered under acts on (none acts on service code), executes exactly that instruction: the
step is its `exec`, with the agent in focus.
A step that the agenda offers as an event is the `exec` of that event with its agent in focus. -/
def Obligations.StepRunsTheDecodedInstruction : Prop :=
  (∀ (s : State) (a : Agent) (xs : List Action) (b : Block) (w : Word) (ws : List Word) (i : Instr) (n : Nat),
      s.agenda = .run a :: xs → agentExists a = true →
      ({ s with agenda := xs, focus := a } : State).canRun a = true →
      ({ s with agenda := xs, focus := a } : State).boundary a = none →
      (s.ctxOf a).tmpl = [] → (s.ctxOf a).blk = some b → b.stale = false →
      b.readable (((s.ctxOf a).vpc - b.vpc) / 8) = w :: ws → decode (w :: ws) = .ok (i, n) →
      (s.inService a = true ∨ match0 b.slots (s.partOfAgent a) w = none) →
      step s = exec i { s with agenda := xs, focus := a })
  ∧ (∀ (s : State) (a : Agent) (i : Instr) (xs : List Action),
      s.agenda = .event a i :: xs → agentExists a = true → encode i = none →
      step s = exec i { s with agenda := xs, focus := a })

/-! Scalar instructions (R164, R168 to R176). -/

/-- R170, R64: the integer instructions compute the exact integer result, clamp it under SAT, and extend its low bits;
division by zero gives all ones and leaves the dividend as remainder. -/
def Obligations.IntegerResults : Prop :=
  ∀ f : BaseF,
    ComputesBits (.add f) f (fun vs => Spec.fit (BaseF.w f) (BaseF.uns f) (BaseF.sat f) (Spec.x f vs + Spec.y f vs))
    ∧ ComputesBits (.sub f) f (fun vs => Spec.fit (BaseF.w f) (BaseF.uns f) (BaseF.sat f) (Spec.x f vs - Spec.y f vs))
    ∧ ComputesBits (.mul f) f (fun vs => Spec.fit (BaseF.w f) (BaseF.uns f) (BaseF.sat f) (Spec.x f vs * Spec.y f vs))
    ∧ ComputesBits (.mulh f) f (fun vs => BitVec.ofInt (BaseF.w f) ((Spec.x f vs * Spec.y f vs) / 2 ^ BaseF.w f))
    ∧ ComputesBits (.div f) f (fun vs => Spec.quot (BaseF.uns f) (BaseF.sat f) (Spec.a f vs) (Spec.b f vs))
    ∧ ComputesBits (.rem f) f (fun vs => Spec.rem (BaseF.uns f) (Spec.a f vs) (Spec.b f vs))
    ∧ ComputesBits (.min f) f (fun vs => if Spec.x f vs ≤ Spec.y f vs then Spec.a f vs else Spec.b f vs)
    ∧ ComputesBits (.max f) f (fun vs => if Spec.y f vs ≤ Spec.x f vs then Spec.a f vs else Spec.b f vs)
    ∧ ComputesBits (.abs f) f (fun vs => Spec.fit (BaseF.w f) (BaseF.uns f) (BaseF.sat f) |Spec.x f vs|)
    ∧ ComputesBits (.neg f) f (fun vs => Spec.fit (BaseF.w f) (BaseF.uns f) (BaseF.sat f) (-Spec.x f vs))

/-- R171: the logic instructions: their encoding, and that they work on the bits of the operands at the width of TY.
R172, R25: the shifts and counts: their encoding; a shift by the width or more leaves zeros, or copies of the sign; a
rotate takes B modulo the width; the counts are those of leading zeros, of the lowest set bit and of set bits.
R173: `ext` gives LEN bits of A from POS, extended from bit LEN − 1; POS + LEN past the width is ILLEGAL. -/
def Obligations.BitResults : Prop :=
  (∀ f : BaseF,
      ComputesBits (.and f) f (fun vs => Spec.a f vs &&& Spec.b f vs)
      ∧ ComputesBits (.or f) f (fun vs => Spec.a f vs ||| Spec.b f vs)
      ∧ ComputesBits (.xor f) f (fun vs => Spec.a f vs ^^^ Spec.b f vs)
      ∧ ComputesBits (.andn f) f (fun vs => Spec.a f vs &&& ~~~(Spec.b f vs))
      ∧ ComputesBits (.not f) f (fun vs => ~~~(Spec.a f vs))
      ∧ EncodesAs (.and f) (packBase 0x11 0 f) (ScalarFields 0 true false 1 f)
      ∧ EncodesAs (.or f) (packBase 0x11 1 f) (ScalarFields 0 true false 1 f)
      ∧ EncodesAs (.xor f) (packBase 0x11 2 f) (ScalarFields 0 true false 1 f)
      ∧ EncodesAs (.andn f) (packBase 0x11 3 f) (ScalarFields 0 true false 1 f)
      ∧ EncodesAs (.not f) (packBase 0x11 4 f) (ScalarFields 0 false false 1 f)
      ∧ FnIllegal 0x11 5)
  ∧ (∀ f : BaseF,
      ComputesBits (.shl f) f (fun vs => Spec.a f vs <<< (Spec.b f vs).toNat)
      ∧ ComputesBits (.shr f) f (fun vs => Spec.a f vs >>> (Spec.b f vs).toNat)
      ∧ ComputesBits (.sar f) f (fun vs => (Spec.a f vs).sshiftRight (Spec.b f vs).toNat)
      ∧ ComputesBits (.rot f) f (fun vs => (Spec.a f vs).rotateLeft ((Spec.b f vs).toNat % BaseF.w f))
      ∧ ((Instr.popc f).wf = true → ∀ s vs, MayAct s .both (opsOf (.popc f)) 1 vs →
          exec (.popc f) s = .next (s.retire s.focus 1
            [.scalar (Spec.ext (BaseF.uns f) (BitVec.ofNat (BaseF.w f) (Spec.popc (Spec.a f vs))))]))
      ∧ ((Instr.clz f).wf = true → ∀ s vs, MayAct s .both (opsOf (.clz f)) 1 vs →
          ∃ r, Spec.isClz (Spec.a f vs) r ∧
            exec (.clz f) s = .next (s.retire s.focus 1 [.scalar (Spec.ext (BaseF.uns f) (BitVec.ofNat (BaseF.w f) r))]))
      ∧ ((Instr.ffs f).wf = true → ∀ s vs, MayAct s .both (opsOf (.ffs f)) 1 vs →
          ∃ r, Spec.isFfs (Spec.a f vs) r ∧
            exec (.ffs f) s = .next (s.retire s.focus 1 [.scalar (Spec.ext (BaseF.uns f) (BitVec.ofNat (BaseF.w f) r))]))
      ∧ Computes (.ext f) (fun vs =>
          Spec.ext (BaseF.uns f) ((w0 vs).extractLsb' (bitsNat f.mod 16 6) (bitsNat f.mod 8 6 + 1)))
      ∧ EncodesAs (.shl f) (packBase 0x12 0 f) (ScalarFields 1 true false 1 f)
      ∧ EncodesAs (.shr f) (packBase 0x12 1 f) (ScalarFields 1 true false 1 f)
      ∧ EncodesAs (.sar f) (packBase 0x12 2 f) (ScalarFields 1 true false 0 f)
      ∧ EncodesAs (.rot f) (packBase 0x12 3 f) (ScalarFields 1 true false 1 f)
      ∧ EncodesAs (.clz f) (packBase 0x12 4 f) (ScalarFields 1 false false 1 f)
      ∧ EncodesAs (.ffs f) (packBase 0x12 5 f) (ScalarFields 1 false false 1 f)
      ∧ EncodesAs (.popc f) (packBase 0x12 6 f) (ScalarFields 1 false false 1 f)
      ∧ EncodesAs (.ext f) (packBase 0x12 7 f)
          (ScalarFields 1 false false 0x3F3F01 f ∧ bitsNat f.mod 16 6 + (bitsNat f.mod 8 6 + 1) ≤ BaseF.w f)
      ∧ FnIllegal 0x12 8)

/-- R174: a compare gives 1 where the relation holds and 0 where it does not.
R175: `sel` gives B where A is not zero and C where it is. R176, R61: the immediates give their literal. With their
encodings. -/
def Obligations.SelectionResults : Prop :=
  (∀ f : BaseF,
    Computes (.cmpEq f) (fun vs => if Spec.x f vs = Spec.y f vs then 1 else 0)
    ∧ Computes (.cmpNe f) (fun vs => if Spec.x f vs = Spec.y f vs then 0 else 1)
    ∧ Computes (.cmpLt f) (fun vs => if Spec.x f vs < Spec.y f vs then 1 else 0)
    ∧ Computes (.cmpLe f) (fun vs => if Spec.x f vs ≤ Spec.y f vs then 1 else 0)
    ∧ Computes (.cmpGt f) (fun vs => if Spec.y f vs < Spec.x f vs then 1 else 0)
    ∧ Computes (.cmpGe f) (fun vs => if Spec.y f vs ≤ Spec.x f vs then 1 else 0)
    ∧ ComputesBits (.sel f) f (fun vs =>
        if w0 vs = 0 then (w2 vs).setWidth (BaseF.w f) else (w1 vs).setWidth (BaseF.w f))
    ∧ EncodesAs (.cmpEq f) (packBase 0x13 0 f) (ScalarFields 1 true false 1 f)
    ∧ EncodesAs (.cmpNe f) (packBase 0x13 1 f) (ScalarFields 1 true false 1 f)
    ∧ EncodesAs (.cmpLt f) (packBase 0x13 2 f) (ScalarFields 1 true false 1 f)
    ∧ EncodesAs (.cmpLe f) (packBase 0x13 3 f) (ScalarFields 1 true false 1 f)
    ∧ EncodesAs (.cmpGt f) (packBase 0x13 4 f) (ScalarFields 1 true false 1 f)
    ∧ EncodesAs (.cmpGe f) (packBase 0x13 5 f) (ScalarFields 1 true false 1 f)
    ∧ FnIllegal 0x13 6
    ∧ EncodesAs (.sel f) (packBase 0x14 0 f) (ScalarFields 0 true true 1 f) ∧ FnIllegal 0x14 1)
  ∧ (∀ f : ImmF,
    Computes (.li f) (fun _ => f.imm.signExtend 64) ∧ Computes (.liZ f) (fun _ => f.imm.setWidth 64)
    ∧ (f.fn = 0 → EncodesAs (.li f) (packImm 0x15 f) (f.ty = 0 ∧ f.a = 0 ∧ f.b = 0))
    ∧ (f.fn = 1 → EncodesAs (.liZ f) (packImm 0x15 f) (f.ty = 0 ∧ f.a = 0 ∧ f.b = 0))
    ∧ FnIllegal 0x15 3)
  ∧ (∀ (f : BaseF) (lit : BitVec 56),
    let good := f.ty = 0 ∧ f.a = 0 ∧ f.b = 0 ∧ f.c = 0 ∧ f.mod &&& ~~~0xFF = 0
    encode (.li64 f lit) = some [packBase 0x15 2 f, (0x0E : BitVec 8) ++ lit]
    ∧ (good → ∀ ws, decode (packBase 0x15 2 f :: ((0x0E : BitVec 8) ++ lit) :: ws) = .ok (.li64 f lit, 2))
    ∧ (¬good → ∀ ws, decode (packBase 0x15 2 f :: ((0x0E : BitVec 8) ++ lit) :: ws) = .error .illegal)
    ∧ ∀ s : State, (Instr.li64 f lit).wf = true → MayAct s .both [] 1 [] →
      exec (.li64 f lit) s = .next (s.retire s.focus 2 [.scalar (f.mod.extractLsb' 0 8 ++ lit)]))

/-- R168, R164: `nop` and `enter` only go on to the next word, and `keep` puts its operand's value, a scalar or a vector,
at the next position.
R65, R9: finishing an instruction outside a template moves the virtual PC past its words and gives its results the
next positions, the last one at distance 1; the block, the return stack and every older value stay, and nothing else in
the machine changes. -/
def Obligations.Retirement : Prop :=
  ((∀ (f : BaseF) (s : State), MayAct s .both (opsOf (.nop f)) 0 [] → exec (.nop f) s = .next (s.retire s.focus 1 []))
      ∧ (∀ (f : BaseF) (s : State), MayAct s .both (opsOf (.enter f)) 0 [] →
          exec (.enter f) s = .next (s.retire s.focus 1 []))
      ∧ (∀ (f : BaseF) (s : State) (v : Val), MayAct s .both (opsOf (.keep f)) 1 [v] →
          exec (.keep f) s = .next (s.retire s.focus 1 [v])))
  ∧ (∀ (s : State) (a : Agent) (len : Nat) (vs : List Val), s.canRun a = true → (s.ctxOf a).tmpl = [] →
      OnlyCtx s (s.retire a len vs) a
      ∧ ((s.retire a len vs).ctxOf a).vpc = (s.ctxOf a).vpc + 8 * len
      ∧ ((s.retire a len vs).ctxOf a).vals = (vs.map Slot.ready).reverse ++ (s.ctxOf a).vals
      ∧ ((s.retire a len vs).ctxOf a).pos = (s.ctxOf a).pos + vs.length
      ∧ ((s.retire a len vs).ctxOf a).blk = (s.ctxOf a).blk
      ∧ ((s.retire a len vs).ctxOf a).rets = (s.ctxOf a).rets)

/-- The frame of the instructions that compute one scalar from scalars: where they act, no flag word, descriptor slot,
port, channel, bank, pad byte, queue, reservation of a tag, trap record, special register, cache or byte of memory
changes; of the agent's context only the virtual PC, the new position and a template's progress do. -/
def Obligations.ScalarFrame : Prop :=
  ∀ (i : Instr) (s t : State) (vs : List Val), isScalarOp i = true → i.wf = true → MayAct s .both (opsOf i) 1 vs →
    exec i s = .next t →
    OnlyCtx s t s.focus ∧ (t.ctxOf s.focus).rets = (s.ctxOf s.focus).rets ∧ (t.ctxOf s.focus).blk = (s.ctxOf s.focus).blk
    ∧ (∀ a, tget unlistedByte t.hbm a = tget unlistedByte s.hbm a)
    ∧ ∀ g, (t.core g).flags = (s.core g).flags ∧ (t.core g).slots = (s.core g).slots
        ∧ (t.core g).pad = (s.core g).pad ∧ (t.core g).acc = (s.core g).acc ∧ (t.core g).cstate = (s.core g).cstate
        ∧ (t.core g).cres = (s.core g).cres ∧ (t.core g).trap = (s.core g).trap ∧ (t.core g).sepc = (s.core g).sepc

/-! Control (R165 to R168, R305 to R307). -/

/-- R165, R68, R66: a branch that is taken, its target passing the checks, starts the block there with its carried values
at positions 0 on and the return stack as it was; one that is not taken goes on after its words; what its carried operands
pop is taken either way (log 43).
R68: passing control changes only the agent's context: it stands at the block's `enter`, with the arguments at
positions 0 on, no other value, and the given return stack. -/
def Obligations.Branches : Prop :=
  (∀ (s t : State) (f : BrF) (vs ws : List Val),
      (f.cond = 0 → MayAct s .both (carryOps f.carry) 0 vs → Takes s s.focus (carryOps f.carry) vs t ws →
        s.checkTarget s.focus (branchTarget (s.ctxOf s.focus) f.off) (vs.map Val.isVec) = none →
        exec (.br f) s
          = .next (t.goTo s.focus (branchTarget (s.ctxOf s.focus) f.off).toNat ws (s.ctxOf s.focus).rets))
      ∧ (∀ w, f.cond ≠ 0 → MayAct s .both ((Want.int, f.cond) :: carryOps f.carry) 0 (.scalar w :: vs) →
        Takes s s.focus ((Want.int, f.cond) :: carryOps f.carry) (.scalar w :: vs) t (.scalar w :: ws) →
        s.checkTarget s.focus (branchTarget (s.ctxOf s.focus) f.off) (vs.map Val.isVec) = none →
        exec (.br f) s = .next
            (if w = 0 then t.retire s.focus (1 + specWordCount f.carry.length) []
             else t.goTo s.focus (branchTarget (s.ctxOf s.focus) f.off).toNat ws (s.ctxOf s.focus).rets)
        ∧ exec (.brZ f) s = .next
            (if w = 0 then t.goTo s.focus (branchTarget (s.ctxOf s.focus) f.off).toNat ws (s.ctxOf s.focus).rets
             else t.retire s.focus (1 + specWordCount f.carry.length) [])))
  ∧ (∀ (s : State) (a : Agent) (target : Nat) (vs : List Val) (rs : List RetEntry), s.canRun a = true →
      OnlyCtx s (s.goTo a target vs rs) a
      ∧ (s.goTo a target vs rs).ctxOf a
          = { vpc := target, blk := none, head := blockHead (vs.map Slot.ready), pos := vs.length,
              vals := (vs.map Slot.ready).reverse, rets := rs, tmpl := [] })

/-- R166, R167: `call` puts the virtual PC after its words on the return stack and starts its target; `ret` takes the top
of the stack off and starts the block there; both hand on their carried values, what these pop having been taken.
R356: a `ret` that pops the mark of a stream's handler returns from it, with the one scalar it carries.
R166, R167: `call` on a full return stack and `ret` on an empty one trap OPERAND. -/
def Obligations.CallAndReturn : Prop :=
  (∀ (s t : State) (f : BrF) (vs ws : List Val), MayAct s .both (carryOps f.carry) 0 vs →
      Takes s s.focus (carryOps f.carry) vs t ws →
      (retDepth (s.ctxOf s.focus).rets < 64 →
        s.checkTarget s.focus (branchTarget (s.ctxOf s.focus) f.off) (vs.map Val.isVec) = none →
        s.checkReturn s.focus ((s.ctxOf s.focus).vpc + 8 * (1 + specWordCount f.carry.length)) = none →
        exec (.call f) s = .next (t.goTo s.focus (branchTarget (s.ctxOf s.focus) f.off).toNat ws
          (.pc ((s.ctxOf s.focus).vpc + 8 * (1 + specWordCount f.carry.length)) :: (s.ctxOf s.focus).rets)))
      ∧ (∀ (v : Nat) (rs : List RetEntry), (s.ctxOf s.focus).rets = .pc v :: rs →
        s.checkTarget s.focus (v : Int) (vs.map Val.isVec) = none → exec (.ret f) s = .next (t.goTo s.focus v ws rs))
      ∧ (∀ (p : Nat) (rs : List RetEntry), s.focus = .sfe p → (s.ctxOf s.focus).rets = .mark :: rs →
        (∀ w, vs = [.scalar w] → exec (.ret f) s = .next (s.handlerReturn p (some w)))
        ∧ ((∀ w, vs ≠ [.scalar w]) → exec (.ret f) s = .next (s.handlerReturn p none))))
  ∧ (∀ (s : State) (f : BrF) (vs : List Val), MayAct s .both (carryOps f.carry) 0 vs →
      (64 ≤ retDepth (s.ctxOf s.focus).rets → exec (.call f) s
          = .next (s.trap s.focus { code := cOPERAND } [] (1 + specWordCount f.carry.length)))
      ∧ ((s.ctxOf s.focus).rets = [] → exec (.ret f) s
          = .next (s.trap s.focus { code := cOPERAND } [] (1 + specWordCount f.carry.length))))

/-- R305, R306: `trap` takes a SOFT trap with its number in ADDR and its operand in CRES0; `svc` on a core takes an SVC trap
with the call number, and its operands in CRES0 and CRES1; in stream text, once the window is empty, it hands the call to
the service, and a number above 15 answers all ones. -/
def Obligations.SoftTrapAndCall : Prop :=
  ∀ (s : State) (f : ImmF) (x y : Word),
    (MayAct s .both (opsOf (.trap f)) 0 [.scalar x] →
      exec (.trap f) s = .next (s.trapAt s.focus { code := cSOFT, addr := f.imm.toNat } [] 1 [x] 0 0))
    ∧ (MayAct s .both (opsOf (.svc f)) 1 [.scalar x, .scalar y] →
      (∀ g, s.focus = .core g → exec (.svc f) s
          = .next (s.trapAt (.core g) { code := cSVC, addr := bitsNat f.imm 0 8 } [false] 1 [x, y] 0 0))
      ∧ (∀ p, s.focus = .sfe p → s.windowEmpty p = true → exec (.svc f) s = .next
          (if 16 ≤ bitsNat f.imm 0 8 then s.retire (.sfe p) 1 [.scalar (BitVec.allOnes 64)]
           else s.modPart p (fun q => { q with sfe := { q.sfe with wait := .svc (bitsNat f.imm 0 8) x y } }))))

/-- R307, R308: in a service trap handler `eret` goes back to the kept context at SEPC, past the instruction there, with
zeros of the kinds of its results; `eret.retry` goes back to the instruction itself; both leave the handler. That
instruction is the one that trapped, or the one of its block that SEPC has been written to name; after a HEAP trap in the middle
of a block that is to be lowered afresh (R145), whose `enter` SEPC names, both go on where the block stood. After the trap of an
engine command `eret` goes back to the interrupted block with the command completed, `eret.retry` with it offered again.
R156, R307: in an EMULATE routine, once its accesses have performed, `eret` gives the matched instruction the values it
carries, at the kinds of its results, and the context goes on after that instruction. -/
def Obligations.ReturnFromException : Prop :=
  (∀ (s u : State) (g : Nat) (f : BaseF) (carry : List (BitVec 8)) (vs ws : List Val) (k : Ctx),
      s.focus = .core g → (s.core g).svcKept = some k → (s.core g).emul = none → k.tmpl = [] →
      ((s.core g).svcCmd = none →
        let at' := s.sepcShape g k
        let heap := (s.core g).sepc.toNat = k.enterPc ∧ (s.core g).sepc.toNat ≠ k.vpc
          ∧ bitsNat (s.core g).scause 0 16 = cTRANSLATE + 256
        (MayAct s .system (carryOps carry) 0 vs → Takes s s.focus (carryOps carry) vs u ws → ∃ t, exec (.eret f carry) s = .next t
          ∧ (t.core g).svcKept = none ∧ (t.core g).wait = none
          ∧ (t.core g).ctx = { at'.1 with
              vpc := at'.1.vpc + 8 * at'.2.2, pos := k.pos + at'.2.1.length,
              vals := (at'.2.1.map (fun v => Slot.ready (zeroVal v))).reverse ++ k.vals })
        ∧ (MayAct s .system (opsOf (.eretRetry f)) 0 [] → ∃ t, exec (.eretRetry f) s = .next t
          ∧ (t.core g).svcKept = none ∧ (t.core g).wait = none ∧ (t.core g).ctx = at'.1)
        ∧ (heap → at' = (k, [], 0)) ∧ (¬heap → at'.1.vpc = (s.core g).sepc.toNat)
        ∧ ((s.core g).sepc.toNat = k.vpc → at' = (k, (s.core g).svcKinds, (s.core g).svcLen))
        ∧ (∀ b i n, ¬heap → k.blk = some b → (s.core g).sepc.toNat ≠ k.vpc → b.vpc ≤ (s.core g).sepc.toNat →
          (s.core g).sepc.toNat < b.vpc + 8 * b.words.length →
          decode (b.words.drop (((s.core g).sepc.toNat - b.vpc) / 8)) = .ok (i, n) →
          at' = ({ k with vpc := (s.core g).sepc.toNat }, resultKinds k i, n)))
      ∧ (∀ q seq, (s.core g).svcCmd = some (q, seq, (s.core g).sepc.toNat) →
        (MayAct s .system (carryOps carry) 0 vs → Takes s s.focus (carryOps carry) vs u ws → ∃ t, exec (.eret f carry) s = .next t
          ∧ (t.core g).svcKept = none ∧ (t.core g).wait = none ∧ (t.core g).ctx.vpc = k.vpc ∧ (t.core g).ctx.pos = k.pos
          ∧ ∀ c ∈ (t.core g).queue q, c.seq ≠ seq)
        ∧ (MayAct s .system (opsOf (.eretRetry f)) 0 [] → ∃ t, exec (.eretRetry f) s = .next t
          ∧ (t.core g).svcKept = none ∧ (t.core g).wait = none ∧ (t.core g).ctx = k
          ∧ (t.core g).queue q = ((s.core g).queue q).map (fun c => { c with stopped := false }))))
  ∧ (∀ (s u : State) (g : Nat) (f : BaseF) (carry : List (BitVec 8)) (vs ws : List Val) (e : Emul),
      s.focus = .core g → (s.core g).emul = some e → e.fault = none → e.kept.tmpl = [] → (s.core g).acc = [] →
      MayAct s .system (carryOps carry) 0 vs → Takes s s.focus (carryOps carry) vs u ws → ws.map Val.isVec = e.kinds →
      ∃ t, exec (.eret f carry) s = .next t ∧ (t.core g).emul = none
        ∧ (t.core g).ctx = { e.kept with
            vpc := e.kept.vpc + 8 * e.len, pos := e.kept.pos + ws.length,
            vals := (ws.map Slot.ready).reverse ++ e.kept.vals })

/-! Taking an exception (R75, R76, R295 to R299, R308). -/

/-- R75, R76, R296, R298, R299: a trap of a user core that no KIND 1 patch slot acts on stops the core in TRAPPED at the
instruction, which has no effect on its values, flag words, descriptor slots or pad, and puts one record behind the others
in the trap queue of its die: virtual PC and resume point, cause, subcode of TRANSLATE, ECODE, address, core, partition,
and the GTC. CRES0 on hold what the instruction hands over. Flag word f0 of the service core counts the record, and no byte of memory changes. -/
def Obligations.TrapTaken : Prop :=
  ∀ (s : State) (g : Nat) (c : Cause) (kinds : List Bool) (len : Nat) (cres : List Word) (res qpos : Nat),
    g < 128 → (s.core g).emul = none → (s.core g).ctx.tmpl = [] →
    (c.code = cSVC ∨ s.patchFor (dieOf g) (s.core g).part 1
      (faultKey (s.core g).ctx.vpc c.code (if c.code = cTRANSLATE then c.sub else 0)) = none) →
    let t := s.trapAt (.core g) c kinds len cres res qpos
    (t.core g).cstate = .trapped ∧ (t.core g).wait = none ∧ (t.core g).ctx = (s.core g).ctx
    ∧ (t.core g).cres = tputs 0 [] 0 cres
    ∧ (t.core g).flags = (s.core g).flags ∧ (t.core g).slots = (s.core g).slots ∧ (t.core g).pad = (s.core g).pad
    ∧ t.hbm = s.hbm ∧ t.l2 = s.l2 ∧ t.parts = s.parts
    ∧ (t.core (svcOf (dieOf g))).flag 0 = flagAdd ((s.core (svcOf (dieOf g))).flag 0) 1
    ∧ ∃ r : TrapInfo, (t.die (dieOf g)).trapq = (s.die (dieOf g)).trapq ++ [r] ∧ r.note = false
      ∧ r.vpc = (s.core g).ctx.vpc ∧ r.npc = (s.core g).ctx.vpc ∧ r.cause = c.code
      ∧ r.sub = (if c.code = cTRANSLATE then c.sub else 0) ∧ r.ecode = c.ecode ∧ r.addr = c.addr ∧ r.res = res
      ∧ r.core = g ∧ r.part = (s.core g).part ∧ r.gtc = (s.die (dieOf g)).gtc

/-- R308: a trap in service code outside the handler writes SEPC, SCAUSE and SADDR, keeps the interrupted block and starts
the block at STVEC with no argument; inside the handler it stops the service core, whose die reports it, and writes none of
the three. Only that core and the report change; inside the handler the core only stops, its wait ended. The trap of an engine command outside the handler does the same at the
command's own virtual PC. -/
def Obligations.ServiceTrap : Prop :=
  ∀ (s : State) (g : Nat) (c : Cause) (kinds : List Bool) (len : Nat), isSvc g = true →
    ((s.core g).svcKept = none →
      let t := s.trap (.core g) c kinds len
      OnlyCore s t g
      ∧ (t.core g).sepc = BitVec.ofNat 64 (s.core g).ctx.vpc
      ∧ (t.core g).scause = BitVec.ofNat 64 (c.code % 256 + (c.sub % 256) * 256)
      ∧ (t.core g).saddr = BitVec.ofNat 64 c.addr
      ∧ (t.core g).svcKept = some (s.core g).ctx.dropTmpl
      ∧ (t.core g).ctx = { Ctx.reset with vpc := (s.core g).stvec.toNat })
    ∧ (∀ k, (s.core g).svcKept = some k →
      let t := s.trap (.core g) c kinds len
      t = { s with cores := t.cores, board := t.board } ∧ (∀ h, h ≠ g → t.core h = s.core h)
      ∧ t.core g = { s.core g with svcStop := true, wait := none }
      ∧ t.canRun (.core g) = false ∧ t.board.length = s.board.length + 1
      ∧ (t.core g).sepc = (s.core g).sepc ∧ (t.core g).scause = (s.core g).scause ∧ (t.core g).saddr = (s.core g).saddr)
    ∧ (∀ (q : Eng) (k : Cmd), (s.core g).svcKept = none →
      let t := s.trapCmd g q k c 0 0
      OnlyCore s t g
      ∧ (t.core g).sepc = BitVec.ofNat 64 k.vpc
      ∧ (t.core g).scause = BitVec.ofNat 64 (c.code % 256 + (c.sub % 256) * 256)
      ∧ (t.core g).saddr = BitVec.ofNat 64 c.addr
      ∧ (t.core g).svcKept = some (s.core g).ctx.dropTmpl
      ∧ (t.core g).ctx = { Ctx.reset with vpc := (s.core g).stvec.toNat })

/-- R75: every system instruction traps PRIV on a user core that executes its own text, and does nothing else.
R75: a stream instruction in kernel text, and a flag, barrier, team or `align` instruction in stream text, is the
translation fault CLASS.
R63, R65: a scalar instruction one of whose operands names a distance before the block's first position, or a value of
the wrong kind, traps OPERAND. -/
def Obligations.ClassPrivilegeAndOperandTraps : Prop :=
  (∀ (s : State) (g : Nat) (i : Instr), isSystem i = true → s.focus = .core g → Runs s g → (s.core g).emul = none →
      ∃ kinds len, exec i s = .next (s.trap (.core g) { code := cPRIV } kinds len))
  ∧ ((∀ (s : State) (g : Nat) (i : Instr), isStreamOp i = true → s.focus = .core g → Runs s g →
      ∃ kinds len, exec i s = .next (s.trap (.core g) { code := cTRANSLATE, sub := 5 } kinds len))
      ∧ (∀ (s : State) (p : Nat) (f : BaseF) (i : Instr), s.focus = .sfe p → s.canRun (.sfe p) = true →
        i ∈ [.semSig f, .semSigErr f, .semWait f, .semWaitT f, .semClr f, .semClrAll f, .barArr f, .barArrErr f, .barWait f,
             .barWaitT f, .teamJoin f, .teamLeave f, .teamBar f, .trig f, .sleepGt f, .sleepGtNt f, .align f, .vadd f,
             .csrR f, .ctxScrub f] →
        ∃ kinds len, exec i s = .next (s.trap (.sfe p) { code := cTRANSLATE, sub := 5 } kinds len)))
  ∧ (∀ (s : State) (i : Instr), isScalarOp i = true → s.canRun s.focus = true → (s.ctxOf s.focus).tmpl = [] →
      (opsOf i).all (fun o => specOk (s.ctxOf s.focus) (isStream s.focus) o.1 o.2) = false →
      exec i s = .next (s.trap s.focus { code := cOPERAND } [false] 1))

/-- R178: the checks of a scratch-pad address trap ALIGN before BOUNDS; those of a device address trap PROT outside the
address space, then ALIGN. -/
def Obligations.AddressChecks : Prop :=
  ∀ (s : State) (g n : Nat) (a : Int) (need : Need), 0 < n →
    (a % (n : Int) ≠ 0 → (s.checkAddr g true a n need).1 = .error { code := cALIGN, addr := wrapNat 64 a })
    ∧ (a % (n : Int) = 0 → (a < 0 ∨ (padBytes (s.core g) : Int) < a + n) →
        (s.checkAddr g true a n need).1 = .error { code := cBOUNDS, addr := wrapNat 64 a })
    ∧ (a % (n : Int) = 0 → 0 ≤ a → a + n ≤ (padBytes (s.core g) : Int) →
        s.checkAddr g true a n need = (.ok { pa := a.toNat, home := 0, ccls := 0, key := 0 }, s))
    ∧ ((a < 0 ∨ (2 ^ 48 : Int) < a + n) →
        (s.checkAddr g false a n need).1 = .error { code := cPROT, addr := wrapNat 64 a })
    ∧ (0 ≤ a → a + n ≤ (2 ^ 48 : Int) → a % (n : Int) ≠ 0 →
        (s.checkAddr g false a n need).1 = .error { code := cALIGN, addr := wrapNat 64 a })

/-! Flag words and waits (R187 to R191, R53). -/

/-- R189: `sem.sig` and `sem.sig.err`: their encoding, the operand traps, and, every older access having performed and their
turn of the clk (R188) not having passed, what they do to the flag word and that they produce no value. -/
def Obligations.SemSig : Prop :=
  ∀ f : BaseF,
    EncodesAs (.semSig f) (packBase 0x40 0 f) (f.ty = 0 ∧ f.b = 0 ∧ f.c = 0 ∧ f.mod &&& ~~~0x1F0000 = 0)
    ∧ EncodesAs (.semSigErr f) (packBase 0x40 1 f) (f.ty = 0 ∧ f.b = 0 ∧ f.c = 0 ∧ f.mod &&& ~~~0x1F0000 = 0)
    ∧ kindsOf (.semSig f) = [] ∧ kindsOf (.semSigErr f) = []
    ∧ opsOf (.semSig f) = [(.int, f.a)] ∧ opsOf (.semSigErr f) = [(.int, f.a)]
    ∧ FnIllegal 0x40 2
    ∧ ∀ (s : State) (g : Nat) (v : Word),
      (MayActOn s g .kernel (.semSig f) [.scalar v] →
        (2 ^ 24 ≤ v.toNat → exec (.semSig f) s = .next (s.trap (.core g) { code := cOPERAND } [] 1))
        ∧ (v.toNat < 2 ^ 24 → ((s.core g).acc ≠ [] ∨ (s.core g).turnOpen (bitsNat f.mod 16 5) 0 = false) →
          exec (.semSig f) s = .next s)
        ∧ (v.toNat < 2 ^ 24 → (s.core g).acc = [] → (s.core g).turnOpen (bitsNat f.mod 16 5) 0 = true →
          exec (.semSig f) s = .next
            ((s.modCore g (fun c => c.setFlagAt (bitsNat f.mod 16 5) 0 (mkFlag (flagErr (c.flag (bitsNat f.mod 16 5)))
              (flagEcode (c.flag (bitsNat f.mod 16 5)))
              (min (flagCount (c.flag (bitsNat f.mod 16 5)) + v.toNat) 0xFFFFFF)))).retire (.core g) 1 [])))
      ∧ (MayActOn s g .kernel (.semSigErr f) [.scalar v] →
        (v.toNat < 1 ∨ 63 < v.toNat → exec (.semSigErr f) s = .next (s.trap (.core g) { code := cOPERAND } [] 1))
        ∧ (1 ≤ v.toNat → v.toNat ≤ 63 → ((s.core g).acc ≠ [] ∨ (s.core g).turnOpen (bitsNat f.mod 16 5) 0 = false) →
          exec (.semSigErr f) s = .next s)
        ∧ (1 ≤ v.toNat → v.toNat ≤ 63 → (s.core g).acc = [] → (s.core g).turnOpen (bitsNat f.mod 16 5) 0 = true →
          exec (.semSigErr f) s = .next
            ((s.modCore g (fun c => c.setFlagAt (bitsNat f.mod 16 5) 0 (mkFlag true
              (if flagErr (c.flag (bitsNat f.mod 16 5)) then flagEcode (c.flag (bitsNat f.mod 16 5)) else v.toNat)
              (flagCount (c.flag (bitsNat f.mod 16 5)))))).retire (.core g) 1 [])))
      ∧ (∀ p, s.focus = .sfe p → s.canRun (.sfe p) = true →
          exec (.semSig f) s = .next (s.trap (.sfe p) { code := cTRANSLATE, sub := 5 } [] 1)
          ∧ exec (.semSigErr f) s = .next (s.trap (.sfe p) { code := cTRANSLATE, sub := 5 } [] 1))

/-- R187: the fields of a flag word are read back from a word made of them.
R190: `sem.wait` with a count that has been reached takes it off, in its turn of the clk (R188), and yields the word as it
stood; one that finds ERR yields the word and leaves it, and `.t` traps ERRBIT with its ECODE; one that finds neither
waits, the word unchanged; a count of 2^24 or more traps OPERAND. -/
def Obligations.SemWait : Prop :=
  (∀ (e : Bool) (ec n : Nat), ec < 64 → n < 2 ^ 24 →
      flagErr (mkFlag e ec n) = e ∧ flagEcode (mkFlag e ec n) = ec ∧ flagCount (mkFlag e ec n) = n)
  ∧ (∀ (s : State) (g : Nat) (f : BaseF) (n : Word),
      let w := (s.core g).flag (bitsNat f.mod 16 5)
      let open' := (s.core g).turnOpen (bitsNat f.mod 16 5) 4
      let took := ((((s.commit (.core g)).modCore g (fun c => c.setFlagAt (bitsNat f.mod 16 5) 4
        (mkFlag false (flagEcode w) (flagCount w - n.toNat)))).endWait g).retire (.core g) 1
          [.scalar (w.setWidth 64)])
      (MayActOn s g .kernel (.semWait f) [.scalar n] → n.toNat < 2 ^ 24 →
        (flagErr w = false → n.toNat ≤ flagCount w → open' = true → exec (.semWait f) s = .next took)
        ∧ (flagErr w = true → exec (.semWait f) s = .next ((s.endWait g).retire (.core g) 1 [.scalar (w.setWidth 64)]))
        ∧ (flagErr w = false → (flagCount w < n.toNat ∨ open' = false) → ∃ t x, exec (.semWait f) s = .next t
            ∧ (t.core g).wait = some x ∧ x.kind = .sem (bitsNat f.mod 16 5) n.toNat false ∧ OnlyCore s t g
            ∧ (t.core g).flags = (s.core g).flags ∧ (t.core g).ctx = (s.core g).ctx))
      ∧ (MayActOn s g .kernel (.semWaitT f) [.scalar n] → n.toNat < 2 ^ 24 →
        (flagErr w = false → n.toNat ≤ flagCount w → open' = true → exec (.semWaitT f) s = .next took)
        ∧ (flagErr w = true → exec (.semWaitT f) s
            = .next ((s.endWait g).trap (.core g) { code := cERRBIT, ecode := flagEcode w } [false] 1)))
      ∧ (2 ^ 24 ≤ n.toNat →
        (MayActOn s g .kernel (.semWait f) [.scalar n] →
          exec (.semWait f) s = .next (s.trap (.core g) { code := cOPERAND } [false] 1))
        ∧ (MayActOn s g .kernel (.semWaitT f) [.scalar n] →
          exec (.semWaitT f) s = .next (s.trap (.core g) { code := cOPERAND } [false] 1))))

/-- R191: `sem.clr` and `sem.clr.all`: their encoding, and that they clear ERR and ECODE, or the whole word, without a wait
for older accesses, in their turn of the clk (R188), produce no value, and are kernel text only. -/
def Obligations.SemClr : Prop :=
  ∀ f : BaseF,
    EncodesAs (.semClr f) (packBase 0x42 0 f) (f.ty = 0 ∧ f.a = 0 ∧ f.b = 0 ∧ f.c = 0 ∧ f.mod &&& ~~~0x1F0000 = 0)
    ∧ EncodesAs (.semClrAll f) (packBase 0x42 1 f) (f.ty = 0 ∧ f.a = 0 ∧ f.b = 0 ∧ f.c = 0 ∧ f.mod &&& ~~~0x1F0000 = 0)
    ∧ kindsOf (.semClr f) = [] ∧ kindsOf (.semClrAll f) = []
    ∧ FnIllegal 0x42 2
    ∧ ∀ s : State,
      (∀ g, MayActOn s g .kernel (.semClr f) [] → exec (.semClr f) s = .next
        (if (s.core g).turnOpen (bitsNat f.mod 16 5) 0 then
          ((s.commit (.core g)).modCore g (fun c => c.setFlagAt (bitsNat f.mod 16 5) 0
            (mkFlag false 0 (flagCount (c.flag (bitsNat f.mod 16 5)))))).retire (.core g) 1 []
         else s))
      ∧ (∀ g, MayActOn s g .kernel (.semClrAll f) [] → exec (.semClrAll f) s = .next
        (if (s.core g).turnOpen (bitsNat f.mod 16 5) 0 then
          ((s.commit (.core g)).modCore g (fun c => c.setFlagAt (bitsNat f.mod 16 5) 0 0)).retire (.core g) 1 []
         else s))
      ∧ (∀ p, s.focus = .sfe p → s.canRun (.sfe p) = true →
          exec (.semClr f) s = .next (s.trap (.sfe p) { code := cTRANSLATE, sub := 5 } [] 1)
          ∧ exec (.semClrAll f) s = .next (s.trap (.sfe p) { code := cTRANSLATE, sub := 5 } [] 1))

/-- R53: the bound of a wait is its own nonzero field, else the kernel's default of its class, else 2^24: of every wait that the
sequencer registers, the class of a flag wait being BFLAG, of a barrier wait and of the waits of teams BBAR, of a wait for what
it pops BCHAN, of a push BPUSH and of `sleep.gt` BSLEEP; of an entry of VQ, BFLAG for `vsem.wait` and BCHAN for the others; and of
the waits of MQ and CQ, which have no field of their own: BFLAG of the flag wait of a command, BBAR of those of a gang, BCHAN of
those for a channel. -/
def Obligations.WaitBounds : Prop :=
  (∀ (s : State) (g : Nat) (k : WaitKind) (own dflt : Nat), (s.core g).wait = none →
    ((s.waitB g k own dflt).core g).wait
      = some { kind := k, stall := 0,
               bound := some (2 ^ (if own ≠ 0 then own else if dflt ≠ 0 then dflt else 24)) })
    ∧ (∀ (s : State) (g : Nat) (flag n own : Nat) (t : Bool),
        flagWait ((s.core g).flag flag) n = .no →
        s.semStep g flag n t own = s.waitB g (.sem flag n t) own ((s.core g).dflt (·.bflag)))
    ∧ (∀ (s : State) (g gen scope own : Nat) (t : Bool) (x : Acc),
        ((s.core g).barHeld x = true ∨ s.held (dieOf g) x.path false (s.atomicPath g (s.scopeOf g scope) x.path) = true →
          s.barStep g x gen t scope own = s.waitB g (.barWait x gen t scope) own ((s.core g).dflt (·.bbar)))
        ∧ (∀ w u, (s.core g).barHeld x = false →
          s.held (dieOf g) x.path false (s.atomicPath g (s.scopeOf g scope) x.path) = false →
          s.barRead g (s.scopeOf g scope) x = (.ok w, u) → w / 2 ^ 32 % 2 ^ 16 = gen → w / 2 ^ 63 % 2 = 0 →
          s.barStep g x gen t scope own = u.waitB g (.barWait x gen t scope) own ((u.core g).dflt (·.bbar))))
    ∧ (∀ (s : State) (g len : Nat) (ops : List (Want × BitVec 8)) (vs : List Val) (k : State → List Val → Out),
        let srcs := ops.map (fun o => if isPop (s.core g).ctx o.2 then (s.core g).ctx.expand o.2 else 0)
        noPops (s.core g).ctx ops = false → (s.core g).popChk (s.core g).ctx (ops.map (·.2)) = none →
        (s.core g).vq.all (·.done) = true → (s.core g).takeAll (srcs.zip (vs.map .ready)) = .wait →
        s.popThen (.core g) ops vs len k = .next (s.waitB g (.pops srcs) 0 ((s.core g).dflt (·.bchan))))
    ∧ (∀ (s : State) (g key own : Nat) (t : Team), s.teamOf g = some t → t.complete = false →
        s.joinStep g key own = s.waitB g (.teamJoin key) own ((s.core g).dflt (·.bbar)))
    ∧ (∀ (s : State) (g key gen scope own : Nat) (t : Team), s.teamOf g = some t → t.gen = gen → t.broken = false →
        s.teamBarStep g key gen scope own = s.waitB g (.teamBar key gen scope) own ((s.core g).dflt (·.bbar)))
    ∧ (∀ (s : State) (g : Nat) (q : Eng) (k : Cmd), (s.core g).pushHeld = false → (s.core g).canPush q k.instr = false →
        s.tryPush g q k = s.waitB g (.push q k) 0 ((s.core g).dflt (·.bpush)))
    ∧ (∀ (s : State) (g time tag own : Nat) (nt : Bool), (s.core g).late = false →
        gtcReached (s.die (dieOf g)).gtc time = false →
        s.sleepStep g time tag nt false own = s.waitB g (.sleep time tag nt false) own ((s.core g).dflt (·.bsleep)))
    ∧ (∀ (c : Core) (f : BaseF), c.vBound (.vsemWait f)
        = (if bitsNat f.mod 11 5 ≠ 0 then bitsNat f.mod 11 5 else if c.dflt (·.bflag) ≠ 0 then c.dflt (·.bflag) else 24))
    ∧ (∀ (c : Core) (i : Instr), (∀ f, i ≠ .vsemWait f) → c.vBound i
        = (if bitsNat (baseOf i).mod 11 5 ≠ 0 then bitsNat (baseOf i).mod 11 5
           else if c.dflt (·.bchan) ≠ 0 then c.dflt (·.bchan) else 24))
    ∧ (∀ (s : State) (g : Nat) (x : Cmd × Nat × Nat),
        let c := s.core g
        let dflt := if 32 ≤ x.2.1 ∧ x.2.1 < 64 then c.dflt (·.bflag) else if x.2.1 = 163 then c.dflt (·.bbar) else c.dflt (·.bchan)
        (x ∈ s.headWaits g .v → x.2.2 = c.vBound x.1.instr)
        ∧ (∀ q, q ≠ .v → x ∈ s.headWaits g q → x.2.2 = if dflt ≠ 0 then dflt else 24))

/-! Loads, stores, atomics and ordering (R177 to R182, R254 to R256, R262, R275 to R283). -/

/-- R177, R178, R179, R181: a load or a store whose address passes its checks, by address or by tensor element, becomes the
youngest access, with the bytes of its type, its extension, its data and its hint; a load's result waits.
R81, R179: outside the tensor a load of an element gives 0 and a store is dropped, or both trap BOUNDS; an element of the pad
that lies outside its extent traps BOUNDS, an unaligned one too.
R90, R182: a load in stream text reads its page through the L2 at once; a store waits for the window and writes there. -/
def Obligations.LoadsAndStoresQueue : Prop :=
  ∀ (s : State) (g : Nat),
    (∀ (f : ImmF) (b : Word), MayActOn s g .both (.ld f) [.scalar b] →
      QueuesAccess s g (.ld f) (.load (8 * sizeOfTy f.ty.toNat) (!f.fn.getLsbD 3) false) (f.fn.getLsbD 2)
        (b.toInt + f.imm.toInt) (sizeOfTy f.ty.toNat) Need.load 0 (bitsNat f.fn 0 2) 1)
    ∧ (∀ (f : ImmF) (b v : Word), MayActOn s g .both (.st f) [.scalar b, .scalar v] →
      QueuesAccess s g (.st f) (.store none) (f.fn.getLsbD 2)
        (b.toInt + f.imm.toInt) (sizeOfTy f.ty.toNat) Need.store (v.toNat % 2 ^ (8 * sizeOfTy f.ty.toNat))
        (bitsNat f.fn 0 2) 0)
    ∧ (∀ (f : BaseF) (o : Word) (e0 e1 e2 : Int) (byte : Nat) (hi : Option Bool),
      let d := Desc.of ((s.core g).slot (bitsNat f.mod 16 6))
      MayActOn s g .kernel (.ldD f) [.scalar o] → (s.core g).slotBusy (bitsNat f.mod 16 6) = false → descFault d = none →
      offsetIdx d o.toInt = (e0, e1, e2) → d.locate e0 e1 e2 false = .at byte hi →
      QueuesAccess s g (.ldD f) (.load (tyWidth d.fmt) (!f.mod.getLsbD 0 && isIntTy d.fmt) (hi == some true)) (d.space == 1)
        byte (ceilDiv (tyWidth d.fmt) 8) Need.load 0 0 1)
    ∧ (∀ (f : BaseF) (o v : Word) (e0 e1 e2 : Int) (byte : Nat) (hi : Option Bool),
      let d := Desc.of ((s.core g).slot (bitsNat f.mod 16 6))
      MayActOn s g .kernel (.stD f) [.scalar o, .scalar v] → (s.core g).slotBusy (bitsNat f.mod 16 6) = false →
      descFault d = none → offsetIdx d o.toInt = (e0, e1, e2) → d.locate e0 e1 e2 true = .at byte hi →
      QueuesAccess s g (.stD f) (.store hi) (d.space == 1) byte (ceilDiv (tyWidth d.fmt) 8) Need.store
        (v.toNat % 2 ^ tyWidth d.fmt) 0 0)
    ∧ (∀ (f : BaseF) (o v : Word) (e0 e1 e2 : Int),
      let d := Desc.of ((s.core g).slot (bitsNat f.mod 16 6))
      (s.core g).slotBusy (bitsNat f.mod 16 6) = false → descFault d = none → offsetIdx d o.toInt = (e0, e1, e2) →
      (MayActOn s g .kernel (.ldD f) [.scalar o] →
        (d.locate e0 e1 e2 false = .zero → exec (.ldD f) s = .next (s.retire (.core g) 1 [.scalar 0]))
        ∧ (d.locate e0 e1 e2 false = .bounds →
          exec (.ldD f) s = .next (s.trap (.core g) { code := cBOUNDS } [false] 1)))
      ∧ (∀ byte hi, d.space = 1 → padBytes (s.core g) < byte + ceilDiv (tyWidth d.fmt) 8 →
        (MayActOn s g .kernel (.ldD f) [.scalar o] → d.locate e0 e1 e2 false = .at byte hi →
          exec (.ldD f) s = .next (s.trap (.core g) { code := cBOUNDS, addr := byte } [false] 1))
        ∧ (MayActOn s g .kernel (.stD f) [.scalar o, .scalar v] → d.locate e0 e1 e2 true = .at byte hi →
          exec (.stD f) s = .next (s.trap (.core g) { code := cBOUNDS, addr := byte } [] 1)))
      ∧ (MayActOn s g .kernel (.stD f) [.scalar o, .scalar v] →
        (d.locate e0 e1 e2 true = .drop → exec (.stD f) s = .next (s.retire (.core g) 1 []))
        ∧ (d.locate e0 e1 e2 true = .bounds → exec (.stD f) s = .next (s.trap (.core g) { code := cBOUNDS } [] 1))))
    ∧ (∀ (p : Nat) (f : ImmF) (x : Path), f.fn.getLsbD 2 = false → bitsNat f.fn 0 2 = 0 → s.focus = .sfe p →
      (∀ b w t, MayAct s .both (opsOf (.ld f)) 1 [.scalar b] →
        s.streamPath p (b.toInt + f.imm.toInt) (sizeOfTy f.ty.toNat) Need.load = .ok x →
        s.streamHeld p x = false → s.readPath (some p) x (sizeOfTy f.ty.toNat) [.l2] = (.ok w, t) →
        exec (.ld f) s
          = .next (t.retire (.sfe p) 1 [.scalar (loadedWord (8 * sizeOfTy f.ty.toNat) (!f.fn.getLsbD 3) false w)]))
      ∧ (∀ b v : Word, MayAct s .both (opsOf (.st f)) 0 [.scalar b, .scalar v] → s.windowEmpty p = true →
        s.streamPath p (b.toInt + f.imm.toInt) (sizeOfTy f.ty.toNat) Need.store = .ok x →
        s.streamHeld p x = false → s.unreachable x.home = false →
        exec (.st f) s = .next (((s.writePath (some p) x (sizeOfTy f.ty.toNat) v.toNat [.l2]).modPart p
          (fun q => { q with sfe := { q.sfe with stores := (x.pa / 64) :: q.sfe.stores } })).retire (.sfe p) 1 [])))

/-- R282, R283, R285: an atomic or a barrier arrival whose address is aligned and both readable and writable becomes the
youngest access, with its function, scope, release and acquire.
R180, R280, R281: fences, `align`, `cwb` and `cinv` take their place among the accesses. -/
def Obligations.AtomicsAndFencesQueue : Prop :=
  (∀ (s : State) (g : Nat) (f : BaseF) (a v z : Word),
      (∀ x ∈ [(Instr.amoAdd f, 0), (.amoMin f, 1), (.amoMax f, 2), (.amoAnd f, 3), (.amoOr f, 4), (.amoXor f, 5), (.amoSwap f, 6)],
        MayActOn s g .kernel x.1 [.scalar a, .scalar v] →
        QueuesAccess s g x.1 (.amo x.2 (f.mod.getLsbD 0) (bitsNat f.mod 8 3) (f.mod.getLsbD 7) (f.mod.getLsbD 6) 0) false
          a.toInt (sizeOfTy f.ty.toNat) Need.both v.toNat 0 1)
      ∧ (MayActOn s g .kernel (.cas f) [.scalar a, .scalar v, .scalar z] →
        QueuesAccess s g (.cas f) (.amo 7 (f.mod.getLsbD 0) (bitsNat f.mod 8 3) (f.mod.getLsbD 7) (f.mod.getLsbD 6) z.toNat)
          false a.toInt (sizeOfTy f.ty.toNat) Need.both v.toNat 0 1)
      ∧ (MayActOn s g .kernel (.barArr f) [.scalar a, .scalar v] → 1 ≤ v.toNat → v.toNat < 2 ^ 32 →
        QueuesAccess s g (.barArr f) (.barArr v.toNat none (bitsNat f.mod 8 3)) false a.toInt 8 Need.both 0 0 1)
      ∧ (MayActOn s g .kernel (.barArrErr f) [.scalar a, .scalar v, .scalar z] → 1 ≤ v.toNat → v.toNat < 2 ^ 32 →
        1 ≤ z.toNat → z.toNat ≤ 63 →
        QueuesAccess s g (.barArrErr f) (.barArr v.toNat (some z.toNat) (bitsNat f.mod 8 3)) false a.toInt 8 Need.both 0
          0 1))
  ∧ (∀ (s : State) (g : Nat) (f : BaseF),
      (s.focus = .core g → MayAct s .both [] 0 [] →
        QueuesPlain s g (.fenceAcq f) (.fence false true (bitsNat f.mod 8 3))
        ∧ QueuesPlain s g (.fenceRel f) (.fence true false (bitsNat f.mod 8 3))
        ∧ QueuesPlain s g (.fenceAr f) (.fence true true (bitsNat f.mod 8 3)))
      ∧ (MayActOn s g .kernel (.align f) [] → QueuesPlain s g (.align f) .align)
      ∧ (∀ (a n : Word) (runs : List (Nat × Nat)), 0 ≤ a.toInt → a.toInt + n.toNat ≤ (2 ^ 48 : Int) → 1 ≤ n.toNat →
        n.toNat ≤ 2 ^ 32 → s.cacheRuns g a.toInt.toNat n.toNat = .ok runs →
        (MayActOn s g .kernel (.cwb f) [.scalar a, .scalar n] →
          QueuesPlain s g (.cwb f) (.cacheOp false (bitsNat f.mod 8 3) runs))
        ∧ (MayActOn s g .kernel (.cinv f) [.scalar a, .scalar n] →
          QueuesPlain s g (.cinv f) (.cacheOp true (bitsNat f.mod 8 3) runs))))

/-- R181, R161: queueing an access puts it behind the others, unless it is an `align` with none before it (or the oldest is
one that has nothing left to do); the instruction goes on, its result a position that waits, and nothing else of the core changes. -/
def Obligations.IssueAccess : Prop :=
  ∀ (c : Core) (x : Acc) (len : Nat), c.ctx.tmpl = [] →
    (∀ y ∈ (c.acc ++ [x]).head?, y.op ≠ .align ∧ (y.stage = .performed → ∀ n, y.op ≠ .tdRec n)) →
    c.issueAcc x 1 len
      = { c with acc := c.acc ++ [x], serials := c.serials + 1,
                 ctx := { c.ctx with vpc := c.ctx.vpc + 8 * len, pos := c.ctx.pos + 1,
                                     vals := .pending false c.serials :: c.ctx.vals } }
    ∧ c.issueAcc x 0 len
      = { c with acc := c.acc ++ [x], ctx := { c.ctx with vpc := c.ctx.vpc + 8 * len } }

/-- R181, R178: LOAD_PERFORM on a pad load that is the oldest access gives its position the bytes of the pad, extended, and
takes the load out of LQ; no byte of the pad or of memory changes. (Accesses that a younger effect has passed keep what they
would read: `remark`, assumption 15.)
R181, R250: STORE_LEAVE_SQ on a pad store that is the oldest access writes its bytes and no other: a sector of the pad
that nothing had written reads as zero besides; memory, the flag words and every other core are as before. -/
def Obligations.PadAccessesPerform : Prop :=
  (∀ (s : State) (g : Nat) (x : Acc) (xs : List Acc) (bits : Nat) (sx hi : Bool),
      Performs s g → (s.core g).acc = x :: xs → x.op = .load bits sx hi → x.stage = .waiting → x.pad = true → 1 ≤ x.size →
      x.bad = none → s.readsEarly g 0 = false → (s.core g).padPoison x.path.pa x.size = none →
      ∃ t, exec .loadPerform s = .next t ∧ OnlyCore s t g
        ∧ t = (s.modCore g (fun c => (c.dropAcc 0).deliver x.dest
            (.scalar (loadedWord bits sx hi (bytesToNat ((List.range x.size).map (fun i => c.padByte (x.path.pa + i)))))))).remark g
        ∧ (∀ a, (t.core g).padByte a = (s.core g).padByte a) ∧ ∀ a, t.hbmByte a = s.hbmByte a)
  ∧ (∀ (s : State) (g : Nat) (x : Acc) (xs : List Acc),
      Performs s g → (s.core g).acc = x :: xs → x.op = .store none → x.pad = true → 1 ≤ x.size →
      ∃ t, exec .storeLeaveSq s = .next t ∧ OnlyCore s t g
        ∧ (∀ a, (t.core g).padByte a =
            if x.path.pa ≤ a ∧ a < x.path.pa + x.size then BitVec.ofNat 8 (x.data / 256 ^ (a - x.path.pa) % 256)
            else if x.path.pa / 64 ≤ a / 64 ∧ a / 64 ≤ (x.path.pa + x.size - 1) / 64
              ∧ tget false (s.core g).padW (a / 64) = false then 0
            else (s.core g).padByte a)
        ∧ (t.core g).flags = (s.core g).flags ∧ (t.core g).ctx = (s.core g).ctx ∧ ∀ a, t.hbmByte a = s.hbmByte a)

/-- R181, R254, R178: LOAD_PERFORM and STORE_LEAVE_SQ on an access of device memory that is the oldest one, no link holding it
(R347), act at the storages of its path, and the access leaves its queue; the line it brings in takes its hint. (Accesses that a
younger effect has passed keep what they would read: `remark`; a load among these takes what it kept where one of them would trap
by now: assumption 15.)
R76, R178, R346, R351: a load of the pad or of device memory that finds poison, and a store whose home answers with an error,
trap POISON at their own instruction, the younger accesses discarded. -/
def Obligations.DeviceAccessesPerform : Prop :=
  ∀ (s : State) (g : Nat) (x : Acc) (xs : List Acc),
    Performs s g → (s.core g).acc = x :: xs → x.stage = .waiting → 1 ≤ x.size → s.accHeld g x = false →
    (∀ bits sx hi, x.op = .load bits sx hi →
      (∀ v t, x.pad = false → x.bad = none → s.readsEarly g 0 = false →
        (s.beforeAcc g x).readPath ((s.beforeAcc g x).partOf g) x.path x.size ((s.beforeAcc g x).accPath g x) = (.ok v, t) →
        exec .loadPerform s
          = .next (((t.noteHint g x ((s.beforeAcc g x).hasLine g x)).modCore g (fun c =>
              (c.dropAcc 0).deliver x.dest (.scalar (loadedWord bits sx hi v)))).remark g))
      ∧ (∀ v, s.readsEarly g 0 = true → x.early = some v →
        exec .loadPerform s
          = .next (s.modCore g (fun c => (c.dropAcc 0).deliver x.dest (.scalar (loadedWord bits sx hi v)))))
      ∧ (∀ e t, s.takesTrap g = true → s.readsEarly g 0 = false → s.readAcc g x = (.error e, t) →
        exec .loadPerform s = .next ((t.modCore g (fun c => { c with ctx := x.snap, acc := [], wait := none })).trap (.core g)
          { code := cPOISON, ecode := e.toNat, addr := x.addr } [false] 1)))
    ∧ (x.op = .store none → x.pad = false →
      (s.unreachable x.path.home = false →
        let t := (s.modCore g (·.dropAcc 0)).beforeAcc g x
        exec .storeLeaveSq s
          = .next ((((t.writePath (t.partOf g) x.path x.size x.data (t.accPath g x)).noteHint g x (t.hasLine g x)).modCore g
              (·.noteSec x.path.pa)).spoilAcc g x))
      ∧ (s.refused x.path.home (s.accPath g x) = true → x.committed = false → s.takesTrap g = true →
        exec .storeLeaveSq s = .next ((s.modCore g (fun c => { c with ctx := x.snap, acc := [], wait := none })).trap (.core g)
          { code := cPOISON, ecode := 1, addr := x.addr } [] 1))
      ∧ (s.refused x.path.home (s.accPath g x) = true → x.committed = true → exec .storeLeaveSq s = .next s))

/-- R262: a write to HBM changes exactly the nibbles of its mask. R253 and R262 give a mask of the bytes; that it is one of
nibbles, so that a nibble store of R179 never disturbs its neighbour, is the model's choice (assumption 45).
R256: a dirty sector that an L2 writes back is clean afterwards and its dirty nibbles, and no others, are in HBM; the
steps that move a store on and write a cache back are that write-back, and a clean line is dropped. -/
def Obligations.CacheSteps : Prop :=
  (∀ (s : State) (sec : Nat) (mask : BitVec 128) (data : BitVec 512) (poison : BitVec 8) (ecode : BitVec 6) (key gen a : Nat),
      (s.hbmWrite sec mask data poison ecode key gen).hbmByte a =
        if a / 64 = sec then
          mergeByte (bitsNat mask (2 * (a % 64)) 2) (s.hbmByte a) (data.extractLsb' (8 * (a % 64)) 8) else s.hbmByte a)
  ∧ (∀ old new : Byte, mergeByte 0 old new = old ∧ mergeByte 3 old new = new
      ∧ (mergeByte 1 old new).toNat = old.toNat / 16 * 16 + new.toNat % 16
      ∧ (mergeByte 2 old new).toNat = new.toNat / 16 * 16 + old.toNat % 16)
  ∧ ((∀ (s : State) (c : CacheId) (sec : Nat),
      exec (.storeMove c sec) s = .next (s.writeBack c sec)
      ∧ (c ≠ .l2 → exec (.cacheWriteBack c sec) s = .next (s.writeBack c sec))
      ∧ (∀ x, s.cached c sec = some x → x.dirty = 0 → exec (.cacheLineDrop c sec) s
          = .next (if c = .l2 then (s.setCached c sec none).l2Forget x.home sec else s.setCached c sec none)))
      ∧ (∀ (s : State) (sec : Nat) (x : CSec), s.cached .l2 sec = some x → x.dirty ≠ 0 →
        (s.writeBack .l2 sec).cached .l2 sec = some { x with dirty := 0 }
        ∧ ∀ a, (s.writeBack .l2 sec).hbmByte a =
          if a / 64 = sec then
            mergeByte (bitsNat x.dirty (2 * (a % 64)) 2) (s.hbmByte a) (x.data.extractLsb' (8 * (a % 64)) 8) else s.hbmByte a)
      ∧ (∀ (s : State) (g sec : Nat) (x : CSec), s.cached (.lsc g) sec = some x → x.dirty ≠ 0 →
        s.unreachable x.home = false → (s.writeBack (.lsc g) sec).cached (.lsc g) sec = some { x with dirty := 0 }))

/-- R283: the value an atomic writes, by its function.
R284, R285: what an arrival at a barrier leaves in its word: the last of n opens the next generation with no arrival,
any other counts itself; `.err` sets ERR, and ECODE where ERR was clear; a word with reserved bits set is not written. -/
def Obligations.AtomicResults : Prop :=
  (∀ (uns : Bool) (w : Nat) (x y z : BitVec w), 1 ≤ w →
    amoNew 0 uns w x.toNat y.toNat z.toNat = some (x + y).toNat
    ∧ amoNew 1 uns w x.toNat y.toNat z.toNat = some (if Spec.val uns x ≤ Spec.val uns y then x else y).toNat
    ∧ amoNew 2 uns w x.toNat y.toNat z.toNat = some (if Spec.val uns y ≤ Spec.val uns x then x else y).toNat
    ∧ amoNew 3 uns w x.toNat y.toNat z.toNat = some (x &&& y).toNat
    ∧ amoNew 4 uns w x.toNat y.toNat z.toNat = some (x ||| y).toNat
    ∧ amoNew 5 uns w x.toNat y.toNat z.toNat = some (x ^^^ y).toNat
    ∧ amoNew 6 uns w x.toNat y.toNat z.toNat = some y.toNat
    ∧ amoNew 7 uns w x.toNat y.toNat z.toNat = if x = y then some z.toNat else none)
  ∧ (∀ (count gen ec err n : Nat) (rep : Option Nat), count < 2 ^ 32 → gen < 2 ^ 16 → ec < 2 ^ 6 → err < 2 → n < 2 ^ 32 →
    1 ≤ n →
    let word (count gen ec err : Nat) : Nat := count + gen * 2 ^ 32 + ec * 2 ^ 48 + err * 2 ^ 63
    barNew (word count gen ec err) n rep
        = some (word (if n ≤ count + 1 then 0 else count + 1) (if n ≤ count + 1 then (gen + 1) % 2 ^ 16 else gen)
            (match rep with
              | none => ec
              | some c => if err = 0 then c else ec)
            (if rep.isSome then 1 else err))
      ∧ ∀ k, 1 ≤ k → k < 2 ^ 9 → barNew (word count gen ec err + k * 2 ^ 54) n rep = none)

/-- R255, R275, R283, R285: an atomic that is the oldest access makes its release first, where it has one, then ATOMIC_PERFORM reads
the old value at its storage, writes the new one there where there is one, and gives the old value to its position; one that
acquires stays until its acquire is made, any other leaves its queue. An arrival at a barrier releases and does the same; a
word with reserved bits set traps OPERAND. RELEASE_COMPLETE and ACQUIRE_COMPLETE make the release and the acquire of an atomic, of
a fence, of a satisfied `bar.wait`, of `cwb` and of `cinv`, dirty sectors that cannot leave now holding them up (R347, R351). -/
def Obligations.OrderingSteps : Prop :=
  ∀ (s : State) (g : Nat) (x : Acc) (xs : List Acc), Performs s g → (s.core g).acc = x :: xs →
    (∀ fn uns sc rel acq z, x.op = .amo fn uns sc rel acq z →
      let t0 := s.beforeAtomic g (s.scopeOf g sc) (x.path.pa / 64)
      let cs := t0.atomicPath g (s.scopeOf g sc) x.path
      (∀ old t, x.stage ≠ .performed → (rel = true → x.stage ≠ .waiting) → x.bad = none →
        s.held (dieOf g) x.path false (s.atomicPath g (s.scopeOf g sc) x.path) = false →
        t0.readPath (s.partOf g) x.path x.size cs = (.ok old, t) →
        let u := (match amoNew fn uns (8 * x.size) old (x.data % 2 ^ (8 * x.size)) (z % 2 ^ (8 * x.size)) with
          | none => t
          | some v => (t.writeHeld x.path x.size v cs).modCore g (·.noteSec x.path.pa)).modCore g
            (fun c => c.deliver x.dest (.scalar (extend (8 * x.size) uns old)))
        exec .atomicPerform s = .next
          (if acq then u.modCore g (·.modAcc 0 (fun y => { y with stage := .performed })) else u.modCore g (·.dropAcc 0)))
      ∧ (rel = true → x.stage = .waiting → s.releaseHeld g (s.scopeOf g sc) = false →
        exec .releaseComplete s
          = .next ((s.releaseAct g (s.scopeOf g sc)).modCore g (·.modAcc 0 (fun y => { y with stage := .released }))))
      ∧ (acq = true → x.stage = .performed → s.releaseHeld g (s.scopeOf g sc) = false → (∀ y ∈ xs, ∀ c, y.op ≠ .acquire c) →
        exec .acquireComplete s = .next ((s.acquireAct g (s.scopeOf g sc)).modCore g (·.dropAcc 0))))
    ∧ (∀ n err sc, x.op = .barArr n err sc →
      let t0 := s.beforeAtomic g (s.scopeOf g sc) (x.path.pa / 64)
      let cs := t0.atomicPath g (s.scopeOf g sc) x.path
      (x.stage = .waiting → s.releaseHeld g (s.scopeOf g sc) = false →
        exec .releaseComplete s
          = .next ((s.releaseAct g (s.scopeOf g sc)).modCore g (·.modAcc 0 (fun y => { y with stage := .released }))))
      ∧ (∀ old t, x.stage = .released → x.bad = none →
        s.held (dieOf g) x.path false (s.atomicPath g (s.scopeOf g sc) x.path) = false →
        t0.readPath (s.partOf g) x.path x.size cs = (.ok old, t) →
        (∀ v, barNew old n err = some v → exec .atomicPerform s = .next
          ((((t.writeHeld x.path x.size v cs).modCore g (·.noteSec x.path.pa)).modCore g
            (fun c => c.deliver x.dest (.scalar (extend (8 * x.size) true old)))).modCore g (·.dropAcc 0)))
        ∧ (barNew old n err = none → x.early = none → s.takesTrap g = true → exec .atomicPerform s = .next
          ((t.modCore g (fun c => { c with ctx := x.snap, acc := [], wait := none })).trap (.core g)
            { code := cOPERAND } [false] 1))))
    ∧ (∀ acq sc, x.op = .fence true acq sc → x.stage = .waiting → s.releaseHeld g (s.scopeOf g sc) = false →
      let t := s.releaseAct g (s.scopeOf g sc)
      exec .releaseComplete s
        = .next (if acq then t.modCore g (·.modAcc 0 (fun y => { y with stage := .released })) else t.modCore g (·.dropAcc 0)))
    ∧ (∀ sc, ((∃ rel, x.op = .fence rel true sc ∧ (rel = true → x.stage ≠ .waiting)) ∧ (∀ y ∈ xs, ∀ c, y.op ≠ .acquire c))
        ∨ x.op = .acquire sc →
      s.releaseHeld g (s.scopeOf g sc) = false →
      exec .acquireComplete s = .next ((s.acquireAct g (s.scopeOf g sc)).modCore g (·.dropAcc 0)))
    ∧ (∀ sc runs, x.op = .cacheOp false sc runs → s.releaseHeld g (if sc = 1 then 3 else sc) = false →
      exec .releaseComplete s = .next ((s.cacheAct g false sc runs).modCore g (·.dropAcc 0)))
    ∧ (∀ sc runs, x.op = .cacheOp true sc runs → s.releaseHeld g (if sc = 1 then 3 else sc) = false →
      (∀ y ∈ xs, ∀ c, y.op ≠ .acquire c) →
      exec .acquireComplete s = .next ((s.cacheAct g true sc runs).modCore g (·.dropAcc 0)))

/-! Descriptors, ports and engine commands (R85 to R87, R161, R183 to R186, R197 to R272). -/

/-- R87: `td.set` writes one field of a slot, an extent as its count less one, and no other field or slot; `td.get` reads
one back as a scalar; a value outside the field traps OPERAND.
R87, R181: `td.set.rec` is a load of 32 bytes into its slot: it queues as one, and LOAD_PERFORM puts the bytes read
into the slot (accesses that a younger effect has passed keep what they would read: assumption 15). -/
def Obligations.DescriptorSlots : Prop :=
  (∀ (s : State) (g : Nat) (f : BaseF) (v : Word),
      let n := bitsNat f.mod 16 6
      let fld := bitsNat f.mod 0 4
      let size : Bool := fld = 6 || fld = 7
      let inside : Bool := if size then 1 ≤ v.toNat && v.toNat ≤ 2 ^ 20 else v.toNat < 2 ^ fieldWidth fld
      (s.core g).slotBusy n = false →
      (MayActOn s g .kernel (.tdSet f) [.scalar v] →
        (inside = true → ∃ t, exec (.tdSet f) s = .next t
          ∧ (t.core g).ctx = (s.retire (.core g) 1 []).ctxOf (.core g)
          ∧ (∀ k, k ≠ n → (t.core g).slot k = (s.core g).slot k)
          ∧ bitsNat ((t.core g).slot n) (fieldLow fld) (fieldWidth fld) = (if size then v.toNat - 1 else v.toNat)
          ∧ (∀ b, b < fieldLow fld ∨ fieldLow fld + fieldWidth fld ≤ b →
              ((t.core g).slot n).getLsbD b = ((s.core g).slot n).getLsbD b)
          ∧ (t.core g).flags = (s.core g).flags ∧ ∀ a, t.hbmByte a = s.hbmByte a)
        ∧ (inside = false → exec (.tdSet f) s = .next (s.trap (.core g) { code := cOPERAND } [] 1)))
      ∧ (MayActOn s g .kernel (.tdGet f) [] → exec (.tdGet f) s = .next (s.retire (.core g) 1
          [.scalar (BitVec.ofNat 64 (bitsNat ((s.core g).slot n) (fieldLow fld) (fieldWidth fld) + if size then 1 else 0))])))
  ∧ (∀ (s : State) (g : Nat),
      (∀ (f : BaseF) (a : Word), MayActOn s g .kernel (.tdSetRec f) [.scalar a] →
        (s.core g).slotBusy (bitsNat f.mod 16 6) = false →
        QueuesAccess s g (.tdSetRec f) (.tdRec (bitsNat f.mod 16 6)) false a.toInt 32 Need.load 0 0 0)
      ∧ (∀ (x : Acc) (xs : List Acc) (n v : Nat) (t : State), Performs s g → (s.core g).acc = x :: xs → x.op = .tdRec n →
        x.stage = .waiting → 1 ≤ x.size → s.accHeld g x = false → s.readsEarly g 0 = false → s.readAcc g x = (.ok v, t) →
        exec .loadPerform s = .next ((t.modCore g (fun c => (c.setSlot n (BitVec.ofNat 256 v)).dropAcc 0)).remark g)))

/-- R161, R183: pushing a command that takes no copy tag puts it behind the others of its queue with the next place in
program order; each of its results takes a position that waits for it, of its kind; the sequencer goes on past its word.
Each older access stays in its place, passed by the push: one that reads keeps what it would have read now, and does not trap any
more (the model's choice: assumption 15). Nothing outside the core changes. -/
def Obligations.PushTakesItsPlace : Prop :=
  ∀ (s : State) (g : Nat) (q : Eng) (k : Cmd), takesTag k.instr = false → (s.core g).ctx.tmpl = [] →
    let t := s.pushNow g q k
    OnlyCore s t g
    ∧ (t.core g).queue q
        = (s.core g).queue q ++ [{ k with seq := (s.core g).seq, dest := (s.core g).serials }]
    ∧ (t.core g).seq = (s.core g).seq + 1 ∧ (t.core g).wait = none
    ∧ (t.core g).ctx.vpc = (s.core g).ctx.vpc + 8
    ∧ (t.core g).ctx.pos = (s.core g).ctx.pos + (kindsOf k.instr).length
    ∧ (t.core g).ctx.vals = (pendings (s.core g).serials (kindsOf k.instr)).reverse ++ (s.core g).ctx.vals
    ∧ (t.core g).acc = ((s.core g).acc.zipIdx).map (fun x => s.marked g ((s.core g).acc.take x.2) x.1)
    ∧ (∀ older x, (s.marked g older x).committed = true ∧ (s.marked g older x).op = x.op ∧ (s.marked g older x).addr = x.addr
      ∧ (∀ v, x.op.isLoad = true → x.stage = .waiting → s.wouldRead g older x = some v →
          (s.marked g older x).early = some v ∧ t.wouldTrap g older (s.marked g older x) = false))
    ∧ (t.core g).flags = (s.core g).flags ∧ (t.core g).pad = (s.core g).pad ∧ (t.core g).slots = (s.core g).slots

/-- R225, R220, R221: a vector instruction whose ports and channels are set up in program order is pushed into VQ; so are
`vput` to a port bound for writing or to a channel whose source format is its type, and `vtry` of a port or a channel. -/
def Obligations.VectorPushes : Prop :=
  ∀ (s : State) (g : Nat) (vs : List Val),
    (∀ i, isVecOp i = true → MayPush s g .v i vs → (s.core g).popChk (s.core g).ctx (popSpecs i) = none →
      exec i s = .next (s.pushNow g .v (s.command g .v i [])))
    ∧ (∀ f : BaseF, MayPush s g .v (.vtry f) vs → (s.core g).popChk (s.core g).ctx (popSpecs (.vtry f)) = none →
      ((∃ n, xKind ((s.core g).ctx.expand f.a) = .port n) ∨ (∃ n, xKind ((s.core g).ctx.expand f.a) = .pop n)) →
      exec (.vtry f) s = .next (s.pushNow g .v (s.command g .v (.vtry f) [])))
    ∧ (∀ f : BaseF,
      ((bitsNat f.mod 16 5 < 8 ∧ tget .unbound (s.core g).pview (bitsNat f.mod 16 5) = .write)
        ∨ (8 ≤ bitsNat f.mod 16 5 ∧ ∃ k, tget none (s.core g).cview (bitsNat f.mod 16 5 - 8) = some k
            ∧ bitsNat k.mod 16 4 = f.ty.toNat)) →
      (MayPush s g .v (.vput f) vs → (s.core g).popChk (s.core g).ctx (popSpecs (.vput f)) = none →
        exec (.vput f) s = .next (s.pushNow g .v (s.command g .v (.vput f) [])))
      ∧ (MayPush s g .v (.vputNb f) vs → (s.core g).popChk (s.core g).ctx (popSpecs (.vputNb f)) = none →
        exec (.vputNb f) s = .next (s.pushNow g .v (s.command g .v (.vputNb f) []))))

/-- R218, R219, R223, R228, R229: the instructions that set ports and channels up, and those that signal and wait in VQ, are
pushed once their checks pass. -/
def Obligations.PortAndFlagPushes : Prop :=
  ∀ (s : State) (g : Nat) (f : BaseF) (v : Word),
    (let b := (s.core g).slot (bitsNat f.mod 16 6)
      let d := Desc.of b
      (s.core g).slotBusy (bitsNat f.mod 16 6) = false → d.valid = true → d.space = 1 → d.misaligned = false →
      (d.bchk ≠ 0 ∨ walkInside d v = true) →
      (MayPush s g .v (.portSet f) [.scalar v] → walkInPad d v false (padBytes (s.core g)) = true →
        exec (.portSet f) s = .next (s.pushNow g .v (s.command g .v (.portSet f) [b])))
      ∧ (MayPush s g .v (.portSetW f) [.scalar v] → walkInPad d v true (padBytes (s.core g)) = true →
        exec (.portSetW f) s = .next (s.pushNow g .v (s.command g .v (.portSetW f) [b]))))
    ∧ (MayPush s g .v (.portRst f) [] → tget .unbound (s.core g).pview (bitsNat f.mod 0 3) ≠ .unbound →
        exec (.portRst f) s = .next (s.pushNow g .v (s.command g .v (.portRst f) [])))
    ∧ (MayPush s g .v (.portRstOff f) [] →
        exec (.portRstOff f) s = .next (s.pushNow g .v (s.command g .v (.portRstOff f) [])))
    ∧ (MayPush s g .v (.chanCfg f) [] → exec (.chanCfg f) s = .next (s.pushNow g .v (s.command g .v (.chanCfg f) [])))
    ∧ (MayPush s g .v (.vsemSig f) [.scalar v] → v.toNat < 2 ^ 24 →
        exec (.vsemSig f) s = .next (s.pushNow g .v (s.command g .v (.vsemSig f) [])))
    ∧ (MayPush s g .v (.vsemSigErr f) [.scalar v] → 1 ≤ v.toNat → v.toNat ≤ 63 →
        exec (.vsemSigErr f) s = .next (s.pushNow g .v (s.command g .v (.vsemSigErr f) [])))
    ∧ (MayPush s g .v (.vsemWait f) [.scalar v] → v.toNat < 2 ^ 24 →
        exec (.vsemWait f) s = .next (s.pushNow g .v (s.command g .v (.vsemWait f) [])))

/-- R225, R185: ENGINE_COMMAND_START on VQ executes the entry at its head whole: where its operands do not pop and are there,
a command that computes takes the values `vecEval` gives them, and nothing but the engine's own state changes; then
COMMAND_COMPLETE delivers the values and takes the entry out. -/
def Obligations.VectorExecutes : Prop :=
  ∀ (s : State) (g : Nat) (k : Cmd) (ks : List Cmd) (vs : List Val), s.queueRuns g .v = true →
    (s.core g).vq = k :: ks → isVecOp k.instr = true →
    (k.started = false → k.done = false → (s.core g).errinj = 0 → k.bad = none → k.ops = vs.map Slot.ready → k.srcs = List.replicate vs.length 0 →
      firstPoison vs = none → (∀ x ∈ ks, x.seq ≠ k.seq) →
      exec (.engineCommandStart g .v) s = .next (s.modCore g (fun c =>
        { c with srv := (vecEval k.instr vs c.srv).2,
                 vq := { k with started := true, out := (vecEval k.instr vs c.srv).1 } :: ks })))
    ∧ (k.started = true → k.done = false → k.tag = none → (∀ x ∈ ks, x.seq ≠ k.seq) → (∀ x ∈ ks, x.done = false) →
      exec (.commandComplete g .v 0) s = .next (s.modCore g (fun c => { c.deliverAll k.dest k.out with vq := ks })))

/-- R240: `vins`: its encoding and operands, and that its result is its vector with lane (C mod L) replaced by the low bits
of its scalar, every other lane as it was. -/
def Obligations.VectorInsert : Prop :=
  ∀ f : BaseF,
    encode (.vins f) = some [packBase 0x72 0 f]
    ∧ (wantsOf (.vins f)).1 = .vec f.ty.toNat false ∧ (wantsOf (.vins f)).2.1 = .elem f.ty.toNat false ∧ (wantsOf (.vins f)).2.2 = .int
    ∧ kindsOf (.vins f) = [true]
    ∧ ((Instr.vins f).wf = true → ∀ (v : Vec) (x n : Word) (sr : BitVec 32),
        ∃ r, vecEval (.vins f) [.vector v, .scalar x, .scalar n] sr = ([.vector r], sr)
          ∧ ∀ i, i < lanes f.ty.toNat → lane (tyWidth f.ty.toNat) r i
              = if i = n.toNat % lanes f.ty.toNat then x.toNat % 2 ^ tyWidth f.ty.toNat
                else lane (tyWidth f.ty.toNat) v i)

/-- R231, R233, R238, R239: lane by lane, integer addition and the bitwise instructions act on the lanes of their operands,
a masked-off lane giving 0; `vbc` gives its scalar, or the lane it names, to every lane; `vext` gives one lane. -/
def Obligations.LaneResults : Prop :=
  ∀ (f : BaseF) (a b m : Vec) (x : Word) (sr : BitVec 32) (i : Nat),
    let w := tyWidth f.ty.toNat
    let on : Bool := f.c = 0 || m.getLsbD (w * i)
    let at' (r : List Val × BitVec 32) : Nat := lane w (((r.1[0]?).map Val.vec).getD 0) i
    i < lanes f.ty.toNat →
    ((Instr.vand f).wf = true → at' (vecEval (.vand f) [.vector a, .vector b, .vector m] sr)
        = if on then lane w a i &&& lane w b i else 0)
    ∧ ((Instr.vor f).wf = true → at' (vecEval (.vor f) [.vector a, .vector b, .vector m] sr)
        = if on then lane w a i ||| lane w b i else 0)
    ∧ ((Instr.vxor f).wf = true → at' (vecEval (.vxor f) [.vector a, .vector b, .vector m] sr)
        = if on then lane w a i ^^^ lane w b i else 0)
    ∧ ((Instr.vadd f).wf = true → isIntTy f.ty.toNat = true →
        at' (vecEval (.vadd f) [.vector a, .vector b, .vector m] sr)
          = if on then (Spec.fit w (f.mod.getLsbD 0) (f.mod.getLsbD 1)
              (Spec.val (f.mod.getLsbD 0) (BitVec.ofNat w (lane w a i)) + Spec.val (f.mod.getLsbD 0) (BitVec.ofNat w (lane w b i)))).toNat
            else 0)
    ∧ ((Instr.vbc f).wf = true → at' (vecEval (.vbc f) [.scalar x, .vector m] sr) = if on then x.toNat % 2 ^ w else 0)
    ∧ ((Instr.vbcLane f).wf = true → at' (vecEval (.vbcLane f) [.vector a, .scalar x, .vector m] sr)
        = if on then lane w a (x.toNat % lanes f.ty.toNat) else 0)
    ∧ ((Instr.vext f).wf = true → (vecEval (.vext f) [.vector a, .scalar x] sr).1
        = [.scalar (Spec.ext (f.mod.getLsbD 0 || !isIntTy f.ty.toNat) (BitVec.ofNat w (lane w a (x.toNat % lanes f.ty.toNat))))])

/-- R197 to R210, R183: `mm`, `mm.drain` in both forms, and `mm.gang` are pushed into MQ with the descriptors their slots hold
once the checks made at push pass; a drain of a bank with no mode takes 128 rows and every column of its sectors. `mm.gang.off` is
pushed with no check of ownership (the model's choice: assumption 44).
R264 to R271, R183: the copy commands and `tlb.inv` are pushed into CQ with the descriptors their slots hold once the
checks made at push pass. -/
def Obligations.MatrixAndCopyPushes : Prop :=
  (∀ (s : State) (g : Nat) (f : EngF) (w : Word),
      (MayPush s g .m (.mm f) [] → (s.core g).slotBusy (Machine.slotA f) = false → (s.core g).slotBusy (Machine.slotB f) = false →
        s.mmChk g f ((s.core g).slot (Machine.slotA f)) ((s.core g).slot (Machine.slotB f)) = none →
        exec (.mm f) s = .next (s.pushNow g .m (s.command g .m (.mm f) [(s.core g).slot (Machine.slotA f), (s.core g).slot (Machine.slotB f)])))
      ∧ (let view := (s.core g).bview (f.fn.getLsbD 0)
        let d := Desc.of ((s.core g).slot (Machine.slotA f))
        let bb := if f.fn.getLsbD 3 then (s.core g).slot (Machine.slotB f) else 0
        let b := Desc.of bb
        let secs := s.driven g (s.core g).gview
        let m := if view.mode.isNone then 128 else view.m
        let n := if view.mode.isNone then 256 * secs.length else view.n
        (f.fn.getLsbD 3 = true → b.valid = true ∧ b.misaligned = false ∧ b.space = 1 ∧ (b.fmt = 9 ∨ b.fmt = 10 ∨ b.fmt = 11)
          ∧ n ≤ b.n0 ∧ b.base + b.rowBytes n ≤ padBytes (s.core g)) →
        secs.all (fun y => s.ownsSect (s.core g).part y) = true →
        s.scaleFault g view.refA m = none → s.scaleFault g view.refB n = none →
        (MayPush s g .m (.mmDrain f) [] → (∀ x ∈ drainSlots f false, (s.core g).slotBusy x = false) →
          d.valid = true → d.misaligned = false → d.space = 1 → d.fmt = f.ty.toNat →
          drainBounds d m n (padBytes (s.core g)) = true →
          exec (.mmDrain f) s = .next (s.pushNow g .m (s.command g .m (.mmDrain f) [(s.core g).slot (Machine.slotA f), bb])))
        ∧ (MayPush s g .m (.mmDrainQ0 f) [] → (∀ x ∈ drainSlots f true, (s.core g).slotBusy x = false) →
          (∃ k, tget none (s.core g).cview 0 = some k ∧ bitsNat k.mod 16 4 = f.ty.toNat) →
          exec (.mmDrainQ0 f) s = .next (s.pushNow g .m (s.command g .m (.mmDrainQ0 f) [0, bb]))))
      ∧ (MayPush s g .m (.mmGang f) [.scalar w] → s.ownsSect (s.core g).part g = true → w.toNat + 2 * bitsNat f.efl 0 2 ≤ 4 → w.toNat ≤ sectCol g →
        sectCol g < w.toNat + 2 * bitsNat f.efl 0 2 →
        exec (.mmGang f) s = .next (s.pushNow g .m (s.command g .m (.mmGang f) [])))
      ∧ (MayPush s g .m (.mmGangOff f) [] → exec (.mmGangOff f) s = .next (s.pushNow g .m (s.command g .m (.mmGangOff f) []))))
  ∧ (∀ (s : State) (g : Nat) (f : EngF) (vs : List Val),
      let a := (s.core g).slot (Machine.slotA f)
      let b := (s.core g).slot (Machine.slotB f)
      let c := (s.core g).slot (f.c.toNat % 64)
      let pad := padBytes (s.core g)
      (∀ n, (s.core g).slotBusy n = false) →
      (MayPush s g .c (.cp f) vs → copyChk [Desc.of a, Desc.of b] (Desc.of a) true
          ((Desc.of a).n0 == (Desc.of b).n0 && (Desc.of a).n1 == (Desc.of b).n1 && (Desc.of a).n2 == (Desc.of b).n2) true pad = none →
        exec (.cp f) s = .next (s.pushNow g .c (s.command g .c (.cp f) [a, b])))
      ∧ (MayPush s g .c (.cpFill f) vs → copyChk [Desc.of a] (Desc.of a) false true true pad = none →
        exec (.cpFill f) s = .next (s.pushNow g .c (s.command g .c (.cpFill f) [a])))
      ∧ (∀ k, MayPush s g .c (.cpQ2 f) vs → tget none (s.core g).cview 2 = some k → bitsNat k.mod 16 4 = (Desc.of b).fmt →
        copyChk [Desc.of b] (Desc.of b) false true true pad = none →
        exec (.cpQ2 f) s = .next (s.pushNow g .c (s.command g .c (.cpQ2 f) [b])))
      ∧ (∀ k, MayPush s g .c (.cpQ3 f) vs → tget none (s.core g).cview 3 = some k → k.snk = (Desc.of a).fmt →
        copyChk [Desc.of a] (Desc.of a) false true true pad = none →
        exec (.cpQ3 f) s = .next (s.pushNow g .c (s.command g .c (.cpQ3 f) [a])))
      ∧ (MayPush s g .c (.cpGather f) vs → (Desc.of c).space = 1 → (Desc.of c).fmt = 4 → (Desc.of c).n1 = 1 →
        (Desc.of c).n2 = 1 → (Desc.of a).n1 = (Desc.of c).n0 → (Desc.of a).n2 = 1 → (Desc.of b).n2 = 1 →
        (Desc.of a).n0 = (Desc.of b).n0 → ((Desc.of a).space = 1 ∨ (Desc.of b).space = 1) →
        copyChk [Desc.of a, Desc.of b, Desc.of c] (Desc.of a) false true true pad = none →
        exec (.cpGather f) s = .next (s.pushNow g .c (s.command g .c (.cpGather f) [a, b, c])))
      ∧ (∀ x n : Word, MayPush s g .c (.tlbInv f) [.scalar x, .scalar n] → 0 ≤ x.toInt → x.toInt + n.toNat ≤ (2 ^ 48 : Int) →
        exec (.tlbInv f) s = .next (s.pushNow g .c (s.command g .c (.tlbInv f) [])))
      ∧ (MayPush s g .c (.tlbInvAll f) [] →
        exec (.tlbInvAll f) s = .next (s.pushNow g .c (s.command g .c (.tlbInvAll f) []))))

/-! Barriers, teams, waits and the end of a task (R163, R252, R272, R284 to R291). -/

/-- R286 to R290: `bar.wait` on a word whose generation has moved on, or that is in error, yields the word, and an acquire
follows; else it waits; `.t` traps ERRBIT on a word in error. A `team.join` adds its core to the record, which the last one
completes, its ranks the members in ascending order; `team.leave` takes the core out of its record; the last arrival at a team
barrier completes the generation, and every waiter of it acquires and goes on. -/
def Obligations.BarriersAndTeams : Prop :=
  ∀ (s : State) (g : Nat) (f : BaseF),
    (∀ (a gen : Word) (p : Path) (t u : State) (w : Nat),
      s.checkAddr g false a.toInt 8 Need.load = (.ok p, t) →
      let x := mkAcc (t.core g) (.acquire (bitsNat f.mod 8 3)) false a.toNat 8 p 0 0
      (t.core g).barHeld x = false → t.held (dieOf g) p false (t.atomicPath g (t.scopeOf g (bitsNat f.mod 8 3)) p) = false →
      t.barRead g (t.scopeOf g (bitsNat f.mod 8 3)) x = (.ok w, u) →
      let ends := (u.modCore g (fun c =>
          c.addAcc (mkAcc c (.acquire (bitsNat f.mod 8 3)) false 0 0 p 0 0))).endWith g
            [.scalar (BitVec.ofNat 64 w)]
      (MayActOn s g .kernel (.barWait f) [.scalar a, .scalar gen] →
        (w / 2 ^ 32 % 2 ^ 16 ≠ gen.toNat % 2 ^ 16 ∨ w / 2 ^ 63 % 2 = 1) → w / 2 ^ 54 % 2 ^ 9 = 0 →
        exec (.barWait f) s = .next ends)
      ∧ (MayActOn s g .kernel (.barWaitT f) [.scalar a, .scalar gen] →
        w / 2 ^ 32 % 2 ^ 16 ≠ gen.toNat % 2 ^ 16 → w / 2 ^ 63 % 2 = 0 → w / 2 ^ 54 % 2 ^ 9 = 0 →
        exec (.barWaitT f) s = .next ends)
      ∧ (MayActOn s g .kernel (.barWaitT f) [.scalar a, .scalar gen] → w / 2 ^ 63 % 2 = 1 → w / 2 ^ 54 % 2 ^ 9 = 0 →
        exec (.barWaitT f) s = .next (u.endTrap g { code := cERRBIT, ecode := w / 2 ^ 48 % 64 } [false]))
      ∧ (w / 2 ^ 32 % 2 ^ 16 = gen.toNat % 2 ^ 16 → w / 2 ^ 63 % 2 = 0 →
        (MayActOn s g .kernel (.barWait f) [.scalar a, .scalar gen] → exec (.barWait f) s = .next (u.waitB g
          (.barWait x (gen.toNat % 2 ^ 16) false (bitsNat f.mod 8 3)) (bitsNat f.mod 11 5) ((u.core g).dflt (·.bbar))))
        ∧ (MayActOn s g .kernel (.barWaitT f) [.scalar a, .scalar gen] → exec (.barWaitT f) s = .next (u.waitB g
          (.barWait x (gen.toNat % 2 ^ 16) true (bitsNat f.mod 8 3)) (bitsNat f.mod 11 5) ((u.core g).dflt (·.bbar))))))
    ∧ (∀ (x : Acc) (gen scope stall w : Nat) (b : Option Nat) (tr : Bool) (u : State), s.focus = .core g → Runs s g →
      (s.core g).wait = some { kind := .barWait x gen tr scope, stall := stall, bound := b } →
      (s.core g).barHeld x = false → s.held (dieOf g) x.path false (s.atomicPath g (s.scopeOf g scope) x.path) = false →
      s.barRead g (s.scopeOf g scope) x = (.ok w, u) → w / 2 ^ 32 % 2 ^ 16 ≠ gen → w / 2 ^ 63 % 2 = 0 →
      w / 2 ^ 54 % 2 ^ 9 = 0 →
      exec .barWaitPoll s = .next ((u.modCore g (fun c =>
          c.addAcc (mkAcc c (.acquire scope) false 0 0 x.path 0 0))).endWith g [.scalar (BitVec.ofNat 64 w)]))
    ∧ (∀ (k n : Word), MayActOn s g .kernel (.teamJoin f) [.scalar k, .scalar n] → 1 ≤ k.toNat → k.toNat < 2 ^ 32 →
      1 ≤ n.toNat → n.toNat ≤ 128 → (s.core g).wait = none → (s.core g).teamKey = none →
      ((s.part (s.core g).part).teams.find? (fun t => t.key = k.toNat) = none ∧ (s.part (s.core g).part).teams.length < 64
        ∨ ∃ t, (s.part (s.core g).part).teams.find? (fun t => t.key = k.toNat) = some t ∧ t.count = n.toNat ∧ t.complete = false) →
      exec (.teamJoin f) s = .next (((s.commit (.core g)).joinTeam g k.toNat n.toNat).joinStep g k.toNat (bitsNat f.mod 11 5)))
    ∧ (∀ (key n : Nat), ∃ r, ((s.joinTeam g key n).part (s.core g).part).teams.find? (fun t => t.key = key) = some r
      ∧ ((s.joinTeam g key n).core g).teamKey = some key ∧ r.complete = (r.members.length == r.count)
      ∧ (r.complete = true → r.ranks.Pairwise (· ≤ ·) ∧ ∀ x, x ∈ r.ranks ↔ x ∈ r.members)
      ∧ (∀ t, (s.part (s.core g).part).teams.find? (fun t => t.key = key) = some t →
        r.members = t.members ++ [g] ∧ r.count = t.count ∧ r.gen = t.gen)
      ∧ ((s.part (s.core g).part).teams.find? (fun t => t.key = key) = none → r.members = [g] ∧ r.count = n ∧ r.gen = 0))
    ∧ (((s.leaveTeam g).core g).teamKey = none ∧ ((s.leaveTeam g).core g).team = none
      ∧ ∀ r, r ∈ ((s.leaveTeam g).part (s.core g).part).teams ↔ r.members ≠ [] ∧ ∃ t ∈ (s.part (s.core g).part).teams,
          r = { t with members := t.members.filter (· != g) })
    ∧ (∀ (p key : Nat) (t : Team), (s.part p).teams.find? (fun t => t.key = key) = some t → g ∉ t.arrived →
      ((s.arrive p g key).part p).teams.find? (fun t => t.key = key)
        = some (if t.arrived.length + 1 = t.count then { t with arrived := [], gen := t.gen + 1 }
            else { t with arrived := t.arrived ++ [g] }))
    ∧ (∀ (key stall : Nat) (b : Option Nat) (t : Team), s.focus = .core g → Runs s g →
      (s.core g).wait = some { kind := .teamJoin key, stall := stall, bound := b } → s.teamOf g = some t → t.complete = true →
      exec .teamJoinComplete s = .next ((s.modCore g (fun c =>
        { c with team := some ((t.ranks.findIdx? (· == g)).getD 0, t.count) })).endWith g []))
    ∧ (MayActOn s g .kernel (.teamLeave f) [] →
      exec (.teamLeave f) s = .next (((s.commit (.core g)).leaveTeam g).retire (.core g) 1 []))
    ∧ (∀ t : Team, MayActOn s g .kernel (.teamBar f) [] → (s.core g).wait = none → s.teamOf g = some t →
      t.complete = true → t.broken = false → (s.core g).writesDone = true →
      s.releaseHeld g (s.scopeOf g (bitsNat f.mod 8 3)) = false →
      exec (.teamBar f) s = .next ((((s.commit (.core g)).releaseAct g (s.scopeOf g (bitsNat f.mod 8 3))).arrive
        (s.core g).part g t.key).teamBarStep g t.key t.gen (bitsNat f.mod 8 3) (bitsNat f.mod 11 5)))
    ∧ (∀ (gen scope own : Nat) (t : Team), s.teamOf g = some t → t.gen ≠ gen →
      s.teamBarStep g t.key gen scope own = (s.acquireNow g scope).endWith g []
      ∧ (s.releaseHeld g (s.scopeOf g scope) = false → s.acquireNow g scope = s.acquireAct g (s.scopeOf g scope)))
    ∧ (∀ (p key gen scope stall : Nat) (b : Option Nat) (t : Team), Runs s g → (s.core g).part = p →
      (s.core g).wait = some { kind := .teamBar key gen scope, stall := stall, bound := b } → s.teamOf g = some t →
      t.gen ≠ gen → (∀ h, h < 128 → h ≠ g → ∀ gen' scope' stall' b',
        (s.core h).wait ≠ some { kind := .teamBar key gen' scope', stall := stall', bound := b' }) →
      exec (.teamBarComplete p key) s = .next ((s.acquireNow g scope).endWith g []))
    ∧ (∀ (p key : Nat), exec (.teamBarComplete p key) s = .next ((List.range 128).foldl (fun s g =>
        if (s.core g).part = p && s.canRun (.core g) then
          match (s.core g).wait with
          | some { kind := .teamBar k gen scope, stall := _, bound := _ } =>
            if k = key then s.teamBarStep g k gen scope 0 else s
          | _ => s
        else s) s))

/-- R163, R252, R272, R291, R190: once its accesses and commands are done, `trig` releases and marks the task, `phase` moves
the split, and `halt` ends the task and leaves the core idle; `sleep.gt` goes on once the GTC has reached the promised time
and the copy is done. The steps that end these waits do the same. -/
def Obligations.WaitsEnd : Prop :=
  ∀ (s : State) (g : Nat) (f : BaseF),
    ((s.core g).drained = true → s.taskHeld g = false →
      (MayActOn s g .kernel (.trig f) [] →
        exec (.trig f) s = .next ((((s.commit (.core g)).taskRelease g).markTrig g).endWith g []))
      ∧ (s.focus = .core g → g < 128 → MayAct s .both (opsOf (.halt f)) 0 [] → s.errBoundary g = none →
        (s.core g).haltErr = none →
        exec (.halt f) s = .next (s.haltFinish g))
      ∧ (MayActOn s g .kernel (.phase f) [] → ∃ t, exec (.phase f) s = .next t
          ∧ (t.core g).padUnits = bitsNat f.mod 16 5 ∧ (t.core g).wait = none
          ∧ (t.core g).ctx = (s.retire (.core g) 1 []).ctxOf (.core g))
      ∧ (s.focus = .core g → Runs s g → ∀ stall b,
        ((s.core g).wait = some { kind := .trig, stall := stall, bound := b } →
          exec .trigRelease s = .next ((((s.commit (.core g)).taskRelease g).markTrig g).endWith g []))
        ∧ ((s.core g).wait = some { kind := .halt, stall := stall, bound := b } → s.errBoundary g = none →
          (s.core g).haltErr = none → exec .haltDrainEnd s = .next (s.haltFinish g))
        ∧ (∀ k, (s.core g).wait = some { kind := .phase k, stall := stall, bound := b } →
          ∃ t, exec .phaseMove s = .next t ∧ (t.core g).padUnits = k ∧ (t.core g).wait = none)))
    ∧ (∃ t, t = s.haltFinish g ∧ (t.core g).cstate = .idle ∧ (t.core g).task = none ∧ (t.core g).wait = none
        ∧ (t.core g).ports = [] ∧ (t.core g).chans = [] ∧ (t.core g).teamKey = none)
    ∧ (∀ v : Word, v.toNat % 256 ≤ 31 → (s.core g).wait = none → (s.core g).late = false →
      gtcReached (s.die (dieOf g)).gtc (v.toNat / 256) = true →
      (((s.core g).tag (v.toNat % 256)).st = .done ∨ ((s.core g).tag (v.toNat % 256)).st = .free
        ∨ ((s.core g).tag (v.toNat % 256)).time ≠ v.toNat / 256) →
      (MayActOn s g .kernel (.sleepGt f) [.scalar v] →
        exec (.sleepGt f) s = .next (s.sleepEnd g (v.toNat / 256) (v.toNat % 256) false 0))
      ∧ (MayActOn s g .kernel (.sleepGtNt f) [.scalar v] →
        exec (.sleepGtNt f) s = .next (s.sleepEnd g (v.toNat / 256) (v.toNat % 256) true 0)))
    ∧ (∀ (time tag stall : Nat) (b : Option Nat) (nt : Bool), s.focus = .core g → Runs s g →
      (s.core g).wait = some { kind := .sleep time tag nt false, stall := stall, bound := b } → (s.core g).late = false →
      gtcReached (s.die (dieOf g)).gtc time = true → ((s.core g).tag tag).st = .done →
      exec .promiseTimeReached s = .next (s.sleepEnd g time tag nt 0))
    ∧ (∀ (flag n stall : Nat) (b : Option Nat) (tr : Bool), s.focus = .core g → Runs s g →
      (s.core g).wait = some { kind := .sem flag n tr, stall := stall, bound := b } →
      flagErr ((s.core g).flag flag) = false → n ≤ flagCount ((s.core g).flag flag) → (s.core g).turnOpen flag 4 = true →
      exec .semWaitSatisfied s = .next (((s.commit (.core g)).modCore g (fun c =>
        c.setFlagAt flag 4 (flagSub ((s.core g).flag flag) n))).endWith g [.scalar (((s.core g).flag flag).setWidth 64)]))

/-! Streams (R88 to R130). -/

/-- R90, R92, R104, R109: a stream instruction that finds a window entry, a checkpoint where it draws buffers, and the buffers
in their pools is renamed into the window: the entry after the youngest waits with the instruction, its virtual PC and its
operands, and with the check of R114 that failed, if one did; the front end goes on past it, with a position that waits
where it yields a value. Where one of the three is lacking it stays where it is. -/
def Obligations.StreamInstructionsEnter : Prop :=
  ∀ (s : State) (p : Nat) (i : Instr) (vs : List Val), isStreamOp i = true → i.wf = true → s.focus = .sfe p →
    MayAct s .stream (streamOps i) (kindsOf i).length vs → (s.part p).sfe.hmode = none →
    let pl := (s.planOf p i (vs.map Val.word)).1
    ((s.part p).wcount < 128 →
      (pl.fault = none → pl.fresh ≠ [] → ((s.part p).live.filter (·.2.ckpt)).length < 32
        ∧ ((s.planOf p i (vs.map Val.word)).2.drawPbs p ((s.part p).wcount == 0) pl.fresh).isSome = true) →
      ∃ t e, exec i s = .next t ∧ (t.part p).wcount = (s.part p).wcount + 1
        ∧ (t.part p).sfe = (s.part p).sfe.pastEntry i (lenOf i)
        ∧ t.entry p (((s.part p).whead + (s.part p).wcount) % 128) = some e ∧ e.st = .wait ∧ e.instr = i
        ∧ e.spc = (s.part p).sfe.ctx.vpc ∧ e.args = vs.map Val.word ∧ e.issueFault = pl.fault ∧ e.visible = pl.visible
        ∧ e.ntask = pl.ntask ∧ (pl.fault = none → e.tens.map (·.lt) = pl.tens.map (·.lt)))
    ∧ (∀ t, s.renameIn p i (vs.map Val.word) (s.part p).sfe.ctx (s.part p).sfe.serials = .entered t →
      exec i s = .next (t.modPart p (fun q => { q with sfe := q.sfe.pastEntry i (lenOf i) })))
    ∧ (∀ n, s.renameIn p i (vs.map Val.word) (s.part p).sfe.ctx (s.part p).sfe.serials = .stall n → exec i s = .next s)

/-- R92, R93, R103, R106, R129, R130: the oldest entry that may issue goes to ISSUED, its acquire made, and the release before
the action of a synchronising instruction; one whose work is done goes to DONE; a check that fails, work that cannot be done,
or a wait past its bound, which nothing satisfies any more, takes it to FAULT with its cause; the delivery service ends a
`t.send`; and the oldest one retires from DONE, publishing its destinations.
R89, R106, R108: a stream whose window is empty ends with its status; a stream trap is taken at the oldest entry once it
is in FAULT, every younger entry discarded; and the service takes a held stream on by Complete, Restart or Kill. R108 says only
that a killed stream ends: the status `badExit` that it ends with is the model's choice (assumption 17). -/
def Obligations.WindowAndStreamSteps : Prop :=
  (∀ (s : State) (p n : Nat) (e : Entry), s.focus = .entry p n → s.entry p n = some e →
      (s.issuable p n e = true → (s.die (hostDie p)).holdStop = false → (wholeScope e.instr = true → s.entryWaits e = false) →
        (∀ x ∈ ((s.part p).live).takeWhile (fun x => x.1 != n), s.issuable p x.1 x.2 = false) →
        let t := if wholeScope e.instr then s.entryRelease p e else s
        let u := (if isTWait e.instr then t else t.entryAcquire p e).modEntry p n (fun e => { e with st := .issued })
        exec .entryIssue s = .next u ∧ u.entry p n = some { e with st := .issued })
      ∧ (e.st = .issued → (s.die (hostDie p)).holdStop = false → (isTWait e.instr = true → e.late = false) →
        s.entryHeld p e = false → s.entryWaits e = false →
        (∀ t e', s.work p e = .done t → t.entry p n = some e' → exec .entryDone s = .next (t.toDone p n e')
          ∧ (isTWait e.instr = true → exec .tWaitPoll s = .next (t.toDone p n e')))
        ∧ ((∃ f, e.instr = .tNew f ∨ e.instr = .tFree f ∨ e.instr = .tView f ∨ e.instr = .tFence f ∨ e.instr = .tSync f) →
          e.issueFault = none → exec .entryDone s = .next (s.toDone p n e))
        ∧ (∀ x w t, isTWait e.instr = true → e.issueFault = none →
          s.streamPath p ((e.args[0]?).getD 0).toInt 8 Need.load = .ok x → s.readPath (some p) x 8 [.l2] = (.ok w, t) →
          t.entry p n = some e → tWaitHolds e.instr w ((e.args[1]?).getD 0).toNat = true →
          exec .tWaitPoll s = .next (t.toDone p n e)))
      ∧ (s.toDone p n e).entry p n = some { e with st := .done }
      ∧ (e.st = .wait → ∀ c ec, e.issueFault = some (c, ec) → ∃ t, exec .entryFault s = .next t
        ∧ t.entry p n = some { e with st := .fault, cause := c, ecode := ec })
      ∧ (e.st = .issued → (s.die (hostDie p)).holdStop = false → s.entryHeld p e = false →
        ∀ t c ec, s.work p e = .fault t c ec → exec .entryFault s = .next (t.toFault p n e c ec))
      ∧ (exec .entryRetire s = .next (s.retireEntry p))
      ∧ (e.st = .issued → ∀ b, windowBound e.instr = some b → 2 ^ b < e.stall → e.got = false →
        (∃ t, exec .windowWaitBoundPassed s = .next t
          ∧ t.entry p n = some { e with st := .fault, cause := cWAITBOUND, ecode := 0 })
        ∧ (∀ d, s.takeMsg p n e d = s)
        ∧ (isTWait e.instr = true → exec .entryDone s = .next s ∧ exec .tWaitPoll s = .next s))
      ∧ (∀ b, windowBound e.instr = some b → (e.stall ≤ 2 ^ b ∨ e.got = true) → exec .windowWaitBoundPassed s = .next s)
      ∧ (e.st = .issued → ∀ h m, s.outbox.find? (fun x => x.1 = p * 128 + n) = some (p * 128 + n, h, m) →
        let rest := s.outbox.filter (fun x => x.1 != p * 128 + n)
        (∃ t, exec (.sendDeliveryComplete p n true) s = .next t ∧ t.outbox = rest ∧ t.sent = s.sent ++ [(h, m)]
          ∧ t.entry p n = some { e with st := .done })
        ∧ (∃ t, exec (.sendDeliveryComplete p n false) s = .next t ∧ t.outbox = rest ∧ t.sent = s.sent
          ∧ t.entry p n = some { e with st := .fault, cause := cERRBIT, ecode := 7 }))
      ∧ ((s.part p).live.head? = some (n, e) → e.st = .done → ∀ t, s.retireEntry p = t →
        (∀ f, e.instr ≠ .tSvc f) → (t.part p).wcount = (s.part p).wcount - 1 ∧ t.entry p n = none
          ∧ (t.part p).committed = ((s.part p).publish e).committed))
  ∧ (∀ (s : State) (p : Nat), s.focus = .sfe p →
      (∀ w, (s.part p).sfe.wait = .endStream w → s.windowEmpty p = true → exec .streamEnd s = .next (s.endStream p w)
        ∧ ((s.endStream p w).part p).sfe.running = false ∧ ((s.endStream p w).part p).srec = none
        ∧ (s.endStream p w).ctlOut = s.ctlOut ++ [exitReport (s.part p).sfe.reqid w])
      ∧ (exec .streamTrap s = .next (s.streamTrap p))
      ∧ (∀ n e younger, (s.part p).live = (n, e) :: younger → e.st = .fault → (s.part p).sfe.hmode = none →
        (s.part p).sfe.handler = none → (younger = [] ∨ s.linksHold = false) → (∀ x ∈ younger, x.1 ≠ n) →
        ∃ t r, exec .streamTrap s = .next t ∧ (t.part p).srec = some r ∧ r.spc = e.spc ∧ r.entry = n ∧ r.ntask = e.ntask
          ∧ r.ndone = e.bitmap.length ∧ r.nfault = e.trapped.length
          ∧ (e.trapped = [] → r.kind = 1 ∧ r.cause = e.cause) ∧ (e.trapped ≠ [] → r.kind = 0)
          ∧ (t.part p).sfe.wait = .held ∧ (t.part p).sfe.ctx = e.snap ∧ t.entry p n = some { e with st := .held }
          ∧ (t.part p).wcount = 1 ∧ (t.part p).rename = (s.part p).committed ∧ ∀ x ∈ younger, t.entry p x.1 = none)
      ∧ (∀ kind c sub spc ec, (s.part p).live = [] → (s.part p).sfe.wait = .trap kind c sub spc ec → (s.part p).sfe.handler = none →
        ∃ t r, exec .streamTrap s = .next t ∧ (t.part p).srec = some r ∧ r.spc = spc ∧ r.cause = c ∧ r.sub = sub ∧ r.kind = kind
          ∧ (t.part p).sfe.wait = .held)
      ∧ ((s.part p).trapHeld = true →
        exec .streamComplete s = .next (s.takeOn p 1) ∧ exec .streamRestart s = .next (s.takeOn p 2)
        ∧ exec .streamKill s = .next (s.endStream p badExit)
        ∧ (∀ r n e, (s.part p).srec = some r → (s.part p).heldEntry = some (n, e) →
          (canComplete r e = true → exec .streamComplete s = .next (s.completeEntry p n e)
            ∧ ((s.completeEntry p n e).part p).srec = none ∧ ((s.completeEntry p n e).part p).sfe.wait ≠ .held
            ∧ ∃ x, (s.completeEntry p n e).entry p n = some x ∧ x.st = .wait ∧ x.bitmap = e.bitmap ∧ x.trapped = []
              ∧ x.next = 0 ∧ x.issueFault = none)
          ∧ (canComplete r e = false → exec .streamComplete s = .next (s.endStream p badExit))
          ∧ exec .streamRestart s = .next (s.restartEntry p n e)
          ∧ ((s.restartEntry p n e).part p).srec = none ∧ ((s.restartEntry p n e).part p).whead = n)))

/-! Placement, the translator and the engines' queues (R131 to R160, R184 to R186, R309). -/

/-- R132 to R136, R160: OWN takes a legal value (`ownLegal`: no core or sector gets two owners), and traps OPERAND in the
service at any other; with no transfer in progress the dispatcher serves the first partition it can, between the batches of a group
too, and the turn of the group's own stream sends the next of them; a stream of tasks without teams sends a batch to the next die; a transfer that ends
hands its tasks to the ready queue; and the lowest idle core of a ready queue's partition starts its head task. -/
def Obligations.PlacementSteps : Prop :=
  ∀ s : State,
    (∀ (p d : Nat) (v : Word), p < 16 → d < 8 →
      (s.ownLegal p d v = true → ∃ t, exec (.ownWrite p d v) s = .next t ∧ OnlyPart s t p
        ∧ ∀ e, tget 0 (t.part p).own e = if e = d then v else tget 0 (s.part p).own e)
      ∧ (s.ownLegal p d v = false → exec (.ownWrite p d v) s = .next (s.trap s.focus { code := cOPERAND } [] 1)))
    ∧ (∀ (p : Nat) (ps : List Nat), s.sending = false → s.xfer = [] → s.serveOrder = p :: ps →
      (∀ t, s.serve p = some t →
        exec .globalDispatch s = .next { t with lastPart := tput 0 t.lastPart (s.prio p) ((p + 1) % 16) })
      ∧ (∀ n e d, (s.part p).live.find? (fun x => x.2.hasUnsent) = some (n, e) → e.dispatches = true → e.team = 0 →
        ((List.range 8).map (fun i => ((s.part p).lastDie + 1 + i) % 8)).find? (fun d =>
          (List.range 16).any (fun c => s.ownsCore p (d * 16 + c)) && 1 ≤ s.freeSlots p d) = some d →
        let batch := (e.take (min 64 (s.freeSlots p d))).1.map (fun i => ({ entry := n, uid := e.uid, idx := i, core := none } : Ready))
        ∃ t, exec .globalDispatch s = .next t ∧ t.sending = true ∧ (t.part p).lastDie = d
          ∧ t.xfer = [{ part := p, die := d, tasks := batch }]))
    ∧ (∀ (b : Batch) (bs : List Batch), s.xfer = b :: bs →
      (s.sending = true → ∃ t, exec .batchArrival s = .next t ∧ t.xfer = bs ∧ t.sending = false
        ∧ tget [] (t.die b.die).ready b.part = tget [] (s.die b.die).ready b.part ++ b.tasks)
      ∧ (s.sending = true → exec .globalDispatch s = .next s)
      ∧ (s.sending = false → ∀ p ps c, s.serveOrder = p :: ps → s.xfer.find? (fun x => x.part == p) = some c →
        exec .globalDispatch s = .next { s with
          xfer := c :: s.xfer.erase c, sending := true, lastPart := tput 0 s.lastPart (s.prio p) ((p + 1) % 16) }))
    ∧ (∀ (g p : Nat) (r : Ready) (rs : List Ready) (e : Entry), s.focus = .core g → g < 128 →
      (List.range 16).find? (fun p => s.ownsCore p g) = some p → tget [] (s.die (dieOf g)).ready p = r :: rs →
      s.entry p r.entry = some e → e.uid = r.uid → e.st = .issued → e.trapped = [] →
      (r.core = some g ∨ (r.core = none ∧ ((List.range 16).map (dieOf g * 16 + ·)).find? (fun h => s.coreFree p h) = some g)) →
      s.scheduled p = true → s.takesTask g = true →
      ∃ t, exec .taskStart s = .next t
        ∧ tget [] (t.die (dieOf g)).ready p = rs ∧ (t.core g).cstate = .run ∧ (t.core g).part = p
        ∧ (t.core g).ctx.vpc = e.kern ∧ (t.core g).ctx.rets = []
        ∧ (t.core g).ctx.vals = ((e.args.drop 3).map (fun w => Slot.ready (.scalar w))).reverse
        ∧ ((t.core g).task.map (·.idx)) = some r.idx ∧ ((t.core g).task.map (·.count)) = some e.ntask
        ∧ (∀ n, (t.core g).flag n = 0) ∧ (t.core g).mq = [] ∧ (t.core g).vq = [] ∧ (t.core g).cq = []
        ∧ ((s.sector g).frozen = false → (t.sector g).acc0 = [] ∧ (t.sector g).acc1 = [] ∧ (t.sector g).lats = []))

/-- R74, R142 to R150, R154, R156: a translation fault is taken at the instruction; a block that is absent is lowered, one
at a time on a die, and installed in the current generation; an opcode no slot claims is ILLEGAL, one that is claimed traps
PATCHTRAP; an EMULATE routine is called with the matched word, its virtual PC and its operands; `code.inv` discards the
blocks it names on the dies of its scope. That the extent of a lowered block is a function of how many words it has is the
model's choice (assumption 11). -/
def Obligations.TranslatorSteps : Prop :=
  ∀ s : State,
    (∀ f : CodeFault, s.canRun s.focus = true →
      exec (.translationFault f) s = .next ((s.dropFaulty s.focus f).trap s.focus (codeCause f) (s.faultKinds s.focus) 1))
    ∧ (s.canRun s.focus = true → s.look s.focus = .absent → s.xlateServes s.focus = true →
      (s.die (dieOfAgent s.focus)).lowering = [] → s.codeHeld s.focus = false →
      ∃ t, exec .blockLower s = .next t ∧ OnlyDie (s.codeReads s.focus) t (dieOfAgent s.focus)
        ∧ (t.die (dieOfAgent s.focus)).lowering = [s.lowerBlock s.focus])
    ∧ (∀ (d : Nat) (b : Block), s.focus = .die d → (s.die d).lowering = [b] → s.xlateStopped d = false →
      (∀ x ∈ (s.die d).index, s.indexed d x = true) →
      (s.die d).genUse (s.die d).curGen + Config.loweredBytes b.words.length ≤ (s.die d).genBytes →
      ∃ t, exec .blockInstall s = .next t ∧ (t.die d).lowering = []
        ∧ (t.die d).index = (s.die d).index
          ++ [{ blk := b, gen := (s.die d).curGen, size := Config.loweredBytes b.words.length, pinned := false }]
        ∧ (t.die d).blocksN = ((s.die d).blocksN + 1) % 2 ^ 32)
    ∧ (∀ w : Word, s.canRun s.focus = true →
      claimFor (((s.ctxOf s.focus).blk.map (·.slots)).getD []) (s.partOfAgent s.focus) (opOf w).toNat = none →
      exec (.claimedInstruction w) s = .next (s.trap s.focus { code := cILLEGAL } [] 1))
    ∧ (∀ (g n : Nat) (w : Word), s.focus = .core g → Runs s g → (s.core g).emul = none →
      claimFor (((s.core g).ctx.blk.map (·.slots)).getD []) (s.core g).part (opOf w).toNat = some n →
      bitsNat (s.slotAt (.core g) n).ctrl 29 2 ≠ 1 →
      exec (.claimedInstruction w) s = .next (s.patchTrap (.core g) n (s.slotAt (.core g) n).claimKinds 1))
    ∧ (∀ (g n : Nat) (w : Word) (vs : List Val), s.focus = .core g → Runs s g → (s.core g).emul = none → (s.core g).acc = [] →
      let slots := ((s.core g).ctx.blk.map (·.slots)).getD []
      let kinds := matchedKinds slots (s.core g).part (s.core g).ctx w
      (routineArgs w).all (fun o => argOk (s.core g).ctx o && (o.1 == .none || !isPop (s.core g).ctx o.2)) = true →
      (s.core g).ctx.pos + kinds.length ≤ 65535 →
      (routineArgs w).map (fun o => if o.1 = .none then Slot.ready (.scalar 0) else s.operand (.core g) (s.core g).ctx o.1 o.2)
        = vs.map Slot.ready → collect (vs.map Slot.ready) = .ok vs →
      s.routineKinds (dieOf g) (s.slotAt (.core g) n).routine = some (false :: false :: (vs.take 3).map Val.isVec) →
      ∃ t e, exec (.emulateCall n w) s = .next t ∧ (t.core g).emul = some e ∧ e.word = w ∧ e.slot = n ∧ e.len = 1
        ∧ e.kinds = kinds ∧ e.kept = (s.core g).ctx ∧ (t.core g).ctx.vpc = (s.slotAt (.core g) n).routine
        ∧ (t.core g).ctx.vals = ((vs.take 3).map Slot.ready).reverse
            ++ [.ready (.scalar (BitVec.ofNat 64 (s.core g).ctx.vpc)), .ready (.scalar w)])
    ∧ (∀ (f : BaseF) (o v n : Word),
      let scope := s.invDies s.focus (bitsNat f.mod 8 3)
      let drop (p : Block → Bool) : State := scope.foldl (fun s d => s.discardBlocks d p) (s.commit s.focus)
      (MayAct s .system (opsOf (.codeInv f)) 0 [.scalar o, .scalar v, .scalar n] → v.toNat % 8 = 0 → n.toNat % 8 = 0 →
        8 ≤ n.toNat → v.toNat + n.toNat ≤ 2 ^ 48 → exec (.codeInv f) s
          = .next ((drop (fun b => b.obj == o.toNat && b.overlaps v.toNat n.toNat)).retire s.focus 1 []))
      ∧ (MayAct s .system (opsOf (.codeInvObj f)) 0 [.scalar o] →
        exec (.codeInvObj f) s = .next ((drop (fun b => b.obj == o.toNat)).retire s.focus 1 []))
      ∧ (MayAct s .system (opsOf (.codeInvAll f)) 0 [] →
        exec (.codeInvAll f) s = .next ((drop (fun _ => true)).retire s.focus 1 [])))

/-- R184, R185, R186, R183, R268, R271, R309, R310: a form E command at the head of its queue whose wait is met takes the count off
and starts, those of MQ and CQ alike; a `mm.gang` that can form no gang, and a command of a gang that has dissolved, trap TEAM; an
`mm` in a gang starts with those of the other members; a started command, or the vector entry that executes, is killed by an uncorrectable error, which its signal flag,
its tag and its bank show; a push that waited is made once there is room, a matrix command for the sectors that its task drives and
owns by then (R132); a copy that faults stops and traps at its command;
and a wait past its bound traps WAITBOUND with its resource. -/
def Obligations.EngineSteps : Prop :=
  ∀ (s : State) (g : Nat), Runs s g → (s.core g).enginesRun = true → (s.core g).svcCmd = none →
    (∀ (q : Eng) (k : Cmd) (f : EngF), q ≠ .v → s.frozenSect g q = false → (s.core g).nextCmd q = some k →
      engFields k.instr = some f →
      (f.wn = 0 ∨ (flagErr ((s.core g).flag f.wf.toNat) = false ∧ f.wn.toNat ≤ flagCount ((s.core g).flag f.wf.toNat))) →
      (s.core g).turnsOpen q k f = true →
      let matrix : Prop := ∃ e, k.instr = .mm e ∨ k.instr = .mmDrain e ∨ k.instr = .mmDrainQ0 e
      (takesTag k.instr = true ∨ isInv k.instr = true → exec (.engineCommandStart g q) s = .next (s.cmdBegin g q k f))
      ∧ (matrix → (s.core g).gangOff = false → ((s.core g).gang = none ∨ ∀ e, k.instr ≠ .mm e) →
        exec (.engineCommandStart g q) s = .next (s.cmdBegin g q k f))
      ∧ (matrix → (s.core g).gangOff = true → exec (.engineCommandStart g q) s
          = .next ((s.modCore g (fun c => { c with gangOff := false })).trapCmd g q k { code := cTEAM } 0 0))
      ∧ ((∃ e, k.instr = .mm e) → (s.core g).gangOff = false → (s.core g).gang ≠ none →
        exec (.engineCommandStart g q) s = .next (s.gangStart g k f))
      ∧ (∀ w n, gangArgs k = some (w, n) →
        (s.gangBad g w n = false → exec (.engineCommandStart g q) s = .next (s.cmdBegin g q k f))
        ∧ (s.gangBad g w n = true → exec (.engineCommandStart g q) s = .next (s.trapCmd g q k { code := cTEAM } 0 0)))
      ∧ ((∃ e, k.instr = .mmGangOff e) → exec (.engineCommandStart g q) s = .next (s.cmdBegin g q k f))
      ∧ ((s.core g).injection k.instr = none → k.bad = none → (∀ x ∈ (s.core g).queue q, x.seq = k.seq → x = k) →
        (∀ e, k.instr ≠ .mmGangOff e) →
        let t := s.cmdBegin g q k f
        t = s.cmdStart g q k f ∧ (∀ x ∈ (t.core g).queue q, x.seq = k.seq → x.started = true)
          ∧ (f.wn ≠ 0 → (t.core g).flag f.wf.toNat
            = mkFlag (flagErr ((s.core g).flag f.wf.toNat)) (flagEcode ((s.core g).flag f.wf.toNat))
                (flagCount ((s.core g).flag f.wf.toNat) - f.wn.toNat))
          ∧ (f.wn = 0 → (t.core g).flags = (s.core g).flags)))
    ∧ (∀ (q : Eng) (k : Cmd) (f : EngF), q ≠ .v → s.frozenSect g q = false → (s.core g).nextCmd q = some k →
      engFields k.instr = some f → f.wn ≠ 0 → flagErr ((s.core g).flag f.wf.toNat) = true → (s.core g).turnsOpen q k f = true →
      exec (.engineCommandStart g q) s = .next (s.cmdSkip g q k f))
    ∧ (∀ (q : Eng) (n : Nat) (k : Cmd), ((s.core g).queue q)[n]? = some k → s.cmdFinished g k = true →
      (s.core g).sigOpen q k = true → exec (.commandComplete g q n) s = .next (s.cmdComplete g q k))
    ∧ (∀ (q : Eng) (n : Nat) (k : Cmd) (e : BitVec 6), ((s.core g).queue q)[n]? = some k → (s.core g).sigOpen q k = true →
      (e = 1 ∨ e = 2 ∨ e = 3 ∨ e = 8) →
      (q ≠ .v → k.started = true → k.done = false → exec (.commandKill g q n e) s = .next (s.cmdKill g q k e))
      ∧ (q = .v → (s.core g).vHead.map (·.1.seq) = some k.seq → s.vExecutes g = true →
        ∃ t, exec (.commandKill g q n e) s = .next t ∧ (t.core g).vqErr = some ((s.core g).vqErr.getD e)
          ∧ ((t.core g).vq)[n]?
            = some { k with started := true, killed := true, out := (kindsOf k.instr).map (fun v => .poisoned v e) })
      ∧ (∀ f, q = .c → k.started = true → k.done = false → engFields k.instr = some f → k.skipped = false →
        ∃ t, exec (.commandKill g q n e) s = .next t
          ∧ (f.sn ≠ 0 → (t.core g).flag f.sf.toNat = flagSetErr ((s.core g).flag f.sf.toNat) e.toNat
            ∧ (t.core g).pendErr = (s.core g).pendErr)
          ∧ (f.sn = 0 → (t.core g).pendErr = (s.core g).pendErr ++ [(k.seq, k.vpc, e)] ∧ (t.core g).flags = (s.core g).flags)
          ∧ (∀ i, k.tag = some i → ((s.core g).tag i).st ≠ .free → ((t.core g).tag i).st = .done ∧ ((t.core g).tag i).err = true
            ∧ ((t.core g).tag i).ecode = e)
          ∧ ∀ x ∈ (t.core g).cq, x.seq = k.seq → x.done = true)
      ∧ (∀ f, q = .m → k.instr = .mm f → k.started = true → k.done = false → k.gang = none → f.sn ≠ 0 →
        (s.core g).mmRunning = some (k, mmOf f k.desc) →
        ∃ t, exec (.commandKill g q n e) s = .next t
          ∧ (t.core g).flag f.sf.toNat = flagSetErr ((s.core g).flag f.sf.toNat) e.toNat
          ∧ ((t.core g).bank (mmOf f k.desc).bank).poison = true))
    ∧ (∀ (q : Eng) (k : Cmd) (stall : Nat) (b : Option Nat), s.focus = .core g →
      (s.core g).wait = some { kind := .push q k, stall := stall, bound := b } → (s.core g).pushHeld = false →
      (s.core g).canPush q k.instr = true →
      (q ≠ .m → exec .queuePush s = .next (s.pushNow g q k))
      ∧ (q = .m → let secs := s.driven g (s.core g).gview
        ((∀ y ∈ asksSects k.instr g secs, s.ownsSect (s.core g).part y = true) →
          exec .queuePush s = .next (s.pushNow g q { k with secs := secs }))
        ∧ (¬(∀ y ∈ asksSects k.instr g secs, s.ownsSect (s.core g).part y = true) → exec .queuePush s
          = .next (s.endTrap g { code := cPROT, noData := true } (kindsOf k.instr)))))
    ∧ (∀ (k : Cmd) (ks : List Cmd) (f : BaseF), s.focus = .core g → (s.core g).vq = k :: ks → k.started = false →
      k.instr = .chanCfg f → ((s.core g).chan (bitsNat f.mod 22 2)).ents = [] → (∀ x ∈ (s.core g).cmds, k.seq ≤ x.seq) →
      (∀ x ∈ ks, x.seq ≠ k.seq) →
      ∃ t, exec .chanCfgPerform s = .next t
        ∧ ((t.core g).chan (bitsNat f.mod 22 2)).cfg = some { snk := f.ty.toNat, mod := f.mod }
        ∧ ((t.core g).chan (bitsNat f.mod 22 2)).ents = [])
    ∧ (∀ (n : Nat) (k : Cmd), ((s.core g).cq)[n]? = some k → k.stopped = false →
      (∀ k', (((s.engineAdvance g .c n).core g).cq).find? (fun x => x.seq = k.seq) = some k' → k'.stopped = true →
        exec (.copyFault g n) s = .next (s.engineAdvance g .c n))
      ∧ (∀ (va : Nat) (c : Cause), k.started = true → k.done = false → k.copied = false → (s.core g).sigOpen .c k = true →
        (s.core g).emul = none → s.patchFor (dieOf g) (s.core g).part 1
          (faultKey k.vpc c.code (if c.code = cTRANSLATE then c.sub else 0)) = none →
        ((∃ f, k.instr = .cp f) ∧ tget none k.bBuf 0 = none ∧ (Desc.of ((k.desc[1]?).getD 0)).space = 0
            ∧ va = ((Desc.of ((k.desc[1]?).getD 0)).place k.prog).1 ∧ (s.copyTranslate g k va Need.load).1 = .error c
          ∨ (∃ f, k.instr = .cpFill f) ∧ (Desc.of ((k.desc[0]?).getD 0)).space = 0
            ∧ va = ((Desc.of ((k.desc[0]?).getD 0)).place k.prog).1 ∧ (s.copyTranslate g k va Need.store).1 = .error c
            ∧ (s.core g).writeAhead k 0 va (elemBytes (Desc.of ((k.desc[0]?).getD 0)).fmt) = false) →
        ∃ t r, exec (.copyFault g n) s = .next t ∧ (t.core g).cstate = .trapped
          ∧ (t.die (dieOf g)).trapq = (s.die (dieOf g)).trapq ++ [r] ∧ r.cause = c.code ∧ r.ecode = c.ecode ∧ r.addr = c.addr
          ∧ r.vpc = k.vpc ∧ r.npc = (s.core g).ctx.vpc ∧ r.core = g
          ∧ (∀ i, k.tag = some i → ((s.core g).tag i).st ≠ .free → ((t.core g).tag i).st = .stopped)
          ∧ ∀ x ∈ (t.core g).cq, x.seq = k.seq → x.stopped = true))
    ∧ (∀ (w : Wait) (b : Nat), (s.core g).wait = some w → w.bound = some b → b < w.stall → s.waitOpen g w.kind = true →
      exec (.waitBoundExpiry g .seq) s = .next (((s.undoWait g w.kind).endWait g).trapAt (.core g) { code := cWAITBOUND }
        (s.curShape g).1 (s.curShape g).2 [] ((s.core g).waitRes w.kind) ((s.core g).waitQpos w.kind))
      ∧ ((s.core g).emul = none → s.patchFor (dieOf g) (s.core g).part 1 (faultKey (s.core g).ctx.vpc cWAITBOUND 0) = none →
        ∃ t r, exec (.waitBoundExpiry g .seq) s = .next t ∧ (t.core g).cstate = .trapped ∧ (t.core g).wait = none
          ∧ (t.die (dieOf g)).trapq = (s.die (dieOf g)).trapq ++ [r] ∧ r.cause = cWAITBOUND ∧ r.vpc = (s.core g).ctx.vpc
          ∧ r.res = (s.core g).waitRes w.kind ∧ r.qpos = (s.core g).waitQpos w.kind ∧ r.core = g))
    ∧ (∀ (q : Eng) (k : Cmd) (res b : Nat),
      (s.headWaits g q).find? (fun x => 2 ^ x.2.2 < x.1.waited x.2.1) = some (k, res, b) →
      exec (.waitBoundExpiry g (.head q)) s = .next ((s.modCore g (fun c =>
        c.modCmd q k.seq (fun k => { k with stall := 0, stopped := k.started && engFields k.instr != none }))).trapCmd g q k
          { code := cWAITBOUND } res ((s.core g).headQpos res))
      ∧ ((s.core g).emul = none → s.patchFor (dieOf g) (s.core g).part 1 (faultKey k.vpc cWAITBOUND 0) = none →
        ∃ t r, exec (.waitBoundExpiry g (.head q)) s = .next t ∧ (t.core g).cstate = .trapped
          ∧ (t.die (dieOf g)).trapq = (s.die (dieOf g)).trapq ++ [r] ∧ r.cause = cWAITBOUND ∧ r.vpc = k.vpc
          ∧ r.npc = (s.core g).ctx.vpc ∧ r.res = res ∧ r.qpos = (s.core g).headQpos res ∧ r.core = g))

/-! Control registers (R29, R259, R261, R299, R303, R304, R311, R315, R357, R369, R377). -/

/-- R304: `csr.r` yields the register its number names and `csr.w` writes it, after which control goes on; a number with no
register, or a value the register does not take, traps OPERAND with no effect.
R303, R304: a register that is read and written reads as it was last written: STVEC, SEPC, SCAUSE, SADDR, SHOOTVA,
SHOOTLEN and KEYSRC of a die, CRES0 to CRES3 of a core, PSWAP, SEED and PTROOT of a partition; a read-only register is not
written, and a number with nonzero bits [63:24] or of no die names none; DIE 15 is the executing die, and the partition registers
other than OWN and SHARE ignore DIE. -/
def Obligations.ControlRegisters : Prop :=
  (∀ (s : State) (f : BaseF) (n v : Word),
      (MayAct s .system (opsOf (.csrR f)) 1 [.scalar n] →
        (∀ w t, (s.commit s.focus).csrRead (dieOfAgent s.focus) n = some (w, t) →
          exec (.csrR f) s = .next (t.retire s.focus 1 [.scalar w]))
        ∧ ((s.commit s.focus).csrRead (dieOfAgent s.focus) n = none →
          exec (.csrR f) s = .next (s.trap s.focus { code := cOPERAND } [false] 1)))
      ∧ (MayAct s .system (opsOf (.csrW f)) 0 [.scalar n, .scalar v] →
        (∀ t, (s.commit s.focus).csrWrite (dieOfAgent s.focus) n v = some t →
          exec (.csrW f) s = .next (t.retire s.focus 1 []))
        ∧ ((s.commit s.focus).csrWrite (dieOfAgent s.focus) n v = none →
          exec (.csrW f) s = .next (s.trap s.focus { code := cOPERAND } [] 1))))
  ∧ (∀ (s : State) (here : Nat) (n v : Word),
      (∀ x : CsrNum, csrNum here n = some x →
        ((x.group = 0 ∧ x.index ∈ [2, 3, 4, 5, 0x21, 0x22, 0x31]
            ∨ 1 ≤ x.group ∧ x.group ≤ 0x10 ∧ x.index ∈ [2, 3, 4, 5]
            ∨ 0x40 ≤ x.group ∧ x.group ≤ 0x4F ∧ x.index ∈ [1, 2, 3]) →
          ∀ t, s.csrWrite here n v = some t → ∃ u, t.csrRead here n = some (v, u))
        ∧ (x.group = 0 ∧ (x.index ∈ [1, 8, 9] ∨ 0x10 ≤ x.index ∧ x.index ≤ 0x17)
            ∨ 1 ≤ x.group ∧ x.group ≤ 0x10 ∧ (x.index = 1 ∨ 0x100 ≤ x.index)
            ∨ x.group = 0x20
            ∨ 0x40 ≤ x.group ∧ x.group ≤ 0x4F ∧ x.index ∈ [5, 6, 7, 8, 9] →
          s.csrWrite here n v = none))
      ∧ (csrNum here n = none → s.csrRead here n = none ∧ s.csrWrite here n v = none)
      ∧ (let die := bitsNat n 20 4
        let group := bitsNat n 12 8
        let index := bitsNat n 0 12
        let anyDie : Prop := 0x40 ≤ group ∧ group ≤ 0x4F ∧ index < 0x10
        (bitsNat n 24 40 ≠ 0 ∨ 8 ≤ die ∧ die < 15 ∧ ¬anyDie → s.csrRead here n = none ∧ s.csrWrite here n v = none)
        ∧ (bitsNat n 24 40 = 0 → here < 8 → (die < 8 ∨ die = 15 ∨ anyDie) →
          csrNum here n = some { die := if die = 15 then here else die, group := group, index := index })))

/-- R261, R299, R311, R315, R357, R369, R377: the steps that stand for the writes and reads of the units behind the registers
have the effect of those writes and reads.
R315, R316: an event that arises while its partition is not scheduled goes into its log, which holds 256, and is counted
as dropped past that; one of another PGEN is dropped on delivery and counted in STALE.
That SHOOT reads its start bit as 0 once a shootdown has completed is the model's choice (assumption 44). -/
def Obligations.UnitSteps : Prop :=
  (∀ s : State,
      (∀ (d : Nat) (v : Word), d < 8 →
        (∀ t, s.writeXheap d v = some t → exec (.xheapWrite d v) s = .next t ∧ (t.die d).xheap = v)
        ∧ (∀ t, s.writeSpin d v = some t → exec (.spinWrite d v) s = .next t ∧ (t.die d).spin = v)
        ∧ (v.getLsbD 5 = true → ∀ t, s.writeShoot d v = some t → exec (.shootdown d v) s = .next t))
      ∧ (∀ (d : Nat) (k : BitVec 7), d < 8 → keyBusy (s.die d).keyctl = false →
        ∃ t u, exec (.keyLoad d k) s = .next t ∧ exec (.keyClear d k) s = .next u
          ∧ keyBusy (t.die d).keyctl = true ∧ keyBusy (u.die d).keyctl = true
          ∧ (t.keySlot k.toNat).loaded = true ∧ (u.keySlot k.toNat).loaded = false
          ∧ t.keyGen k.toNat = (s.keyGen k.toNat + 1) % 256 ∧ u.keyGen k.toNat = (s.keyGen k.toNat + 1) % 256)
      ∧ (∀ d : Nat, s.focus = .die d → ∃ t, exec .keyOperationEnd s = .next t ∧ keyBusy (t.die d).keyctl = false
          ∧ OnlyDie s t d)
      ∧ (∀ (d g seq : Nat) (k : Cmd) (lo n : Word), s.focus = .die d → (s.die d).shootLeft = [(g, seq)] → (s.core g).cq = [k] →
        k.seq = seq → k.ops = [.ready (.scalar lo), .ready (.scalar n)] →
        ∃ t, exec .shootdownComplete s = .next t ∧ (t.die d).shootLeft = [] ∧ (t.die d).shoot = (s.die d).shoot &&& 0x1F
          ∧ t.core g = { (s.core g).shoot (some (lo.toNat, n.toNat)) with cq := [] })
      ∧ (∀ (g : Nat) (v : Word) (t : State), g < 128 → s.writeErrinj g v = some t →
        (t.core g).errinj = v ∧ (v.getLsbD 15 = true → exec (.errinjArm g v) s = .next t)
        ∧ (v.getLsbD 15 = false → exec (.errinjCancel g v) s = .next t))
      ∧ (∀ (p : Nat) (v : Word) (t : State), p < 16 → s.writePsched p v = some t → (t.part p).psched = v
        ∧ (v.getLsbD 0 = true → exec (.partitionSchedule p v) s = .next t)
        ∧ (v.getLsbD 0 = false → exec (.partitionDeschedule p v) s = .next t))
      ∧ (∀ p : Nat, s.focus = .sfe p → p < 16 → (s.part p).psched.getLsbD 0 = true → bitsNat (s.part p).psched 40 24 ≠ 0 →
        s.effSlice p ≤ (s.part p).sliceT → s.sliceQueued p = false →
        ((s.die (hostDie p)).trapq.filter (·.note)).length < 16 →
        ∃ t, exec .sliceExpiry s = .next t ∧ (t.part p).sliceT = 0
          ∧ ∃ r, (t.die (hostDie p)).trapq = (s.die (hostDie p)).trapq ++ [r] ∧ r.note = true ∧ r.cause = 0 ∧ r.part = p)
      ∧ (∀ (d : Nat) (r : TrapInfo) (rs : List TrapInfo), s.focus = .die d → (s.die d).trapq = r :: rs →
        ∃ t, exec .tqpop s = .next t ∧ OnlyDie s t d ∧ (t.die d).trapq = rs ∧ (t.die d).tqbuf = r.words.map (BitVec.ofNat 64))
      ∧ (∀ (p : Nat) (e : Event) (es : List Event), s.focus = .sfe p → (s.part p).evlog = e :: es →
        ∃ t, exec .evpop s = .next t ∧ OnlyPart s t p ∧ (t.part p).evlog = es ∧ (t.part p).evbuf = wordsOfBytes e.bytes)
      ∧ (∀ (p : Nat) (typ : BitVec 8) (w : Word), p < 16 → 2 ≤ typ.toNat → typ.toNat ≤ 5 →
        exec (.eventDelivery p typ w) s = .next (s.postEvent p typ.toNat w))
      ∧ (∀ (g : Nat) (va : Word), g < 136 → va.toNat < 2 ^ 48 → exec (.pageWalk g va) s = .next (s.pageWalk g va.toNat)
        ∧ (s.pageWalk g va.toNat).hbm = s.hbm
        ∧ ∀ pte bits, (s.forgetLeaf g va.toNat).walk ((s.forgetLeaf g va.toNat).rootOf g) va.toNat = .ok (pte, bits) →
          permCheck pte { Need.load with user := !isSvc g } va.toNat = none →
          ∃ l, l ∈ ((s.pageWalk g va.toNat).core g).tlb ∧ l.pte = pte ∧ l.bits = bits ∧ l.vpn = va.toNat / 2 ^ bits))
  ∧ ((∀ (s : State) (p typ : Nat) (w : Word), s.scheduled p = false →
      ∃ e : Event, e.typ = typ ∧ e.data = w ∧ e.gen = (s.part p).pgen ∧ OnlyPart s (s.postEvent p typ w) p
        ∧ ((s.part p).evlog.length < 256 → ((s.postEvent p typ w).part p).evlog = (s.part p).evlog ++ [e])
        ∧ (256 ≤ (s.part p).evlog.length → ((s.postEvent p typ w).part p).evlog = (s.part p).evlog
            ∧ ((s.postEvent p typ w).part p).evdrop = min ((s.part p).evdrop + 1) (2 ^ 32 - 1)))
      ∧ (∀ (q : Part) (e : Event), e.gen ≠ q.pgen →
        q.takeEvent e = { q with evstale := min (q.evstale + 1) (2 ^ 24 - 1) }))

/-! Control of contexts, scan images, scrub (R159, R300 to R302, R312 to R318, R325 to R329). -/

/-- R300, R302, R312, R314: RETRY runs a trapped context again as it stands; RESUME goes on after the instruction that
trapped, its results taken from CRES; KILL takes a context to KILLED and its window entry counts the task as trapped;
DRAIN stops a context that has run for its slice and is held before; RELEASE leaves the core idle and the task outstanding;
START runs an idle core. -/
def Obligations.ContextControl : Prop :=
  ∀ (s : State) (g : Nat), s.focus = .core g → g < 128 →
    ((s.core g).cstate = .trapped →
      (∃ t, exec .cctlRetry s = .next t ∧ OnlyCore s t g ∧ (t.core g).cstate = .run ∧ (t.core g).trap = none
        ∧ (((s.core g).trap.map (·.ofCmd)) ≠ some true → (t.core g).wait = none)
        ∧ (t.core g).ctx = (s.core g).ctx ∧ (t.core g).flags = (s.core g).flags)
      ∧ (∀ pend : TrapPend, (s.core g).trap = some pend → pend.queue = none → pend.kinds.length ≤ 4 →
        (s.core g).ctx.tmpl = [] → s.atHalt g = false → (pend.info.cause ≠ cSVC ∨ pend.info.addr < 16) →
        ∃ t, exec .cctlResume s = .next t ∧ OnlyCore s t g ∧ (t.core g).cstate = .run ∧ (t.core g).trap = none
          ∧ (t.core g).ctx.vpc = (s.core g).ctx.vpc + 8 * pend.len
          ∧ (t.core g).ctx.pos = (s.core g).ctx.pos + pend.kinds.length
          ∧ (t.core g).ctx.vals = ((pend.kinds.zipIdx).map (fun x => Slot.ready
              (if x.1 then .vector (broadcast 64 ((s.core g).cresN x.2).toNat) else .scalar ((s.core g).cresN x.2)))).reverse
              ++ (s.core g).ctx.vals)
      ∧ (∀ pend : TrapPend, (s.core g).trap = some pend → pend.queue = none → pend.kinds = [false] →
        (s.core g).ctx.tmpl = [] → s.atHalt g = false → pend.info.cause = cSVC → 16 ≤ pend.info.addr →
        ∃ t, exec .cctlResume s = .next t ∧ (t.core g).cstate = .run
          ∧ (t.core g).ctx.vals = .ready (.scalar (BitVec.allOnes 64)) :: (s.core g).ctx.vals))
    ∧ ((s.core g).cstate ∈ [.run, .trapped, .draining, .frozen, .saved] →
      ∃ t, exec .cctlKill s = .next t ∧ (t.core g).cstate = .killed ∧ (t.core g).wait = none ∧ (t.core g).tags = []
        ∧ (t.core g).teamKey = none ∧ t.hbm = s.hbm
        ∧ ∀ k e, (s.core g).task = some k → s.entry (s.core g).part k.entry = some e → e.uid = k.uid →
          ∃ r, t.entry (s.core g).part k.entry
              = some { e with trapped := e.trapped ++ [(k.idx, r)], failed := e.failed ++ [k.idx], out := e.out.filter (· != k.idx) }
            ∧ (∀ x, (s.core g).trap = some x → r = x.info)
            ∧ ((s.core g).trap = none → r.cause = cERRBIT ∧ r.ecode = 6))
    ∧ ((s.core g).cstate ∈ [.run, .trapped] →
      (s.sliceRun g = true → (s.core g).emul = none → (s.core g).ctx.tmpl = [] →
        (∀ w, (s.core g).wait = some w → s.waitOpen g w.kind = true) →
        ∃ t, exec .cctlDrain s = .next t ∧ (t.core g).cstate = .draining ∧ (t.core g).wait = none
          ∧ (t.core g).ctx = (s.core g).ctx ∧ (t.core g).flags = (s.core g).flags ∧ (t.core g).acc = (s.core g).acc
          ∧ (t.core g).mq.length = (s.core g).mq.length ∧ (t.core g).vq = (s.core g).vq ∧ (t.core g).cq = (s.core g).cq
          ∧ ((∀ x ∈ (s.die (dieOf g)).gangs, g ∉ x.members) → (t.core g).mq = (s.core g).mq))
      ∧ (s.sliceRun g = false → exec .cctlDrain s = .next (s.modCore g (fun c => { c with hold := true })))
      ∧ (s.sliceRun g = true → (s.core g).hold = true →
        ∃ t, exec .preemptionHoldEnd s = .next t ∧ (t.core g).cstate = .draining ∧ (t.core g).hold = false))
    ∧ ((s.core g).cstate ∈ [.saved, .frozen] → ∃ t, exec .cctlRelease s = .next t ∧ (t.core g).cstate = .idle
        ∧ (t.core g).task = none ∧ (t.core g).trap = none ∧ ∀ p n, t.entry p n = s.entry p n)
    ∧ ((s.core g).cstate = .idle → s.scrubbing g = false → ∃ t, exec .cctlStart s = .next t ∧ OnlyCore s t g ∧ (t.core g).cstate = .run
        ∧ (t.core g).quant = 0 ∧ (t.core g).ctx = (s.core g).ctx)
    ∧ ((s.core g).cstate = .draining →
      ((s.core g).acc = [] →
        (∀ k ∈ (s.core g).cmds, k.started = true → k.done = true ∨ k.stopped = true ∧ takesTag k.instr = true) →
        s.drainPast g = false →
        exec .drainEnd s = .next ((s.modCore g (fun c => { c with cstate := .saved })).dropLats [g]))
      ∧ (bitsNat (s.part (s.core g).part).psched 22 2 = 2 → bitsNat (s.part (s.core g).part).psched 24 16 ≠ 0 →
        bitsNat (s.part (s.core g).part).psched 24 16 * 256 < (s.core g).drainT →
        ∃ t, exec .drainLimitFreeze s = .next t ∧ (t.core g).cstate = .frozen ∧ (t.core g).frozenFrom = .draining
          ∧ t.hbm = s.hbm))

/-- R317, R318, R350: SCTL GO discards every window entry, kills every core that holds a task of the partition, and stops its
stream; once it is done the window and its
map are empty, PGEN has gone up and DONE is set. `ctx.scrub` kills a context, and after
the empty issue leaves the core idle and its slots, flags, tags, channels, ports, queues and accumulators clear. -/
def Obligations.StreamResetAndScrub : Prop :=
  (∀ (s : State) (p : Nat), s.focus = .sfe p → p < 16 →
    (sctlGo (s.part p).sctl = false → ∃ t, exec .streamContextReset s = .next t ∧ (t.part p).wcount = 0
      ∧ (t.part p).sfe.running = false ∧ (t.part p).srec = none ∧ (t.part p).teams = []
      ∧ ((∀ n e, (n, e) ∈ (s.part p).live → e.ran = []) → t.hbm = s.hbm)
      ∧ (∀ n e, (n, e) ∈ (s.part p).live → t.entry p n = none)
      ∧ ∀ g, g < 128 → (s.core g).ofPart p = true → (t.core g).cstate = .killed ∧ (t.core g).mq = []
          ∧ (t.core g).vq = [] ∧ (t.core g).cq = [] ∧ (t.core g).acc = [])
    ∧ (sctlGo (s.part p).sctl = true → s.linksHold = false → ∃ t, exec .streamResetDone s = .next t
      ∧ (∀ q, q ≠ p → t.part q = s.part q) ∧ (t.part p).pgen = ((s.part p).pgen + 1) % 2 ^ 16 ∧ (t.part p).sctl = 2 ∧ (t.part p).rename = []
      ∧ (t.part p).window = []))
    ∧ (∀ (s : State) (me : Nat) (f : BaseF) (n : Word), isSvc me = true → MayActOn s me .system (.ctxScrub f) [.scalar n] →
      (n.toNat ≤ 15 → (s.core me).wait = none →
        exec (.ctxScrub f) s = .next (((s.commit (.core me)).scrubKill (dieOf me * 16 + n.toNat)).waitOn me
          (.scrub (dieOf me * 16 + n.toNat) 4096) none))
      ∧ (16 ≤ n.toNat → (s.core me).wait = none →
        exec (.ctxScrub f) s = .next (s.trap (.core me) { code := cOPERAND } [] 1))
      ∧ (∀ (g stall : Nat) (b : Option Nat), g < 128 → (s.core me).wait = some { kind := .scrub g 0, stall := stall, bound := b } →
        ∃ t, exec (.ctxScrub f) s = .next t ∧ (t.core g).cstate = .idle ∧ (t.core g).flags = [] ∧ (t.core g).slots = []
          ∧ (t.core g).tags = [] ∧ (t.core g).lastTag = 31 ∧ (t.core g).chans = [] ∧ (t.core g).ports = []
          ∧ (t.core g).mq = [] ∧ (t.core g).vq = [] ∧ (t.core g).cq = [] ∧ (t.core g).ctx.rets = []
          ∧ (t.core g).cres = [] ∧ (t.core g).late = false ∧ (t.core g).padW = [] ∧ (t.core g).bank0.mode = none
          ∧ (t.core g).bank1.mode = none ∧ (t.core g).errinj = (s.core g).errinj
          ∧ (t.sector g).acc0 = [] ∧ (t.sector g).acc1 = [] ∧ (t.core me).wait = none
          ∧ (t.core me).ctx = (s.retire (.core me) 1 []).ctxOf (.core me)))

/-- R325, R326, R329: `scan.frz` freezes the closure of its mask and stops the cores that drive it in one step, and
`scan.frz.at` does so at once, with PASSED, where MQ holds no `mm`; a freeze that waited does the same once its point has
come; `scan.run` thaws the frozen sectors of its mask and sends their contexts back to the states they were frozen from. -/
def Obligations.ScanFreezeAndThaw : Prop :=
  ∀ (s : State) (me : Nat) (f : BaseF), isSvc me = true →
    (∀ d m : Word,
      let secs := s.widen d.toNat (fun _ => true) (maskSecs d.toNat m.toNat) 16
      let cs := s.driversOf d.toNat secs
      let fs := cs.filter (fun g => (s.core g).freezes)
      d.toNat < 8 → 1 ≤ m.toNat → m.toNat < 2 ^ 16 →
      (maskSecs d.toNat m.toNat).all (fun x => s.ownsSect (bitsNat f.mod 0 4) x) = true →
      (∀ g ∈ fs, s.sliceRun g = true) → (s.core me).wait = none →
      (MayActOn s me .system (.scanFrz f) [.scalar d, .scalar m] →
        ∃ t, exec (.scanFrz f) s = .next t ∧ Froze s t me secs cs fs false)
      ∧ (∀ n : Word, MayActOn s me .system (.scanFrzAt f) [.scalar d, .scalar m, .scalar n] → 1 ≤ n.toNat →
        n.toNat ≤ 2 ^ 16 → s.frzCur cs = none →
        ∃ t, exec (.scanFrzAt f) s = .next t ∧ Froze s t me secs cs fs true))
    ∧ (∀ (d mask part left stall : Nat) (at? : Option Nat) (cur : Option (Nat × Nat)) (b : Option Nat) (passed : Bool),
      let secs := s.widen d (fun _ => true) (maskSecs d mask) 16
      let cs := s.driversOf d secs
      let fs := cs.filter (fun g => (s.core g).freezes)
      d < 8 → s.focus = .core me → (s.core me).ctx.tmpl = [] →
      (s.core me).wait = some { kind := .frz d mask part at? cur left, stall := stall, bound := b } →
      (∀ g ∈ fs, s.sliceRun g = true) → s.frzPoint at? cur left = some passed →
      (at? = none → ∃ t, exec .scanFreezeComplete s = .next t ∧ Froze s t me secs cs fs passed)
      ∧ (at? ≠ none → ∃ t, exec .scanFreezeDeferred s = .next t ∧ Froze s t me secs cs fs passed))
    ∧ (∀ d m : Word,
      let frozen (x : Nat) : Bool := (s.sector x).frozen
      let secs := s.widen d.toNat frozen ((maskSecs d.toNat m.toNat).filter frozen) 16
      let ds := s.driversOf d.toNat secs
      let cs := ds.filter (fun g => (s.core g).cstate == .frozen)
      MayActOn s me .system (.scanRun f) [.scalar d, .scalar m] → d.toNat < 8 → m.toNat < 2 ^ 16 →
      ∃ t, exec (.scanRun f) s = .next t
        ∧ (∀ x, t.sector x = if x ∈ secs then { s.sector x with frozen := false } else s.sector x)
        ∧ (∀ g ∈ cs, t.core g = { s.core g with cstate := (s.core g).frozenFrom, iced := false })
        ∧ (∀ g ∈ ds, g ∉ cs → t.core g = { s.core g with iced := false })
        ∧ (∀ g, g ∉ ds → g ≠ me → t.core g = s.core g)
        ∧ (t.core me).ctx = ((s.retire (.core me) 1 [.scalar (frzWord secs cs false)]).core me).ctx)

/-- R327, R328: `scan.out` writes the segments of its mask that hold something behind the header and yields the length;
`scan.in` refuses an image by the first check that fails, with nothing loaded, and else loads it.
R159: `patch.ld` refuses an image by the first check that fails; the slots, MEAS3 and the translations stay; and
else, once the blocks are left, it loads the image and answers 0. That an accepted image leaves the lowering of the service's own
code in progress (assumption 19), and that a refused one ends the time in which SPIN may be written (assumption 31), are the
model's choices. -/
def Obligations.ImagesOfContextsAndPatches : Prop :=
  (∀ (s : State) (me : Nat) (f : BaseF) (k a : Word), k.toNat ≤ 127 → a.toNat % 64 = 0 → (s.core me).acc = [] →
      (let portable := (s.core k.toNat).cstate == .saved
        let w := (segsOf f.mod.toNat).filter (s.occupied k.toNat portable)
        let x := s.shotFor k.toNat portable
        let payload := w.flatMap (x.2.segOut k.toNat portable x.1)
        let head := scanHeader (if portable then 0 else (s.die (dieOf k.toNat)).layout) (s.die (dieOf k.toNat)).stepping k.toNat
          (segMask w) portable payload
        MayActOn s me .system (.scanOut f) [.scalar k, .scalar a] → (segsOf f.mod.toNat).all (s.outOk k.toNat) = true →
        s.rangeHeld me a.toNat (64 + payload.length) = false →
        payload.length = (w.map (segBytes portable)).sum
        ∧ ∀ t u, x.2.writeAs me (a.toNat + 64) payload = (.ok (), t) → t.writeAs me a.toNat head = (.ok (), u) →
          exec (.scanOut f) s
            = .next (u.retire (.core me) 1 [.scalar (BitVec.ofNat 64 (64 + (w.map (segBytes portable)).sum))]))
      ∧ (MayActOn s me .system (.scanIn f) [.scalar k, .scalar a] → (segsOf f.mod.toNat).all (s.inOk k.toNat) = true →
        s.rangeHeld me a.toNat 64 = false → ∀ hb t, s.readAs me true a.toNat 64 = (.ok hb, t) →
        let h := scanHead hb
        let portable := h.layout == 0
        let answer (t : State) (n : Nat) : Out := .next (t.retire (.core me) 1 [.scalar (BitVec.ofNat 64 n)])
        (h.magic ≠ scanMagic ∨ 127 < h.core → exec (.scanIn f) s = answer t 1)
        ∧ (h.magic = scanMagic → h.core ≤ 127 →
          (portable = false → h.layout ≠ (t.die (dieOf k.toNat)).layout →
            exec (.scanIn f) s = .next (t.trap (.core me) { code := cSCANLAYOUT } [false] 1))
          ∧ (portable = true ∨ h.layout = (t.die (dieOf k.toNat)).layout →
            (portable = false → h.core ≠ k.toNat → exec (.scanIn f) s = answer t 3)
            ∧ (portable = true ∨ h.core = k.toNat →
              (h.slen ≠ slenOf portable → exec (.scanIn f) s = answer t 4)
              ∧ (h.slen = slenOf portable →
                (portable = true → (t.core k.toNat).cstate ≠ .idle → exec (.scanIn f) s = answer t 6)
                ∧ (portable = false ∨ (t.core k.toNat).cstate = .idle →
                  t.rangeHeld me a.toNat (64 + ((segsOf h.mask).map (segBytes portable)).sum) = false → ∀ payload u,
                  t.readAs me true (a.toNat + 64) ((segsOf h.mask).map (segBytes portable)).sum = (.ok payload, u) →
                  ((Config.sha3 payload).toNat ≠ h.digest → exec (.scanIn f) s = answer u 2)
                  ∧ (∀ st, (Config.sha3 payload).toNat = h.digest → (u.core k.toNat).cstate = .idle →
                    u.imgState h portable (cutSegs portable (segsOf h.mask) payload) = some st → st ≠ .run →
                    exec (.scanIn f) s = answer u 5)
                  ∧ (u.scanStatus k.toNat h portable payload = 0 → exec (.scanIn f) s
                      = answer (u.loadScan k.toNat f.mod.toNat h portable (cutSegs portable (segsOf h.mask) payload)) 0))))))))
  ∧ (∀ (s : State) (g : Nat) (f : BaseF) (a len ebase : Word),
      MayActOn s g .system (.patchLd f) [.scalar a, .scalar len, .scalar ebase] → (s.core g).wait = none →
      (s.core g).acc = [] → a.toNat % 8 = 0 → s.rangeHeld g a.toNat (min len.toNat (2 ^ 24)) = false →
      let answer (t : State) (n : Nat) : Out :=
        .next ((t.modDie (dieOf g) (fun x => { x with patched := true })).retire (.core g) 1 [.scalar (BitVec.ofNat 64 n)])
      (2 ^ 24 < len.toNat ∨ len.toNat < 64 + 2420 → exec (.patchLd f) s = answer s 1)
      ∧ (len.toNat ≤ 2 ^ 24 → 64 + 2420 ≤ len.toNat → ∀ hb t, s.readAs g false a.toNat 64 = (.ok hb, t) →
        ((imgHead hb len.toNat).ok = false → exec (.patchLd f) s = answer t 1)
        ∧ ((imgHead hb len.toNat).ok = true → ∀ rest u, t.readAs g false (a.toNat + 64) (len.toNat - 64) = (.ok rest, u) →
          let st := u.imgStatus (dieOf g) ebase.toNat (imgHead hb len.toNat) (hb ++ rest)
          let ready := u.modDie (dieOf g) (fun x => { x with lowering := x.lowering.filter (fun b => b.obj == 0) })
          (st ≠ 0 → exec (.patchLd f) s = answer u st)
          ∧ (st = 0 → ready.blocksLeft (dieOf g) = true → exec (.patchLd f) s
              = .next ((ready.loadImage (dieOf g) ebase.toNat (hb ++ rest)).endWith g [.scalar 0]))
          ∧ (st = 0 → ready.blocksLeft (dieOf g) = false → exec (.patchLd f) s
              = .next (ready.waitOn g (.patchLd (hb ++ rest) ebase.toNat) none)))))

/-- R208, R370: when every member's `mm.gang` has reached the head of its MQ the gang is formed; a launch record that is
malformed is refused, and one that passes every check starts the stream at its entry block with the record's arguments.
None is taken before a port has trained (R366). -/
def Obligations.GangsAndLaunches : Prop :=
  (∀ (s : State) (d row west width : Nat),
    let range := (List.range width).map (fun i => coreAt d row (west + i))
    let p := (s.core (coreAt d row west)).part
    let members := range.filter (fun y => !s.lent p y || s.gangMember (coreAt d row west) y west width)
    d < 8 → row < 4 → (west, width) ∈ [(0, 2), (1, 2), (2, 2), (0, 4)] → members ≠ [] →
    (∀ y ∈ members, (s.core y).part = p ∧ (s.core y).teamKey = (s.core (coreAt d row west)).teamKey
      ∧ (s.core y).enginesRun = true ∧ (s.core y).gangHead = some (west, width)
      ∧ ∃ k, (s.core y).mq.head? = some k ∧ k.started = true ∧ k.stopped = false ∧ (s.core y).sigOpen .m k = true) →
    (∀ i < 4, ∀ x, (s.core (coreAt d row i)).gangHead = some x → x = (west, width)) →
    ∃ t, exec (.gangFormed d row) s = .next t
      ∧ (t.die d).gangs = (s.die d).gangs ++ [{ row := row, west := west, width := width, members := members }]
      ∧ ∀ y ∈ members, (t.core y).gang = some (west, width))
    ∧ (∀ (s : State) (msg : List Byte) (plan : LoadPlan),
      let x := launchOf msg
      (s.ctlPort = none → exec (.launchRecord msg plan) s = .next s)
      ∧ (s.ctlPort ≠ none → msg.length < 128 ∨ x.ok = false ∨ (s.part x.part).sfe.running = true ∨ s.coresOwned x.part = 0
          ∨ s.needsAbsent x.part = true →
        ∃ t w, exec (.launchRecord msg plan) s = .next t ∧ w ≠ 0 ∧ t.ctlOut = s.ctlOut ++ [exitReport x.reqid w]
          ∧ ∀ q, t.part q = s.part q)
      ∧ (∀ l : Linked, s.ctlPort ≠ none → 128 ≤ msg.length → x.ok = true → (s.part x.part).sfe.running = false → s.coresOwned x.part ≠ 0 →
        s.needsAbsent x.part = false → linkObject x.object plan.objId plan.bias x.narg = some l →
        s.allocated - ((s.part x.part).obj.map (·.bytes)).getD 0 + (l.pieces.map (fun y => (y.sect.pages plan.bias).2)).sum
          ≤ hbmBytes →
        s.planOk x.part plan l.pieces = true →
        l.pieces.all (fun y => (s.writePtes plan.ptes).placed x.part plan.bias y.sect) = true →
        (s.writePtes plan.ptes).codeApart x.part plan.bias l.pieces = true →
        ∃ t, exec (.launchRecord msg plan) s = .next t ∧ (t.part x.part).sfe.running = true
          ∧ (t.part x.part).sfe.ctx.vpc = l.obj.entry ∧ (t.part x.part).sfe.ctx.rets = []
          ∧ (t.part x.part).sfe.ctx.vals = (x.args.map (fun w => Slot.ready (.scalar w))).reverse
          ∧ (t.part x.part).wcount = 0 ∧ (t.part x.part).sfe.reqid = x.reqid))

/-! System calls (R89, R306, R353, R371, R378, R379). -/

/-- R302, R306, R127: an answer to a call of a task goes to CRES0 and the task goes on past its `svc`, whose result it is;
to a stream it is the result of its `svc`; a `t.svc` completes, or faults where the call failed.
R89, R371: `exit` from a task resets its stream context at once and reports the status; from stream text the stream
ends once its window is empty.
R378, R379: the records that calls 9 and 12 write: 64 bytes with the part number first; the bitmap of completed tasks,
a bit for each, with the ECODE behind it. -/
def Obligations.CallAnswers : Prop :=
  (∀ (s : State) (num : Nat) (w : Word),
      (∀ (g : Nat) (pend : TrapPend), s.focus = .core g → (s.core g).trap = some pend → pend.queue = none →
        pend.kinds = [false] → pend.len = 1 → (s.core g).ctx.tmpl = [] → s.atHalt g = false →
        let t := s.answer num w
        (t.core g).cstate = .run ∧ (t.core g).trap = none ∧ (t.core g).cresN 0 = w
          ∧ (t.core g).ctx.vpc = (s.core g).ctx.vpc + 8
          ∧ (t.core g).ctx.vals = .ready (.scalar w) :: (s.core g).ctx.vals ∧ t.hbm = s.hbm)
      ∧ (∀ (p n : Nat) (a b : Word), s.focus = .sfe p → (s.part p).sfe.wait = .svc n a b → (s.part p).sfe.ctx.tmpl = [] →
        let t := s.answer num w
        OnlyPart s t p ∧ (t.part p).sfe.wait = .none ∧ (t.part p).sfe.ctx.vpc = (s.part p).sfe.ctx.vpc + 8
          ∧ (t.part p).sfe.ctx.vals = .ready (.scalar w) :: (s.part p).sfe.ctx.vals)
      ∧ (∀ (p n : Nat) (e : Entry), s.focus = .entry p n → s.entry p n = some e →
        s.answer num w = if w = BitVec.allOnes 64 ∨ (num = 11 ∧ w = 1) then s.toFault p n e cSVC 0 else s.toDone p n e))
  ∧ (∀ (s : State) (c : Call), s.callOf 0 = some c → ∃ t, exec .exit s = .next t
      ∧ (c.task = true → s.linksHold = false → t.ctlOut = s.ctlOut ++ [exitReport (s.part c.part).sfe.reqid c.a]
        ∧ (t.part c.part).sfe.running = false ∧ (t.part c.part).wcount = 0 ∧ (t.part c.part).pgen = ((s.part c.part).pgen + 1) % 2 ^ 16)
      ∧ (c.task = false → OnlyPart s t c.part ∧ (t.part c.part).wcount = (s.part c.part).wcount
        ∧ ∀ a b, (s.part c.part).sfe.wait = .svc 0 a b → (t.part c.part).sfe.wait = .endStream c.a))
  ∧ ((∀ (s : State) (p : Nat), (s.topology p).length = 64 ∧ (s.topology p).take 8 = [0x53, 0x5A, 0x38, 0x38, 0x30, 0x2D, 0x48, 0x41]
      ∧ ∀ d < 8, bytesToNat (((s.topology p).drop (8 + 2 * d)).take 2) = (s.die d).stepping % 2 ^ 16
        ∧ bytesToNat (((s.topology p).drop (32 + 4 * d)).take 4) = (s.own p d).toNat % 2 ^ 32
        ∧ (((s.topology p)[24]?).map (fun b => b.getLsbD d)) = some (s.die d).admitted)
      ∧ (∀ e : Entry, e.report.length = 8 * ((e.ntask + 63) / 64) + 8
        ∧ bytesToNat (e.report.drop (8 * ((e.ntask + 63) / 64))) = e.ecode.toNat
        ∧ (tabWf false e.bitmap = true → ∀ k < e.ntask, (bytesToNat e.report).testBit k = tget false e.bitmap k)))

/-- R371, R378: the calls that read and write the caller's memory, that map and unmap pages, that open and close endpoints,
and the rest, each with the answer its row gives and all ones where it fails. That what a control message has past the caller's
length is dropped (assumption 22), that `yield` ends the slice through its timer, and the order in which `mem_free` unmaps and
shoots down (assumption 36), are the model's choices. -/
def Obligations.SystemCalls : Prop :=
  ∀ (s : State) (c : Call),
    (s.callOf 1 = some c →
      (4096 < c.b.toNat → exec .writeLog s = .next (s.answer 1 (BitVec.allOnes 64)))
      ∧ (c.b.toNat ≤ 4096 → ∀ l t, s.readUser c.part c.a.toNat c.b.toNat = (some l, t) →
        exec .writeLog s = .next (({ t with log := t.log ++ [l] } : State).answer 1 0))
      ∧ (c.b.toNat ≤ 4096 → ∀ t, s.readUser c.part c.a.toNat c.b.toNat = (none, t) →
        exec .writeLog s = .next (t.answer 1 (BitVec.allOnes 64))))
    ∧ (∀ plan : AllocPlan, s.callOf 2 = some c →
      let n := pageRound c.a.toNat
      let t := s.writePtes plan.ptes
      let leaves : Bool := t.eachLeaf c.part plan.va n (fun _ pte x =>
        pte.getLsbD 1 && pte.getLsbD 2 && pte.getLsbD 4 && !pte.getLsbD 63
        && bitsNat pte 52 4 == bitsNat c.b 0 4 && x.ccls == bitsNat c.b 4 2 && x.key == (s.part c.part).keySlot
        && !(s.codeFrames c.part).contains (x.pa / 4096))
      let good : Prop := c.a ≠ 0 ∧ c.a.toNat ≤ 2 ^ 48 ∧ s.allocated + n ≤ hbmBytes ∧ c.b.toNat < 64 ∧ bitsNat c.b 4 2 ≠ 3
        ∧ (bitsNat c.b 0 4 ≤ 7 ∨ bitsNat c.b 0 4 = 15) ∧ s.rangeFree c.part plan.va n = true ∧ leaves = true
      (good → exec (.memAlloc plan) s = .next (((t.zeroVirt c.part plan.va n).modPart c.part (fun q =>
        { q with allocs := q.allocs ++ [(plan.va, n, 0)] })).answer 2 (BitVec.ofNat 64 plan.va)))
      ∧ (¬good → exec (.memAlloc plan) s = .next (s.answer 2 (BitVec.allOnes 64))))
    ∧ (s.callOf 3 = some c →
      ((∀ x ∈ (s.part c.part).allocs, x.1 = c.a.toNat → x.2.2 = 1) → exec .memFree s = .next (s.answer 3 (BitVec.allOnes 64)))
      ∧ (∀ n k, (s.part c.part).allocs.find? (fun x => x.1 = c.a.toNat && x.2.2 != 1) = some (c.a.toNat, n, k) →
        let va := c.a.toNat
        let t := if k = 0 then ((s.unmap (s.ptRoot c.part) va n).shootNow c.part va n).setAlloc c.part va n 2
          else s.shootSettle c.part va n
        (t.shootOver c.part va n = true → exec .memFree s = .next ((t.modPart c.part (fun q =>
          { q with allocs := q.allocs.filter (fun x => x != (va, n, 2)) })).answer 3 0))
        ∧ (t.shootOver c.part va n = false → exec .memFree s = .next t)
        ∧ (k = 0 → (∀ g, (s.core g).cq = []) → t.shootOver c.part va n = true)))
    ∧ (∀ plan : AllocPlan, s.callOf 4 = some c →
      let lo := c.a.toNat / 4096 * 4096
      let n := pageRound (c.a.toNat % 4096 + c.b.toNat)
      let t := s.writePtes plan.ptes
      let leaves : Bool := t.eachLeaf c.part plan.va n (fun off pte x =>
        pte.getLsbD 1 && !pte.getLsbD 2 && pte.getLsbD 4 && !pte.getLsbD 63 &&
        (match s.walk (s.ptRoot c.part) (lo + off) with
          | .ok (w, bits) => leafPath w bits (lo + off) == x
          | .error _ => false))
      let good : Prop := c.b ≠ 0
        ∧ (∃ x ∈ (s.part c.part).allocs, x.2.2 = 0 ∧ x.1 ≤ c.a.toNat ∧ c.a.toNat + c.b.toNat ≤ x.1 + x.2.1)
        ∧ s.rangeFree c.part plan.va n = true ∧ leaves = true
      (good → exec (.viewMap plan) s = .next ((t.modPart c.part (fun q => { q with allocs := q.allocs ++ [(plan.va, n, 1)] })).answer 4
        (BitVec.ofNat 64 (plan.va + c.a.toNat % 4096))))
      ∧ (¬good → exec (.viewMap plan) s = .next (s.answer 4 (BitVec.allOnes 64))))
    ∧ (∀ h : Nat, s.callOf 5 = some c →
      let good : Prop := c.b.toNat ≤ 2 ∧ h < 2 ^ 64 - 1 ∧ ∀ x ∈ s.endpoints, x.handle ≠ h
      (good → exec (.endpointOpen h) s = .next (({ s with endpoints := s.endpoints ++
        [{ handle := h, part := c.part, peer := c.a, service := c.b.toNat, queue := [] }] } : State).answer 5 (BitVec.ofNat 64 h)))
      ∧ (¬good → exec (.endpointOpen h) s = .next (s.answer 5 (BitVec.allOnes 64))))
    ∧ (s.callOf 6 = some c → ∃ t : State, t = { s with endpoints := t.endpoints }
      ∧ (∀ x, x ∈ t.endpoints ↔ x ∈ s.endpoints ∧ ¬(x.handle = c.a.toNat ∧ x.part = c.part))
      ∧ exec .endpointClose s = .next (t.answer 6 (if t.endpoints.length < s.endpoints.length then 0 else BitVec.allOnes 64)))
    ∧ (s.callOf 7 = some c →
      (s.ctlIn = [] → exec .ctlRecv s = .next (s.answer 7 0))
      ∧ (∀ m ms t, s.ctlIn = m :: ms → s.mapped (s.ptRoot c.part) Need.store c.a.toNat (m.take c.b.toNat).length = true →
        s.writeVirt (s.ptRoot c.part) none Need.store c.a.toNat (m.take c.b.toNat) = (.ok (), t) →
        exec .ctlRecv s = .next (({ t with ctlIn := ms } : State).answer 7 (BitVec.ofNat 64 (m.take c.b.toNat).length)))
      ∧ (∀ m ms, s.ctlIn = m :: ms → s.mapped (s.ptRoot c.part) Need.store c.a.toNat (m.take c.b.toNat).length = false →
        exec .ctlRecv s = .next (s.answer 7 (BitVec.allOnes 64))))
    ∧ (s.callOf 8 = some c →
      (c.b.toNat ≤ 65536 → ∀ l t, s.readUser c.part c.a.toNat c.b.toNat = (some l, t) →
        exec .ctlSend s = .next (({ t with ctlOut := t.ctlOut ++ [l] } : State).answer 8 0))
      ∧ (c.b.toNat ≤ 65536 → ∀ t, s.readUser c.part c.a.toNat c.b.toNat = (none, t) →
        exec .ctlSend s = .next (t.answer 8 (BitVec.allOnes 64)))
      ∧ (65536 < c.b.toNat → exec .ctlSend s = .next (s.answer 8 (BitVec.allOnes 64))))
    ∧ (s.callOf 9 = some c → ∀ ok t, s.writeUser c.part c.a.toNat Need.store (s.topology c.part) = (ok, t) →
      exec .topologyQuery s = .next (t.answer 9 (if ok then 0 else BitVec.allOnes 64)))
    ∧ (s.callOf 10 = some c → exec .timeQuery s = .next (s.answer 10 (BitVec.ofNat 64
      ((s.die (dieOfAgent s.focus)).gtc % 2 ^ 63 + if s.holdover then 2 ^ 63 else 0))))
    ∧ (s.callOf 11 = some c →
      (c.task = true → exec .setStreamHandler s = .next (s.answer 11 1))
      ∧ (c.task = false → c.a = 0 → exec .setStreamHandler s = .next ((s.modPart c.part (fun q =>
          { q with sfe := { q.sfe with handler := none } })).answer 11 0))
      ∧ (c.task = false → c.a ≠ 0 →
        let good : Prop := s.handlerOk c.part c.a.toNat = true ∧ c.b.toNat % 8 = 0 ∧ c.b.toNat + 128 ≤ 2 ^ 48
          ∧ s.permits (s.ptRoot c.part) Need.both c.b.toNat 128 = true
        (good → exec .setStreamHandler s = .next ((s.modPart c.part (fun q =>
          { q with sfe := { q.sfe with handler := some (c.a.toNat, c.b.toNat) } })).answer 11 0))
        ∧ (¬good → exec .setStreamHandler s = .next (s.answer 11 1))))
    ∧ (s.callOf 12 = some c →
      ((s.part c.part).heldEntry = none → exec .taskReport s = .next (s.answer 12 (BitVec.allOnes 64)))
      ∧ (∀ n e ok t, (s.part c.part).heldEntry = some (n, e) → s.writeUser c.part c.a.toNat Need.both e.report = (ok, t) →
        exec .taskReport s = .next (t.answer 12 (if ok then BitVec.ofNat 64 e.ntask else BitVec.allOnes 64))))
    ∧ (s.callOf 13 = some c → exec .yield s = .next ((s.modPart c.part (fun q =>
      { q with sliceT := max q.sliceT (s.effSlice c.part) })).answer 13 0))
    ∧ (s.callOf 14 = some c → ∃ l : List Byte, l.length = 64 ∧ ∀ ok t, s.writeUser c.part c.a.toNat Need.store l = (ok, t) →
      exec .patchQuery s = .next (t.answer 14 (if ok then 0 else BitVec.allOnes 64)))
    ∧ (s.callOf 15 = some c →
      (c.a.toNat ≤ 15 → exec .eventPost s = .next ((s.postEvent c.a.toNat 3 c.b).answer 15 0))
      ∧ (15 < c.a.toNat → exec .eventPost s = .next (s.answer 15 (BitVec.allOnes 64))))
    ∧ (∀ (h : Nat) (m : List Byte) (x : Endpoint), s.endpoints.find? (fun x => x.handle == h) = some x →
      ∃ (w : Word) (t : State), exec (.endpointMessageArrival h m) s = .next (t.postEvent x.part 2 w)
        ∧ t.endpoints.length = s.endpoints.length ∧ ∃ y ∈ t.endpoints, y.handle = h ∧ y.queue = x.queue ++ [m])

/-! The part in its system (R346 to R352, R360 to R368). -/

/-- R349, R367, R368: the replies of the SPDM responder and to the board manager: MEASn of the die its index names, all of
them for 0xFF, ERROR for any other index and for an unsupported request, the readings, and the reliability record at its
layout; a die in ROM answers with its report. What R367 names and does not lay out is the model's: the four bytes of an ERROR, those
of VERSION and ALGORITHMS, and the contents of the other replies and of the readings (assumption 10), and the order of the
bytes of a digest (assumption 9). -/
def Obligations.Management : Prop :=
  ∀ (s : State) (d : Nat),
    (s.focus = .die d → s.inRom d = false →
      exec .getVersion s = .next { s with spdm := s.spdm ++ [[0x10, 0x04, 0, 0, 0, 1, 0x00, 0x14]] }
      ∧ exec .getCapabilities s = .next { s with fresh := s.fresh + 1, spdm := s.spdm ++ [Config.spdmReply 0xE1 d s.fresh] }
      ∧ exec .negotiateAlgorithms s = .next { s with spdm := s.spdm ++ [spdmAlgorithms] }
      ∧ exec .getDigests s = .next { s with fresh := s.fresh + 1, spdm := s.spdm ++ [Config.spdmReply 0x81 d s.fresh] }
      ∧ exec .getCertificate s = .next { s with fresh := s.fresh + 1, spdm := s.spdm ++ [Config.spdmReply 0x82 d s.fresh] }
      ∧ exec .challenge s = .next { s with fresh := s.fresh + 1, spdm := s.spdm ++ [Config.spdmReply 0x83 d s.fresh] }
      ∧ (∃ w : Word, exec .readTemperature s
          = .next { s with fresh := s.fresh + 1, board := s.board ++ [natToBytes 8 w.toNat] })
      ∧ (∃ w : Word, exec .readPower s = .next { s with fresh := s.fresh + 1, board := s.board ++ [natToBytes 8 w.toNat] })
      ∧ (let x := s.die d
        x.replay < 2 ^ 26 → x.repfail < 2 ^ 16 → x.sramce < 2 ^ 32 → x.uciefail < 2 ^ 16 → x.sramue < 2 ^ 16 →
        x.uciertry < 2 ^ 32 →
        ∃ l, exec .readReliabilityRecord s = .next { s with board := s.board ++ [l] } ∧ l.length = 16
          ∧ bytesToNat l = x.replay / 1024 + 2 ^ 16 * x.repfail + 2 ^ 32 * x.sramce + 2 ^ 64 * x.uciefail + 2 ^ 80 * x.sramue
              + 2 ^ 96 * x.uciertry))
    ∧ (∀ idx : BitVec 8, s.inRom d = false →
      (∀ e n, e < 8 → n < 16 → idx.toNat = 1 + 16 * e + n → exec (.getMeasurements d idx) s
          = .next { s with spdm := s.spdm ++ [natToBytes 32 (tget 0 (s.die e).meas n).toNat] })
      ∧ (idx = 0xFF → exec (.getMeasurements d idx) s = .next { s with spdm := s.spdm ++ [(List.range 8).flatMap (fun e =>
          (List.range 16).flatMap (fun n => natToBytes 32 (tget 0 (s.die e).meas n).toNat))] })
      ∧ (idx = 0 ∨ 128 < idx.toNat ∧ idx ≠ 0xFF →
        exec (.getMeasurements d idx) s = .next { s with spdm := s.spdm ++ [spdmError 1 0] })
      ∧ ∀ code : BitVec 8, exec (.spdmUnsupportedRequest d code) s
          = .next { s with spdm := s.spdm ++ [spdmError 7 code.toNat] })
    ∧ (s.inRom d = true → ∀ (idx code : BitVec 8),
      exec (.getMeasurements d idx) s = .next { s with spdm := s.spdm ++ [(s.die d).report] }
      ∧ exec (.spdmUnsupportedRequest d code) s = .next { s with spdm := s.spdm ++ [(s.die d).report] }
      ∧ (s.focus = .die d → exec .getVersion s = .next { s with spdm := s.spdm ++ [(s.die d).report] }
        ∧ exec .readReliabilityRecord s = .next { s with board := s.board ++ [(s.die d).report] }))

/-- R360, R361, R362: a loss of the reference begins holdover and a return ends it, each with an event of TYPE 4 to every
partition; a correction moves a die's GTC on, or holds its next clk back, by one tick in 64 at most and within 16 of every other
copy, and never back, in holdover towards CD0's copy (its form is the model's choice: assumption 25); a droop of the supply
changes nothing.
R364, R365: the boot of a die all of whose cores pass and whose service image verifies measures ROM, image and
configuration into registers that began at zero; CD0 is then admitted and trains port E0 at 400 Gb/s; a die that fails a check
stays in ROM and reports; the others are admitted in ascending order, none before CD0; the reduced service ends with
calibration, and every port trains at 1.6 Tb/s. That MEAS0 is taken over part number, stepping and ROM is presumed (assumption 9). -/
def Obligations.ClocksAndBoot : Prop :=
  (∀ s : State,
      let told (t : State) (w : Word) : Prop := ∀ p < 16, ∃ e : Event, e.typ = 4 ∧ e.data = w ∧ e.gen = (s.part p).pgen
        ∧ (s.scheduled p = true → t.part p = (s.part p).takeEvent e)
        ∧ (s.scheduled p = false → (s.part p).evlog.length < 256 → (t.part p).evlog = (s.part p).evlog ++ [e])
      (s.holdover = false → ∃ t, exec .refclkLoss s = .next t ∧ t.holdover = true ∧ told t 1)
      ∧ (s.holdover = true → ∃ t, exec .refclkReturn s = .next t ∧ t.holdover = false ∧ told t 0)
      ∧ (∀ d < 8, s.focus = .die d → ∃ t, exec .gtcCorrection s = .next t ∧ (∀ e, e ≠ d → t.die e = s.die e)
        ∧ ((t.die d).gtc = (s.die d).gtc ∨ (t.die d).gtc = (s.die d).gtc + 1 ∧ (s.die d).slewAt + 64 ≤ (s.die d).gtc
            ∧ ∀ k < 8, (t.die d).gtc ≤ (s.die k).gtc + 16)
        ∧ ((t.die d).slow = (s.die d).slow ∨ (t.die d).gtc = (s.die d).gtc ∧ (s.die d).slewAt + 64 ≤ (s.die d).gtc
            ∧ ∀ k < 8, (s.die k).gtc ≤ (s.die d).gtc + 16)
        ∧ (s.holdover = true → ((t.die d).gtc ≠ (s.die d).gtc → (s.die d).gtc < (s.die 0).gtc)
          ∧ ((t.die d).slow ≠ (s.die d).slow → (s.die 0).gtc < (s.die d).gtc)))
      ∧ exec .supplyDroop s = .next s)
  ∧ ((∀ (s : State) (d : Nat) (b : BootInfo), d < 8 → (s.die d).booted = false →
      ∃ t, exec (.coldReset d b) s = .next t ∧ (t.die d).booted = true ∧ (t.die d).gtc = (s.die d).gtc
        ∧ (b.passed = BitVec.allOnes 17 → Config.mldsaVerify b.imageDigest b.signature = true →
          (t.die d).romOnly = false ∧ (t.die d).admitted = (d == 0) ∧ (t.die d).svcCore = 0
          ∧ tget 0 (t.die d).meas 0
            = Config.sha3 (digestBytes 0 ++ digestBytes (Config.sha3 (partNo ++ natToBytes 2 0x00A0 ++ b.rom)))
          ∧ tget 0 (t.die d).meas 1 = Config.sha3 (digestBytes 0 ++ digestBytes b.imageDigest)
          ∧ tget 0 (t.die d).meas 2 = Config.sha3 (digestBytes 0 ++ digestBytes b.configDigest)
          ∧ (∀ n, 3 ≤ n → tget 0 (t.die d).meas n = 0)
          ∧ (d = 0 → (tget UePort.reset t.ports 0).rate = 400))
        ∧ (b.passed ≠ BitVec.allOnes 17 ∨ Config.mldsaVerify b.imageDigest b.signature = false →
          (t.die d).romOnly = true ∧ (t.die d).admitted = false ∧ t.board = s.board ++ [(t.die d).report]))
      ∧ (∀ (s : State) (d : Nat), s.focus = .die d → d < 8 → (s.die d).booted = true → (s.die d).romOnly = false → s.warm = none →
        (∀ k < d, (s.die k).admitted = true ∨ k ≠ 0 ∧ (s.die k).romOnly = true) →
        exec .dieAdmission s = .next (s.modDie d (fun x => { x with admitted := true })))
      ∧ (∀ (s : State) (d : Nat), s.focus = .die d → 0 < d → (s.die 0).admitted = false → exec .dieAdmission s = .next s)
      ∧ (∀ s : State, ∃ t, exec .calibrationEnd s = .next t ∧ t = { s with reduced := false, ports := t.ports }
        ∧ ∀ n < 16, (tget UePort.reset t.ports n).rate = 1600))

/-- R10, R346, R347, R348: corrected errors are counted; an uncorrected one poisons its word of the pad, of a cache or of a
queue, or its sector of HBM, with ECODE 1, but where the word reads with ECODE 8 already; a flit that fails its retries between two adjacent dies is counted, makes their link
retrain, and a read of the core that waited for it traps POISON with ECODE 2, an entry of a window goes to FAULT with it; a
replay is counted, and a third trip kills the command with ECODE 3. -/
def Obligations.Errors : Prop :=
  ∀ (s : State) (d : Nat),
    (s.focus = .die d →
      exec .sramCorrectedError s = .next (s.modDie d (fun x => { x with sramce := min (x.sramce + 1) (2 ^ 32 - 1) }))
      ∧ exec .ucieFlitRetry s = .next (s.modDie d (fun x => { x with uciertry := min (x.uciertry + 1) (2 ^ 32 - 1) })))
    ∧ (∀ g sec k, g < 128 → k < 8 → 64 * sec < padBytes (s.core g) → ∃ t, exec (.sramUncorrectedError (.pad g sec k)) s = .next t
      ∧ tget none (t.core g).padP (8 * sec + k) = some 1 ∧ (∀ a, (t.core g).padByte a = (s.core g).padByte a)
      ∧ (t.die (dieOf g)).sramue = min ((s.die (dieOf g)).sramue + 1) (2 ^ 16 - 1))
    ∧ (∀ g sec k x, k < 8 → s.cached (.lsc g) sec = some x → ∃ t, exec (.sramUncorrectedError (.lsc g sec k)) s = .next t
      ∧ (x.ecode ≠ 8 ∨ x.poison = 0 →
        t.cached (.lsc g) sec = some { x with poison := x.poison ||| BitVec.ofNat 8 (2 ^ k), ecode := 1 })
      ∧ (x.ecode = 8 → x.poison ≠ 0 →
        t.cached (.lsc g) sec = some { x with poison := x.poison ||| BitVec.ofNat 8 (2 ^ k), ecode := 8 }))
    ∧ (∀ g q i k, g < 136 → ((s.core g).queue q)[i]? = some k → k.started = false →
      ∃ t, exec (.sramUncorrectedError (.cmd g q i)) s = .next t ∧ ((t.core g).queue q)[i]? = some { k with bad := some 1 }
        ∧ (t.die (dieOf g)).sramue = min ((s.die (dieOf g)).sramue + 1) (2 ^ 16 - 1))
    ∧ (∀ g i x, g < 136 → (s.core g).acc[i]? = some x → x.op.inLq = true ∨ x.op.inSq = true →
      ∃ t, exec (.sramUncorrectedError (.acc g i)) s = .next t ∧ (t.core g).acc[i]? = some { x with bad := some 1 }
        ∧ (t.die (dieOf g)).sramue = min ((s.die (dieOf g)).sramue + 1) (2 ^ 16 - 1))
    ∧ (∀ g c i k v, g < 136 → ((s.core g).chan c).ents[i]? = some v → k < v.words →
      ∃ t, exec (.sramUncorrectedError (.chan g c i k)) s = .next t ∧ ((t.core g).chan c).ents = ((s.core g).chan c).ents
        ∧ tget 0 ((t.core g).chan c).spoilt i = tget 0 ((s.core g).chan c).spoilt i ||| BitVec.ofNat 64 (2 ^ k)
        ∧ (t.die (dieOf g)).sramue = min ((s.die (dieOf g)).sramue + 1) (2 ^ 16 - 1))
    ∧ (∀ sec, ∃ t, exec (.hbmUncorrectedError sec) s = .next t ∧ t.hbm = s.hbm ∧ (t.hmeta sec).poison = true
      ∧ ((s.hmeta sec).poison = false ∨ (s.hmeta sec).ecode ≠ 8 → (t.hmeta sec).ecode = 1)
      ∧ ((s.hmeta sec).poison = true → (s.hmeta sec).ecode = 8 → t.hmeta sec = s.hmeta sec)
      ∧ ∀ k, k ≠ sec → t.hmeta k = s.hmeta k)
    ∧ (∀ e, d < 8 → e < 8 → adjacentDies d e = true → edge d e ∉ s.edges →
      (∀ g, g < 128 → (∀ x ∈ (s.core g).acc, x.pad = true ∨ x.path.home = dieOf g) → (∀ k ∈ (s.core g).cq, k.started = false) →
        (s.core g).wait = none → (s.core g).drainRunning = none → s.look (.core g) ≠ .absent →
        ∃ t, exec (.ucieFlitFailure d e g) s = .next t ∧ t.edges = s.edges ++ [edge d e]
          ∧ (t.die d).uciefail = min ((s.die d).uciefail + 1) (2 ^ 16 - 1) ∧ t.core g = s.core g)
      ∧ (∀ g x bits sx hi, g < 128 → (s.core g).cstate = .run → (s.core g).emul = none → (s.core g).acc = [x] → x.pad = false →
        (s.core g).iced = false → usesEdge (dieOf g) x.path.home (edge d e) = true → x.op = .load bits sx hi → x.stage = .waiting → x.committed = false →
        s.crosses x.path false (s.accPath g x) = true →
        s.patchFor (dieOf g) (s.core g).part 1 (faultKey x.snap.vpc cPOISON 0) = none →
        ∃ t r, exec (.ucieFlitFailure d e g) s = .next t ∧ t.edges = s.edges ++ [edge d e] ∧ (t.core g).cstate = .trapped
          ∧ (t.core g).acc = [] ∧ (t.die (dieOf g)).trapq = (s.die (dieOf g)).trapq ++ [r] ∧ r.cause = cPOISON ∧ r.ecode = 2
          ∧ r.addr = x.addr ∧ r.vpc = x.snap.vpc ∧ t.hbm = s.hbm)
      ∧ (∀ p n en, p < 16 → (s.part p).live = [(n, en)] → en.st = .issued → en.issueFault = none →
        (∃ f, en.instr = .tSignalStore f) →
        (∃ pte bits, s.walk (s.ptRoot p) ((en.args[0]?).getD 0).toNat = .ok (pte, bits)
          ∧ usesEdge (hostDie p) (leafPath pte bits ((en.args[0]?).getD 0).toNat).home (edge d e) = true) →
        ∃ t, exec (.ucieFlitFailure d e (136 + p)) s = .next t ∧ t.edges = s.edges ++ [edge d e]
          ∧ t.entry p n = some { en with st := .fault, cause := cERRBIT, ecode := 2 }))
    ∧ (∀ e, d < 8 → e < 8 → adjacentDies d e = false → ∀ g, exec (.ucieFlitFailure d e g) s = .next s)
    ∧ (∀ e, ∃ t, exec (.linkRetrainEnd d e) s = .next t ∧ edge d e ∉ t.edges ∧ ∀ x, x ≠ edge d e → (x ∈ t.edges ↔ x ∈ s.edges))
    ∧ (∀ g q m n k, s.executing g q m = some k → 1 ≤ n →
      ∃ t, t.cores = s.cores ∧ t.hbm = s.hbm
        ∧ (t.die (dieOf g)).replay = min ((s.die (dieOf g)).replay + min n 2) (2 ^ 26 - 1)
        ∧ (n < 3 → exec (.timingReplay g (q, m) n) s = .next t ∧ (t.die (dieOf g)).repfail = (s.die (dieOf g)).repfail)
        ∧ (3 ≤ n → exec (.timingReplay g (q, m) n) s = .next (t.cmdKill g q k 3)
          ∧ (t.die (dieOf g)).repfail = min ((s.die (dieOf g)).repfail + 1) (2 ^ 16 - 1)))

/-- R351, R352, R364: a warm reset of a die stops its requests, or waits for the one in progress; the write-back leaves no
dirty sector homed on it in its L2; its logic reset kills every context on the die, empties its translations, slots and
RDC, and keeps the key slots, the measurements and the reliability record, and the GTC (which R351 does not list: the model's
choice, assumption 38), once no link holds a write of the die; re-admission measures the service image and lets it run. A die
in ROM answers the request with its report. -/
def Obligations.WarmReset : Prop :=
  ∀ (s : State) (d : Nat), d < 8 →
    (s.focus = .die d → s.inRom d = true →
      exec .warmReset s = .next { s with board := s.board ++ [(s.die d).report] })
    ∧ (s.focus = .die d → s.inRom d = false → (s.warm = none → ∃ t, exec .warmReset s = .next t ∧ t.warm = some (d, 1)
        ∧ (t.die d).holdStop = true ∧ ∀ g, dieOf g = d → t.canRun (.core g) = false)
      ∧ (s.warm ≠ none → exec .warmReset s = .next { s with warmQueue := s.warmQueue ++ [d] }))
    ∧ (s.warm = some (d, 1) → ∃ t, exec .warmResetWriteBack s = .next t ∧ t.warm = some (d, 2)
      ∧ ∀ sec x, t.cached .l2 sec = some x → x.home = d → x.dirty = 0)
    ∧ (s.warm = some (d, 2) → s.linksHold = false → ∃ t, exec .warmResetLogicReset s = .next t ∧ t.warm = some (d, 3)
      ∧ (∀ g, g < 128 → dieOf g = d → (s.core g).hasContext = true → (t.core g).cstate = .killed)
      ∧ (t.die d).index = [] ∧ (t.die d).patches = [] ∧ (t.die d).rdc = [] ∧ (t.die d).holdStop = true
      ∧ (t.die d).meas = (s.die d).meas ∧ (t.die d).gtc = (s.die d).gtc ∧ (t.die d).sramce = (s.die d).sramce
      ∧ (t.die d).uciertry = (s.die d).uciertry ∧ (t.die d).uciefail = (s.die d).uciefail
      ∧ (t.die d).sramue = (s.die d).sramue ∧ (t.die d).replay = (s.die d).replay ∧ (t.die d).repfail = (s.die d).repfail
      ∧ t.keys = s.keys)
    ∧ (∀ b : BootInfo, s.warm = some (d, 3) → s.warmQueue = [] → b.passed = BitVec.allOnes 17 →
      Config.mldsaVerify b.imageDigest b.signature = true →
      ∃ t, exec (.warmResetReadmit b) s = .next t ∧ t.warm = none ∧ (t.die d).admitted = true ∧ (t.die d).holdStop = false
        ∧ tget 0 (t.die d).meas 1 = Config.sha3 (digestBytes (tget 0 (s.die d).meas 1) ++ digestBytes b.imageDigest)
        ∧ ∀ x ∈ t.edges, x.1 ≠ d ∧ x.2 ≠ d)

/-! Reset and memory. -/

/-- R29, R131, R187, R264, R311, R314, R317, R319, R357, R364, R365: what reset leaves, by the spec's own values: flag words and
error injection 0 and copy tags FREE; every partition unscheduled and owning nothing, SEED 1; stepping 0x00A0 and layout
0x0001_0000; the measurements 0; and the reduced service. -/
def Obligations.ResetState : Prop :=
  (∀ g n, (State.reset.core g).flag n = 0 ∧ (State.reset.core g).errinj = 0 ∧ ((State.reset.core g).tag n).st = .free)
    ∧ (∀ p, (State.reset.part p).psched = 0 ∧ (State.reset.part p).pswap = 0 ∧ (State.reset.part p).seed = 1
      ∧ (State.reset.part p).sctl = 0 ∧ ∀ d, State.reset.own p d = 0)
    ∧ (∀ d, (State.reset.die d).stepping = 0x00A0 ∧ (State.reset.die d).layout = 0x00010000
      ∧ ∀ n, tget 0 (State.reset.die d).meas n = 0)
    ∧ State.reset.reduced = true

/-- The memory of the machine after reset is in its canonical form (the model's own: assumption 1). -/
def Obligations.ResetMemoryCanonical : Prop :=
  State.reset.memWf

/-- Every step keeps the memory in its canonical form: addresses strictly rising, no entry equal to what an unlisted address
reads as, so that equal memories are equal data. -/
def Obligations.MemoryStaysCanonical : Prop :=
  ∀ s t : State, s.memWf → s.steps t → t.memWf
end

