-- ==== Sys2Proof/Tests/Slice0.lean ====
section
/-! SUPPORT. Tests: an ill-formed term for each check of WellFormed, words written out from the spec's encodings, single
steps on small states, and for every statement with hypotheses a state and operands that meet them. -/

namespace Sys2Proof.Tests

open Sys2Proof.Machine

-- One theorem after another: the kernel's evaluations below would otherwise hold many waiting threads.
set_option Elab.async false

/-- Base-form fields. -/
def bf (ty a b c : Nat) (mod : Nat) : BaseF :=
  { ty := BitVec.ofNat 4 ty, a := BitVec.ofNat 8 a, b := BitVec.ofNat 8 b, c := BitVec.ofNat 8 c, mod := BitVec.ofNat 24 mod }
/-- Immediate-form fields. -/
def imf (fn ty a b imm : Nat) : ImmF :=
  { fn := BitVec.ofNat 4 fn, ty := BitVec.ofNat 4 ty, a := BitVec.ofNat 8 a, b := BitVec.ofNat 8 b, imm := BitVec.ofNat 32 imm }
/-- Engine-form fields. -/
def ef (fn ty a b c wf wn sn sf efl : Nat) : EngF :=
  { fn := BitVec.ofNat 4 fn, ty := BitVec.ofNat 4 ty, a := BitVec.ofNat 8 a, b := BitVec.ofNat 8 b, c := BitVec.ofNat 8 c,
    wf := BitVec.ofNat _ wf, wn := BitVec.ofNat _ wn, sn := BitVec.ofNat _ sn, sf := BitVec.ofNat _ sf,
    efl := BitVec.ofNat _ efl }

/-- A page table at 0 that maps the first gigabyte to itself with every permission; at 0x2000 and 0x3008 an `enter`
without arguments, at 0x2100 one with two scalars. -/
def mem0 : List Host.Cell :=
  [(0, 0x01), (1, 0x10), (0x1000, 0x9F), (0x2007, 0x01), (0x2100, 0x02), (0x2107, 0x01), (0x300F, 0x01)]
/-- A code object whose text is 0x2000 to 0x3FFF. -/
def obj0 : Obj :=
  { id := 1, streamLo := 0x2000, streamHi := 0x4000, kernLo := 0x2000, kernHi := 0x4000, entry := 0x2000, kernels := [], bytes := 0 }
/-- Reset with that memory, partition 0 holding the object. -/
def base0 : State := { State.reset with hbm := mem0 }.modPart 0 (fun q => { q with obj := some obj0 })
/-- The context of an agent at virtual PC 0x3000 whose newest values are `vals`. -/
def ctx0 (vals : List Slot) : Ctx := { Ctx.reset with vpc := 0x3000, vals := vals, pos := vals.length }
/-- Core 0 runs. -/
def kst (vals : List Slot) (f : Core → Core := id) : State :=
  { base0.modCore 0 (fun c => f { c with cstate := .run, ctx := ctx0 vals }) with focus := .core 0 }
/-- Service core 0 runs. -/
def svst (vals : List Slot) (f : Core → Core := id) : State :=
  { base0.modCore 128 (fun c => f { c with ctx := ctx0 vals }) with focus := .core 128 }
/-- The stream context of partition 0 runs. -/
def stst (vals : List Slot) (f : Part → Part := id) : State :=
  { base0.modPart 0 (fun q => f { q with sfe := { q.sfe with running := true, ctx := ctx0 vals } }) with focus := .sfe 0 }

/-- A scalar value. -/
def sc (n : Nat) : Slot := .ready (.scalar (BitVec.ofNat 64 n))

/-- The hypotheses of `MayAct`, checked; the operands where they hold. -/
def mayB (s : State) (cl : Cls) (ops : List (Want × BitVec 8)) (n : Nat) (vs : List Val) : Bool :=
  s.canRun s.focus && s.clsFault s.focus cl == none
    && ops.all (fun o => specOk (s.ctxOf s.focus) (isStream s.focus) o.1 o.2) && decide ((s.ctxOf s.focus).pos + n ≤ 65535)
    && collect (ops.map (fun o => s.operand s.focus (s.ctxOf s.focus) o.1 o.2)) == .ok vs

theorem mayAct_of {s : State} {cl : Cls} {ops : List (Want × BitVec 8)} {n : Nat} {vs : List Val}
    (h : mayB s cl ops n vs = true) : MayAct s cl ops n vs := by
  simp only [mayB, Bool.and_eq_true, beq_iff_eq, decide_eq_true_eq] at h
  exact ⟨h.1.1.1.1, h.1.1.1.2, h.1.1.2, h.1.2, h.2⟩

/-- The hypotheses of `MayActOn` for core `g`, checked. -/
def onB (s : State) (g : Nat) (cl : Cls) (i : Instr) (vs : List Val) : Bool :=
  s.focus == .core g && mayB s cl (opsOf i) (kindsOf i).length vs

theorem on_of {s : State} {g : Nat} {cl : Cls} {i : Instr} {vs : List Val} (h : onB s g cl i vs = true) :
    MayActOn s g cl i vs := by
  simp only [onB, Bool.and_eq_true, beq_iff_eq] at h
  exact ⟨h.1, mayAct_of h.2⟩

/-- The hypotheses of `MayPush` for core `g`, checked. -/
def pushB (s : State) (g : Nat) (q : Eng) (i : Instr) (vs : List Val) : Bool :=
  s.focus == .core g && mayB s .kernel (pushOps i) (kindsOf i).length vs && !(s.core g).pushHeld && (s.core g).canPush q i

theorem push_of {s : State} {g : Nat} {q : Eng} {i : Instr} {vs : List Val} (h : pushB s g q i vs = true) :
    MayPush s g q i vs := by
  simp only [pushB, Bool.and_eq_true, beq_iff_eq, Bool.not_eq_true'] at h
  exact ⟨h.1.1.1, mayAct_of h.1.1.2, h.1.2, h.2⟩

/-- The values that operands resolve to, where they are all there. -/
def valsOf (s : State) (ops : List (Want × BitVec 8)) : List Val :=
  match collect (ops.map (fun o => s.operand s.focus (s.ctxOf s.focus) o.1 o.2)) with
  | .ok vs => vs
  | _ => []
/-- Whether `MayAct` holds with some values. -/
def actB (s : State) (cl : Cls) (ops : List (Want × BitVec 8)) (n : Nat) : Bool := mayB s cl ops n (valsOf s ops)
theorem act_of {s : State} {cl : Cls} {ops : List (Want × BitVec 8)} {n : Nat} (h : actB s cl ops n = true) :
    ∃ vs, MayAct s cl ops n vs := ⟨_, mayAct_of h⟩
/-- The operands of core 0 as 5, 7 and 9. -/
def three : List Slot := [sc 5, sc 7, sc 9]
/-- The state a step answers. -/
def nx (o : Out) : Option State :=
  match o with
  | .next t => some t
  | _ => none
theorem ok_of {α ε σ : Type} {x : Except ε α × σ} (h : x.1.isOk = true) : ∃ p t, x = (.ok p, t) := by
  obtain ⟨a, t⟩ := x
  cases a with
  | error e => simp [Except.isOk, Except.toBool] at h
  | ok p => exact ⟨p, t, rfl⟩
/-- A descriptor record. -/
def mkd (base fmt space bchk n0 n1 n2 s1 s2 : Nat) : BitVec 256 :=
  BitVec.ofNat 256 (base + fmt * 2 ^ 64 + space * 2 ^ 68 + bchk * 2 ^ 70 + (n0 - 1) * 2 ^ 80 + (n1 - 1) * 2 ^ 100
    + n2 * 2 ^ 120 + s1 * 2 ^ 136 + s2 * 2 ^ 168)
/-- An access of 8 bytes: of the pad at 8, or of device memory at 0x4000. -/
def acc0 (op : AccOp) (pad : Bool) : Acc :=
  { op := op, pad := pad, addr := 8, size := 8, path := { pa := if pad then 8 else 0x4000, home := 0, ccls := 0, key := 0 },
    data := 5, dest := 0, stage := .waiting, committed := false, early := none, hint := 0, bad := none, snap := ctx0 [] }
/-- Core 0 with those accesses queued and one unit of pad. -/
def ast (l : List Acc) : State := kst three (fun c => { c with acc := l, padUnits := 1 })
/-- A wait of class `k`. -/
def wt (k : WaitKind) : Wait := { kind := k, stall := 0, bound := some 16 }
/-- Core 0 in a wait. -/
def wst (k : WaitKind) : State := kst three (fun c => { c with wait := some (wt k) })
/-- The hypotheses of `Runs`, checked. -/
def runsB (s : State) (g : Nat) : Bool :=
  decide (g < 128) && (s.core g).cstate == .run && !(s.core g).iced && !(s.die (dieOf g)).holdStop && !s.mustTrap g (s.core g).acc.length
theorem runs_of {s : State} {g : Nat} (h : runsB s g = true) : Runs s g := by
  simp only [runsB, Bool.and_eq_true, decide_eq_true_eq, beq_iff_eq, Bool.not_eq_true'] at h
  exact ⟨h.1.1.1.1, h.1.1.1.2, h.1.1.2, h.1.2, h.2⟩
theorem takes_of {s : State} {a : Agent} {ops : List (Want × BitVec 8)} {vs : List Val} (h : noPops (s.ctxOf a) ops = true) :
    Takes s a ops vs s vs := .inl ⟨h, rfl, rfl⟩
/-- Whether a result is `.ok a`. -/
def okv {α ε σ : Type} [DecidableEq α] (x : Except ε α × σ) (a : α) : Bool :=
  match x.1 with
  | .ok b => decide (b = a)
  | .error _ => false
theorem okv_of {α ε σ : Type} [DecidableEq α] {x : Except ε α × σ} {a : α} (h : okv x a = true) : x = (.ok a, x.2) := by
  obtain ⟨r, t⟩ := x
  cases r with
  | error e => simp [okv] at h
  | ok b => simp only [okv, decide_eq_true_eq] at h; rw [h]
theorem entered_of {x : Rename} (h : (match x with
    | .entered _ => true
    | _ => false) = true) : ∃ t, x = .entered t := by cases x <;> simp_all
theorem stall_of {x : Rename} (h : (match x with
    | .stall _ => true
    | _ => false) = true) : ∃ n, x = .stall n := by cases x <;> simp_all
theorem done_of {x : Work} (h : (match x with
    | .done _ => true
    | _ => false) = true) : ∃ t, x = .done t := by cases x <;> simp_all
theorem fault_of {x : Work} (h : (match x with
    | .fault _ _ _ => true
    | _ => false) = true) : ∃ t c e, x = .fault t c e := by cases x <;> simp_all
/-- A window entry. -/
def ent0 (i : Instr) (st : EState) : Entry :=
  { st := st, instr := i, uid := 0, spc := 0x3000, len := 1, dest := 0, args := [], tens := [], regions := [], unbounded := false,
    rel := 0, acq := 0, visible := true, ntask := 0, team := 0, gang := 0, kern := 0x2000, early := false, bitmap := [],
    trapped := [], failed := [], redone := [], next := 0, out := [], trigs := [], issueFault := none, ecode := 0, cause := 0, stall := 0, ckpt := false,
    snap := ctx0 [], ran := [], prog := 0, buf := [], got := false }
/-- A window that holds one entry. -/
def win (e : Entry) (q : Part) : Part := { q with window := [(0, some e)], wcount := 1 }
/-- Entry 0 of partition 0 in focus. -/
def est (e : Entry) : State := { stst [] (win e) with focus := .entry 0 0 }

/-! Well-formedness: one ill-formed term for each check. -/

theorem test_wf_base :
    (Instr.add (bf 0 1 2 0 0)).wf = false ∧ (Instr.add (bf 6 1 2 0 0)).wf = false ∧ (Instr.add (bf 5 1 2 1 0)).wf = false
    ∧ (Instr.abs (bf 5 1 2 0 0)).wf = false ∧ (Instr.add (bf 5 1 2 0 4)).wf = false ∧ (Instr.halt (bf 0 1 0 0 0)).wf = false
    ∧ (Instr.add (bf 5 1 2 0 3)).wf = true := by decide +kernel
theorem test_wf_enter :
    (Instr.enter (bf 0 0 0 0 17)).wf = false ∧ (Instr.enter (bf 0 0 0 0 (2 + 4 * 32))).wf = false
    ∧ (Instr.enter (bf 0 0 0 0 (2 + 3 * 32))).wf = true := by decide +kernel
theorem test_wf_branches :
    (Instr.br { cond := 0, off := 0, carry := List.replicate 17 1 }).wf = false
    ∧ (Instr.brZ { cond := 0, off := 0, carry := [] }).wf = false ∧ (Instr.call { cond := 1, off := 0, carry := [] }).wf = false
    ∧ (Instr.ret { cond := 1, off := 0, carry := [] }).wf = false ∧ (Instr.ret { cond := 0, off := 1, carry := [] }).wf = false
    ∧ (Instr.br { cond := 0, off := 0, carry := List.replicate 16 1 }).wf = true := by decide +kernel
theorem test_wf_scalar :
    (Instr.and (bf 0 1 2 0 1)).wf = false ∧ (Instr.sel (bf 0 1 2 3 1)).wf = false
    ∧ (Instr.ext (bf 2 1 0 0 0x010700)).wf = false ∧ (Instr.ext (bf 2 1 0 0 0x010600)).wf = true
    ∧ (Instr.trap (imf 0 0 1 1 0)).wf = false ∧ (Instr.svc (imf 0 0 1 2 256)).wf = false
    ∧ (Instr.li (imf 1 0 0 0 0)).wf = false ∧ (Instr.liZ (imf 0 0 0 0 0)).wf = false
    ∧ (Instr.li64 (bf 0 0 0 0 0x100) 0).wf = false ∧ (Instr.sar (bf 5 1 2 0 1)).wf = false := by decide +kernel
theorem test_wf_memory :
    (Instr.ld (imf 0 1 1 0 0)).wf = false ∧ (Instr.ld (imf 3 5 1 0 0)).wf = false ∧ (Instr.ld (imf 6 5 1 0 0)).wf = false
    ∧ (Instr.ld (imf 8 0 1 0 0)).wf = false ∧ (Instr.ld (imf 0 5 1 1 0)).wf = false ∧ (Instr.st (imf 8 5 1 2 0)).wf = false
    ∧ (Instr.amoAdd (bf 5 1 2 0 0x500)).wf = false ∧ (Instr.amoAdd (bf 5 1 2 0 0x400)).wf = true
    ∧ (Instr.barArr (bf 0 1 2 0 0)).wf = false ∧ (Instr.barArr (bf 0 1 2 0 0x100)).wf = true
    ∧ (Instr.fenceAcq (bf 0 0 0 0 0x500)).wf = false ∧ (Instr.tdSet (bf 0 1 0 0 12)).wf = false := by decide +kernel
theorem test_wf_vector :
    (Instr.vadd (bf 11 1 2 0 0x18)).wf = false ∧ (Instr.vadd (bf 11 1 2 0 0x14)).wf = true
    ∧ (Instr.vadd (bf 11 1 2 0 1)).wf = false ∧ (Instr.vadd (bf 4 1 2 0 4)).wf = false
    ∧ (Instr.phase (bf 0 0 0 0 0x190000)).wf = false ∧ (Instr.vput (bf 11 1 0 0 0x080000)).wf = false
    ∧ (Instr.vput (bf 11 1 0 0 0x090000)).wf = true ∧ (Instr.vext (bf 11 1 2 0 1)).wf = false
    ∧ (Instr.vcvt (bf 4 1 0 0 0x240)).wf = false ∧ (Instr.vcvt (bf 11 1 0 0 0x341)).wf = false
    ∧ (Instr.vcvt (bf 4 1 0 0 0x6C0)).wf = false ∧ (Instr.vwid (bf 11 1 0 0 0x2C0)).wf = false
    ∧ (Instr.vnar (bf 10 1 2 3 0x2C0)).wf = false ∧ (Instr.vnar (bf 8 1 2 3 0x0402C0)).wf = true := by decide +kernel
theorem test_wf_channels :
    (Instr.chanCfg (bf 5 0 0 0 0x0B0000)).wf = false ∧ (Instr.chanCfg (bf 1 0 0 0 0x0B0000)).wf = false
    ∧ (Instr.chanCfg (bf 10 0 0 0 0x0B0018)).wf = false ∧ (Instr.chanCfg (bf 10 0 0 0 0x4B0014)).wf = false
    ∧ (Instr.chanCfg (bf 10 0 0 0 0x0B0014)).wf = true ∧ (Instr.chanCfg (bf 10 0 0 0 0x0B0001)).wf = false := by decide +kernel
theorem test_wf_engines :
    (Instr.mm (ef 0 13 0 1 0 1 0 0 0 0)).wf = false ∧ (Instr.mm (ef 0 13 0 1 0 0 0 0 1 0)).wf = false
    ∧ (Instr.mm (ef 0 13 64 1 0 0 0 0 0 0)).wf = false ∧ (Instr.mm (ef 0 0 0 1 0 0 0 0 0 0)).wf = false
    ∧ (Instr.mm (ef 0 13 0 1 0 0 0 0 0 4)).wf = false ∧ (Instr.mmDrain (ef 0 5 0 0 0 0 0 0 0 0)).wf = false
    ∧ (Instr.mmDrain (ef 0 4 0 1 0 0 0 0 0 0)).wf = false ∧ (Instr.mmDrainQ0 (ef 2 10 1 0 0 0 0 0 0 0)).wf = false
    ∧ (Instr.mmGang (ef 0 0 1 0 0 0 0 0 0 3)).wf = false ∧ (Instr.mmGangOff (ef 1 0 1 0 0 0 0 0 0 0)).wf = false
    ∧ (Instr.cp (ef 0 0 0 1 0 0 0 0 0 1)).wf = false ∧ (Instr.cp (ef 0 0 0 1 0 0 0 0 0 24)).wf = false
    ∧ (Instr.cpGather (ef 0 0 0 1 64 0 0 0 0 0)).wf = false ∧ (Instr.tlbInv (ef 0 0 1 2 1 0 0 0 0 0)).wf = false := by
  decide +kernel
theorem test_wf_streams :
    (Instr.tFence (bf 0 0 0 0 5)).wf = false ∧ (Instr.tFence (bf 0 0 0 0 0x28)).wf = false
    ∧ (Instr.tFill (bf 0 1 0 0 0)).wf = false ∧ (Instr.tFill (bf 0 1 0 0 0x80)).wf = true
    ∧ (Instr.tMap 1 (bf 0 1 2 3 0) [] []).wf = false ∧ (Instr.tMap 0 (bf 1 1 2 3 0x200) [] []).wf = false
    ∧ (Instr.tMap 0 (bf 1 1 2 3 0x200) [0] []).wf = true ∧ (Instr.tMap 0 (bf 1 1 2 3 0x800) [0] []).wf = false
    ∧ (Instr.tCopy 5 (bf 0 0 0 0 0x40)).wf = false := by decide +kernel
theorem test_wf_system :
    (Instr.eret (bf 0 0 0 0 1) []).wf = false ∧ (Instr.eret (bf 0 0 0 0 1) [1]).wf = true
    ∧ (Instr.codeInv (bf 0 1 2 3 0x100)).wf = false ∧ (Instr.codeInv (bf 0 1 2 3 0x200)).wf = true
    ∧ (Instr.claimedInstruction 0xEF00000000000000).wf = false ∧ (Instr.claimedInstruction 0xF000000000000000).wf = true := by
  decide +kernel

/-! Decoding: words of the spec's worked encodings. -/

/-- What words decode to. -/
def dec (ws : List Word) : Option (Instr × Nat) := (decode ws).toOption

theorem test_decode_control :
    dec [0x0100000000000002] = some (.enter (bf 0 0 0 0 2), 1)
    ∧ dec [0x0200000200000002, 0x0F00000000000401] = some (.br { cond := 0, off := 2, carry := [1, 4] }, 2)
    ∧ dec [0x02000104FFFFFFFB, 0x0F00000003060102] = some (.br { cond := 1, off := BitVec.ofInt 32 (-5), carry := [2, 1, 6, 3] }, 2)
    ∧ dec [0x021001070000000E, 0x0F0708090A0B0C0F]
        = some (.brZ { cond := 1, off := 14, carry := [15, 12, 11, 10, 9, 8, 7] }, 2)
    ∧ dec [0x0200000AFFFFFFE9, 0x0F10110203121301, 0x0F00000000060E0F]
        = some (.br { cond := 0, off := BitVec.ofInt 32 (-23), carry := [1, 19, 18, 3, 2, 17, 16, 15, 14, 6] }, 3)
    ∧ dec [0x0300000000000005] = some (.call { cond := 0, off := 5, carry := [] }, 1)
    ∧ dec [0x0600000000000000] = some (.halt (bf 0 0 0 0 0), 1)
    ∧ dec [0x0800D10000000000] = some (.keep (bf 0 0xD1 0 0 0), 1)
    ∧ dec [0xB000000000000001, 0x0F00000000000004] = some (.eret (bf 0 0 0 0 1) [4], 2) := by decide +kernel
theorem test_decode_scalar :
    dec [0x100402E300000000] = some (.add (bf 4 2 0xE3 0 0), 1) ∧ dec [0x1024010200000002] = some (.mul (bf 4 1 2 0 2), 1)
    ∧ dec [0x1074020100000000] = some (.max (bf 4 2 1 0 0), 1) ∧ dec [0x101506E100000000] = some (.sub (bf 5 6 0xE1 0 0), 1)
    ∧ dec [0x110509E100000000] = some (.and (bf 5 9 0xE1 0 0), 1) ∧ dec [0x120501EC00000000] = some (.shl (bf 5 1 0xEC 0 0), 1)
    ∧ dec [0x1273010000040700] = some (.ext (bf 3 1 0 0 0x040700), 1)
    ∧ dec [0x1325010900000000] = some (.cmpLt (bf 5 1 9 0 0), 1)
    ∧ dec [0x15000000FFFFFFFE] = some (.li (imf 0 0 0 0 0xFFFFFFFE), 1) := by decide +kernel
theorem test_decode_memory :
    dec [0x3004040000000000] = some (.ld (imf 0 4 4 0 0), 1) ∧ dec [0x3104060300000000] = some (.st (imf 0 4 6 3 0), 1)
    ∧ dec [0x3405020100000380] = some (.amoAdd (bf 5 2 1 0 0x380), 1)
    ∧ dec [0x3505030201000300] = some (.cas (bf 5 3 2 1 0x300), 1)
    ∧ dec [0x3610000000000300] = some (.fenceAcq (bf 0 0 0 0 0x300), 1)
    ∧ dec [0x3620000000000200] = some (.fenceRel (bf 0 0 0 0 0x200), 1)
    ∧ dec [0x3630000000000300] = some (.fenceAr (bf 0 0 0 0 0x300), 1)
    ∧ dec [0x3700000000000000] = some (.align (bf 0 0 0 0 0), 1)
    ∧ dec [0x3700000000000001] = none ∧ dec [0x3640000000000300] = none := by decide +kernel
theorem test_decode_flags :
    dec [0x4000E10000010000] = some (.semSig (bf 0 0xE1 0 0 0x010000), 1)
    ∧ dec [0x4100E20000036000] = some (.semWait (bf 0 0xE2 0 0 0x036000), 1)
    ∧ dec [0x430001E300000300] = some (.barArr (bf 0 1 0xE3 0 0x300), 1)
    ∧ dec [0x4410030100000300] = some (.barWaitT (bf 0 3 1 0 0x300), 1)
    ∧ dec [0x4600000000000000] = some (.teamLeave (bf 0 0 0 0 0), 1)
    ∧ dec [0x4700000000000100] = some (.teamBar (bf 0 0 0 0 0x100), 1)
    ∧ dec [0x4800000000000000] = some (.trig (bf 0 0 0 0 0), 1)
    ∧ dec [0x4910010000000000] = some (.sleepGtNt (bf 0 1 0 0 0), 1)
    ∧ dec [0x4A00E10000040000] = some (.vsemSig (bf 0 0xE1 0 0 0x040000), 1)
    ∧ dec [0x4B00E10000010000] = some (.vsemWait (bf 0 0xE1 0 0 0x010000), 1) := by decide +kernel
theorem test_decode_descriptors :
    dec [0x5000010000030007] = some (.tdSet (bf 0 1 0 0 0x030007), 1)
    ∧ dec [0x5010010000010000] = some (.tdSetRec (bf 0 1 0 0 0x010000), 1)
    ∧ dec [0x5100000000030000] = some (.tdGet (bf 0 0 0 0 0x030000), 1)
    ∧ dec [0x5200010000040000] = some (.portSet (bf 0 1 0 0 0x040000), 1)
    ∧ dec [0x5210010000050001] = some (.portSetW (bf 0 1 0 0 0x050001), 1)
    ∧ dec [0x540A0000000B0000] = some (.chanCfg (bf 10 0 0 0 0x0B0000), 1)
    ∧ dec [0x540A000000870000] = some (.chanCfg (bf 10 0 0 0 0x870000), 1)
    ∧ dec [0x55000000000C0000] = some (.phase (bf 0 0 0 0 0x0C0000), 1) := by decide +kernel
theorem test_decode_vector :
    dec [0x604AC0E000000000] = some (.vmax (bf 10 0xC0 0xE0 0 0), 1)
    ∧ dec [0x610B030201000000] = some (.vfma (bf 11 3 2 1 0), 1) ∧ dec [0x63040C0100000000] = some (.vshl (bf 4 0x0C 1 0 0), 1)
    ∧ dec [0x750B010000000000] = some (.vredSum (bf 11 1 0 0 0), 1)
    ∧ dec [0x770A010000010000] = some (.vput (bf 10 1 0 0 0x010000), 1)
    ∧ dec [0x80040100000002C6] = some (.vcvt (bf 4 1 0 0 0x2C6), 1)
    ∧ dec [0x810B0100000001C0] = some (.vwid (bf 11 1 0 0 0x1C0), 1)
    ∧ dec [0x820A0201000002C0] = some (.vnar (bf 10 2 1 0 0x2C0), 1)
    ∧ dec [0x830B010000000000] = some (.vexp2 (bf 11 1 0 0 0), 1) := by decide +kernel
theorem test_decode_engines :
    dec [0x900D000100000902] = some (.mm (ef 0 13 0 1 0 0 0 1 1 2), 1)
    ∧ dec [0x9104020000001100] = some (.mmDrain (ef 0 4 2 0 0 0 0 1 2 0), 1)
    ∧ dec [0x912A000000000000] = some (.mmDrainQ0 (ef 2 10 0 0 0 0 0 0 0 0), 1)
    ∧ dec [0x9200010000000002] = some (.mmGang (ef 0 0 1 0 0 0 0 0 0 2), 1)
    ∧ dec [0x9300020100000000] = some (.cp (ef 0 0 2 1 0 0 0 0 0 0), 1)
    ∧ dec [0x9300080000110000] = some (.cp (ef 0 0 8 0 0 2 1 0 0 0), 1) := by decide +kernel
theorem test_decode_streams :
    dec [0xA3120302E000091B, 0x0F00000000000201, 0x0F00000000000001]
        = some (.tMap 1 (bf 2 3 2 0xE0 0x00091B) [1, 2] [1], 3)
    ∧ dec [0xA33004E1E000001B, 0x0F00000000020103] = some (.tMap 3 (bf 0 4 0xE1 0xE0 0x00001B) [] [3, 1, 2], 2)
    ∧ dec [0xA60001E0E0020003] = some (.tRead (bf 0 1 0xE0 0xE0 0x020003), 1)
    ∧ dec [0xA500010000050098] = some (.tFill (bf 0 1 0 0 0x050098), 1) := by decide +kernel
theorem test_decode_system :
    dec [0x0A0002010000000B] = some (.svc (imf 0 0 2 1 11), 1)
    ∧ dec [0xB400E30100000004] = some (.scanFrz (bf 0 0xE3 1 0 4), 1)
    ∧ dec [0xB500020100FFFF80] = some (.scanOut (bf 0 2 1 0 0xFFFF80), 1)
    ∧ dec [0xB700E30500000000] = some (.scanRun (bf 0 0xE3 5 0 0), 1) := by decide +kernel
/-- R73: reserved opcodes, LIT64 and CARRY where an instruction begins, and a CARRY word that is not there. -/
theorem test_decode_refuses :
    decode [0x0000000000000000] = .error .illegal ∧ decode [0x0E00000000000000] = .error .illegal
    ∧ decode [0x0F00000000000000] = .error .illegal ∧ decode [0x0500000000000000] = .error .illegal
    ∧ decode [0xEF00000000000000] = .error .illegal ∧ dec [0x0200000200000002, 0x0100000000000000] = none
    ∧ dec [0xF30B030201000000] = some (.claimedInstruction 0xF30B030201000000, 1) := by decide +kernel

/-! Single steps: the results the spec works out. -/

/-- The newest value of core 0 after an instruction that began with `vals`. -/
def res (i : Instr) (vals : List Slot) : Option Slot := (nx (exec i (kst vals))).bind (fun t => (t.core 0).ctx.vals.head?)
/-- The first `n` lanes of width `w` of the first result of a vector computation. -/
def lanesOf (w n : Nat) (r : List Val × BitVec 32) : List Nat :=
  match r.1 with
  | .vector v :: _ => (List.range n).map (fun i => lane w v i)
  | .scalar x :: _ => [x.toNat]
  | _ => []

/-- R170's examples. -/
theorem test_integer_examples :
    res (.div (bf 2 2 1 0 0)) [sc 0xFF, sc 0x80] = some (sc 0xFFFFFFFFFFFFFF80)
    ∧ res (.div (bf 2 2 1 0 2)) [sc 0xFF, sc 0x80] = some (sc 127)
    ∧ res (.mulh (bf 2 2 1 0 1)) [sc 200, sc 200] = some (sc 0x9C)
    ∧ res (.rem (bf 4 2 1 0 0)) [sc 2, sc 0xFFFFFFFFFFFFFFF9] = some (sc 0xFFFFFFFFFFFFFFFF) := by decide +kernel
/-- R77's block: 8, −32, −2 and −2 from 5 and −4. -/
theorem test_block_example :
    res (.add (bf 4 2 0xE3 0 0)) [sc 0xFFFFFFFFFFFFFFFC, sc 5] = some (sc 8)
    ∧ res (.mul (bf 4 1 2 0 2)) [sc 8, sc 0xFFFFFFFFFFFFFFFC] = some (sc 0xFFFFFFFFFFFFFFE0)
    ∧ res (.li (imf 0 0 0 0 0xFFFFFFFE)) [] = some (sc 0xFFFFFFFFFFFFFFFE)
    ∧ res (.max (bf 4 2 1 0 0)) [sc 0xFFFFFFFFFFFFFFFE, sc 0xFFFFFFFFFFFFFFE0] = some (sc 0xFFFFFFFFFFFFFFFE) := by
  decide +kernel
/-- The running sum of the scalar example: it wraps, and clamps under SAT. -/
theorem test_add_wraps :
    res (.add (bf 4 2 1 0 0)) [sc 0x20, sc 0x7FFFFFF0] = some (sc 0xFFFFFFFF80000010)
    ∧ res (.add (bf 4 2 1 0 2)) [sc 0x20, sc 0x7FFFFFF0] = some (sc 0x7FFFFFFF) := by decide +kernel
/-- R173's example. -/
theorem test_ext_example : res (.ext (bf 3 1 0 0 0x040700)) [sc 0xABCD] = some (sc 0xFFFFFFFFFFFFFFBC) := by decide +kernel
/-- R172: a shift by the width or more. -/
theorem test_shift_by_width :
    res (.shl (bf 4 2 1 0 0)) [sc 32, sc 1] = some (sc 0)
    ∧ res (.sar (bf 4 2 1 0 0)) [sc 32, sc 0x80000000] = some (sc 0xFFFFFFFFFFFFFFFF)
    ∧ res (.rot (bf 4 2 1 0 1)) [sc 33, sc 0x80000001] = some (sc 3) := by decide +kernel
/-- R247's example: 3.7, −3.7, 3.0e9 and NaN as i32, toward zero, saturating. -/
theorem test_vcvt_example :
    lanesOf 32 4 (vecEval (.vcvt (bf 4 1 0 0 0x2C6))
        [.vector (BitVec.ofNat 4096 (0x406CCCCD + 0xC06CCCCD * 2 ^ 32 + 0x4F32D05E * 2 ^ 64 + 0x7FC00000 * 2 ^ 96)), .vector 0] 1)
      = [3, 2 ^ 32 - 3, 2147483647, 0] := by decide +kernel
/-- R41's sum, 2^24 + 2 as f32 (R243's example). -/
theorem test_vred_example :
    lanesOf 32 4 (vecEval (.vredSum (bf 11 1 0 0 0))
        [.vector (BitVec.ofNat 4096 (0x4B800000 + 0x3F800000 * 2 ^ 32 + 0x3F800000 * 2 ^ 64 + 0x3F800000 * 2 ^ 96)), .vector 0] 1)
      = [0x4B800001] := by decide +kernel

/-! States and operands that meet the hypotheses of the statements, in their order. -/

theorem witness_DecodeEncode :
    (Instr.mul (bf 4 1 2 0 2)).wf = true ∧ encode (.mul (bf 4 1 2 0 2)) = some [0x1024010200000002]
    ∧ (Instr.tMap 1 (bf 2 3 2 0xE0 0x00091B) [1, 2] [1]).wf = true
    ∧ encode (.tMap 1 (bf 2 3 2 0xE0 0x00091B) [1, 2] [1])
        = some [0xA3120302E000091B, 0x0F00000000000201, 0x0F00000000000001] := by decide +kernel
theorem witness_AcceptedWordsAreCanonical :
    decode [0x1024010200000002, 5] = .ok (.mul (bf 4 1 2 0 2), 1)
    ∧ reservedOp (opOf 0x0B00000000000000).toNat = true ∧ reservedOp (opOf 0xEF00000000000000).toNat = true := by decide +kernel

/-- A block of core 0 that holds an `add` where the core stands. -/
def blk0 : Block :=
  { obj := 1, vpc := 0x2FF8, part := 0, words := [0x0100000000000000, 0x100402E300000000], bad := [], next := none,
    slots := [], routine := false, stale := false }
theorem witness_StepRunsTheDecodedInstruction :
    let s : State := { kst [] (fun c => { c with ctx := { c.ctx with blk := some blk0 } }) with
      agenda := [.run (.core 0), .event (.core 0) .taskStart] }
    let t : State := { s with agenda := [.event (.core 0) .taskStart], focus := .core 0 }
    s.agenda = .run (.core 0) :: [.event (.core 0) .taskStart] ∧ agentExists (.core 0) = true ∧ t.canRun (.core 0) = true
    ∧ t.boundary (.core 0) = none ∧ (s.ctxOf (.core 0)).tmpl = [] ∧ (s.ctxOf (.core 0)).blk = some blk0 ∧ blk0.stale = false
    ∧ blk0.readable (((s.ctxOf (.core 0)).vpc - blk0.vpc) / 8) = 0x100402E300000000 :: []
    ∧ decode (0x100402E300000000 :: []) = .ok (.add (bf 4 2 0xE3 0 0), 1)
    ∧ match0 blk0.slots (s.partOfAgent (.core 0)) 0x100402E300000000 = none
    ∧ t.agenda = .event (.core 0) .taskStart :: [] ∧ encode .taskStart = none := by decide +kernel

/-- The scalar instructions with operands at distances 1 to 3, each well-formed. -/
def scalars : List Instr :=
  [.add (bf 5 1 2 0 0), .sub (bf 1 1 2 0 3), .mul (bf 5 1 2 0 3), .mulh (bf 5 1 2 0 1), .div (bf 5 1 2 0 3), .rem (bf 5 1 2 0 0),
   .min (bf 5 1 2 0 1), .max (bf 5 1 2 0 1), .abs (bf 5 1 0 0 2), .neg (bf 5 1 0 0 2), .and (bf 0 1 2 0 0), .or (bf 5 1 2 0 1),
   .xor (bf 5 1 2 0 1), .andn (bf 5 1 2 0 1), .not (bf 5 1 0 0 1), .shl (bf 5 1 2 0 1), .shr (bf 5 1 2 0 1), .sar (bf 5 1 2 0 0),
   .rot (bf 5 1 2 0 1), .clz (bf 5 1 0 0 1), .ffs (bf 5 1 0 0 1), .popc (bf 5 1 0 0 1), .ext (bf 5 1 0 0 0x003F01),
   .cmpEq (bf 5 1 2 0 1), .cmpNe (bf 5 1 2 0 1), .cmpLt (bf 5 1 2 0 1), .cmpLe (bf 5 1 2 0 1), .cmpGt (bf 5 1 2 0 1),
   .cmpGe (bf 5 1 2 0 1), .sel (bf 0 1 2 3 0), .li (imf 0 0 0 0 5), .liZ (imf 1 0 0 0 5)]
/-- IntegerResults, BitResults, SelectionResults and ScalarFrame: what they ask of an instruction. -/
theorem witness_scalar (i : Instr) (h : i ∈ scalars) :
    isScalarOp i = true ∧ i.wf = true ∧ ∃ vs, MayAct (kst three) .both (opsOf i) 1 vs := by
  have := (by decide +kernel : ∀ i ∈ scalars, isScalarOp i = true ∧ i.wf = true ∧ actB (kst three) .both (opsOf i) 1 = true) i h
  exact ⟨this.1, this.2.1, act_of this.2.2⟩
theorem witness_ScalarFrame : (nx (exec (.add (bf 5 1 2 0 0)) (kst three))).isSome = true := by decide +kernel
/-- The fields that the encodings of BitResults and SelectionResults admit, and those they refuse, at their ends. -/
theorem witness_fields :
    (ScalarFields 0 true false 1 (bf 5 1 2 0 1) ∧ ¬ScalarFields 0 true false 1 (bf 6 1 2 0 0)
      ∧ ¬ScalarFields 0 true false 1 (bf 0 1 2 0 1) ∧ ¬ScalarFields 1 true false 1 (bf 0 1 2 0 0)
      ∧ ¬ScalarFields 1 false false 1 (bf 5 1 2 0 0) ∧ ¬ScalarFields 1 true false 0 (bf 5 1 2 0 1))
    ∧ (bitsNat (bf 3 1 0 0 0x080700).mod 16 6 + (bitsNat (bf 3 1 0 0 0x080700).mod 8 6 + 1) ≤ BaseF.w (bf 3 1 0 0 0x080700)
      ∧ ¬(bitsNat (bf 3 1 0 0 0x090700).mod 16 6 + (bitsNat (bf 3 1 0 0 0x090700).mod 8 6 + 1)
          ≤ BaseF.w (bf 3 1 0 0 0x090700))) := by
  refine ⟨⟨?_, ?_, ?_, ?_, ?_, ?_⟩, by decide +kernel, by decide +kernel⟩ <;> unfold ScalarFields <;> decide +kernel
theorem witness_SelectionResults : (Instr.li64 (bf 0 0 0 0 0xFF) 5).wf = true ∧ MayAct (kst three) .both [] 1 [] :=
  ⟨by decide +kernel, mayAct_of (by decide +kernel)⟩

theorem witness_Retirement :
    MayAct (kst three) .both (opsOf (.nop (bf 0 0 0 0 0))) 0 [] ∧ MayAct (stst three) .both (opsOf (.enter (bf 0 0 0 0 0))) 0 []
    ∧ MayAct (kst three) .both (opsOf (.keep (bf 0 3 0 0 0))) 1 [.scalar 9]
    ∧ MayAct (kst [.ready (.vector 7)]) .both (opsOf (.keep (bf 0 1 0 0 0))) 1 [.vector 7]
    ∧ (kst three).canRun (.core 0) = true ∧ ((kst three).ctxOf (.core 0)).tmpl = []
    ∧ (stst three).canRun (.sfe 0) = true ∧ ((stst three).ctxOf (.sfe 0)).tmpl = [] :=
  ⟨mayAct_of (by decide +kernel), mayAct_of (by decide +kernel), mayAct_of (by decide +kernel), mayAct_of (by decide +kernel),
    by decide +kernel⟩

/-- A branch of `n` words back with carried values. -/
def brf (cond n : Nat) (carry : List (BitVec 8)) : BrF := { cond := BitVec.ofNat 8 cond, off := BitVec.ofInt 32 (-n), carry := carry }
theorem witness_Branches :
    (MayAct (kst three) .both (carryOps []) 0 [] ∧ Takes (kst three) (.core 0) (carryOps []) [] (kst three) []
      ∧ (kst three).checkTarget (.core 0) (branchTarget ((kst three).ctxOf (.core 0)) (brf 0 0x200 []).off) [] = none)
    ∧ (MayAct (kst three) .both ((Want.int, 3) :: carryOps [1, 2]) 0 (.scalar 9 :: [.scalar 5, .scalar 7])
      ∧ Takes (kst three) (.core 0) ((Want.int, 3) :: carryOps [1, 2]) (.scalar 9 :: [.scalar 5, .scalar 7]) (kst three)
          (.scalar 9 :: [.scalar 5, .scalar 7])
      ∧ (kst three).checkTarget (.core 0) (branchTarget ((kst three).ctxOf (.core 0)) (brf 3 0x1E0 [1, 2]).off) [false, false] = none) :=
  ⟨⟨mayAct_of (by decide +kernel), takes_of (by decide +kernel), by decide +kernel⟩, mayAct_of (by decide +kernel),
    takes_of (by decide +kernel), by decide +kernel⟩
/-- Core 0 with one converted vector in channel 0. -/
def popst : State := kst three (fun c => { c with
  chans := [(0, { Chan.reset with cfg := some { snk := 10, mod := 0x0B0000 }, ents := List.replicate 4 (.vector 9), held := some (.vector 9) })],
  cview := [(0, some { snk := 10, mod := 0x0B0000 })] })
/-- What taking operands gives. -/
def takenOf (x : Pops) : List Val × Core :=
  match x with
  | .got ws c => (ws, c)
  | _ => ([], Core.reset)
theorem taken_of {x : Pops} (h : (match x with
    | .got _ _ => true
    | _ => false) = true) : x = .got (takenOf x).1 (takenOf x).2 := by cases x <;> simp_all [takenOf]
/-- Branches, CallAndReturn and ReturnFromException: a carried operand that pops. -/
theorem witness_carriedPop : ∃ vs t ws, MayAct popst .both (carryOps [0xC8]) 0 vs ∧ Takes popst (.core 0) (carryOps [0xC8]) vs t ws :=
  ⟨_, _, _, mayAct_of (vs := valsOf popst (carryOps [0xC8])) (by decide +kernel),
    .inr ⟨0, _, rfl, by decide +kernel, by decide +kernel, by decide +kernel, taken_of (by decide +kernel), by decide +kernel, rfl⟩⟩
theorem witness_CallAndReturn :
    (MayAct (kst three) .both (carryOps []) 0 [] ∧ retDepth ((kst three).ctxOf (.core 0)).rets < 64
      ∧ (kst three).checkTarget (.core 0) (branchTarget ((kst three).ctxOf (.core 0)) (brf 0 0x200 []).off) [] = none
      ∧ (kst three).checkReturn (.core 0) (((kst three).ctxOf (.core 0)).vpc + 8 * (1 + specWordCount 0)) = none
      ∧ ((kst three).ctxOf (.core 0)).rets = [])
    ∧ (let s := kst three (fun c => { c with ctx := { c.ctx with rets := [.pc 0x2100] } });
      MayAct s .both (carryOps [1, 2]) 0 [.scalar 5, .scalar 7] ∧ (s.ctxOf (.core 0)).rets = [.pc 0x2100]
      ∧ s.checkTarget (.core 0) 0x2100 [false, false] = none)
    ∧ (let s := stst three (fun q => { q with sfe := { q.sfe with ctx := { q.sfe.ctx with rets := [.mark, .pc 0x2100] } } });
      MayAct s .both (carryOps [1]) 0 [.scalar 5] ∧ MayAct s .both (carryOps [1, 2]) 0 [.scalar 5, .scalar 7]
      ∧ (s.ctxOf (.sfe 0)).rets = [.mark, .pc 0x2100]
      ∧ Takes s (.sfe 0) (carryOps [1, 2]) [.scalar 5, .scalar 7] s [.scalar 5, .scalar 7])
    ∧ (let s := kst three (fun c => { c with ctx := { c.ctx with rets := List.replicate 64 (.pc 0x2100) } });
      MayAct s .both (carryOps []) 0 [] ∧ 64 ≤ retDepth (s.ctxOf (.core 0)).rets) :=
  ⟨⟨mayAct_of (by decide +kernel), by decide +kernel⟩, ⟨mayAct_of (by decide +kernel), by decide +kernel⟩,
    ⟨mayAct_of (by decide +kernel), mayAct_of (by decide +kernel), by decide +kernel, takes_of (by decide +kernel)⟩,
    mayAct_of (by decide +kernel), by decide +kernel⟩
theorem witness_SoftTrapAndCall :
    MayAct (kst three) .both (opsOf (.trap (imf 0 0 1 0 5))) 0 [.scalar 5]
    ∧ MayAct (kst three) .both (opsOf (.svc (imf 0 0 1 2 11))) 1 [.scalar 5, .scalar 7]
    ∧ MayAct (stst three) .both (opsOf (.svc (imf 0 0 1 2 15))) 1 [.scalar 5, .scalar 7]
    ∧ MayAct (stst three) .both (opsOf (.svc (imf 0 0 1 2 16))) 1 [.scalar 5, .scalar 7]
    ∧ (stst three).windowEmpty 0 = true :=
  ⟨mayAct_of (by decide +kernel), mayAct_of (by decide +kernel), mayAct_of (by decide +kernel), mayAct_of (by decide +kernel),
    by decide +kernel⟩

/-- An emulation of a matched word whose one result is a scalar. -/
def emul0 : Emul :=
  { slot := 0, word := 0xF000000000000000, len := 1, kept := ctx0 [sc 1], kinds := [false], sr := 0, chans := [], ports := [],
    seq := 1, fault := none, wait := none }
/-- Service core 0 in the handler of a trap at `pc`, its interrupted block `blk`. -/
def hst (pc : Nat) (b : Option Block) (f : Core → Core := id) : State :=
  svst three (fun c => f { c with
    svcKept := some { ctx0 [sc 1] with blk := b }, svcKinds := [false], svcLen := 1, sepc := BitVec.ofNat 64 pc })
/-- A command of service core 0 that has trapped. -/
def svcmd : Cmd := { mkCmd Core.reset (.cpFill (ef 0 0 0 1 0 0 0 0 0 0)) [] [] [] with seq := 4, vpc := 0x2F00, stopped := true }
theorem witness_ReturnFromException_handlers :
    (let s := hst 0x3000 none;
      MayAct s .system (carryOps [1]) 0 [.scalar 5] ∧ Takes s (.core 128) (carryOps [1]) [.scalar 5] s [.scalar 5]
      ∧ MayAct s .system (opsOf (.eretRetry (bf 0 0 0 0 0))) 0 [] ∧ (ctx0 [sc 1]).tmpl = []
      ∧ s.focus = .core 128 ∧ (s.core 128).svcKept = some { ctx0 [sc 1] with blk := none } ∧ (s.core 128).emul = none
      ∧ (s.core 128).svcCmd = none ∧ (s.core 128).sepc.toNat = (ctx0 [sc 1]).vpc)
    ∧ (let s := hst 0x3000 (some { blk0 with vpc := 0x2FF8 });
      let k : Ctx := { ctx0 [sc 1] with blk := some { blk0 with vpc := 0x2FF8 }, vpc := 0x2FF8 };
      ((s.modCore 128 (fun c => { c with svcKept := some k })).core 128).svcKept = some k ∧ (s.core 128).sepc.toNat ≠ k.vpc
      ∧ 0x2FF8 ≤ (s.core 128).sepc.toNat ∧ (s.core 128).sepc.toNat < 0x2FF8 + 8 * blk0.words.length
      ∧ decode (blk0.words.drop (((s.core 128).sepc.toNat - 0x2FF8) / 8)) = .ok (.add (bf 4 2 0xE3 0 0), 1))
    ∧ (let s := hst 0x2F00 none (fun c => { c with svcCmd := some (.c, 4, 0x2F00), cq := [svcmd] });
      (s.core 128).svcCmd = some (.c, 4, (s.core 128).sepc.toNat) ∧ (s.core 128).emul = none
      ∧ MayAct s .system (carryOps [1]) 0 [.scalar 5] ∧ Takes s (.core 128) (carryOps [1]) [.scalar 5] s [.scalar 5]
      ∧ MayAct s .system (opsOf (.eretRetry (bf 0 0 0 0 0))) 0 []) :=
  ⟨⟨mayAct_of (by decide +kernel), takes_of (by decide +kernel), mayAct_of (by decide +kernel), rfl, by decide +kernel⟩,
    by decide +kernel, by decide +kernel, by decide +kernel, mayAct_of (by decide +kernel), takes_of (by decide +kernel),
    mayAct_of (by decide +kernel)⟩
theorem witness_ReturnFromException_routine :
    let s := kst three (fun c => { c with emul := some emul0 });
    s.focus = .core 0 ∧ (s.core 0).emul = some emul0 ∧ emul0.fault = none ∧ emul0.kept.tmpl = [] ∧ (s.core 0).acc = []
    ∧ [Val.scalar 5].map Val.isVec = emul0.kinds ∧ MayAct s .system (carryOps [1]) 0 [.scalar 5]
    ∧ Takes s (.core 0) (carryOps [1]) [.scalar 5] s [.scalar 5] :=
  ⟨by decide +kernel, by decide +kernel, rfl, rfl, by decide +kernel, by decide +kernel, mayAct_of (by decide +kernel),
    takes_of (by decide +kernel)⟩
theorem witness_TrapTaken :
    ((kst three).core 0).emul = none ∧ ((kst three).core 0).ctx.tmpl = []
    ∧ (kst three).patchFor (dieOf 0) ((kst three).core 0).part 1 (faultKey ((kst three).core 0).ctx.vpc cTRANSLATE 8) = none := by
  decide +kernel
theorem witness_ServiceTrap :
    isSvc 128 = true ∧ ((svst three).core 128).svcKept = none
    ∧ ((svst three (fun c => { c with svcKept := some (ctx0 []) })).core 128).svcKept = some (ctx0 []) := by decide +kernel
theorem witness_ClassPrivilegeAndOperandTraps :
    (isSystem (.csrR (bf 0 1 0 0 0)) = true ∧ (kst three).focus = .core 0 ∧ Runs (kst three) 0 ∧ ((kst three).core 0).emul = none)
    ∧ isStreamOp (.tFence (bf 0 0 0 0 0)) = true ∧ (stst three).focus = .sfe 0 ∧ (stst three).canRun (.sfe 0) = true
    ∧ isScalarOp (.add (bf 5 1 4 0 0)) = true ∧ (kst three).canRun (kst three).focus = true
    ∧ ((kst three).ctxOf (kst three).focus).tmpl = []
    ∧ (opsOf (.add (bf 5 1 4 0 0))).all (fun o => specOk ((kst three).ctxOf (kst three).focus) (isStream (kst three).focus) o.1 o.2)
        = false :=
  ⟨⟨by decide +kernel, by decide +kernel, runs_of (by decide +kernel), by decide +kernel⟩, by decide +kernel⟩
/-- The ends of the ranges of AddressChecks: aligned and not, the last bytes of the pad and past them, the last bytes of the
address space and past them. -/
theorem witness_AddressChecks :
    let p : Int := (padBytes ((kst three).core 0) : Int)
    (4 : Int) % (8 : Nat) ≠ 0 ∧ (p - 8) % (8 : Nat) = 0 ∧ (p - 8) + (8 : Nat) ≤ p ∧ p % (8 : Nat) = 0 ∧ p < p + (8 : Nat)
    ∧ (-8 : Int) % (8 : Nat) = 0 ∧ (2 ^ 48 : Int) < (2 ^ 48 : Int) + (8 : Nat)
    ∧ (2 ^ 48 - 4 : Int) % (8 : Nat) ≠ 0 ∧ (2 ^ 48 - 12 : Int) % (8 : Nat) ≠ 0 ∧ (2 ^ 48 - 12 : Int) + (8 : Nat) ≤ 2 ^ 48 := by
  decide +kernel

theorem witness_SemSig :
    (MayActOn (kst [sc (2 ^ 24)]) 0 .kernel (.semSig (bf 0 1 0 0 0x1F0000)) [.scalar (BitVec.ofNat 64 (2 ^ 24))]
      ∧ MayActOn (kst [sc (2 ^ 24 - 1)]) 0 .kernel (.semSig (bf 0 1 0 0 0)) [.scalar (BitVec.ofNat 64 (2 ^ 24 - 1))]
      ∧ ((kst [sc (2 ^ 24 - 1)]).core 0).acc = []
      ∧ MayActOn (ast [acc0 .align true]) 0 .kernel (.semSig (bf 0 1 0 0 0)) [.scalar 5]
      ∧ ((ast [acc0 .align true]).core 0).acc ≠ [] ∧ ((kst [sc (2 ^ 24 - 1)]).core 0).turnOpen 0 0 = true
      ∧ ((kst [sc 5] (fun c => { c with flagTurn := [(0, 1)] })).core 0).turnOpen 0 0 = false)
    ∧ (MayActOn (kst [sc 0]) 0 .kernel (.semSigErr (bf 0 1 0 0 0)) [.scalar 0]
      ∧ MayActOn (kst [sc 64]) 0 .kernel (.semSigErr (bf 0 1 0 0 0)) [.scalar 64]
      ∧ MayActOn (kst [sc 1]) 0 .kernel (.semSigErr (bf 0 1 0 0 0)) [.scalar 1]
      ∧ MayActOn (kst [sc 63]) 0 .kernel (.semSigErr (bf 0 1 0 0 0)) [.scalar 63])
    ∧ (bf 0 1 0 0 0x1F0000).mod &&& ~~~0x1F0000 = 0 ∧ (bf 0 1 0 0 0x200000).mod &&& ~~~0x1F0000 ≠ 0
    ∧ (stst []).focus = .sfe 0 ∧ (stst []).canRun (.sfe 0) = true :=
  ⟨⟨on_of (by decide +kernel), on_of (by decide +kernel), by decide +kernel, on_of (by decide +kernel), by decide +kernel⟩,
    ⟨on_of (by decide +kernel), on_of (by decide +kernel), on_of (by decide +kernel), on_of (by decide +kernel)⟩, by decide +kernel⟩
/-- Core 0 with flag word f0. -/
def fst0 (n : Nat) (w : BitVec 32) : State := kst [sc n] (fun c => { c with flags := [(0, w)] })
theorem witness_SemWait :
    (MayActOn (fst0 3 (mkFlag false 0 3)) 0 .kernel (.semWait (bf 0 1 0 0 0)) [.scalar 3]
      ∧ flagErr (((fst0 3 (mkFlag false 0 3)).core 0).flag 0) = false ∧ 3 ≤ flagCount (((fst0 3 (mkFlag false 0 3)).core 0).flag 0)
      ∧ ((fst0 3 (mkFlag false 0 3)).core 0).turnOpen 0 4 = true
      ∧ MayActOn (fst0 3 (mkFlag false 0 3)) 0 .kernel (.semWaitT (bf 0 1 0 0 0)) [.scalar 3])
    ∧ (MayActOn (fst0 0 (mkFlag true 5 0)) 0 .kernel (.semWait (bf 0 1 0 0 0)) [.scalar 0]
      ∧ flagErr (((fst0 0 (mkFlag true 5 0)).core 0).flag 0) = true
      ∧ MayActOn (fst0 0 (mkFlag true 5 0)) 0 .kernel (.semWaitT (bf 0 1 0 0 0)) [.scalar 0])
    ∧ (MayActOn (fst0 4 (mkFlag false 0 3)) 0 .kernel (.semWait (bf 0 1 0 0 0)) [.scalar 4]
      ∧ flagCount (((fst0 4 (mkFlag false 0 3)).core 0).flag 0) < 4) :=
  ⟨⟨on_of (by decide +kernel), by decide +kernel, by decide +kernel, by decide +kernel, on_of (by decide +kernel)⟩,
    ⟨on_of (by decide +kernel), by decide +kernel, on_of (by decide +kernel)⟩, on_of (by decide +kernel), by decide +kernel⟩
theorem witness_SemClr :
    MayActOn (kst []) 0 .kernel (.semClr (bf 0 0 0 0 0x1F0000)) [] ∧ MayActOn (kst []) 0 .kernel (.semClrAll (bf 0 0 0 0 0)) []
    ∧ (bf 0 0 0 0 0x010000).mod &&& ~~~0x1F0000 = 0 ∧ (bf 0 0 0 0 1).mod &&& ~~~0x1F0000 ≠ 0
    ∧ (stst []).focus = .sfe 0 ∧ (stst []).canRun (.sfe 0) = true :=
  ⟨on_of (by decide +kernel), on_of (by decide +kernel), by decide +kernel⟩

/-- A team of core 0 alone. -/
def team0 (gen : Nat) (complete : Bool) : Team :=
  { key := 7, count := 1, members := [0], gen := gen, arrived := [], complete := complete, ranks := [0] }
/-- Core 0 in a team. -/
def tst (t : Team) (f : Core → Core := id) : State :=
  (kst three (fun c => f { c with teamKey := some 7 })).modPart 0 (fun q => { q with teams := [t] })
/-- A command of `c`'s context. -/
def cmd0 (i : Instr) : Cmd := { mkCmd Core.reset i [] [] [] with seq := 1 }
theorem witness_WaitBounds :
    ((kst []).core 0).wait = none ∧ flagWait (((kst []).core 0).flag 0) 1 = .no
    ∧ (tst (team0 0 false)).teamOf 0 = some (team0 0 false) ∧ (team0 0 false).complete = false
    ∧ (tst (team0 2 true)).teamOf 0 = some (team0 2 true) ∧ (team0 2 true).gen = 2
    ∧ ((kst [] (fun c => { c with cq := List.replicate 16 (cmd0 (.tlbInvAll (ef 1 0 0 0 0 0 0 0 0 0))) })).core 0).pushHeld = false
    ∧ ((kst [] (fun c => { c with cq := List.replicate 16 (cmd0 (.tlbInvAll (ef 1 0 0 0 0 0 0 0 0 0))) })).core 0).canPush .c
        (.tlbInvAll (ef 1 0 0 0 0 0 0 0 0 0)) = false
    ∧ ((kst []).core 0).late = false ∧ gtcReached ((kst []).die (dieOf 0)).gtc 1 = false := by decide +kernel
/-- The barrier word at 0x4000, waited for at generation 0. -/
def bacc : Acc := mkAcc Core.reset (.acquire 3) false 0x4000 8 { pa := 0x4000, home := 0, ccls := 0, key := 0 } 0 0
/-- Core 0 with channel 0 configured and nothing in it. -/
def emptyst : State := kst three (fun c => { c with
  chans := [(0, { Chan.reset with cfg := some { snk := 10, mod := 0x0B0000 } })], cview := [(0, some { snk := 10, mod := 0x0B0000 })] })
theorem witness_WaitBounds_barriers :
    ((ast [acc0 (.amo 0 false 0 false false 0) false]).core 0).barHeld { bacc with addr := 8, path := { bacc.path with pa := 0x4000 } } = true
    ∧ (let s := kst three;
      (s.core 0).barHeld bacc = false ∧ s.held (dieOf 0) bacc.path false (s.atomicPath 0 (s.scopeOf 0 3) bacc.path) = false
      ∧ ∃ u, s.barRead 0 (s.scopeOf 0 3) bacc = (.ok 0, u) ∧ 0 / 2 ^ 32 % 2 ^ 16 = 0 ∧ 0 / 2 ^ 63 % 2 = 0)
    ∧ (let ops := carryOps [0xC8];
      let srcs := ops.map (fun o => if isPop (emptyst.core 0).ctx o.2 then (emptyst.core 0).ctx.expand o.2 else 0);
      noPops (emptyst.core 0).ctx ops = false ∧ (emptyst.core 0).popChk (emptyst.core 0).ctx (ops.map (·.2)) = none
      ∧ (emptyst.core 0).vq.all (·.done) = true ∧ (emptyst.core 0).takeAll (srcs.zip [Slot.ready (.vector 9)]) = .wait) :=
  ⟨by decide +kernel, ⟨by decide +kernel, by decide +kernel, _, okv_of (by decide +kernel), by decide⟩, by decide +kernel⟩
/-- Core 0 with a queue of commands. -/
def qst (q : Eng) (l : List Cmd) (f : Core → Core := id) : State := kst three (fun c => f (c.setQueue q l))
/-- A vector command with its operands there. -/
def vcmd : Cmd := { cmd0 (.vadd (bf 4 1 2 0 0)) with ops := [.ready (.vector 5), .ready (.vector 7)], srcs := [0, 0] }
/-- A `vsem.wait` for one signal of f0, and an `mm` that waits for one. -/
def vwait : Cmd := { cmd0 (.vsemWait (bf 0 1 0 0 0)) with ops := [sc 1], srcs := [0] }
def mwait : Cmd := cmd0 (.mm (ef 0 13 0 1 0 0 1 0 0 0))
theorem witness_WaitBounds_heads :
    ((qst .v [vwait]).headWaits 0 .v = [(vwait, 32, 24)] ∧ (qst .m [mwait]).headWaits 0 .m = [(mwait, 32, 24)]
      ∧ (qst .m [{ mwait with instr := .mm (ef 0 13 0 1 0 0 0 0 0 0) }] (fun c => { c with gang := some (0, 2) })).headWaits 0 .m
        = [({ mwait with instr := .mm (ef 0 13 0 1 0 0 0 0 0 0) }, 163, 24)]) := by decide +kernel

/-- Core 0 with a pad and tensors in slot 0. -/
def dst (d : BitVec 256) (vals : List Slot) : State := kst vals (fun c => { c with slots := [(0, d)], padUnits := 1 })
/-- A tensor of 4 by 2 n32 in the pad. -/
def d32 : BitVec 256 := mkd 64 4 1 0 4 2 1 16 0
/-- The same tensor under BCHK 1. -/
def d32z : BitVec 256 := mkd 64 4 1 1 4 2 1 16 0
theorem witness_LoadsAndStoresQueue_addresses :
    (MayActOn (kst [sc 0x3FF8]) 0 .both (.ld (imf 0 5 1 0 8)) [.scalar 0x3FF8]
      ∧ (∃ p t, (kst [sc 0x3FF8]).checkAddr 0 false 0x4000 8 Need.load = (.ok p, t)))
    ∧ (MayActOn (kst [sc 5, sc 0x4000]) 0 .both (.st (imf 0 5 2 1 0)) [.scalar 0x4000, .scalar 5]
      ∧ (∃ p t, (kst [sc 5, sc 0x4000]).checkAddr 0 false 0x4000 8 Need.store = (.ok p, t)))
    ∧ ((kst [sc 0x3FF8]).core 0).noRoom (.load 64 true false) = false
    ∧ ((kst [sc 5, sc 0x4000]).core 0).noRoom (.store none) = false :=
  ⟨⟨on_of (by decide +kernel), ok_of (by decide +kernel)⟩, ⟨on_of (by decide +kernel), ok_of (by decide +kernel)⟩, by decide +kernel⟩
theorem witness_LoadsAndStoresQueue_elements :
    (MayActOn (dst d32 [sc 7]) 0 .kernel (.ldD (bf 0 1 0 0 0)) [.scalar 7] ∧ ((dst d32 [sc 7]).core 0).slotBusy 0 = false
      ∧ descFault (Desc.of (((dst d32 [sc 7]).core 0).slot 0)) = none ∧ offsetIdx (Desc.of d32) 7 = (3, 1, 0)
      ∧ (Desc.of d32).locate 3 1 0 false = .at 92 none)
    ∧ (MayActOn (dst d32 [sc 3, sc 7]) 0 .kernel (.stD (bf 0 2 1 0 0)) [.scalar 7, .scalar 3]
      ∧ (Desc.of d32).locate 3 1 0 true = .at 92 none)
    ∧ (offsetIdx (Desc.of d32) 8 = (0, 0, 1) ∧ (Desc.of d32).locate 0 0 1 false = .bounds ∧ (Desc.of d32).locate 0 0 1 true = .bounds
      ∧ (Desc.of d32z).locate 0 0 1 false = .zero ∧ (Desc.of d32z).locate 0 0 1 true = .drop)
    ∧ MayActOn (dst d32 [sc 8]) 0 .kernel (.ldD (bf 0 1 0 0 0)) [.scalar 8]
    ∧ MayActOn (dst d32z [sc 3, sc 8]) 0 .kernel (.stD (bf 0 2 1 0 0)) [.scalar 8, .scalar 3] :=
  ⟨⟨on_of (by decide +kernel), by decide +kernel⟩, ⟨on_of (by decide +kernel), by decide +kernel⟩, by decide +kernel,
    on_of (by decide +kernel), on_of (by decide +kernel)⟩
/-- The pad of one unit ends inside this tensor: its element at offset 7 lies past the pad. -/
def dout : BitVec 256 := mkd 262144 4 1 0 4 2 1 16 0
theorem witness_LoadsAndStoresQueue_padExtent :
    (Desc.of dout).space = 1 ∧ offsetIdx (Desc.of dout) 7 = (3, 1, 0) ∧ (Desc.of dout).locate 3 1 0 false = .at 262172 none
    ∧ (Desc.of dout).locate 3 1 0 true = .at 262172 none ∧ descFault (Desc.of dout) = none
    ∧ padBytes ((dst dout [sc 7]).core 0) < 262172 + ceilDiv (tyWidth (Desc.of dout).fmt) 8
    ∧ ((dst dout [sc 7]).core 0).slotBusy 0 = false ∧ ((dst dout [sc 3, sc 7]).core 0).slotBusy 0 = false
    ∧ onB (dst dout [sc 7]) 0 .kernel (.ldD (bf 0 1 0 0 0)) [.scalar 7] = true
    ∧ onB (dst dout [sc 3, sc 7]) 0 .kernel (.stD (bf 0 2 1 0 0)) [.scalar 7, .scalar 3] = true := by decide +kernel
theorem witness_LoadsAndStoresQueue_streams :
    ∃ (x : Path) (w : Nat) (t : State),
      (imf 0 5 1 0 0).fn.getLsbD 2 = false ∧ bitsNat (imf 0 5 1 0 0).fn 0 2 = 0
      ∧ MayAct (stst [sc 0x4000]) .both (opsOf (.ld (imf 0 5 1 0 0))) 1 [.scalar 0x4000]
      ∧ (stst [sc 0x4000]).streamPath 0 0x4000 8 Need.load = .ok x
      ∧ (stst [sc 0x4000]).streamHeld 0 x = false ∧ (stst [sc 0x4000]).readPath (some 0) x 8 [.l2] = (.ok w, t)
      ∧ MayAct (stst [sc 0x4000]) .both (opsOf (.st (imf 0 5 1 1 0))) 0 [.scalar 0x4000, .scalar 0x4000]
      ∧ (stst [sc 0x4000]).streamPath 0 0x4000 8 Need.store = .ok x ∧ (stst [sc 0x4000]).windowEmpty 0 = true
      ∧ (stst [sc 0x4000]).unreachable x.home = false := by
  obtain ⟨w, t, h⟩ := ok_of (x := (stst [sc 0x4000]).readPath (some 0) { pa := 0x4000, home := 0, ccls := 0, key := 0 } 8 [.l2])
    (by decide +kernel)
  exact ⟨_, w, t, by decide +kernel, by decide +kernel, mayAct_of (by decide +kernel), by decide +kernel, by decide +kernel, h,
    mayAct_of (by decide +kernel), by decide +kernel, by decide +kernel⟩

theorem witness_AtomicsAndFencesQueue :
    (∀ i ∈ [Instr.amoAdd (bf 5 1 2 0 0x400), .amoMin (bf 4 1 2 0 0), .amoMax (bf 5 1 2 0 0), .amoAnd (bf 5 1 2 0 0),
        .amoOr (bf 5 1 2 0 0), .amoXor (bf 5 1 2 0 0), .amoSwap (bf 5 1 2 0 0)],
      MayActOn (kst [sc 0x4000, sc 7, sc 9]) 0 .kernel i [.scalar 0x4000, .scalar 7])
    ∧ MayActOn (kst [sc 0x4000, sc 7, sc 9]) 0 .kernel (.cas (bf 5 1 2 3 0)) [.scalar 0x4000, .scalar 7, .scalar 9]
    ∧ MayActOn (kst [sc 0x4000, sc 1, sc 63]) 0 .kernel (.barArr (bf 0 1 2 0 0x100)) [.scalar 0x4000, .scalar 1]
    ∧ MayActOn (kst [sc 0x4000, sc (2 ^ 32 - 1), sc 63]) 0 .kernel (.barArrErr (bf 0 1 2 3 0x100))
        [.scalar 0x4000, .scalar (BitVec.ofNat 64 (2 ^ 32 - 1)), .scalar 63]
    ∧ (∃ p t, (kst []).checkAddr 0 false 0x4000 8 Need.both = (.ok p, t))
    ∧ ((kst []).focus = .core 0 ∧ MayAct (kst []) .both [] 0 []) ∧ MayActOn (kst []) 0 .kernel (.align (bf 0 0 0 0 0)) []
    ∧ MayActOn (kst [sc 0x4000, sc 1]) 0 .kernel (.cwb (bf 0 1 2 0 0x200)) [.scalar 0x4000, .scalar 1]
    ∧ MayActOn (kst [sc 0x4000, sc 1]) 0 .kernel (.cinv (bf 0 1 2 0 0x200)) [.scalar 0x4000, .scalar 1]
    ∧ (match (kst [sc 0x4000, sc 1]).cacheRuns 0 0x4000 1 with
      | .ok _ => true
      | .error _ => false) = true := by
  refine ⟨fun i h => ?_, on_of (by decide +kernel), on_of (by decide +kernel), on_of (by decide +kernel),
    ok_of (by decide +kernel), ⟨by decide +kernel, mayAct_of (by decide +kernel)⟩, on_of (by decide +kernel),
    on_of (by decide +kernel), on_of (by decide +kernel), by decide +kernel⟩
  exact on_of ((by decide +kernel : ∀ i ∈ [Instr.amoAdd (bf 5 1 2 0 0x400), .amoMin (bf 4 1 2 0 0), .amoMax (bf 5 1 2 0 0),
    .amoAnd (bf 5 1 2 0 0), .amoOr (bf 5 1 2 0 0), .amoXor (bf 5 1 2 0 0), .amoSwap (bf 5 1 2 0 0)],
      onB (kst [sc 0x4000, sc 7, sc 9]) 0 .kernel i [.scalar 0x4000, .scalar 7] = true) i h)
theorem witness_IssueAccess :
    ((kst three).core 0).ctx.tmpl = []
    ∧ (∀ y ∈ (((ast [acc0 (.store none) true]).core 0).acc ++ [acc0 (.load 64 true false) true]).head?,
        y.op ≠ .align ∧ (y.stage = .performed → ∀ n, y.op ≠ .tdRec n))
    ∧ (∀ y ∈ (((kst three).core 0).acc ++ [acc0 (.store none) true]).head?,
        y.op ≠ .align ∧ (y.stage = .performed → ∀ n, y.op ≠ .tdRec n)) := by
  refine ⟨by decide +kernel, ?_, ?_⟩ <;> intro y h <;> cases h <;> exact ⟨nofun, nofun⟩
/-- The hypotheses of `Performs`, checked. -/
def perfB (s : State) : Bool :=
  decide (s.focus = .core 0) && decide ((s.core 0).cstate ≠ .frozen) && !(s.core 0).iced && !(s.die (dieOf 0)).holdStop
theorem perf_of {s : State} (h : perfB s = true) : Performs s 0 := by
  simp only [perfB, Bool.and_eq_true, decide_eq_true_eq, Bool.not_eq_true'] at h
  exact ⟨h.1.1.1, h.1.1.2, h.1.2, h.2⟩
theorem witness_PadAccessesPerform :
    (let x := acc0 (.load 64 true false) true;
      let s := ast [x];
      Performs s 0 ∧ (s.core 0).acc = [x] ∧ x.stage = .waiting ∧ x.pad = true ∧ 1 ≤ x.size ∧ x.bad = none ∧ s.readsEarly 0 0 = false
      ∧ (s.core 0).padPoison x.path.pa x.size = none)
    ∧ (let x := acc0 (.store none) true;
      let s := ast [x];
      Performs s 0 ∧ (s.core 0).acc = [x] ∧ x.pad = true ∧ 1 ≤ x.size) :=
  ⟨⟨perf_of (by decide +kernel), by decide +kernel⟩, perf_of (by decide +kernel), by decide +kernel⟩
theorem err_of {α ε σ : Type} {x : Except ε α × σ} (h : x.1.isOk = false) : ∃ e t, x = (.error e, t) := by
  obtain ⟨a, t⟩ := x
  cases a with
  | error e => exact ⟨e, t, rfl⟩
  | ok p => simp [Except.isOk, Except.toBool] at h
/-- A load that a younger push has passed, which kept 5, and an older one that its passing keeps from trapping no more. -/
def passed0 : Acc := { acc0 (.load 64 true false) false with committed := true, early := some 5 }
/-- Core 0 with that store queued, its home in the last phase of a warm reset. -/
def lostst (x : Acc) : State := { ast [x] with warm := some (1, 3) }
/-- A store to a page of die 1. -/
def far (b : Bool) : Acc := { acc0 (.store none) false with path := { pa := 0x4000, home := 1, ccls := 3, key := 0 }, committed := b }
theorem witness_DeviceAccessesPerform :
    (let x := acc0 (.load 64 true false) false;
      let s := ast [x];
      Performs s 0 ∧ (s.core 0).acc = [x] ∧ x.stage = .waiting ∧ 1 ≤ x.size ∧ s.accHeld 0 x = false ∧ x.bad = none
      ∧ s.readsEarly 0 0 = false
      ∧ ∃ v t, (s.beforeAcc 0 x).readPath ((s.beforeAcc 0 x).partOf 0) x.path x.size ((s.beforeAcc 0 x).accPath 0 x) = (.ok v, t))
    ∧ (let x := acc0 (.store none) false;
      let s := ast [x];
      Performs s 0 ∧ (s.core 0).acc = [x] ∧ x.pad = false ∧ x.stage = .waiting ∧ 1 ≤ x.size ∧ s.accHeld 0 x = false
      ∧ s.unreachable x.path.home = false) :=
  ⟨⟨perf_of (by decide +kernel), by decide +kernel, by decide +kernel, by decide +kernel, by decide +kernel, by decide +kernel,
    by decide +kernel, ok_of (by decide +kernel)⟩, perf_of (by decide +kernel), by decide +kernel⟩
theorem witness_DeviceAccessesPerform_poison :
    (let x := { acc0 (.load 64 true false) false with bad := some 8 };
      let s := ast [x];
      Performs s 0 ∧ (s.core 0).acc = [x] ∧ s.accHeld 0 x = false ∧ s.takesTrap 0 = true ∧ s.readsEarly 0 0 = false
      ∧ ∃ e t, s.readAcc 0 x = (.error e, t))
    ∧ (let x := passed0;
      let y := { acc0 (.load 64 true false) false with committed := true, bad := some 8 };
      let s := ast [x, y];
      Performs s 0 ∧ (s.core 0).acc = [x, y] ∧ x.stage = .waiting ∧ s.accHeld 0 x = false ∧ s.readsEarly 0 0 = true ∧ x.early = some 5)
    ∧ (let s := lostst (far false);
      Performs s 0 ∧ (s.core 0).acc = [far false] ∧ s.accHeld 0 (far false) = false
      ∧ s.refused (far false).path.home (s.accPath 0 (far false)) = true ∧ (far false).committed = false ∧ s.takesTrap 0 = true)
    ∧ (let s := lostst (far true);
      Performs s 0 ∧ (s.core 0).acc = [far true] ∧ s.accHeld 0 (far true) = false
      ∧ s.refused (far true).path.home (s.accPath 0 (far true)) = true ∧ (far true).committed = true) :=
  ⟨⟨perf_of (by decide +kernel), by decide +kernel, by decide +kernel, by decide +kernel, by decide +kernel, err_of (by decide +kernel)⟩,
    ⟨perf_of (by decide +kernel), by decide +kernel⟩, ⟨perf_of (by decide +kernel), by decide +kernel⟩,
    perf_of (by decide +kernel), by decide +kernel⟩
/-- A dirty sector of bytes 0 to 7. -/
def dirty0 : CSec :=
  { data := 5, valid := 0xFFFF, dirty := 0xFFFF, poison := 0, ecode := 0, key := 0, gen := 0, home := 0, owner := 0 }
theorem witness_CacheSteps :
    (let s := { base0 with l2 := [(1, some dirty0), (2, some { dirty0 with dirty := 0 })] };
      s.cached .l2 1 = some dirty0 ∧ dirty0.dirty ≠ 0 ∧ s.cached .l2 2 = some { dirty0 with dirty := 0 })
    ∧ (let s := kst [] (fun c => { c with lsc := [(1, some dirty0)] });
      s.cached (.lsc 0) 1 = some dirty0 ∧ s.unreachable dirty0.home = false) := by decide +kernel
theorem witness_AtomicResults : (1 : Nat) < 2 ^ 32 ∧ (2 ^ 16 - 1 : Nat) < 2 ^ 16 ∧ (63 : Nat) < 2 ^ 6 ∧ (2 ^ 32 - 1 : Nat) < 2 ^ 32
    ∧ (511 : Nat) < 2 ^ 9 := by decide
/-- What an atomic that is the oldest access of core 0 asks of its state. -/
def amoB (x : Acc) (sc : Nat) : Bool :=
  let s := ast [x]
  let t0 := s.beforeAtomic 0 (s.scopeOf 0 sc) (x.path.pa / 64)
  perfB s && (s.core 0).acc == [x] && decide (x.stage ≠ .performed) && x.bad.isNone
    && !s.held (dieOf 0) x.path false (s.atomicPath 0 (s.scopeOf 0 sc) x.path)
    && (t0.readPath (s.partOf 0) x.path x.size (t0.atomicPath 0 (s.scopeOf 0 sc) x.path)).1.isOk
/-- A barrier arrival that has made its release, at the word at `pa`. -/
def arr (pa : Nat) : Acc :=
  { acc0 (.barArr 2 none 3) false with stage := .released, path := { pa := pa, home := 0, ccls := 0, key := 0 } }
/-- A word with a reserved bit set at 0x4000, and an arrival there. -/
def resst : State := { ast [arr 0x4000] with hbm := mem0 ++ [(0x4007, 0x40)] }
theorem witness_OrderingSteps_atomics :
    (amoB (acc0 (.amo 0 false 0 false false 0) false) 0 = true
      ∧ amoB { acc0 (.amo 0 false 3 true true 0) false with stage := .released } 3 = true
      ∧ amoB { acc0 (.amo 7 false 2 false true 0) false with stage := .waiting } 2 = true)
    ∧ (let x := acc0 (.amo 0 false 3 true true 0) false;
      Performs (ast [x]) 0 ∧ x.stage = .waiting ∧ (ast [x]).releaseHeld 0 ((ast [x]).scopeOf 0 3) = false)
    ∧ (let x := { acc0 (.amo 0 false 3 false true 0) false with stage := .performed };
      let y := acc0 (.load 64 true false) false;
      Performs (ast [x, y]) 0 ∧ (ast [x, y]).releaseHeld 0 ((ast [x, y]).scopeOf 0 3) = false ∧ ∀ z ∈ [y], ∀ c, z.op ≠ .acquire c)
    ∧ (let x := acc0 (.barArr 2 none 3) false;
      Performs (ast [x]) 0 ∧ x.stage = .waiting ∧ (ast [x]).releaseHeld 0 ((ast [x]).scopeOf 0 3) = false) :=
  ⟨by decide +kernel, ⟨perf_of (by decide +kernel), by decide +kernel⟩,
    ⟨perf_of (by decide +kernel), by decide +kernel, fun z h c => by simp only [List.mem_singleton] at h; subst h; nofun⟩,
    perf_of (by decide +kernel), by decide +kernel⟩
theorem witness_OrderingSteps_arrivals :
    amoB (arr 0x4000) 3 = true ∧ barNew 0 2 none = some 1
    ∧ (let x := arr 0x4000;
      let t0 := resst.beforeAtomic 0 (resst.scopeOf 0 3) (x.path.pa / 64);
      Performs resst 0 ∧ (resst.core 0).acc = [x] ∧ x.bad = none ∧ x.early = none ∧ resst.takesTrap 0 = true
      ∧ resst.held (dieOf 0) x.path false (resst.atomicPath 0 (resst.scopeOf 0 3) x.path) = false
      ∧ barNew (2 ^ 62) 2 none = none
      ∧ ∃ t, t0.readPath (resst.partOf 0) x.path x.size (t0.atomicPath 0 (resst.scopeOf 0 3) x.path) = (.ok (2 ^ 62), t)) :=
  ⟨by decide +kernel, by decide +kernel, perf_of (by decide +kernel), by decide +kernel, by decide +kernel, by decide +kernel,
    by decide +kernel, by decide +kernel, by decide +kernel, _, okv_of (by decide +kernel)⟩
theorem witness_OrderingSteps_fences :
    (let x := acc0 (.fence true false 3) false;
      Performs (ast [x]) 0 ∧ ((ast [x]).core 0).acc = [x] ∧ x.stage = .waiting ∧ (ast [x]).releaseHeld 0 ((ast [x]).scopeOf 0 3) = false)
    ∧ (let x := acc0 (.fence false true 3) false; let y := acc0 (.load 64 true false) false;
      Performs (ast [x, y]) 0 ∧ ((ast [x, y]).core 0).acc = [x, y] ∧ (ast [x, y]).releaseHeld 0 ((ast [x, y]).scopeOf 0 3) = false
      ∧ ∀ c, y.op ≠ .acquire c)
    ∧ (let x := { acc0 (.fence true true 3) false with stage := .released };
      Performs (ast [x]) 0 ∧ x.stage ≠ .waiting ∧ (ast [x]).releaseHeld 0 ((ast [x]).scopeOf 0 3) = false)
    ∧ (let x := acc0 (.acquire 3) false;
      Performs (ast [x]) 0 ∧ ((ast [x]).core 0).acc = [x] ∧ (ast [x]).releaseHeld 0 ((ast [x]).scopeOf 0 3) = false)
    ∧ (let x := acc0 (.cacheOp false 2 [(1, 1)]) false;
      Performs (ast [x]) 0 ∧ ((ast [x]).core 0).acc = [x] ∧ (ast [x]).releaseHeld 0 (if 2 = 1 then 3 else 2) = false)
    ∧ (let x := acc0 (.cacheOp true 1 [(1, 1)]) false;
      Performs (ast [x]) 0 ∧ ((ast [x]).core 0).acc = [x] ∧ (ast [x]).releaseHeld 0 (if 1 = 1 then 3 else 1) = false) :=
  ⟨⟨perf_of (by decide +kernel), by decide +kernel⟩, ⟨perf_of (by decide +kernel), by decide +kernel, by decide +kernel, nofun⟩,
    ⟨perf_of (by decide +kernel), by decide +kernel⟩, ⟨perf_of (by decide +kernel), by decide +kernel⟩,
    ⟨perf_of (by decide +kernel), by decide +kernel⟩, perf_of (by decide +kernel), by decide +kernel⟩
theorem witness_DescriptorSlots :
    (MayActOn (kst [sc (2 ^ 20)]) 0 .kernel (.tdSet (bf 0 1 0 0 0x3F0006)) [.scalar (BitVec.ofNat 64 (2 ^ 20))]
      ∧ MayActOn (kst [sc 0]) 0 .kernel (.tdSet (bf 0 1 0 0 6)) [.scalar 0]
      ∧ MayActOn (kst [sc 15]) 0 .kernel (.tdSet (bf 0 1 0 0 1)) [.scalar 15]
      ∧ MayActOn (kst [sc 16]) 0 .kernel (.tdSet (bf 0 1 0 0 1)) [.scalar 16]
      ∧ MayActOn (kst []) 0 .kernel (.tdGet (bf 0 0 0 0 6)) [] ∧ ((kst []).core 0).slotBusy 0 = false)
    ∧ (MayActOn (kst [sc 0x4000]) 0 .kernel (.tdSetRec (bf 0 1 0 0 0)) [.scalar 0x4000]
      ∧ ∃ p t, (kst [sc 0x4000]).checkAddr 0 false 0x4000 32 Need.load = (.ok p, t))
    ∧ (let x := { acc0 (.tdRec 0) false with size := 32 };
      ((ast [x]).core 0).acc = [x] ∧ x.pad = false ∧ x.stage = .waiting ∧ (ast [x]).accHeld 0 x = false
      ∧ ∃ v t, (ast [x]).readAcc 0 x = (.ok v, t)) :=
  ⟨⟨on_of (by decide +kernel), on_of (by decide +kernel), on_of (by decide +kernel), on_of (by decide +kernel),
    on_of (by decide +kernel), by decide +kernel⟩, ⟨on_of (by decide +kernel), ok_of (by decide +kernel)⟩,
    by decide +kernel, by decide +kernel, by decide +kernel, by decide +kernel, ok_of (by decide +kernel)⟩
theorem witness_DescriptorSlots_loads :
    (MayActOn (kst [sc 0x4000]) 0 .kernel (.tdSetRec (bf 0 1 0 0 0)) [.scalar 0x4000]
      ∧ ((kst [sc 0x4000]).core 0).slotBusy 0 = false ∧ ((kst [sc 0x4000]).core 0).noRoom (.tdRec 0) = false
      ∧ ∃ p t, (kst [sc 0x4000]).checkAddr 0 false 0x4000 32 Need.load = (.ok p, t))
    ∧ (let x := { acc0 (.tdRec 0) false with size := 32 };
      Performs (ast [x]) 0 ∧ ((ast [x]).core 0).acc = [x] ∧ x.stage = .waiting ∧ 1 ≤ x.size ∧ (ast [x]).accHeld 0 x = false
      ∧ (ast [x]).readsEarly 0 0 = false ∧ ∃ v t, (ast [x]).readAcc 0 x = (.ok v, t)) :=
  ⟨⟨on_of (by decide +kernel), by decide +kernel, by decide +kernel, ok_of (by decide +kernel)⟩,
    perf_of (by decide +kernel), by decide +kernel, by decide +kernel, by decide +kernel, by decide +kernel, by decide +kernel,
    ok_of (by decide +kernel)⟩

theorem witness_PushTakesItsPlace :
    takesTag (cmd0 (.vadd (bf 4 1 2 0 0))).instr = false ∧ ((kst three).core 0).ctx.tmpl = [] := by decide +kernel
theorem witness_PushTakesItsPlace_passed :
    let x := acc0 (.load 64 true false) false;
    let s := ast [x];
    takesTag (cmd0 (.vadd (bf 4 1 2 0 0))).instr = false ∧ (s.core 0).ctx.tmpl = [] ∧ (s.core 0).acc = [x] ∧ x.op.isLoad = true
    ∧ x.stage = .waiting ∧ s.wouldRead 0 [] x = some 0 := by decide +kernel
/-- Core 0 with three vectors. -/
def vst (f : Core → Core := id) : State := kst [.ready (.vector 5), .ready (.vector 7), .ready (.vector 9)] f
/-- Core 0 with port 0 bound for writing and channel 0 configured from f32. -/
def pst : State := vst (fun c => { c with
  pview := [(0, .write)], cview := [(0, some { snk := 10, mod := 0x0B0000 }), (1, some { snk := 10, mod := 0x0B0000 })] })
theorem witness_VectorPushes :
    (isVecOp (.vadd (bf 4 1 2 3 0)) = true ∧ MayPush (vst) 0 .v (.vadd (bf 4 1 2 3 0)) [.vector 5, .vector 7, .vector 9]
      ∧ ((vst).core 0).popChk ((vst).core 0).ctx (popSpecs (.vadd (bf 4 1 2 3 0))) = none)
    ∧ (let f := bf 4 0xC8 0 0 0; ∃ vs, MayPush pst 0 .v (.vtry f) vs ∧ (pst.core 0).popChk (pst.core 0).ctx (popSpecs (.vtry f)) = none
      ∧ ∃ n, xKind ((pst.core 0).ctx.expand f.a) = .pop n)
    ∧ (let f := bf 11 1 0 0 0; MayPush pst 0 .v (.vput f) [.vector 5] ∧ MayPush pst 0 .v (.vputNb f) [.vector 5]
      ∧ (pst.core 0).popChk (pst.core 0).ctx (popSpecs (.vput f)) = none
      ∧ (pst.core 0).popChk (pst.core 0).ctx (popSpecs (.vputNb f)) = none
      ∧ bitsNat f.mod 16 5 < 8 ∧ tget .unbound (pst.core 0).pview (bitsNat f.mod 16 5) = .write)
    ∧ (let f := bf 11 1 0 0 0x090000; MayPush pst 0 .v (.vput f) [.vector 5]
      ∧ 8 ≤ bitsNat f.mod 16 5 ∧ ∃ k, tget none (pst.core 0).cview (bitsNat f.mod 16 5 - 8) = some k ∧ bitsNat k.mod 16 4 = f.ty.toNat) :=
  ⟨⟨by decide +kernel, push_of (by decide +kernel), by decide +kernel⟩,
    ⟨valsOf pst (pushOps (.vtry (bf 4 0xC8 0 0 0))), push_of (by decide +kernel), by decide +kernel, 0, by decide +kernel⟩,
    ⟨push_of (by decide +kernel), push_of (by decide +kernel), by decide +kernel⟩,
    push_of (by decide +kernel), by decide +kernel, { snk := 10, mod := 0x0B0000 }, by decide +kernel⟩
/-- A bf16 tensor of 256 by 4 in the pad, and its walk by rows. -/
def dpad : BitVec 256 := mkd 0 10 1 0 256 4 1 512 0
theorem witness_PortAndFlagPushes_ports :
    (let s := dst dpad [sc 0x10001000];
      let d := Desc.of ((s.core 0).slot 0);
      MayPush s 0 .v (.portSet (bf 0 1 0 0 0)) [.scalar 0x10001000] ∧ MayPush s 0 .v (.portSetW (bf 0 1 0 0 0)) [.scalar 0x10001000]
      ∧ (s.core 0).slotBusy 0 = false ∧ d.valid = true ∧ d.space = 1 ∧ d.misaligned = false ∧ walkInside d 0x10001000 = true
      ∧ walkInPad d 0x10001000 false (padBytes (s.core 0)) = true ∧ walkInPad d 0x10001000 true (padBytes (s.core 0)) = true)
    ∧ (MayPush pst 0 .v (.portRst (bf 0 0 0 0 0)) [] ∧ tget .unbound (pst.core 0).pview 0 ≠ .unbound)
    ∧ MayPush pst 0 .v (.portRstOff (bf 0 0 0 0 7)) [] ∧ MayPush pst 0 .v (.chanCfg (bf 10 0 0 0 0x0B0000)) [] :=
  ⟨⟨push_of (by decide +kernel), push_of (by decide +kernel), by decide +kernel⟩,
    ⟨push_of (by decide +kernel), by decide +kernel⟩, push_of (by decide +kernel), push_of (by decide +kernel)⟩
theorem witness_PortAndFlagPushes_flags :
    MayPush (kst [sc (2 ^ 24 - 1)]) 0 .v (.vsemSig (bf 0 1 0 0 0)) [.scalar (BitVec.ofNat 64 (2 ^ 24 - 1))]
    ∧ (∀ n ∈ [1, 63], MayPush (kst [sc n]) 0 .v (.vsemSigErr (bf 0 1 0 0 0)) [.scalar (BitVec.ofNat 64 n)])
    ∧ MayPush (kst [sc (2 ^ 24 - 1)]) 0 .v (.vsemWait (bf 0 1 0 0 0)) [.scalar (BitVec.ofNat 64 (2 ^ 24 - 1))] :=
  ⟨push_of (by decide +kernel), fun n h => push_of ((by decide +kernel : ∀ n ∈ [1, 63],
    pushB (kst [sc n]) 0 .v (.vsemSigErr (bf 0 1 0 0 0)) [.scalar (BitVec.ofNat 64 n)] = true) n h), push_of (by decide +kernel)⟩
theorem witness_VectorExecutes :
    ((qst .v [vcmd]).queueRuns 0 .v = true ∧ vcmd.bad = none ∧ ((qst .v [vcmd]).core 0).vq = [vcmd]
      ∧ isVecOp vcmd.instr = true ∧ vcmd.started = false ∧ vcmd.done = false ∧ ((qst .v [vcmd]).core 0).errinj = 0
      ∧ vcmd.ops = [Val.vector 5, .vector 7].map Slot.ready ∧ vcmd.srcs = List.replicate 2 0
      ∧ firstPoison [.vector 5, .vector 7] = none)
    ∧ (let k := { vcmd with started := true };
      let ks := [{ vcmd with seq := 9 }];
      (qst .v (k :: ks)).queueRuns 0 .v = true ∧ ((qst .v (k :: ks)).core 0).vq = k :: ks ∧ k.done = false ∧ k.tag = none
      ∧ (∀ x ∈ ks, x.seq ≠ k.seq) ∧ ∀ x ∈ ks, x.done = false) :=
  ⟨by decide +kernel, by decide +kernel⟩
theorem witness_VectorInsert : (Instr.vins (bf 11 1 2 3 0xF800)).wf = true := by decide +kernel
theorem witness_LaneResults :
    0 < lanes (bf 4 1 2 3 0).ty.toNat ∧ (Instr.vand (bf 4 1 2 3 0)).wf = true ∧ (Instr.vor (bf 4 1 2 0 0)).wf = true
    ∧ (Instr.vxor (bf 4 1 2 3 0)).wf = true ∧ (Instr.vadd (bf 4 1 2 3 3)).wf = true ∧ isIntTy (bf 4 1 2 3 3).ty.toNat = true
    ∧ (Instr.vbc (bf 4 1 0 3 0)).wf = true ∧ (Instr.vbcLane (bf 4 1 2 3 0)).wf = true ∧ (Instr.vext (bf 4 1 2 0 1)).wf = true := by
  decide +kernel

/-- Partition 0 owns core 0 and its sector, and those of the row. -/
def own0 (s : State) (w : Word) : State := s.modPart 0 (fun q => { q with own := [(0, w)] })
/-- Core 0 with descriptors in slots 0 to 2 and a bank in use. -/
def mst (d0 d1 d2 : BitVec 256) : State :=
  own0 (kst three (fun c => { c with
    slots := [(0, d0), (1, d1), (2, d2)], padUnits := 8,
    bview0 := { BankView.reset with mode := some .fp, m := 4, n := 4 },
    cview := [(0, some { snk := 10, mod := 0x0B0000 }), (2, some { snk := 11, mod := 0x8B0000 }),
      (3, some { snk := 11, mod := 0xCB0000 })] })) 0x00010001
/-- A 4 by 4 matrix of a format in the pad. -/
def mat (base fmt : Nat) : BitVec 256 := mkd base fmt 1 0 4 4 1 16 0
theorem witness_MatrixAndCopyPushes_matrix :
    (let s := mst (mat 0 10) (mat 64 10) 0;
      MayPush s 0 .m (.mm (ef 0 13 0 1 0 0 0 0 0 0)) [] ∧ (s.core 0).slotBusy 0 = false
      ∧ s.mmChk 0 (ef 0 13 0 1 0 0 0 0 0 0) ((s.core 0).slot 0) ((s.core 0).slot 1) = none)
    ∧ (let s := mst (mat 128 11) (mat 64 10) 0;
      let f := ef 8 11 0 1 0 0 0 0 0 0;
      let view := (s.core 0).bview (f.fn.getLsbD 0);
      let b := Desc.of ((s.core 0).slot 1);
      MayPush s 0 .m (.mmDrain f) [] ∧ view.mode.isSome = true ∧ b.valid = true ∧ b.misaligned = false ∧ b.space = 1 ∧ b.fmt = 10
      ∧ view.n ≤ b.n0 ∧ b.base + b.rowBytes view.n ≤ padBytes (s.core 0)
      ∧ (s.driven 0 (s.core 0).gview).all (fun y => s.ownsSect (s.core 0).part y) = true
      ∧ s.scaleFault 0 view.refA view.m = none ∧ s.scaleFault 0 view.refB view.n = none
      ∧ (∀ x ∈ drainSlots f false, (s.core 0).slotBusy x = false)
      ∧ (Desc.of ((s.core 0).slot 0)).valid = true ∧ (Desc.of ((s.core 0).slot 0)).misaligned = false
      ∧ (Desc.of ((s.core 0).slot 0)).space = 1 ∧ (Desc.of ((s.core 0).slot 0)).fmt = f.ty.toNat
      ∧ drainBounds (Desc.of ((s.core 0).slot 0)) view.m view.n (padBytes (s.core 0)) = true)
    ∧ (let s := mst 0 0 0;
      let f := ef 2 11 0 0 0 0 0 0 0 0;
      MayPush s 0 .m (.mmDrainQ0 f) [] ∧ (∀ x ∈ drainSlots f true, (s.core 0).slotBusy x = false)
      ∧ ∃ k, tget none (s.core 0).cview 0 = some k ∧ bitsNat k.mod 16 4 = f.ty.toNat)
    ∧ (MayPush (own0 (kst [sc 0]) 0x00010001) 0 .m (.mmGang (ef 0 0 1 0 0 0 0 0 0 2)) [.scalar 0]
      ∧ (own0 (kst [sc 0]) 0x00010001).ownsSect ((own0 (kst [sc 0]) 0x00010001).core 0).part 0 = true ∧ 0 + 2 * bitsNat (2 : BitVec 8) 0 2 ≤ 4
      ∧ 0 ≤ sectCol 0 ∧ sectCol 0 < 0 + 2 * bitsNat (2 : BitVec 8) 0 2)
    ∧ MayPush (kst []) 0 .m (.mmGangOff (ef 1 0 0 0 0 0 0 0 0 0)) [] :=
  ⟨⟨push_of (by decide +kernel), by decide +kernel⟩,
    ⟨push_of (by decide +kernel), by decide +kernel⟩,
    ⟨push_of (by decide +kernel), by decide +kernel, { snk := 10, mod := 0x0B0000 }, by decide +kernel⟩,
    ⟨push_of (by decide +kernel), by decide +kernel⟩, push_of (by decide +kernel)⟩
theorem witness_MatrixAndCopyPushes_copy :
    (let s := mst (mat 0 11) (mkd 0x4000 11 0 0 4 4 1 16 0) 0;
      (∀ n, (s.core 0).slotBusy n = false) ∧ MayPush s 0 .c (.cp (ef 0 0 0 1 0 0 0 0 0 0)) []
      ∧ copyChk [Desc.of (mat 0 11), Desc.of (mkd 0x4000 11 0 0 4 4 1 16 0)] (Desc.of (mat 0 11)) true true true (padBytes (s.core 0)) = none
      ∧ MayPush s 0 .c (.cpFill (ef 0 0 0 1 0 0 0 0 0 0)) [.scalar 5]
      ∧ copyChk [Desc.of (mat 0 11)] (Desc.of (mat 0 11)) false true true (padBytes (s.core 0)) = none
      ∧ MayPush s 0 .c (.cpQ2 (ef 1 0 0 0 0 0 0 0 0 0)) []
      ∧ (∃ k, tget none (s.core 0).cview 2 = some k ∧ bitsNat k.mod 16 4 = (Desc.of ((s.core 0).slot 0)).fmt)
      ∧ MayPush s 0 .c (.cpQ3 (ef 2 0 0 0 0 0 0 0 0 0)) []
      ∧ (∃ k, tget none (s.core 0).cview 3 = some k ∧ k.snk = (Desc.of ((s.core 0).slot 0)).fmt))
    ∧ (let a := mkd 0 11 1 0 4 4 1 16 0;
      let b := mkd 0x4000 11 0 0 4 64 1 16 0;
      let c := mkd 256 4 1 0 4 1 1 0 0;
      let s := mst a b c;
      MayPush s 0 .c (.cpGather (ef 0 0 0 1 2 0 0 0 0 0)) [] ∧ (Desc.of c).space = 1 ∧ (Desc.of c).fmt = 4 ∧ (Desc.of c).n1 = 1
      ∧ (Desc.of c).n2 = 1 ∧ (Desc.of a).n1 = (Desc.of c).n0 ∧ (Desc.of a).n2 = 1 ∧ (Desc.of b).n2 = 1
      ∧ (Desc.of a).n0 = (Desc.of b).n0 ∧ (Desc.of a).space = 1
      ∧ copyChk [Desc.of a, Desc.of b, Desc.of c] (Desc.of a) false true true (padBytes (s.core 0)) = none)
    ∧ MayPush (kst [sc 0x4000, sc 4096]) 0 .c (.tlbInv (ef 0 0 1 2 0 0 0 0 0 0)) [.scalar 0x4000, .scalar 4096]
    ∧ MayPush (kst []) 0 .c (.tlbInvAll (ef 1 0 0 0 0 0 0 0 0 0)) [] :=
  ⟨⟨fun _ => rfl, push_of (by decide +kernel), by decide +kernel, push_of (by decide +kernel), by decide +kernel,
      push_of (by decide +kernel), ⟨{ snk := 11, mod := 0x8B0000 }, by decide +kernel⟩, push_of (by decide +kernel),
      { snk := 11, mod := 0xCB0000 }, by decide +kernel⟩,
    ⟨push_of (by decide +kernel), by decide +kernel⟩, push_of (by decide +kernel), push_of (by decide +kernel)⟩

/-- `bar.wait` on the word at 0x4000, whose generation is 0. -/
theorem witness_BarriersAndTeams_wait :
    let s := kst [sc 0x4000, sc 1]
    let p : Path := { pa := 0x4000, home := 0, ccls := 0, key := 0 }
    let t := (s.checkAddr 0 false 0x4000 8 Need.load).2
    let x := mkAcc (t.core 0) (.acquire 1) false 0x4000 8 p 0 0
    s.checkAddr 0 false 0x4000 8 Need.load = (.ok p, t)
    ∧ (t.core 0).barHeld x = false ∧ t.held (dieOf 0) p false (t.atomicPath 0 (t.scopeOf 0 1) p) = false
    ∧ t.barRead 0 (t.scopeOf 0 1) x = (.ok 0, (t.barRead 0 (t.scopeOf 0 1) x).2)
    ∧ MayActOn s 0 .kernel (.barWait (bf 0 1 2 0 0x100)) [.scalar 0x4000, .scalar 1]
    ∧ MayActOn s 0 .kernel (.barWaitT (bf 0 1 2 0 0x100)) [.scalar 0x4000, .scalar 1]
    ∧ 0 / 2 ^ 32 % 2 ^ 16 ≠ (1 : Word).toNat % 2 ^ 16 ∧ 0 / 2 ^ 63 % 2 = 0 ∧ 0 / 2 ^ 54 % 2 ^ 9 = 0 :=
  ⟨okv_of (by decide +kernel), by decide +kernel, by decide +kernel, okv_of (by decide +kernel), on_of (by decide +kernel), on_of (by decide +kernel), by decide⟩
/-- `bar.wait` on a word in error whose generation is the one waited for. -/
theorem witness_BarriersAndTeams_error :
    let s : State := { kst [sc 0x4000, sc 0] with hbm := mem0 ++ [(0x4007, 0x80)] }
    let p : Path := { pa := 0x4000, home := 0, ccls := 0, key := 0 }
    let t := (s.checkAddr 0 false 0x4000 8 Need.load).2
    let x := mkAcc (t.core 0) (.acquire 1) false 0x4000 8 p 0 0
    s.checkAddr 0 false 0x4000 8 Need.load = (.ok p, t)
    ∧ (t.core 0).barHeld x = false ∧ t.held (dieOf 0) p false (t.atomicPath 0 (t.scopeOf 0 1) p) = false
    ∧ t.barRead 0 (t.scopeOf 0 1) x = (.ok (2 ^ 63), (t.barRead 0 (t.scopeOf 0 1) x).2)
    ∧ MayActOn s 0 .kernel (.barWait (bf 0 1 2 0 0x100)) [.scalar 0x4000, .scalar 0]
    ∧ 2 ^ 63 / 2 ^ 63 % 2 = 1 ∧ 2 ^ 63 / 2 ^ 54 % 2 ^ 9 = 0 :=
  ⟨okv_of (by decide +kernel), by decide +kernel, by decide +kernel, okv_of (by decide +kernel), on_of (by decide +kernel), by decide⟩
theorem witness_BarriersAndTeams_poll :
    let x := acc0 (.load 64 false false) false
    let s := wst (.barWait x 1 false 1)
    s.focus = .core 0 ∧ Runs s 0 ∧ (s.core 0).wait = some { kind := .barWait x 1 false 1, stall := 0, bound := some 16 }
    ∧ (s.core 0).barHeld x = false ∧ s.held (dieOf 0) x.path false (s.atomicPath 0 (s.scopeOf 0 1) x.path) = false
    ∧ s.barRead 0 (s.scopeOf 0 1) x = (.ok 0, (s.barRead 0 (s.scopeOf 0 1) x).2) ∧ 0 / 2 ^ 32 % 2 ^ 16 ≠ 1 :=
  ⟨rfl, runs_of (by decide +kernel), by decide +kernel, by decide +kernel, by decide +kernel, okv_of (by decide +kernel), by decide⟩
theorem witness_BarriersAndTeams_teams :
    (let s := kst [sc 7, sc 128];
      MayActOn s 0 .kernel (.teamJoin (bf 0 1 2 0 0)) [.scalar 7, .scalar 128] ∧ (s.core 0).wait = none ∧ (s.core 0).teamKey = none
      ∧ (s.part (s.core 0).part).teams.find? (fun t => t.key = 7) = none ∧ (s.part (s.core 0).part).teams.length < 64)
    ∧ (let s := (kst [sc 7, sc 1]).modPart 0 (fun q => { q with teams := [team0 0 false] });
      MayActOn s 0 .kernel (.teamJoin (bf 0 1 2 0 0)) [.scalar 7, .scalar 1]
      ∧ (s.part (s.core 0).part).teams.find? (fun t => t.key = 7) = some (team0 0 false) ∧ (team0 0 false).count = 1)
    ∧ (let s := tst (team0 0 true) (fun c => { c with wait := some (wt (.teamJoin 7)) });
      Runs s 0 ∧ (s.core 0).wait = some { kind := .teamJoin 7, stall := 0, bound := some 16 } ∧ s.teamOf 0 = some (team0 0 true)
      ∧ (team0 0 true).complete = true)
    ∧ MayActOn (tst (team0 0 true)) 0 .kernel (.teamLeave (bf 0 0 0 0 0)) []
    ∧ (MayActOn (tst (team0 0 true)) 0 .kernel (.teamBar (bf 0 0 0 0 0x100)) [] ∧ ((tst (team0 0 true)).core 0).wait = none
      ∧ (tst (team0 0 true)).teamOf 0 = some (team0 0 true) ∧ (team0 0 true).broken = false ∧ ((tst (team0 0 true)).core 0).writesDone = true
      ∧ (tst (team0 0 true)).releaseHeld (dieOf 0) ((tst (team0 0 true)).scopeOf 0 1) = false)
    ∧ (let s := tst (team0 1 true) (fun c => { c with wait := some (wt (.teamBar 7 0 1)) });
      Runs s 0 ∧ (s.core 0).part = 0 ∧ (s.core 0).wait = some { kind := .teamBar 7 0 1, stall := 0, bound := some 16 }
      ∧ s.teamOf 0 = some (team0 1 true) ∧ (team0 1 true).gen ≠ 0
      ∧ ∀ h, h < 128 → h ≠ 0 → (s.core h).wait = none) :=
  ⟨⟨on_of (by decide +kernel), by decide +kernel⟩, ⟨on_of (by decide +kernel), by decide +kernel⟩,
    ⟨runs_of (by decide +kernel), by decide +kernel⟩, on_of (by decide +kernel),
    ⟨on_of (by decide +kernel), by decide +kernel⟩, runs_of (by decide +kernel), by decide +kernel⟩
/-- `bar.wait.t` on a word in error, and both forms on a word whose generation is the one waited for. -/
theorem witness_BarriersAndTeams_waits :
    (let s : State := { kst [sc 0x4000, sc 0] with hbm := mem0 ++ [(0x4007, 0x80)] };
      MayActOn s 0 .kernel (.barWaitT (bf 0 1 2 0 0x100)) [.scalar 0x4000, .scalar 0])
    ∧ (let s := kst [sc 0x4000, sc 0];
      let p : Path := { pa := 0x4000, home := 0, ccls := 0, key := 0 };
      let t := (s.checkAddr 0 false 0x4000 8 Need.load).2;
      let x := mkAcc (t.core 0) (.acquire 1) false 0x4000 8 p 0 0;
      s.checkAddr 0 false 0x4000 8 Need.load = (.ok p, t)
      ∧ (t.core 0).barHeld x = false ∧ t.held (dieOf 0) p false (t.atomicPath 0 (t.scopeOf 0 1) p) = false
      ∧ t.barRead 0 (t.scopeOf 0 1) x = (.ok 0, (t.barRead 0 (t.scopeOf 0 1) x).2)
      ∧ MayActOn s 0 .kernel (.barWait (bf 0 1 2 0 0x100)) [.scalar 0x4000, .scalar 0]
      ∧ MayActOn s 0 .kernel (.barWaitT (bf 0 1 2 0 0x100)) [.scalar 0x4000, .scalar 0]
      ∧ 0 / 2 ^ 32 % 2 ^ 16 = (0 : Word).toNat % 2 ^ 16 ∧ 0 / 2 ^ 63 % 2 = 0) :=
  ⟨on_of (by decide +kernel), okv_of (by decide +kernel), by decide +kernel, by decide +kernel, okv_of (by decide +kernel),
    on_of (by decide +kernel), on_of (by decide +kernel), by decide⟩
theorem witness_BarriersAndTeams_records :
    (let t := { team0 0 true with count := 2, members := [0, 1] };
      (((tst t).part 0).teams.find? (fun x => x.key = 7) = some t ∧ 0 ∉ t.arrived ∧ t.arrived.length + 1 ≠ t.count)
      ∧ (((tst (team0 0 true)).part 0).teams.find? (fun x => x.key = 7) = some (team0 0 true) ∧ 0 ∉ (team0 0 true).arrived
        ∧ (team0 0 true).arrived.length + 1 = (team0 0 true).count))
    ∧ ((tst (team0 1 true)).teamOf 0 = some (team0 1 true) ∧ (team0 1 true).gen ≠ 0
      ∧ (tst (team0 1 true)).releaseHeld 0 ((tst (team0 1 true)).scopeOf 0 1) = false)
    ∧ ((tst (team0 0 false)).part ((tst (team0 0 false)).core 0).part).teams.find? (fun t => t.key = 7) = some (team0 0 false)
    ∧ ((tst (team0 0 false)).part ((tst (team0 0 false)).core 0).part).teams.find? (fun t => t.key = 8) = none := by decide +kernel

/-- A moment the GTC has reached with tag 31, and one with tag 0. -/
theorem witness_WaitsEnd :
    (((kst []).core 0).drained = true ∧ (kst []).taskHeld 0 = false ∧ (kst []).errBoundary 0 = none ∧ MayActOn (kst []) 0 .kernel (.trig (bf 0 0 0 0 0)) []
      ∧ MayAct (kst []) .both (opsOf (.halt (bf 0 0 0 0 0))) 0 [] ∧ ((kst []).core 0).haltErr = none
      ∧ MayActOn (kst []) 0 .kernel (.phase (bf 0 0 0 0 0x180000)) [])
    ∧ (Runs (wst .trig) 0 ∧ ((wst .trig).core 0).drained = true
      ∧ ((wst .trig).core 0).wait = some { kind := .trig, stall := 0, bound := some 16 }
      ∧ ((wst .halt).core 0).wait = some { kind := .halt, stall := 0, bound := some 16 } ∧ ((wst .halt).core 0).haltErr = none
      ∧ (wst .trig).taskHeld 0 = false ∧ (wst .halt).errBoundary 0 = none
      ∧ ((wst (.phase 3)).core 0).wait = some { kind := .phase 3, stall := 0, bound := some 16 })
    ∧ (let s := kst [sc 31] (fun c => { c with tags := [(31, { Tag.reset with st := .done })] });
      MayActOn s 0 .kernel (.sleepGt (bf 0 1 0 0 0)) [.scalar (BitVec.ofNat 64 31)]
      ∧ MayActOn s 0 .kernel (.sleepGtNt (bf 0 1 0 0 0)) [.scalar (BitVec.ofNat 64 31)]
      ∧ (BitVec.ofNat 64 31).toNat % 256 ≤ 31 ∧ (s.core 0).wait = none ∧ (s.core 0).late = false
      ∧ gtcReached (s.die (dieOf 0)).gtc ((BitVec.ofNat 64 31).toNat / 256) = true
      ∧ ((s.core 0).tag ((BitVec.ofNat 64 31).toNat % 256)).st = .done)
    ∧ (let s := kst three (fun c => { c with wait := some (wt (.sleep 0 0 false false)),
                                             tags := [(0, { Tag.reset with st := .done })] });
      Runs s 0 ∧ (s.core 0).wait = some { kind := .sleep 0 0 false false, stall := 0, bound := some 16 }
      ∧ (s.core 0).late = false ∧ gtcReached (s.die (dieOf 0)).gtc 0 = true ∧ ((s.core 0).tag 0).st = .done)
    ∧ (let s := kst three (fun c => { c with wait := some (wt (.sem 0 3 false)), flags := [(0, mkFlag false 0 3)] });
      (s.core 0).wait = some { kind := .sem 0 3 false, stall := 0, bound := some 16 } ∧ flagErr ((s.core 0).flag 0) = false
      ∧ 3 ≤ flagCount ((s.core 0).flag 0) ∧ (s.core 0).turnOpen 0 4 = true) :=
  ⟨⟨by decide +kernel, by decide +kernel, by decide +kernel, on_of (by decide +kernel), mayAct_of (by decide +kernel), by decide +kernel, on_of (by decide +kernel)⟩,
    ⟨runs_of (by decide +kernel), by decide +kernel⟩,
    ⟨on_of (by decide +kernel), on_of (by decide +kernel), by decide +kernel⟩,
    ⟨runs_of (by decide +kernel), by decide +kernel⟩, by decide +kernel⟩

/-- A file of bytes in memory at 0x4000. -/
def fileAt (n v : Nat) : List Host.Cell :=
  ((List.range n).map (fun i => ((0x4000 + i, BitVec.ofNat 8 (v / 256 ^ i % 256)) : Host.Cell))).filter (fun c => c.2 != 0)
/-- The template of a tensor at 0x4000, and a pool of two buffers. -/
def newst : State :=
  ({ stst [sc 0x4000] with hbm := mem0 ++ fileAt 32 (mkd 0 10 0 0 16 1 1 32 0).toNat } : State).addPool 0 0 0 [0x100000, 0x110000]
/-- One buffer is drawn where its list or, with an empty window, the ballast has one: which one is left open. -/
theorem draw_of {s : State} {p home cls : Nat} {b : Bool}
    (h : (if ((s.part p).freeOf home cls false).isEmpty && b then (s.part p).freeOf home cls true
      else (s.part p).freeOf home cls false) ≠ []) : (s.drawPbs p b [(home, cls)]).isSome = true := by
  have hd : ∃ x, s.drawPb p home cls b = some x := by
    simp only [State.drawPb]
    generalize (if ((s.part p).freeOf home cls false).isEmpty && b then (s.part p).freeOf home cls true
      else (s.part p).freeOf home cls false) = l at h ⊢
    have hl : s.freeValue.1.toNat % l.length < l.length := Nat.mod_lt _ (List.length_pos_of_ne_nil h)
    rw [List.getElem?_eq_getElem hl]
    exact ⟨_, rfl⟩
  obtain ⟨⟨a, t⟩, hx⟩ := hd
  simp [State.drawPbs, hx]
theorem witness_StreamInstructionsEnter :
    (let i := Instr.tFence (bf 0 0 0 0 0x24);
      isStreamOp i = true ∧ i.wf = true ∧ (stst []).focus = .sfe 0 ∧ MayAct (stst []) .stream (streamOps i) 0 []
      ∧ ((stst []).part 0).sfe.hmode = none ∧ ((stst []).part 0).wcount < 128
      ∧ ((stst []).planOf 0 i []).1.fault = none ∧ ((stst []).planOf 0 i []).1.fresh = []
      ∧ ∃ t, (stst []).renameIn 0 i [] ((stst []).part 0).sfe.ctx ((stst []).part 0).sfe.serials = .entered t)
    ∧ (let i := Instr.tNew (bf 0 1 0 0 0);
      isStreamOp i = true ∧ i.wf = true ∧ MayAct newst .stream (streamOps i) 0 [.scalar 0x4000]
      ∧ (newst.planOf 0 i [0x4000]).1.fault = none ∧ (newst.planOf 0 i [0x4000]).1.fresh = [(0, 0)]
      ∧ ((newst.part 0).live.filter (·.2.ckpt)).length < 32
      ∧ ((newst.planOf 0 i [0x4000]).2.drawPbs 0 ((newst.part 0).wcount == 0) [(0, 0)]).isSome = true)
    ∧ (let s := stst [] (fun q => { q with wcount := 128 });
      MayAct s .stream (streamOps (.tFence (bf 0 0 0 0 0))) 0 []
      ∧ ∃ n, s.renameIn 0 (.tFence (bf 0 0 0 0 0)) [] (s.part 0).sfe.ctx (s.part 0).sfe.serials = .stall n) :=
  ⟨⟨by decide +kernel, by decide +kernel, by decide +kernel, mayAct_of (by decide +kernel), by decide +kernel, by decide +kernel,
      by decide +kernel, by decide +kernel, entered_of (by decide +kernel)⟩,
    ⟨by decide +kernel, by decide +kernel, mayAct_of (by decide +kernel), by decide +kernel, by decide +kernel, by decide +kernel,
      draw_of (by decide +kernel)⟩, mayAct_of (by decide +kernel),
    stall_of (by decide +kernel)⟩

theorem witness_WindowAndStreamSteps_entries :
    (let e := ent0 (.tFence (bf 0 0 0 0 0)) .wait;
      (est e).focus = .entry 0 0 ∧ (est e).entry 0 0 = some e ∧ (est e).issuable 0 0 e = true
      ∧ ((est e).die (hostDie 0)).holdStop = false ∧ (est e).entryWaits e = false
      ∧ ((est e).part 0).live.takeWhile (fun x => x.1 != 0) = [])
    ∧ (let e := ent0 (.tFence (bf 0 0 0 0 0)) .issued;
      e.st = .issued ∧ (est e).entryHeld 0 e = false ∧ (est e).entryWaits e = false ∧ e.issueFault = none
      ∧ ∃ t, (est e).work 0 e = .done t)
    ∧ (let e : Entry := { ent0 (.tWaitEq (bf 0 1 2 0 0)) .issued with args := [0x4000, 0] };
      let x : Path := { pa := 0x4000, home := 0, ccls := 0, key := 0 };
      isTWait e.instr = true ∧ (est e).entryHeld 0 e = false ∧ (∃ t, (est e).work 0 e = .done t)
      ∧ (est e).streamPath 0 0x4000 8 Need.load = .ok x
      ∧ okv ((est e).readPath (some 0) x 8 [.l2]) 0 = true ∧ ((est e).readPath (some 0) x 8 [.l2]).2.entry 0 0 = some e
      ∧ tWaitHolds e.instr 0 0 = true)
    ∧ (let e : Entry := { ent0 (.tFence (bf 0 0 0 0 0)) .wait with issueFault := some (cOPERAND, 0) };
      e.st = .wait ∧ e.issueFault = some (cOPERAND, 0))
    ∧ (let e := ent0 (.tRecv (bf 0 1 0 0 0x40)) .issued; ∃ t c ec, (est e).work 0 e = .fault t c ec)
    ∧ (let e : Entry := { ent0 (.tWaitEq (bf 0 1 2 0 0x800)) .issued with args := [0x4000, 1], stall := 3 };
      windowBound e.instr = some 1 ∧ 2 ^ 1 < e.stall ∧ (est e).unmet 0 e = true)
    ∧ (let e := ent0 (.tSend (bf 0 1 0 0 0)) .issued;
      ({ est e with outbox := [(0 * 128 + 0, 3, [5])] } : State).outbox.find? (fun x => x.1 = 0 * 128 + 0)
        = some (0 * 128 + 0, 3, [5]) ∧ e.st = .issued)
    ∧ (let e := ent0 (.tFence (bf 0 0 0 0 0)) .done;
      ((est e).part 0).live.head? = some (0, e) ∧ e.st = .done ∧ ∀ f, e.instr ≠ .tSvc f) := by
  refine ⟨by decide +kernel, ⟨by decide +kernel, by decide +kernel, by decide +kernel, by decide +kernel, done_of (by decide +kernel)⟩,
    ⟨by decide +kernel, by decide +kernel, done_of (by decide +kernel), by decide +kernel⟩, by decide +kernel,
    fault_of (by decide +kernel), by decide +kernel, by decide +kernel, by decide +kernel, by decide +kernel, nofun⟩
theorem witness_WindowAndStreamSteps_late :
    (let e : Entry := { ent0 (.tWaitEq (bf 0 1 2 0 0x800)) .issued with args := [0x4000, 1], stall := 3 };
      (est e).focus = .entry 0 0 ∧ (est e).entry 0 0 = some e ∧ windowBound e.instr = some 1 ∧ 2 ^ 1 < e.stall ∧ e.got = false
      ∧ isTWait e.instr = true ∧ e.late = true)
    ∧ (let e : Entry := { ent0 (.tWaitEq (bf 0 1 2 0 0x800)) .issued with args := [0x4000, 1], stall := 2 };
      windowBound e.instr = some 1 ∧ e.stall ≤ 2 ^ 1 ∧ e.late = false ∧ ((est e).die (hostDie 0)).holdStop = false)
    ∧ (let e : Entry := { ent0 (.tRecv (bf 0 1 2 0 0x800)) .issued with stall := 3, got := true };
      windowBound e.instr = some 1 ∧ e.got = true)
    ∧ (let e := ent0 (.tFence (bf 0 0 0 0 0)) .issued; ((est e).die (hostDie 0)).holdStop = false)
    ∧ (let e := ent0 (.tRecv (bf 0 1 0 0 0x40)) .issued;
      ((est e).die (hostDie 0)).holdStop = false ∧ (est e).entryHeld 0 e = false) := by decide +kernel
/-- A record of a stream trap of partition 0 that the service has yet to answer, at window entry `e`. -/
def heldst (kind : Nat) (e : Entry) : State :=
  stst [] (fun q => win e { q with
    srec := some { spc := 0, cause := 2, sub := 0, kind := kind, entry := 0, ftask := 0, nfault := 0, ndone := 0, ntask := 0, gtc := 0,
                   info := none },
    sfe := { q.sfe with wait := .held } })
theorem witness_WindowAndStreamSteps_stream :
    (let s := stst [] (fun q => { q with sfe := { q.sfe with wait := .endStream 3 } });
      s.focus = .sfe 0 ∧ (s.part 0).sfe.wait = .endStream 3 ∧ s.windowEmpty 0 = true)
    ∧ (let e : Entry := { ent0 (.tFence (bf 0 0 0 0 0)) .fault with cause := cOPERAND };
      let y := ent0 (.tFence (bf 0 0 0 0 0)) .wait;
      let s := stst [] (fun q => { q with window := [(0, some e), (1, some y)], wcount := 2 });
      (s.part 0).live = [(0, e), (1, y)] ∧ e.st = .fault ∧ e.trapped = [] ∧ (s.part 0).sfe.hmode = none
      ∧ (s.part 0).sfe.handler = none ∧ s.linksHold = false)
    ∧ (let s := stst [] (fun q => { q with sfe := { q.sfe with wait := .trap 2 cTRANSLATE 8 0x3000 0 } });
      (s.part 0).live = [] ∧ (s.part 0).sfe.wait = .trap 2 cTRANSLATE 8 0x3000 0 ∧ (s.part 0).sfe.handler = none)
    ∧ (let e := ent0 (.tMap 0 (bf 0 1 2 3 0) [] []) .held;
      ((heldst 0 e).part 0).trapHeld = true ∧ ((heldst 0 e).part 0).heldEntry = some (0, e)
      ∧ (((heldst 0 e).part 0).srec.map (fun r => canComplete r e)) = some true
      ∧ (((heldst 1 e).part 0).srec.map (fun r => canComplete r e)) = some false) := by decide +kernel

/-- A `t.map` of two tasks that has issued, in a partition that owns core 0 and is scheduled. -/
def map0 : Entry := { ent0 (.tMap 0 (bf 0 1 2 3 0) [] []) .issued with ntask := 2, args := [0x2000, 2, 0] }
def mapst : State :=
  { own0 (stst [] (fun q => { win map0 q with psched := 1 })) 0x00010001 with reduced := false }
/-- That state with task 0 in the ready queue, core 0 in focus. -/
def rdyst : State :=
  { mapst.modDie 0 (fun x => { x with ready := [(0, [{ entry := 0, uid := 0, idx := 0, core := none }])] }) with focus := .core 0 }
theorem witness_PlacementSteps :
    (mapst.ownLegal 0 0 0x00030003 = true ∧ mapst.ownLegal 1 0 0x00000001 = false)
    ∧ (mapst.sending = false ∧ mapst.xfer = [] ∧ mapst.serveOrder = 0 :: [] ∧ (mapst.serve 0).isSome = true
      ∧ (mapst.part 0).live.find? (fun x => x.2.hasUnsent) = some (0, map0) ∧ map0.dispatches = true ∧ map0.team = 0
      ∧ ((List.range 8).map (fun i => ((mapst.part 0).lastDie + 1 + i) % 8)).find? (fun d =>
          (List.range 16).any (fun c => mapst.ownsCore 0 (d * 16 + c)) && 1 ≤ mapst.freeSlots 0 d) = some 0)
    ∧ ({ mapst with xfer := [{ part := 0, die := 0, tasks := [] }], sending := true } : State).xfer
        = { part := 0, die := 0, tasks := [] } :: []
    ∧ rdyst.focus = .core 0 ∧ (List.range 16).find? (fun p => rdyst.ownsCore p 0) = some 0
    ∧ tget [] (rdyst.die (dieOf 0)).ready 0 = { entry := 0, uid := 0, idx := 0, core := none } :: []
    ∧ rdyst.entry 0 0 = some map0 ∧ map0.uid = 0 ∧ map0.st = .issued ∧ map0.trapped = []
    ∧ ((List.range 16).map (dieOf 0 * 16 + ·)).find? (fun h => rdyst.coreFree 0 h) = some 0
    ∧ rdyst.scheduled 0 = true ∧ (rdyst.die (dieOf 0)).holdStop = false ∧ (rdyst.core 0).cstate = .idle
    ∧ rdyst.scrubbing 0 = false := by decide +kernel
theorem witness_PlacementSteps_turns :
    (rdyst.takesTask 0 = true ∧ (rdyst.sector 0).frozen = false)
    ∧ (let c : Batch := { part := 0, die := 0, tasks := [] };
      let s : State := { mapst with xfer := [c] };
      s.sending = false ∧ s.xfer = c :: [] ∧ s.serveOrder = 0 :: [] ∧ s.xfer.find? (fun x => x.part == 0) = some c) := by decide +kernel

/-- Patch slot 3 of die 0 claims opcode 0xF0 with one scalar result, for partition 0; `kind` is its action. -/
def patch0 (act : Nat) : Patch :=
  { Patch.reset with ctrl := BitVec.ofNat 64 (1 + 2 ^ 17 + act * 2 ^ 29 + 2 ^ 31 + 0xF0 * 2 ^ 32 + 2 ^ 48), rbase := 0x2000, rlen := 0x1000 }
def patchst (act : Nat) (f : Patch → Patch := id) : State :=
  kst [] (fun c => { c with ctx := { c.ctx with blk := some { blk0 with slots := [(3, f (patch0 act))] } } })
theorem witness_TranslatorSteps :
    (let s := kst [] (fun c => { c with ctx := { c.ctx with vpc := 0x2000 } });
      s.canRun s.focus = true ∧ s.look s.focus = .absent ∧ s.xlateServes s.focus = true
      ∧ (s.die (dieOfAgent s.focus)).lowering = []
      ∧ claimFor (((s.ctxOf s.focus).blk.map (·.slots)).getD []) (s.partOfAgent s.focus) 0xF0 = none)
    ∧ (Runs (patchst 0) 0 ∧ ((patchst 0).core 0).emul = none
      ∧ claimFor ((((patchst 0).core 0).ctx.blk.map (·.slots)).getD []) ((patchst 0).core 0).part (opOf 0xF000000000000000).toNat = some 3
      ∧ bitsNat ((patchst 0).slotAt (.core 0) 3).ctrl 29 2 ≠ 1)
    ∧ (let n0 := BitVec.ofNat 64 8;
      MayAct (svst [sc 1, sc 0x2000, sc 8]) .system (opsOf (.codeInv (bf 0 1 2 3 0x200))) 0 [.scalar 1, .scalar 0x2000, .scalar n0]
      ∧ MayAct (svst [sc 1]) .system (opsOf (.codeInvObj (bf 0 1 0 0 0x200))) 0 [.scalar 1]
      ∧ MayAct (svst []) .system (opsOf (.codeInvAll (bf 0 0 0 0 0x200))) 0 []) :=
  ⟨by decide +kernel, ⟨runs_of (by decide +kernel), by decide +kernel⟩,
    mayAct_of (by decide +kernel), mayAct_of (by decide +kernel), mayAct_of (by decide +kernel)⟩
theorem witness_TranslatorSteps_lower : (let s := kst [] (fun c => { c with ctx := { c.ctx with vpc := 0x2000 } });
      s.codeHeld s.focus = false ∧ s.canRun s.focus = true ∧ s.look s.focus = .absent) := by decide +kernel
/-- An EMULATE routine at 0x2208 whose `enter` takes the word, the PC and three scalars. -/
theorem witness_TranslatorSteps_emulate :
    let s : State := { patchst 1 (fun p => { p with rbase := 0x2200, target := 8 }) with
      hbm := [(0, 0x01), (1, 0x10), (0x1000, 0x9F), (0x2208, 0x05), (0x220F, 0x01)] }
    let w : Word := 0xF000E0E0E0000000
    let z : List Val := [.scalar 0, .scalar 0, .scalar 0]
    (s.core 0).emul = none ∧ (s.core 0).acc = []
    ∧ (routineArgs w).all (fun o => argOk (s.core 0).ctx o && (o.1 == .none || !isPop (s.core 0).ctx o.2)) = true
    ∧ (s.core 0).ctx.pos
        + (matchedKinds (((s.core 0).ctx.blk.map (·.slots)).getD []) (s.core 0).part (s.core 0).ctx w).length ≤ 65535
    ∧ (∃ vs : List Val, vs.take 3 = z ∧ collect (vs.map Slot.ready) = .ok vs
      ∧ (routineArgs w).map (fun o => if o.1 = .none then Slot.ready (.scalar 0) else s.operand (.core 0) (s.core 0).ctx o.1 o.2)
          = vs.map Slot.ready)
    ∧ s.routineKinds (dieOf 0) (s.slotAt (.core 0) 3).routine = some (false :: false :: z.map Val.isVec) :=
  ⟨by decide +kernel, by decide +kernel, by decide +kernel, by decide +kernel, ⟨[.scalar 0, .scalar 0, .scalar 0], by decide +kernel⟩,
    by decide +kernel⟩
/-- A block on its way into the index of die 0. -/
def lowst : State := { base0.modDie 0 (fun x => { x with lowering := [blk0] }) with focus := .die 0 }
/-- It may be installed where its size, which the spec leaves open, fits the heap. -/
theorem witness_TranslatorSteps_install (h : Config.loweredBytes blk0.words.length ≤ (lowst.die 0).genBytes) :
    lowst.focus = .die 0 ∧ (lowst.die 0).lowering = [blk0] ∧ lowst.xlateStopped 0 = false ∧ (lowst.die 0).index = []
    ∧ (lowst.die 0).genUse (lowst.die 0).curGen + Config.loweredBytes blk0.words.length ≤ (lowst.die 0).genBytes := by
  have h0 : (lowst.die 0).genUse (lowst.die 0).curGen = 0 := by decide +kernel
  exact ⟨by decide +kernel, by decide +kernel, by decide +kernel, by decide +kernel, by omega⟩

/-- The premises of EngineSteps for core 0. -/
def engB (s : State) : Bool := runsB s 0 && (s.core 0).enginesRun && (s.core 0).svcCmd.isNone
theorem witness_EngineSteps_start :
    (let f := ef 0 0 0 1 0 3 2 0 0 0;
      let k := cmd0 (.cp f);
      let s := qst .c [k] (fun c => { c with flags := [(3, mkFlag false 0 2)] });
      engB s = true ∧ s.frozenSect 0 .c = false ∧ (s.core 0).nextCmd .c = some k ∧ engFields k.instr = some f ∧ flagErr ((s.core 0).flag f.wf.toNat) = false
      ∧ f.wn.toNat ≤ flagCount ((s.core 0).flag f.wf.toNat) ∧ takesTag k.instr = true ∧ (s.core 0).turnsOpen .c k f = true)
    ∧ (let f := ef 0 0 0 1 0 3 2 0 0 0;
      let k := cmd0 (.cp f);
      let s := qst .c [k] (fun c => { c with flags := [(3, mkFlag true 5 0)] });
      engB s = true ∧ s.frozenSect 0 .c = false ∧ (s.core 0).nextCmd .c = some k ∧ engFields k.instr = some f ∧ f.wn ≠ 0
      ∧ flagErr ((s.core 0).flag f.wf.toNat) = true ∧ (s.core 0).turnsOpen .c k f = true)
    ∧ (let k := { cmd0 (.tlbInvAll (ef 1 0 0 0 0 0 0 0 0 0)) with started := true };
      engB (qst .c [k]) = true ∧ ((qst .c [k]).core 0).queue .c = [k] ∧ (qst .c [k]).cmdFinished 0 k = true
      ∧ ((qst .c [k]).core 0).sigOpen .c k = true)
    ∧ (let k := cmd0 (.vadd (bf 4 1 2 0 0));
      let s := wst (.push .v k);
      engB s = true ∧ (s.core 0).wait = some { kind := .push .v k, stall := 0, bound := some 16 }
      ∧ (s.core 0).pushHeld = false ∧ (s.core 0).canPush .v k.instr = true)
    ∧ (let k := cmd0 (.chanCfg (bf 10 0 0 0 0x0B0000));
      engB (qst .v [k]) = true ∧ ((qst .v [k]).core 0).vq = k :: [] ∧ k.started = false
      ∧ (((qst .v [k]).core 0).chan (bitsNat 0x0B0000#24 22 2)).ents = [] ∧ ∀ x ∈ ((qst .v [k]).core 0).cmds, k.seq ≤ x.seq) := by
  decide +kernel
/-- What the start of command `k` of core 0 asks. -/
def startB (q : Eng) (k : Cmd) (f : EngF) (s : State) : Bool :=
  engB s && !s.frozenSect 0 q && (s.core 0).nextCmd q == some k && engFields k.instr == some f
    && (f.wn == 0 || (!flagErr ((s.core 0).flag f.wf.toNat) && decide (f.wn.toNat ≤ flagCount ((s.core 0).flag f.wf.toNat))))
    && (s.core 0).turnsOpen q k f
/-- What makes its outcome that of a plain start. -/
def plainB (q : Eng) (k : Cmd) (s : State) : Bool :=
  ((s.core 0).injection k.instr).isNone && k.bad.isNone && ((s.core 0).queue q).all (fun x => x.seq != k.seq || x == k)
theorem witness_EngineSteps_starts :
    (let f := ef 0 0 0 1 0 3 2 0 0 0;
      let k := cmd0 (.cp f);
      let s := qst .c [k] (fun c => { c with flags := [(3, mkFlag false 0 2)] });
      startB .c k f s = true ∧ takesTag k.instr = true ∧ plainB .c k s = true)
    ∧ (let f := ef 1 0 0 0 0 0 0 0 0 0;
      let k := cmd0 (.tlbInvAll f);
      startB .c k f (qst .c [k]) = true ∧ isInv k.instr = true ∧ plainB .c k (qst .c [k]) = true)
    ∧ (let f := ef 0 13 0 1 0 0 0 0 0 0;
      let k := cmd0 (.mm f);
      let s := qst .m [k];
      startB .m k f s = true ∧ (s.core 0).gangOff = false ∧ (s.core 0).gang = none ∧ plainB .m k s = true)
    ∧ (let f := ef 0 13 0 1 0 0 0 0 0 0;
      let k := cmd0 (.mm f);
      startB .m k f (qst .m [k] (fun c => { c with gangOff := true })) = true
      ∧ startB .m k f (qst .m [k] (fun c => { c with gang := some (0, 2) })) = true)
    ∧ (let f := ef 2 10 0 0 0 0 0 0 0 0;
      let k := cmd0 (.mmDrainQ0 f);
      startB .m k f (qst .m [k]) = true ∧ plainB .m k (qst .m [k]) = true)
    ∧ (let f := ef 0 0 1 0 0 0 0 0 0 1;
      let k := { cmd0 (.mmGang f) with ops := [sc 0] };
      let s := own0 (qst .m [k]) 0x00030003;
      startB .m k f s = true ∧ gangArgs k = some (0, 2) ∧ s.gangBad 0 0 2 = true
      ∧ (let t := own0 (qst .m [k] (fun c => { c with team := some (0, 1), teamKey := some 7 })) 0x00030003;
        startB .m k f t = true ∧ t.gangBad 0 0 2 = false ∧ plainB .m k t = true))
    ∧ (let f := ef 1 0 0 0 0 0 0 0 0 0;
      let k := cmd0 (.mmGangOff f);
      startB .m k f (qst .m [k]) = true) := by decide +kernel
/-- The state of `witness_EngineSteps_starts` where a push of an `mm` waits, the sectors of partition 0 being `w`. -/
def mpush (w : Word) : State := own0 (wst (.push .m (cmd0 (.mm (ef 0 13 0 1 0 0 0 0 0 0))))) w
theorem witness_EngineSteps_pushes :
    (let k := cmd0 (.mm (ef 0 13 0 1 0 0 0 0 0 0));
      let s := mpush 0x00010001;
      engB s = true ∧ (s.core 0).wait = some { kind := .push .m k, stall := 0, bound := some 16 } ∧ (s.core 0).pushHeld = false
      ∧ (s.core 0).canPush .m k.instr = true
      ∧ ∀ y ∈ asksSects k.instr 0 (s.driven 0 (s.core 0).gview), s.ownsSect (s.core 0).part y = true)
    ∧ (let k := cmd0 (.mm (ef 0 13 0 1 0 0 0 0 0 0));
      let s := mpush 0x00000001;
      engB s = true ∧ (s.core 0).canPush .m k.instr = true
      ∧ ¬∀ y ∈ asksSects k.instr 0 (s.driven 0 (s.core 0).gview), s.ownsSect (s.core 0).part y = true) := by decide +kernel
/-- A copy and a fill of a page that is not there. -/
def badcp : Cmd :=
  { cmd0 (.cp (ef 0 0 0 1 0 0 0 0 0 0)) with
    started := true, tag := some 0, desc := [mat 0 11, mkd 0x80000000 11 0 0 4 4 1 16 0] }
def badfill : Cmd :=
  { cmd0 (.cpFill (ef 0 0 0 1 0 0 0 1 5 0)) with started := true, tag := some 0, desc := [mkd 0x80000000 11 0 0 4 4 1 16 0] }
/-- Core 0 with one command in CQ that has tag 0. -/
def cqst (k : Cmd) : State := qst .c [k] (fun c => { c with padUnits := 1, tags := [(0, { Tag.reset with st := .active })] })
theorem witness_EngineSteps_faults :
    (engB (cqst badcp) = true ∧ ((cqst badcp).core 0).cq[0]? = some badcp ∧ badcp.stopped = false
      ∧ (((((cqst badcp).engineAdvance 0 .c 0).core 0).cq).find? (fun x => x.seq = badcp.seq)).map (·.stopped) = some true)
    ∧ (badcp.started = true ∧ badcp.done = false ∧ badcp.copied = false ∧ ((cqst badcp).core 0).sigOpen .c badcp = true
      ∧ (cqst badcp).patchFor (dieOf 0) ((cqst badcp).core 0).part 1 (faultKey badcp.vpc cPAGE 0) = none
      ∧ tget none badcp.bBuf 0 = none ∧ (Desc.of ((badcp.desc[1]?).getD 0)).space = 0
      ∧ ((Desc.of ((badcp.desc[1]?).getD 0)).place badcp.prog).1 = 0x80000000
      ∧ ((cqst badcp).copyTranslate 0 badcp 0x80000000 Need.load).1 = .error { code := cPAGE, addr := 0x80000000 })
    ∧ (((cqst badfill).core 0).cq[0]? = some badfill ∧ ((Desc.of ((badfill.desc[0]?).getD 0)).place badfill.prog).1 = 0x80000000
      ∧ ((cqst badfill).copyTranslate 0 badfill 0x80000000 Need.store).1 = .error { code := cPAGE, addr := 0x80000000 }
      ∧ ((cqst badfill).core 0).writeAhead badfill 0 0x80000000 (elemBytes (Desc.of ((badfill.desc[0]?).getD 0)).fmt) = false)
    ∧ (let s := kst three (fun c => { c with wait := some { kind := .sem 0 3 false, stall := 17, bound := some 16 } });
      engB s = true ∧ (s.core 0).wait = some { kind := .sem 0 3 false, stall := 17, bound := some 16 } ∧ 16 < 17
      ∧ s.waitOpen 0 (.sem 0 3 false) = true
      ∧ s.patchFor (dieOf 0) (s.core 0).part 1 (faultKey (s.core 0).ctx.vpc cWAITBOUND 0) = none)
    ∧ (let k := { cmd0 (.cp (ef 0 0 0 1 0 3 2 0 0 0)) with stall := 2 ^ 24 + 1, stallAt := 35 };
      let s := qst .c [k];
      engB s = true ∧ (s.headWaits 0 .c).find? (fun x => 2 ^ x.2.2 < x.1.waited x.2.1) = some (k, 35, 24)
      ∧ s.patchFor (dieOf 0) (s.core 0).part 1 (faultKey k.vpc cWAITBOUND 0) = none) := by decide +kernel
theorem witness_EngineSteps_kills :
    (let s := cqst badfill;
      engB s = true ∧ ((s.core 0).queue .c)[0]? = some badfill ∧ (s.core 0).sigOpen .c badfill = true ∧ badfill.started = true
      ∧ badfill.done = false ∧ engFields badfill.instr = some (ef 0 0 0 1 0 0 0 1 5 0) ∧ badfill.skipped = false
      ∧ badfill.tag = some 0 ∧ ((s.core 0).tag 0).st ≠ .free)
    ∧ (let s := qst .v [vcmd];
      engB s = true ∧ ((s.core 0).queue .v)[0]? = some vcmd ∧ (s.core 0).sigOpen .v vcmd = true
      ∧ (s.core 0).vHead.map (·.1.seq) = some vcmd.seq ∧ s.vExecutes 0 = true)
    ∧ (let f := ef 0 13 0 1 0 0 0 1 3 0;
      let k := { cmd0 (.mm f) with started := true, desc := [mat 0 10, mat 64 10] };
      let s := qst .m [k];
      engB s = true ∧ ((s.core 0).queue .m)[0]? = some k ∧ (s.core 0).sigOpen .m k = true ∧ k.gang = none ∧ f.sn ≠ 0
      ∧ (s.core 0).mmRunning = some (k, mmOf f k.desc)) := by decide +kernel

theorem witness_ControlRegisters :
    (MayAct (svst [sc 2, sc 5]) .system (opsOf (.csrR (bf 0 1 0 0 0))) 1 [.scalar 2]
      ∧ ((svst [sc 2, sc 5]).commit (.core 128)).csrRead 0 2 = some (0, (svst [sc 2, sc 5]).commit (.core 128)))
    ∧ (MayAct (svst [sc 7, sc 5]) .system (opsOf (.csrR (bf 0 1 0 0 0))) 1 [.scalar 7]
      ∧ (((svst [sc 7, sc 5]).commit (.core 128)).csrRead 0 7).isNone = true)
    ∧ (MayAct (svst [sc 2, sc 5]) .system (opsOf (.csrW (bf 0 1 2 0 0))) 0 [.scalar 2, .scalar 5]
      ∧ (((svst [sc 2, sc 5]).commit (.core 128)).csrWrite 0 2 5).isSome = true)
    ∧ (MayAct (svst [sc 1, sc 5]) .system (opsOf (.csrW (bf 0 1 2 0 0))) 0 [.scalar 1, .scalar 5]
      ∧ (((svst [sc 1, sc 5]).commit (.core 128)).csrWrite 0 1 5).isNone = true)
    ∧ (csrNum 0 0x000031 = some { die := 0, group := 0, index := 0x31 }
      ∧ csrNum 0 0x010005 = some { die := 0, group := 0x10, index := 5 }
      ∧ csrNum 0 0x04F003 = some { die := 0, group := 0x4F, index := 3 }
      ∧ csrNum 0 0x020000 = some { die := 0, group := 0x20, index := 0 } ∧ csrNum 0 0x800000 = none ∧ csrNum 0 0x1000000 = none) := by
  refine ⟨⟨mayAct_of (by decide +kernel), by decide +kernel⟩, ⟨mayAct_of (by decide +kernel), by decide +kernel⟩,
    ⟨mayAct_of (by decide +kernel), by decide +kernel⟩, ⟨mayAct_of (by decide +kernel), by decide +kernel⟩, by decide +kernel⟩
theorem witness_ControlRegisters_numbers :
    (bitsNat (0x1000002 : Word) 24 40 ≠ 0)
    ∧ (8 ≤ bitsNat (0x800002 : Word) 20 4 ∧ bitsNat (0x800002 : Word) 20 4 < 15 ∧ bitsNat (0x800002 : Word) 12 8 < 0x40)
    ∧ (8 ≤ bitsNat (0xE40010 : Word) 20 4 ∧ bitsNat (0xE40010 : Word) 20 4 < 15 ∧ 0x10 ≤ bitsNat (0xE40010 : Word) 0 12)
    ∧ (bitsNat (0xF00002 : Word) 24 40 = 0 ∧ bitsNat (0xF00002 : Word) 20 4 = 15)
    ∧ (bitsNat (0x700002 : Word) 24 40 = 0 ∧ bitsNat (0x700002 : Word) 20 4 < 8)
    ∧ (bitsNat (0x84F00F : Word) 24 40 = 0 ∧ 0x40 ≤ bitsNat (0x84F00F : Word) 12 8 ∧ bitsNat (0x84F00F : Word) 12 8 ≤ 0x4F
      ∧ bitsNat (0x84F00F : Word) 0 12 < 0x10) := by decide +kernel

/-- An event of TYPE 3 of PGEN 0. -/
def ev0 : Event := { typ := 3, data := 5, gen := 0, time := 0 }
theorem witness_UnitSteps :
    (base0.writeXheap 0 0).isSome = true
    ∧ (base0.writeSpin 0 0).isSome = true ∧ (0x20 : Word).getLsbD 5 = true ∧ (base0.writeShoot 0 0x20).isSome = true
    ∧ keyBusy (base0.die 0).keyctl = false
    ∧ (let k : Cmd := { cmd0 (.tlbInv (ef 0 0 1 2 0 0 0 0 0 0)) with ops := [.ready (.scalar 0), .ready (.scalar 4096)] };
      let s : State := { (qst .c [k]).modDie 0 (fun x => { x with shootLeft := [(0, 1)] }) with focus := .die 0 };
      (s.die 0).shootLeft = [(0, 1)] ∧ (s.core 0).cq = [k] ∧ k.seq = 1)
    ∧ ((base0.writeErrinj 0 0x8101).isSome = true ∧ (0x8101 : Word).getLsbD 15 = true ∧ (base0.writeErrinj 0 0).isSome = true)
    ∧ ((base0.writePsched 0 1).isSome = true ∧ (base0.writePsched 0 0).isSome = true)
    ∧ (let s := stst [] (fun q => { q with psched := BitVec.ofNat 64 (1 + 2 ^ 40), sliceT := 1024 });
      (s.part 0).psched.getLsbD 0 = true ∧ bitsNat (s.part 0).psched 40 24 ≠ 0 ∧ s.effSlice 0 ≤ (s.part 0).sliceT
      ∧ s.sliceQueued 0 = false ∧ ((s.die (hostDie 0)).trapq.filter (·.note)).length < 16)
    ∧ (let r : TrapInfo := default; ({ base0.modDie 0 (fun x => { x with trapq := [r] }) with focus := .die 0 }.die 0).trapq = r :: [])
    ∧ ((stst [] (fun q => { q with evlog := [ev0] })).part 0).evlog = ev0 :: []
    ∧ (base0.scheduled 0 = false ∧ (base0.part 0).evlog.length < 256
      ∧ 256 ≤ ((stst [] (fun q => { q with evlog := List.replicate 256 ev0 })).part 0).evlog.length)
    ∧ ev0.gen ≠ ({ Part.reset with pgen := 1 }).pgen := by decide +kernel

/-- A pending trap of cause `c` and address `a`. -/
def pend0 (c a : Nat) : TrapPend :=
  { info := { (default : TrapInfo) with cause := c, addr := a }, queue := none, cmdSeq := 0, kinds := [false], len := 1 }
/-- Task 0 of window entry 0. -/
def task0 : Task :=
  { entry := 0, uid := 0, idx := 0, count := 1, kern := 0x2000, early := false, rel := 0, bpush := 0, bchan := 0, bsleep := 0,
    bbar := 0, bflag := 0 }
/-- Core 0 with that task in a context state. -/
def cst (x : CState) (f : Core → Core := id) : State :=
  (kst three (fun c => f { c with task := some task0 })).modCore 0 (fun c => { c with cstate := x })
theorem witness_ContextControl :
    (let s := cst .trapped (fun c => { c with trap := some (pend0 cOPERAND 0) });
      s.focus = .core 0 ∧ (s.core 0).cstate = .trapped ∧ (s.core 0).trap = some (pend0 cOPERAND 0) ∧ (s.core 0).ctx.tmpl = []
      ∧ s.atHalt 0 = false ∧ (pend0 cOPERAND 0).info.cause ≠ cSVC)
    ∧ (let s := cst .trapped (fun c => { c with trap := some (pend0 cSVC 15) });
      (s.core 0).trap = some (pend0 cSVC 15) ∧ (pend0 cSVC 15).info.addr < 16 ∧ (pend0 cSVC 16).info.cause = cSVC
      ∧ 16 ≤ (pend0 cSVC 16).info.addr ∧ (pend0 cSVC 16).kinds = [false])
    ∧ (let s : State := (cst .frozen).modPart 0 (win { map0 with out := [0] });
      (s.core 0).cstate = .frozen ∧ ((s.core 0).task.map (·.entry)) = some 0 ∧ (s.entry 0 0).isSome = true)
    ∧ (((cst .run).core 0).cstate = .run ∧ (cst .run).sliceRun 0 = true ∧ ((cst .run).core 0).emul = none
      ∧ ((cst .run).core 0).ctx.tmpl = []
      ∧ (cst .run (fun c => { c with wait := some (wt (.sem 0 3 false)) })).waitOpen 0 (.sem 0 3 false) = true)
    ∧ ((cst .run).modPart 0 (fun q => { q with psched := BitVec.ofNat 64 (2 ^ 40) })).sliceRun 0 = false
    ∧ ((cst .trapped (fun c => { c with hold := true })).core 0).hold = true
    ∧ ((cst .saved).core 0).cstate = .saved ∧ ((cst .idle).core 0).cstate = .idle
    ∧ (((cst .draining).core 0).cstate = .draining ∧ ((cst .draining).core 0).acc = []
      ∧ ((cst .draining).core 0).cmds = [] ∧ (cst .draining).drainPast 0 = false)
    ∧ (let k := { cmd0 (.cp (ef 0 0 0 1 0 0 0 0 0 0)) with started := true };
      let s := (cst .draining (fun c => { c with cq := [k], drainT := 257 })).modPart 0 (fun q =>
        { q with psched := BitVec.ofNat 64 (2 * 2 ^ 22 + 2 ^ 24) });
      bitsNat (s.part (s.core 0).part).psched 22 2 = 2 ∧ bitsNat (s.part (s.core 0).part).psched 24 16 ≠ 0
      ∧ bitsNat (s.part (s.core 0).part).psched 24 16 * 256 < (s.core 0).drainT) :=
  by decide +kernel
theorem witness_ContextControl_free :
    (cst .idle).scrubbing 0 = false ∧ ((cst .idle).core 0).cstate = .idle
    ∧ (∀ x ∈ ((cst .run).die (dieOf 0)).gangs, 0 ∉ x.members)
    ∧ (let s : State := (cst .frozen).modPart 0 (win { map0 with out := [0] });
      (s.core 0).task = some task0 ∧ s.entry (s.core 0).part task0.entry = some { map0 with out := [0] } ∧ map0.uid = task0.uid
      ∧ (s.core 0).trap = none)
    ∧ (let s := cst .trapped (fun c => { c with trap := some (pend0 cOPERAND 0), hold := true });
      (s.core 0).trap = some (pend0 cOPERAND 0) ∧ (s.core 0).hold = true ∧ s.sliceRun 0 = true) := by decide +kernel

theorem witness_StreamResetAndScrub :
    ((stst []).focus = .sfe 0 ∧ sctlGo ((stst []).part 0).sctl = false
      ∧ sctlGo ((stst [] (fun q => { q with sctl := 1 })).part 0).sctl = true
      ∧ (stst [] (fun q => { q with sctl := 1 })).linksHold = false)
    ∧ (isSvc 128 = true ∧ MayActOn (svst [sc 15]) 128 .system (.ctxScrub (bf 0 1 0 0 0)) [.scalar 15]
      ∧ MayActOn (svst [sc 16]) 128 .system (.ctxScrub (bf 0 1 0 0 0)) [.scalar 16] ∧ ((svst [sc 15]).core 128).wait = none
      ∧ MayActOn (svst [sc 15] (fun c => { c with wait := some (wt (.scrub 3 0)) })) 128 .system (.ctxScrub (bf 0 1 0 0 0)) [.scalar 15]
      ∧ ((svst [sc 15] (fun c => { c with wait := some (wt (.scrub 3 0)) })).core 128).wait
          = some { kind := .scrub 3 0, stall := 0, bound := some 16 }) :=
  ⟨by decide +kernel, by decide +kernel, on_of (by decide +kernel), on_of (by decide +kernel), by decide +kernel,
    on_of (by decide +kernel), by decide +kernel⟩

/-- A service core beside core 0, which runs a context of partition 0 that owns both. -/
def frzst (vals : List Slot) (f : Core → Core := id) : State :=
  own0 ((svst vals f).modCore 0 (fun c => { c with cstate := .run })) 0x00010001
theorem witness_ScanFreezeAndThaw :
    (let s := frzst [sc 0, sc 1, sc (2 ^ 16)];
      let secs := s.widen 0 (fun _ => true) (maskSecs 0 1) 16;
      MayActOn s 128 .system (.scanFrz (bf 0 1 2 0 0)) [.scalar 0, .scalar 1]
      ∧ MayActOn s 128 .system (.scanFrzAt (bf 0 1 2 3 0)) [.scalar 0, .scalar 1, .scalar (BitVec.ofNat 64 (2 ^ 16))]
      ∧ (maskSecs 0 1).all (fun x => s.ownsSect 0 x) = true ∧ (s.driversOf 0 secs).filter (fun g => (s.core g).freezes) = [0]
      ∧ s.sliceRun 0 = true ∧ (s.core 128).wait = none ∧ s.frzCur (s.driversOf 0 secs) = none)
    ∧ (let s := frzst [] (fun c => { c with wait := some (wt (.frz 0 1 0 none none 0)) });
      s.focus = .core 128 ∧ (s.core 128).ctx.tmpl = []
      ∧ (s.core 128).wait = some { kind := .frz 0 1 0 none none 0, stall := 0, bound := some 16 }
      ∧ s.frzPoint none none 0 = some false ∧ s.frzPoint (some 5) none 0 = some true)
    ∧ (let s := (frzst [sc 0, sc 1]).setSector 0 { Sector.reset with frozen := true };
      (maskSecs 0 1).filter (fun x => (s.sector x).frozen) = [0]
      ∧ MayActOn s 128 .system (.scanRun (bf 0 1 2 0 0)) [.scalar 0, .scalar 1]) :=
  ⟨⟨on_of (by decide +kernel), on_of (by decide +kernel), by decide +kernel⟩, by decide +kernel, by decide +kernel,
    on_of (by decide +kernel)⟩

/-- Service core 0 with the header of a context image at 0x4000: its LAYOUT, CORE, SLEN and DIGEST, with no segment. -/
def imgst (magic layout core slen digest : Nat) (f : State → State := id) : State :=
  f { svst [sc 0, sc 0x4000] with
    hbm := mem0 ++ fileAt 64 (magic + layout * 2 ^ 32 + core * 2 ^ 80 + slen * 2 ^ 112 + digest * 2 ^ 256) }
/-- What a service core reads of that header. -/
def hdrOf (s : State) : ScanHead :=
  match (s.readAs 128 true 0x4000 64).1 with
  | .ok b => scanHead b
  | .error _ => scanHead []
theorem witness_ImagesOfContextsAndPatches_out :
    (let s := (svst [sc 0, sc 0x4000]).modCore 0 (fun c => { c with cstate := .saved });
      (s.core 128).acc = [] ∧ MayActOn s 128 .system (.scanOut (bf 0 1 2 0 0x000080)) [.scalar 0, .scalar 0x4000]
      ∧ (segsOf 0x80).all (s.outOk 0) = true ∧ (segsOf 0x80).filter (s.occupied 0 true) = []
      ∧ (((s.shotFor 0 true).2).writeAs 128 0x4040 []).1.isOk = true)
    ∧ (let s := imgst 0 0 0 0 0;
      (s.core 128).acc = [] ∧ MayActOn s 128 .system (.scanIn (bf 0 1 2 0 0)) [.scalar 0, .scalar 0x4000]
      ∧ (segsOf 0).all (s.inOk 0) = true ∧ (s.readAs 128 true 0x4000 64).1.isOk = true ∧ (hdrOf s).magic ≠ scanMagic)
    ∧ (hdrOf (imgst scanMagic 0 128 0 0)).core = 128 ∧ (hdrOf (imgst scanMagic 0 127 0 0)).core = 127 :=
  ⟨⟨by decide +kernel, on_of (by decide +kernel), by decide +kernel⟩, ⟨by decide +kernel, on_of (by decide +kernel), by decide +kernel⟩,
    by decide +kernel⟩
theorem witness_ImagesOfContextsAndPatches_checks :
    ((hdrOf (imgst scanMagic 7 0 0 0)).layout = 7 ∧ (hdrOf (imgst scanMagic 7 0 0 0)).magic = scanMagic
      ∧ 7 ≠ ((imgst scanMagic 7 0 0 0).die (dieOf 0)).layout)
    ∧ ((hdrOf (imgst scanMagic 0x10000 1 0 0)).layout = ((imgst scanMagic 0x10000 1 0 0).die (dieOf 0)).layout
      ∧ (hdrOf (imgst scanMagic 0x10000 1 0 0)).core ≠ 0)
    ∧ (hdrOf (imgst scanMagic 0 0 5 0)).slen ≠ slenOf true
    ∧ (let s := imgst scanMagic 0 0 (slenOf true) 5 (fun s => s.modCore 0 (fun c => { c with cstate := .frozen }));
      (hdrOf s).slen = slenOf true ∧ (hdrOf s).layout = 0 ∧ (s.core 0).cstate ≠ .idle ∧ (segsOf 0).all (s.inOk 0) = true)
    ∧ (let s := imgst scanMagic 0 0 (slenOf true) 5;
      (hdrOf s).slen = slenOf true ∧ (s.core 0).cstate = .idle ∧ (hdrOf s).mask = 0 ∧ (hdrOf s).digest = 5
      ∧ (s.readAs 128 true 0x4040 ((segsOf 0).map (segBytes true)).sum).1.isOk = true) := by decide +kernel
/-- One of two digests is not that of the empty payload, whichever it is; where it is that, the image is accepted. -/
theorem witness_ImagesOfContextsAndPatches_digest :
    ((Config.sha3 []).toNat ≠ (hdrOf (imgst scanMagic 0 0 (slenOf true) 5)).digest
      ∨ (Config.sha3 []).toNat ≠ (hdrOf (imgst scanMagic 0 0 (slenOf true) 6)).digest)
    ∧ ((Config.sha3 []).toNat = 5 →
      (imgst scanMagic 0 0 (slenOf true) 5).scanStatus 0 (hdrOf (imgst scanMagic 0 0 (slenOf true) 5)) true [] = 0) := by
  have h5 : (hdrOf (imgst scanMagic 0 0 (slenOf true) 5)).digest = 5 := by decide +kernel
  have h6 : (hdrOf (imgst scanMagic 0 0 (slenOf true) 6)).digest = 6 := by decide +kernel
  refine ⟨by rw [h5, h6]; omega, fun h => ?_⟩
  unfold State.scanStatus
  rw [h, h5]
  decide +kernel
/-- Service core 0 with the header of a patch image without slots at 0x4000. -/
def patst (magic step : Nat) : State :=
  { svst [sc 0x4000, sc 2484, sc 0x5000] with
    hbm := mem0 ++ fileAt 64 (magic + 2 ^ 64 + step * 2 ^ 80) }
/-- The header a `patch.ld` reads. -/
def patHead (s : State) : ImgHead :=
  match (s.readAs 128 false 0x4000 64).1 with
  | .ok b => imgHead b 2484
  | .error _ => imgHead [] 0
theorem witness_ImagesOfContextsAndPatches_patch :
    (MayActOn (patst 0x5A504D49 0x1234) 128 .system (.patchLd (bf 0 1 2 3 0)) [.scalar 0x4000, .scalar 2484, .scalar 0x5000]
      ∧ ((patst 0x5A504D49 0x1234).core 128).wait = none ∧ ((patst 0x5A504D49 0x1234).core 128).acc = [])
    ∧ (64 + 2420 ≤ (2484 : Nat) ∧ (2483 : Nat) < 64 + 2420 ∧ 2 ^ 24 < (2 ^ 24 + 1 : Nat))
    ∧ (patHead (patst 0 0)).ok = false ∧ (patHead (patst 0x5A504D49 0x1234)).ok = true
    ∧ ((patst 0x5A504D49 0x1234).readAs 128 false 0x4040 (2484 - 64)).1.isOk = true
    ∧ (∀ img, (patst 0x5A504D49 0x1234).imgStatus 0 0x5000 (patHead (patst 0x5A504D49 0x1234)) img ≠ 0)
    ∧ (patst 0x5A504D49 0x1234).blocksLeft 0 = true
    ∧ ((patst 0x5A504D49 0x1234).modCore 0 (fun c => { c with cstate := .run, ctx := { c.ctx with blk := some blk0 } })).blocksLeft 0 = false := by
  refine ⟨⟨on_of (by decide +kernel), by decide +kernel⟩, by decide, by decide +kernel, by decide +kernel, by decide +kernel,
    fun img => ?_, by decide +kernel, by decide +kernel⟩
  have h : ((patHead (patst 0x5A504D49 0x1234)).step != 0xFFFF
      && (patHead (patst 0x5A504D49 0x1234)).step != ((patst 0x5A504D49 0x1234).die 0).stepping) = true := by decide +kernel
  unfold State.imgStatus
  rw [if_pos h]
  decide
/-- A portable image of core 0 that holds segment 0 alone. -/
def imgst0 : State :=
  { svst [sc 0, sc 0x4000] with hbm := mem0 ++ fileAt 64 (scanMagic + slenOf true * 2 ^ 112 + 1 * 2 ^ 88 + 5 * 2 ^ 256) }
/-- Where its payload is zeros and has the digest its header gives, its context is in no state an idle core may take: status 5. -/
theorem witness_ImagesOfContextsAndPatches_state :
    ((hdrOf imgst0).magic = scanMagic ∧ (hdrOf imgst0).core = 0 ∧ segsOf (hdrOf imgst0).mask = [0] ∧ (hdrOf imgst0).layout = 0 ∧ (hdrOf imgst0).slen = slenOf true
      ∧ (imgst0.core 0).cstate = .idle ∧ imgst0.rangeHeld 128 0x4000 (64 + 114688) = false
      ∧ (imgst0.readAs 128 true 0x4040 64).1.isOk = true)
    ∧ (∀ p : List Byte, bytesToNat p = 0 → imgst0.imgState (hdrOf imgst0) true [(0, p)] = some .idle) ∧ CState.idle ≠ .run := by
  refine ⟨by decide +kernel, fun p h => ?_, by decide⟩
  simp [State.imgState, h, getAt]
theorem witness_ImagesOfContextsAndPatches_reach :
    (let s := (svst [sc 0, sc 0x4000]).modCore 0 (fun c => { c with cstate := .saved });
      s.rangeHeld 128 0x4000 64 = false)
    ∧ (imgst 0 0 0 0 0).rangeHeld 128 0x4000 64 = false ∧ (imgst scanMagic 0 0 (slenOf true) 5).rangeHeld 128 0x4000 64 = false
    ∧ (patst 0x5A504D49 0x1234).rangeHeld 128 0x4000 2484 = false ∧ (patst 0x5A504D49 0x1234).rangeHeld 128 0x4000 (2 ^ 24) = false := by
  decide +kernel

/-- Cores 0 and 1, each with its `mm.gang.w2` at the head of MQ. -/
def gangst : State :=
  let k : Cmd := { cmd0 (.mmGang (ef 0 0 1 0 0 0 0 0 0 1)) with started := true, ops := [sc 0] }
  (base0.modCore 0 (fun c => { c with cstate := .run, mq := [k] })).modCore 1 (fun c => { c with cstate := .run, mq := [k] })
/-- A code object: a stream text section that holds an `enter` without arguments. -/
def elf0 : List Byte :=
  natToBytes 16 (0x464C457F + 2 * 2 ^ 32 + 2 ^ 40) ++ natToBytes 24 (3 + 0x9A07 * 2 ^ 16) ++ natToBytes 8 88
    ++ natToBytes 16 (0x100 + 64 * 2 ^ 80 + 3 * 2 ^ 96 + 2 * 2 ^ 112) ++ natToBytes 8 0x0100000000000000
    ++ natToBytes 16 0x006D61657274732E6E672E00 ++ natToBytes 64 0
    ++ natToBytes 64 (1 + 2 ^ 32 + 6 * 2 ^ 64 + 64 * 2 ^ 192 + 8 * 2 ^ 256 + 8 * 2 ^ 384)
    ++ natToBytes 64 (3 * 2 ^ 32 + 72 * 2 ^ 192 + 16 * 2 ^ 256)
/-- Its launch record, for partition 0, with request 9 and digest 5. -/
def msg0 : List Byte := natToBytes 128 (0x5A4C4E43 + 2 ^ 32 + 9 * 2 ^ 64 + 280 * 2 ^ 192 + 5 * 2 ^ 256) ++ elf0
/-- A plan that maps the object execute-only. -/
def plan0 : LoadPlan := { objId := 2, bias := 0x10000, ptes := [(0, 0x1001), (0x1000, 0x99)] }
/-- A part whose host port has trained, partition 0 owning core 0 of an admitted die. -/
def launchst : State :=
  { own0 (State.reset.modDie 0 (fun x => { x with admitted := true })) 0x00010001 with ports := [(0, { UePort.reset with rate := 400 })] }
theorem witness_GangsAndLaunches_gang :
    (List.range 2).map (fun i => coreAt 0 0 (0 + i)) = [0, 1]
    ∧ [0, 1].filter (fun y => !gangst.lent (gangst.core (coreAt 0 0 0)).part y || gangst.gangMember (coreAt 0 0 0) y 0 2) = [0, 1]
    ∧ (∀ y ∈ [0, 1], (gangst.core y).part = (gangst.core (coreAt 0 0 0)).part
      ∧ (gangst.core y).teamKey = (gangst.core (coreAt 0 0 0)).teamKey ∧ (gangst.core y).gangHead = some (0, 2)
      ∧ (gangst.core y).enginesRun = true
      ∧ ((gangst.core y).mq.head?.map (fun k => k.started && !k.stopped && (gangst.core y).sigOpen .m k)) = some true)
    ∧ ∀ i < 4, (gangst.core (coreAt 0 0 i)).gangHead = none ∨ (gangst.core (coreAt 0 0 i)).gangHead = some (0, 2) := by
  decide +kernel
/-- A launch that is refused, and one that is accepted where 5 is the digest of the object. -/
theorem witness_GangsAndLaunches_launch (h : (Config.sha3 (launchOf msg0).object).toNat = 5) :
    ([] : List Byte).length < 128 ∧ 128 ≤ msg0.length ∧ (launchOf msg0).ok = true
    ∧ (launchst.part (launchOf msg0).part).sfe.running = false ∧ launchst.coresOwned (launchOf msg0).part ≠ 0
    ∧ launchst.needsAbsent (launchOf msg0).part = false ∧ launchst.ctlPort ≠ none ∧ State.reset.ctlPort = none
    ∧ (∃ l, linkObject (launchOf msg0).object plan0.objId plan0.bias (launchOf msg0).narg = some l
      ∧ launchst.allocated - ((launchst.part (launchOf msg0).part).obj.map (·.bytes)).getD 0
          + (l.pieces.map (fun y => (y.sect.pages plan0.bias).2)).sum ≤ hbmBytes
      ∧ launchst.planOk (launchOf msg0).part plan0 l.pieces = true
      ∧ l.pieces.all (fun y => (launchst.writePtes plan0.ptes).placed (launchOf msg0).part plan0.bias y.sect) = true
      ∧ (launchst.writePtes plan0.ptes).codeApart (launchOf msg0).part plan0.bias l.pieces = true) := by
  refine ⟨by decide, by decide +kernel, ?_, by decide +kernel, by decide +kernel, by decide +kernel, by decide +kernel,
    by decide +kernel, ?_⟩
  · unfold Launch.ok
    rw [h]
    decide +kernel
  · have hl : (linkObject (launchOf msg0).object plan0.objId plan0.bias (launchOf msg0).narg).isSome = true := by decide +kernel
    obtain ⟨l, hl⟩ := Option.isSome_iff_exists.mp hl
    have hp : ((linkObject (launchOf msg0).object plan0.objId plan0.bias (launchOf msg0).narg).map (fun l =>
        decide (launchst.allocated - ((launchst.part (launchOf msg0).part).obj.map (·.bytes)).getD 0
            + (l.pieces.map (fun y => (y.sect.pages plan0.bias).2)).sum ≤ hbmBytes)
          && launchst.planOk (launchOf msg0).part plan0 l.pieces
          && l.pieces.all (fun y => (launchst.writePtes plan0.ptes).placed (launchOf msg0).part plan0.bias y.sect)
          && (launchst.writePtes plan0.ptes).codeApart (launchOf msg0).part plan0.bias l.pieces)) = some true := by
      decide +kernel
    rw [hl] at hp
    simp only [Option.map_some, Option.some.injEq, Bool.and_eq_true, decide_eq_true_eq] at hp
    exact ⟨l, hl, hp.1.1.1, hp.1.1.2, hp.1.2, hp.2⟩

/-- The stream context of partition 0 makes call `num`, and owns a page at 0x5000 from call 2. -/
def callst (num a b : Nat) (f : Part → Part := id) : State :=
  stst [] (fun q => f { q with
    allocs := [(0x5000, 4096, 0)],
    sfe := { q.sfe with wait := .svc num (BitVec.ofNat 64 a) (BitVec.ofNat 64 b) } })
/-- The call it makes. -/
def call0 (a b : Nat) : Call := { part := 0, a := BitVec.ofNat 64 a, b := BitVec.ofNat 64 b, task := false }
/-- A task of partition 0 makes call `num`. -/
def tcallst (num : Nat) : State := cst .trapped (fun c => { c with trap := some (pend0 cSVC num) })
theorem witness_CallAnswers :
    ((tcallst 10).focus = .core 0 ∧ ((tcallst 10).core 0).trap = some (pend0 cSVC 10) ∧ (pend0 cSVC 10).queue = none
      ∧ (pend0 cSVC 10).kinds = [false] ∧ (pend0 cSVC 10).len = 1 ∧ ((tcallst 10).core 0).ctx.tmpl = [] ∧ (tcallst 10).atHalt 0 = false)
    ∧ ((callst 10 0 0).focus = .sfe 0 ∧ ((callst 10 0 0).part 0).sfe.wait = .svc 10 0 0 ∧ ((callst 10 0 0).part 0).sfe.ctx.tmpl = [])
    ∧ ((est (ent0 (.tSvc (bf 0 1 2 3 0x0A0000)) .issued)).focus = .entry 0 0
      ∧ ((est (ent0 (.tSvc (bf 0 1 2 3 0x0A0000)) .issued)).entry 0 0).isSome = true)
    ∧ ((tcallst 0).callOf 0 = some { part := 0, a := 0, b := 0, task := true } ∧ (tcallst 0).linksHold = false)
    ∧ (callst 0 3 0).callOf 0 = some (call0 3 0) ∧ ((callst 0 3 0).part 0).sfe.wait = .svc 0 3 0
    ∧ tabWf false (ent0 (.tMap 0 (bf 0 1 2 3 0) [] []) .held).bitmap = true := by decide +kernel
theorem witness_SystemCalls_memory :
    ((callst 1 0x5000 4097).callOf 1 = some (call0 0x5000 4097) ∧ (callst 1 0x5000 4096).callOf 1 = some (call0 0x5000 4096)
      ∧ ((callst 1 0x5000 8).readUser 0 0x5000 8).1.isSome = true)
    ∧ (let s := callst 2 4096 0;
      let t := s.writePtes [(0x1008, 0x97)];
      s.callOf 2 = some (call0 4096 0) ∧ s.allocated + pageRound 4096 ≤ hbmBytes ∧ s.rangeFree 0 0x40000000 (pageRound 4096) = true
      ∧ t.eachLeaf 0 0x40000000 (pageRound 4096) (fun _ pte x => pte.getLsbD 1 && pte.getLsbD 2 && pte.getLsbD 4 && !pte.getLsbD 63
          && bitsNat pte 52 4 == bitsNat (0 : Word) 0 4 && x.ccls == bitsNat (0 : Word) 4 2 && x.key == (s.part 0).keySlot
          && !(s.codeFrames 0).contains (x.pa / 4096)) = true)
    ∧ ((callst 3 0x5000 0).callOf 3 = some (call0 0x5000 0) ∧ ((callst 3 0x5000 0).part 0).allocs.find? (fun x => x.1 = 0x5000 && x.2.2 != 1) = some (0x5000, 4096, 0)
      ∧ ((callst 3 0x5000 0 (fun q => { q with allocs := [] })).part 0).allocs = []
      ∧ (let s := callst 3 0x5000 0;
        (((s.unmap (s.ptRoot 0) 0x5000 4096).shootNow 0 0x5000 4096).setAlloc 0 0x5000 4096 2).shootOver 0 0x5000 4096 = true)
      ∧ (let k : Cmd := { cmd0 (.tlbInv (ef 0 0 1 2 0 0 0 0 0 0)) with ops := [.ready (.scalar 0x5000), .ready (.scalar 4096)], marker := true };
        let s := (own0 (callst 3 0x5000 0 (fun q => { q with allocs := [(0x5000, 4096, 2)] })) 0x00010001).modCore 0 (fun c =>
          { c with cq := [{ cmd0 (.cp (ef 0 0 0 1 0 0 0 0 0 0)) with seq := 0, started := true }, k] });
        (s.part 0).allocs.find? (fun x => x.1 = 0x5000 && x.2.2 != 1) = some (0x5000, 4096, 2)
        ∧ (s.shootSettle 0 0x5000 4096).shootOver 0 0x5000 4096 = false))
    ∧ (let s := callst 4 0x5000 8;
      let t := s.writePtes [(0x1008, 0x93)];
      s.callOf 4 = some (call0 0x5000 8)
      ∧ (s.part 0).allocs.any (fun x => x.2.2 = 0 && x.1 ≤ 0x5000 && 0x5000 + 8 ≤ x.1 + x.2.1) = true
      ∧ s.rangeFree 0 0x40005000 (pageRound 8) = true
      ∧ t.eachLeaf 0 0x40005000 (pageRound 8) (fun off pte x => pte.getLsbD 1 && !pte.getLsbD 2 && pte.getLsbD 4 && !pte.getLsbD 63 &&
          (match s.walk (s.ptRoot 0) (0x5000 + off) with
            | .ok (w, bits) => leafPath w bits (0x5000 + off) == x
            | .error _ => false)) = true) := by decide +kernel
/-- An open endpoint of partition 0. -/
def ep0 : Endpoint := { handle := 3, part := 0, peer := 1, service := 2, queue := [] }
theorem witness_SystemCalls_rest :
    ((callst 5 1 2).callOf 5 = some (call0 1 2) ∧ ∀ x ∈ ({ callst 5 1 2 with endpoints := [ep0] } : State).endpoints, x.handle ≠ 4)
    ∧ (callst 6 3 0).callOf 6 = some (call0 3 0)
    ∧ ((callst 7 0x5000 8).callOf 7 = some (call0 0x5000 8) ∧ (callst 7 0x5000 8).ctlIn = []
      ∧ (callst 7 0x5000 8).mapped ((callst 7 0x5000 8).ptRoot 0) Need.store 0x5000 1 = true
      ∧ ((callst 7 0x5000 8).writeVirt ((callst 7 0x5000 8).ptRoot 0) none Need.store 0x5000 [5]).1.isOk = true)
    ∧ ((callst 8 0x5000 8).callOf 8 = some (call0 0x5000 8) ∧ ((callst 8 0x5000 8).readUser 0 0x5000 8).1.isSome = true)
    ∧ ((callst 9 0x5000 0).callOf 9 = some (call0 0x5000 0)
      ∧ ((callst 9 0x5000 0).writeUser 0 0x5000 Need.store ((callst 9 0x5000 0).topology 0)).1 = true)
    ∧ (callst 10 0 0).callOf 10 = some (call0 0 0)
    ∧ ((callst 11 0x2100 0x5000).callOf 11 = some (call0 0x2100 0x5000) ∧ (callst 11 0x2100 0x5000).handlerOk 0 0x2100 = true
      ∧ (callst 11 0x2100 0x5000).permits ((callst 11 0x2100 0x5000).ptRoot 0) Need.both 0x5000 128 = true)
    ∧ ((tcallst 11).callOf 11).map (·.task) = some true
    ∧ ((callst 12 0x5000 0).callOf 12 = some (call0 0x5000 0) ∧ ((callst 12 0x5000 0).part 0).heldEntry = none)
    ∧ (let e := { map0 with st := .held };
      ((callst 12 0x5000 0 (win e)).part 0).heldEntry = some (0, e)
      ∧ ((callst 12 0x5000 0 (win e)).writeUser 0 0x5000 Need.both e.report).1 = true)
    ∧ (callst 13 0 0).callOf 13 = some (call0 0 0)
    ∧ ((callst 14 0x5000 0).callOf 14 = some (call0 0x5000 0)
      ∧ ((callst 14 0x5000 0).writeUser 0 0x5000 Need.store (List.replicate 64 0)).1 = true)
    ∧ (callst 15 15 5).callOf 15 = some (call0 15 5) ∧ (callst 15 16 5).callOf 15 = some (call0 16 5)
    ∧ ({ base0 with endpoints := [ep0] } : State).endpoints.find? (fun x => x.handle == 3) = some ep0 := by decide +kernel
/-- Calls whose answer is all ones: memory that is not there, and arguments out of range. -/
theorem witness_SystemCalls_failures :
    (((callst 1 0x80000000 8).readUser 0 0x80000000 8).1.isSome = false ∧ (callst 1 0x80000000 8).callOf 1 = some (call0 0x80000000 8))
    ∧ ((callst 2 0 0).callOf 2 = some (call0 0 0) ∧ (callst 4 0x5000 0).callOf 4 = some (call0 0x5000 0))
    ∧ ((callst 5 1 3).callOf 5 = some (call0 1 3) ∧ ¬(3 : Nat) ≤ 2)
    ∧ (let s : State := { callst 7 0x80000000 8 with ctlIn := [[5]] };
      s.callOf 7 = some (call0 0x80000000 8) ∧ s.mapped (s.ptRoot 0) Need.store 0x80000000 ([5].take 8 : List Byte).length = false)
    ∧ (let s : State := { callst 7 0x5000 8 with ctlIn := [[5]] };
      s.ctlIn = [[5]] ∧ s.mapped (s.ptRoot 0) Need.store 0x5000 ([5].take 8 : List Byte).length = true
      ∧ ∃ t, s.writeVirt (s.ptRoot 0) none Need.store 0x5000 ([5].take 8) = (.ok (), t))
    ∧ ((callst 8 0x80000000 8).callOf 8 = some (call0 0x80000000 8) ∧ ((callst 8 0x80000000 8).readUser 0 0x80000000 8).1.isSome = false
      ∧ (callst 8 0x5000 65537).callOf 8 = some (call0 0x5000 65537))
    ∧ ((callst 9 0x80000000 0).callOf 9 = some (call0 0x80000000 0)
      ∧ ((callst 9 0x80000000 0).writeUser 0 0x80000000 Need.store ((callst 9 0x80000000 0).topology 0)).1 = false)
    ∧ ((callst 11 0 0).callOf 11 = some (call0 0 0)
      ∧ (callst 11 0x2100 0x5004).callOf 11 = some (call0 0x2100 0x5004) ∧ (0x5004 : Nat) % 8 ≠ 0)
    ∧ ((callst 11 0x2100 0x5000).handlerOk 0 0x2100 = true
      ∧ (callst 11 0x2100 0x5000).permits ((callst 11 0x2100 0x5000).ptRoot 0) Need.both 0x5000 128 = true)
    ∧ ((callst 14 0x80000000 0).callOf 14 = some (call0 0x80000000 0)
      ∧ ((callst 14 0x80000000 0).writeUser 0 0x80000000 Need.store (List.replicate 64 0)).1 = false)
    ∧ (let s : State := { callst 6 3 0 with endpoints := [ep0] };
      s.callOf 6 = some (call0 3 0) ∧ ep0.handle = (3 : Word).toNat ∧ ep0.part = 0) := by
  refine ⟨by decide +kernel, by decide +kernel, by decide +kernel, by decide +kernel, ⟨by decide +kernel, by decide +kernel, _,
    okv_of (by decide +kernel)⟩, by decide +kernel, by decide +kernel, by decide +kernel, by decide +kernel, by decide +kernel,
    by decide +kernel⟩

/-- Die 0 runs its service image. -/
def upst : State := { base0.modDie 0 (fun x => { x with booted := true }) with focus := .die 0 }
theorem witness_Management :
    (upst.focus = .die 0 ∧ upst.inRom 0 = false)
    ∧ ((upst.die 0).replay < 2 ^ 26 ∧ (upst.die 0).repfail < 2 ^ 16 ∧ (upst.die 0).sramce < 2 ^ 32 ∧ (upst.die 0).uciefail < 2 ^ 16
      ∧ (upst.die 0).sramue < 2 ^ 16 ∧ (upst.die 0).uciertry < 2 ^ 32)
    ∧ ((1 : BitVec 8).toNat = 1 + 16 * 0 + 0 ∧ (128 : BitVec 8).toNat = 1 + 16 * 7 + 15 ∧ 128 < (129 : BitVec 8).toNat
      ∧ (0xFE : BitVec 8) ≠ 0xFF)
    ∧ (upst.modDie 0 (fun x => { x with romOnly := true })).inRom 0 = true ∧ base0.inRom 0 = true := by decide +kernel
/-- A boot that every core passes. -/
def boot0 : BootInfo := { passed := BitVec.allOnes 17, rom := [], imageDigest := 2, signature := [], configDigest := 3 }
theorem witness_ClocksAndBoot :
    (base0.holdover = false ∧ base0.scheduled 0 = false ∧ (base0.part 0).evlog.length < 256
      ∧ ({ base0 with holdover := true } : State).holdover = true)
    ∧ ((base0.die 0).booted = false ∧ boot0.passed = BitVec.allOnes 17 ∧ ({ boot0 with passed := 0 }).passed ≠ BitVec.allOnes 17)
    ∧ (let s : State := { (base0.modDie 1 (fun x => { x with booted := true })).modDie 0 (fun x => { x with admitted := true }) with
        focus := .die 1 };
      s.focus = .die 1 ∧ (s.die 1).booted = true ∧ (s.die 1).romOnly = false ∧ s.warm = none
      ∧ ∀ k < 1, (s.die k).admitted = true) := by decide +kernel
theorem witness_ClocksAndBoot_events :
    (mapst.holdover = false ∧ mapst.scheduled 0 = true ∧ mapst.scheduled 1 = false ∧ (mapst.part 1).evlog.length < 256)
    ∧ ({ mapst with holdover := true } : State).holdover = true
    ∧ (let s : State := { base0.modDie 0 (fun x => { x with gtc := 64 }) with focus := .die 0 };
      s.focus = .die 0 ∧ (s.die 0).slewAt + 64 ≤ (s.die 0).gtc) := by decide +kernel
theorem witness_ClocksAndBoot_admission :
    (let s : State := { ((base0.modDie 2 (fun x => { x with booted := true })).modDie 1 (fun x => { x with romOnly := true })).modDie 0
        (fun x => { x with admitted := true }) with focus := .die 2 };
      s.focus = .die 2 ∧ (s.die 2).booted = true ∧ (s.die 2).romOnly = false ∧ s.warm = none
      ∧ ∀ k < 2, (s.die k).admitted = true ∨ k ≠ 0 ∧ (s.die k).romOnly = true)
    ∧ (let s : State := { base0.modDie 0 (fun x => { x with romOnly := true }) with focus := .die 1 };
      s.focus = .die 1 ∧ (s.die 0).admitted = false) := by decide +kernel
/-- Whichever way the signature of the image verifies, one of the two outcomes of a boot applies. -/
theorem witness_ClocksAndBoot_signature :
    (boot0.passed = BitVec.allOnes 17 ∧ Config.mldsaVerify boot0.imageDigest boot0.signature = true)
    ∨ Config.mldsaVerify boot0.imageDigest boot0.signature = false := by
  cases h : Config.mldsaVerify boot0.imageDigest boot0.signature
  · exact .inr rfl
  · exact .inl ⟨by decide +kernel, rfl⟩
theorem witness_Errors_words :
    (64 * 4095 < padBytes ((ast []).core 0) ∧ ¬64 * 4096 < padBytes ((ast []).core 0))
    ∧ ((kst [] (fun c => { c with lsc := [(1, some dirty0)] })).cached (.lsc 0) 1 = some dirty0 ∧ dirty0.ecode ≠ 8
      ∧ (let x := { dirty0 with ecode := 8, poison := 1 };
        (kst [] (fun c => { c with lsc := [(1, some x)] })).cached (.lsc 0) 1 = some x ∧ x.ecode = 8 ∧ x.poison ≠ 0))
    ∧ (((qst .v [vcmd]).core 0).queue .v)[0]? = some vcmd ∧ vcmd.started = false
    ∧ (((popst.core 0).chan 0).ents[3]? = some (.vector 9) ∧ 63 < (Val.vector 9).words)
    ∧ (((ast [acc0 (.load 64 true false) false]).core 0).acc[0]? = some (acc0 (.load 64 true false) false)
      ∧ (acc0 (.load 64 true false) false).op.inLq = true ∧ (acc0 (.store none) false).op.inSq = true)
    ∧ (let h : HMeta := { poison := true, ecode := 8, key := 0, gen := 0, written := true };
      (base0.hmeta 5).poison = false ∧ (({ base0 with hbmMeta := [(5, h)] } : State).hmeta 5 = h))
    ∧ (qst .v [vcmd]).executing 0 .v vcmd.seq = some vcmd
    ∧ (let k := { cmd0 (.mm (ef 0 13 0 1 0 0 0 0 0 0)) with started := true };
      (qst .m [k]).executing 0 .m 1 = some k) := by decide +kernel
/-- A load of a page of die 1 that waits. -/
def farld : Acc := { acc0 (.load 64 true false) false with path := { pa := 0x4000, home := 1, ccls := 0, key := 0 } }
theorem witness_Errors_links :
    (adjacentDies 0 1 = true ∧ adjacentDies 0 5 = false
      ∧ (let s := kst [] (fun c => { c with ctx := { c.ctx with blk := some { blk0 with words := [0, 0, 0] } } });
        edge 0 1 ∉ s.edges ∧ (s.core 0).acc = [] ∧ (s.core 0).cq = [] ∧ (s.core 0).wait = none ∧ (s.core 0).drainRunning = none
        ∧ s.look (.core 0) ≠ .absent))
    ∧ (let s := ast [farld];
      (s.core 0).cstate = .run ∧ (s.core 0).iced = false ∧ (s.core 0).emul = none ∧ (s.core 0).acc = [farld] ∧ farld.pad = false
      ∧ usesEdge (dieOf 0) farld.path.home (edge 0 1) = true ∧ farld.stage = .waiting
      ∧ farld.committed = false ∧ s.crosses farld.path false (s.accPath 0 farld) = true
      ∧ s.patchFor (dieOf 0) (s.core 0).part 1 (faultKey farld.snap.vpc cPOISON 0) = none)
    ∧ (let e : Entry := { ent0 (.tSignalStore (bf 0 1 2 0 0)) .issued with args := [0x4000, 1] };
      let s : State := { est e with hbm := [(0, 0x01), (1, 0x10), (0x1000, 0x9F), (0x1006, 0x10)] };
      (s.part 0).live = [(0, e)] ∧ e.st = .issued ∧ e.issueFault = none
      ∧ (match s.walk (s.ptRoot 0) 0x4000 with
        | .ok (pte, bits) => usesEdge (hostDie 0) (leafPath pte bits 0x4000).home (edge 0 1)
        | .error _ => false) = true) := by decide +kernel
theorem witness_WarmReset :
    (upst.focus = .die 0 ∧ upst.inRom 0 = false ∧ base0.inRom 0 = true ∧ upst.warm = none ∧ ({ upst with warm := some (3, 1) } : State).warm ≠ none)
    ∧ ({ kst [] with warm := some (0, 1) } : State).warm = some (0, 1)
    ∧ (({ kst [] with warm := some (0, 2) } : State).warm = some (0, 2) ∧ ({ kst [] with warm := some (0, 2) } : State).linksHold = false
      ∧ ((kst []).core 0).hasContext = true)
    ∧ (({ kst [] with warm := some (0, 3) } : State).warm = some (0, 3) ∧ (kst []).warmQueue = [] ∧ boot0.passed = BitVec.allOnes 17) := by
  decide +kernel
theorem witness_MemoryStaysCanonical :
    State.reset.memWf ∧ base0.memWf ∧ (nx (step { kst [] with agenda := [.event (.core 0) .taskStart] })).isSome = true := by
  unfold State.memWf; decide +kernel

end Sys2Proof.Tests
end

section
/-! PROOFS. The bounds of the blocking waits (R53, R309). -/

namespace Sys2Proof.Machine

/-! What a wait that begins registers. -/

/-- The bound exponent in the words of R53. -/
theorem boundOf_eq (own dflt : Nat) :
    boundOf own dflt = if own ≠ 0 then own else if dflt ≠ 0 then dflt else 24 := by
  simp [boundOf]

/-- A wait without a field of its own takes the kernel's default of its class, else 24. -/
theorem boundOf_zero (dflt : Nat) : boundOf 0 dflt = if dflt ≠ 0 then dflt else 24 := by
  simp [boundOf]

/-- R309: a wait that begins has counted no clk and keeps the bound it is given. -/
theorem State.wait_waitB {s : State} {g : Nat} (k : WaitKind) (own dflt : Nat) (h : (s.core g).wait = none) :
    ((s.waitB g k own dflt).core g).wait = some { kind := k, stall := 0, bound := some (2 ^ boundOf own dflt) } := by
  simp [State.waitB, State.waitOn, h]

/-! When each step of the sequencer registers its wait. -/

/-- R190: a flag word that neither satisfies a wait nor holds an error leaves it waiting. -/
theorem State.semStep_no {s : State} {g flag n : Nat} (t : Bool) (own : Nat)
    (h : flagWait ((s.core g).flag flag) n = .no) :
    s.semStep g flag n t own = s.waitB g (.sem flag n t) own ((s.core g).dflt (·.bflag)) := by
  simp [State.semStep, h]

/-- R286, R347: a barrier wait that may not read its word yet waits. -/
theorem State.barStep_held {s : State} {g : Nat} {x : Acc} {scope : Nat} (gen : Nat) (t : Bool) (own : Nat)
    (h : (s.core g).barHeld x = true
      ∨ s.held (dieOf g) x.path false (s.atomicPath g (s.scopeOf g scope) x.path) = true) :
    s.barStep g x gen t scope own = s.waitB g (.barWait x gen t scope) own ((s.core g).dflt (·.bbar)) := by
  rw [State.barStep, if_pos (by simpa using h)]

/-- R286: a barrier word still at the awaited generation, without ERR, leaves the wait standing. -/
theorem State.barStep_same {s u : State} {g gen scope w : Nat} {x : Acc} (t : Bool) (own : Nat)
    (hb : (s.core g).barHeld x = false)
    (hh : s.held (dieOf g) x.path false (s.atomicPath g (s.scopeOf g scope) x.path) = false)
    (hr : s.barRead g (s.scopeOf g scope) x = (.ok w, u)) (hgen : w / 2 ^ 32 % 2 ^ 16 = gen)
    (herr : w / 2 ^ 63 % 2 = 0) :
    s.barStep g x gen t scope own = u.waitB g (.barWait x gen t scope) own ((u.core g).dflt (·.bbar)) := by
  rw [State.barStep, if_neg (by simp [hb, hh]), hr]
  exact if_pos (by simpa using And.intro hgen herr)

/-- R66: an instruction of a core waits where what its operands pop is not there yet. -/
theorem State.popThen_wait {s : State} {g : Nat} {ops : List (Want × BitVec 8)} {vs : List Val} (len : Nat)
    (k : State → List Val → Out) (hpop : noPops (s.core g).ctx ops = false)
    (hchk : (s.core g).popChk (s.core g).ctx (ops.map (·.2)) = none) (hvq : (s.core g).vq.all (·.done) = true)
    (htake : (s.core g).takeAll
      ((ops.map (fun o => if isPop (s.core g).ctx o.2 then (s.core g).ctx.expand o.2 else 0)).zip (vs.map .ready))
        = .wait) :
    s.popThen (.core g) ops vs len k
      = .next (s.waitB g
          (.pops (ops.map (fun o => if isPop (s.core g).ctx o.2 then (s.core g).ctx.expand o.2 else 0))) 0
          ((s.core g).dflt (·.bchan))) := by
  simp [State.popThen, hpop, hchk, hvq, htake]

/-- R288: a join waits until its team's record is complete. -/
theorem State.joinStep_incomplete {s : State} {g : Nat} {t : Team} (key own : Nat) (ht : s.teamOf g = some t)
    (hc : t.complete = false) :
    s.joinStep g key own = s.waitB g (.teamJoin key) own ((s.core g).dflt (·.bbar)) := by
  simp [State.joinStep, ht, hc]

/-- R290: a team barrier waits while its generation lasts and no member whose arrival it needs has left. -/
theorem State.teamBarStep_same {s : State} {g gen : Nat} {t : Team} (key scope own : Nat) (ht : s.teamOf g = some t)
    (hg : t.gen = gen) (hb : t.broken = false) :
    s.teamBarStep g key gen scope own = s.waitB g (.teamBar key gen scope) own ((s.core g).dflt (·.bbar)) := by
  simp [State.teamBarStep, ht, hg, hb]

/-- R183: a push waits for room in its queue and for a copy tag. -/
theorem State.tryPush_full {s : State} {g : Nat} {q : Eng} {k : Cmd} (hh : (s.core g).pushHeld = false)
    (hf : (s.core g).canPush q k.instr = false) :
    s.tryPush g q k = s.waitB g (.push q k) 0 ((s.core g).dflt (·.bpush)) := by
  simp [State.tryPush, hh, hf]

/-- R272: `sleep.gt` waits until the GTC has reached the promised time. -/
theorem State.sleepStep_early {s : State} {g time : Nat} (tag own : Nat) (nt : Bool) (hl : (s.core g).late = false)
    (ht : gtcReached (s.die (dieOf g)).gtc time = false) :
    s.sleepStep g time tag nt false own = s.waitB g (.sleep time tag nt false) own ((s.core g).dflt (·.bsleep)) := by
  simp [State.sleepStep, hl, ht]

/-! The waits of the queues. -/

/-- R229: the bound of `vsem.wait`. -/
theorem Core.vBound_vsemWait (c : Core) (f : BaseF) :
    c.vBound (.vsemWait f) = boundOf (boundField f) (c.dflt (·.bflag)) := rfl

/-- R213: the bound of every other entry of VQ. -/
theorem Core.vBound_other {c : Core} {i : Instr} (h : ∀ f, i ≠ .vsemWait f) :
    c.vBound i = boundOf (boundField (baseOf i)) (c.dflt (·.bchan)) := by
  unfold Core.vBound
  split
  · exact absurd rfl (h _)
  · rfl

/-- A wait of VQ has the bound of its entry. -/
theorem State.bound_headWaits_v {s : State} {g : Nat} {x : Cmd × Nat × Nat} (hx : x ∈ s.headWaits g .v) :
    x.2.2 = (s.core g).vBound x.1.instr := by
  simp only [State.headWaits] at hx
  split at hx
  · simp at hx
  · split at hx
    · split at hx
      · simp at hx
      · simp [List.mem_singleton.mp hx]
    · simp at hx

/-- What a command of MQ or CQ can wait for, by RES, each with its bound: none of these waits has a field of its own. -/
inductive QueueWait (c : Core) : Nat × Nat → Prop
  | flag (n : BitVec 5) : QueueWait c (32 + n.toNat, boundOf 0 (c.dflt (·.bflag)))
  | chan {n : Nat} (h : n < 4) : QueueWait c (96 + n, boundOf 0 (c.dflt (·.bchan)))
  | gang : QueueWait c (163, boundOf 0 (c.dflt (·.bbar)))

/-- R184, R200, R203, R209, R267: the waits of MQ and CQ are for a flag word, a channel or a gang. -/
theorem State.queueWait_headWaits {s : State} {g : Nat} {q : Eng} {x : Cmd × Nat × Nat} (hq : q ≠ .v)
    (hx : x ∈ s.headWaits g q) : QueueWait (s.core g) x.2 := by
  unfold State.headWaits at hx
  extract_lets c bchan bflag bbar flagHead q1 q0 forming ch at hx
  have hflag : flagHead = some x → QueueWait c x.2 := by
    intro h
    simp only [flagHead] at h
    split at h
    · cases h
    · split at h
      · cases h
      · split at h
        · cases h
          exact .flag _
        · split at h
          · obtain ⟨-, ⟨⟩⟩ := Option.ite_none_right_eq_some.mp h
            exact .gang
          · cases h
  cases q with
  | v => exact absurd rfl hq
  | m =>
    simp only [List.mem_append, Option.mem_toList] at hx
    obtain ((hq1 | hq0) | hform) | hhead := hx
    · simp only [q1] at hq1
      split at hq1
      · obtain ⟨-, ⟨⟩⟩ := Option.ite_none_right_eq_some.mp hq1
        exact .chan (n := 1) (by decide)
      · cases hq1
    · simp only [q0] at hq0
      split at hq0
      · obtain ⟨-, ⟨⟩⟩ := Option.ite_none_right_eq_some.mp hq0
        exact .chan (n := 0) (by decide)
      · cases hq0
    · obtain ⟨k, -, rfl⟩ := Option.map_eq_some_iff.mp hform
      exact .gang
    · exact hflag hhead
  | c =>
    simp only [List.mem_append, Option.mem_toList] at hx
    obtain hch | hhead := hx
    · obtain ⟨k, -, hk⟩ := List.mem_filterMap.mp hch
      obtain ⟨-, hk⟩ := Option.ite_none_left_eq_some.mp hk
      split at hk
      · obtain ⟨-, ⟨⟩⟩ := Option.ite_none_right_eq_some.mp hk
        exact .chan (n := 2) (by decide)
      · obtain ⟨-, ⟨⟩⟩ := Option.ite_none_right_eq_some.mp hk
        exact .chan (n := 3) (by decide)
      · cases hk
    · exact hflag hhead

/-- The default that the bound of a wait of MQ or CQ falls back on follows from its RES. -/
theorem QueueWait.bound_eq {c : Core} {y : Nat × Nat} (h : QueueWait c y) :
    y.2 = boundOf 0 (if 32 ≤ y.1 ∧ y.1 < 64 then c.dflt (·.bflag)
      else if y.1 = 163 then c.dflt (·.bbar) else c.dflt (·.bchan)) := by
  cases h with
  | flag n => rw [if_pos ⟨by omega, by have := n.isLt; omega⟩]
  | chan h => rw [if_neg (by omega), if_neg (by omega)]
  | gang => rfl

end Sys2Proof.Machine

section
open Sys2Proof Sys2Proof.Machine

/-- Settles O21: each conjunct is the lemma about the step that registers the wait; the waits of MQ and CQ are bounded by the
class that their RES tells. -/
theorem waitBounds : Obligations.WaitBounds := by
  unfold Obligations.WaitBounds
  refine ⟨?begins, ?flag, ?bar, ?pops, ?join, ?team, ?push, ?sleep, ?vsem, ?vother, ?heads⟩
  case begins =>
    intro s g k own dflt h
    rw [State.wait_waitB k own dflt h, boundOf_eq]
  case flag => exact fun s g flag n own t h => State.semStep_no t own h
  case bar =>
    intro s g gen scope own t x
    exact ⟨State.barStep_held gen t own,
      fun w u hb hh hr hgen herr => State.barStep_same t own hb hh hr hgen herr⟩
  case pops => exact fun s g len ops vs k hpop hchk hvq htake => State.popThen_wait len k hpop hchk hvq htake
  case join => exact fun s g key own t => State.joinStep_incomplete key own
  case team => exact fun s g key gen scope own t => State.teamBarStep_same key scope own
  case push => exact fun s g q k => State.tryPush_full
  case sleep => exact fun s g time tag own nt => State.sleepStep_early tag own nt
  case vsem => exact fun c f => (c.vBound_vsemWait f).trans (boundOf_eq ..)
  case vother => exact fun c i h => (Core.vBound_other h).trans (boundOf_eq ..)
  case heads =>
    intro s g x
    exact ⟨State.bound_headWaits_v,
      fun q hq hx => (State.queueWait_headWaits hq hx).bound_eq.trans (boundOf_zero _)⟩

end
end

section
/-! PROOFS. The scalar arithmetic of the machine is arithmetic over bit vectors (R23 to R25, R64). -/

namespace Sys2Proof.Machine

/-! Reading an operand, storing an exact value, extending a result. -/

/-- The machine's two's complement reading is that of a bit vector. -/
theorem toSigned_eq_toInt (w v : Nat) : toSigned w v = (BitVec.ofNat w v).toInt := by
  simp [toSigned, BitVec.toInt]

/-- R23: the operand read at the width of a type. -/
theorem readInt_eq_val (w : Nat) (uns : Bool) (x : Word) :
    readInt w uns x.toNat = Spec.val uns (x.setWidth w) := by
  cases uns <;> simp [readInt, Spec.val, toSigned_eq_toInt]

/-- R24: the low bits of an integer, as a bit vector. -/
@[simp] theorem ofNat_wrapNat (w : Nat) (i : Int) : BitVec.ofNat w (wrapNat w i) = BitVec.ofInt w i := by
  rw [wrapNat, ← BitVec.toNat_ofInt, BitVec.ofNat_toNat, BitVec.setWidth_eq]

/-- R64: the extension of a result to 64 bits is that of its bit vector. -/
theorem extend_eq_ext (w : Nat) (uns : Bool) (v : Nat) : extend w uns v = Spec.ext uns (BitVec.ofNat w v) := by
  cases uns with
  | false => simp [extend, Spec.ext, toSigned_eq_toInt, BitVec.signExtend]
  | true => exact BitVec.eq_of_toNat_eq (by simp [extend, Spec.ext])

/-- Reading a bit vector as an integer and keeping its low bits gives it back. -/
@[simp] theorem ofInt_val {w : Nat} (uns : Bool) (x : BitVec w) : BitVec.ofInt w (Spec.val uns x) = x := by
  cases uns <;> simp [Spec.val]

/-- The low bits of the first operand's integer are that operand. -/
@[simp] theorem ofInt_x (f : BaseF) (vs : List Val) : BitVec.ofInt (BaseF.w f) (Spec.x f vs) = Spec.a f vs := ofInt_val ..

/-- The low bits of the second operand's integer are that operand. -/
@[simp] theorem ofInt_y (f : BaseF) (vs : List Val) : BitVec.ofInt (BaseF.w f) (Spec.y f vs) = Spec.b f vs := ofInt_val ..

/-- Only the zero bit vector reads as 0. -/
theorem val_eq_zero {w : Nat} (uns : Bool) (x : BitVec w) : Spec.val uns x = 0 ↔ x = 0 := by
  constructor
  · intro h
    rw [← ofInt_val uns x, h]
    rfl
  · rintro rfl
    cases uns <;> simp [Spec.val]

/-- Clamping, with the bounds taken in the other order. -/
theorem clampInt_eq (w : Nat) (uns : Bool) (i : Int) :
    clampInt w uns i
      = if uns then max 0 (min i (2 ^ w - 1)) else max (-(2 ^ (w - 1))) (min i (2 ^ (w - 1) - 1)) := by
  have h : ∀ n, (1 : Int) ≤ 2 ^ n := fun n => one_le_pow₀ (by norm_num)
  have hw := h w
  have hs := h (w - 1)
  cases uns <;> simp only [clampInt, intMin, intMax, if_true, if_false, Bool.false_eq_true] <;> push_cast <;> omega

/-- R24: storing an exact value keeps its low bits, clamped under SAT. -/
theorem ofNat_storeInt (w : Nat) (uns sat : Bool) (i : Int) :
    BitVec.ofNat w (storeInt w uns sat i) = Spec.fit w uns sat i := by
  cases sat <;> simp [storeInt, Spec.fit, clampInt_eq]

/-! The integer functions of R25. -/

/-- R25: the quotient. -/
theorem ofNat_intDiv {w : Nat} (uns sat : Bool) (x y : BitVec w) :
    BitVec.ofNat w (intDiv w uns sat (Spec.val uns x) (Spec.val uns y)) = Spec.quot uns sat x y := by
  by_cases hy : y = 0
  · rw [intDiv, if_pos ((val_eq_zero uns y).mpr hy), Spec.quot, if_pos hy]
    exact BitVec.eq_of_toNat_eq (by simp)
  · rw [intDiv, if_neg (mt (val_eq_zero uns y).mp hy), Spec.quot, if_neg hy, ofNat_storeInt]

/-- R25: the remainder. -/
theorem ofNat_intRem {w : Nat} (uns : Bool) (x y : BitVec w) :
    BitVec.ofNat w (intRem w (Spec.val uns x) (Spec.val uns y)) = Spec.rem uns x y := by
  by_cases hy : y = 0
  · rw [intRem, if_pos ((val_eq_zero uns y).mpr hy), Spec.rem, if_pos hy, ofNat_wrapNat, ofInt_val]
  · rw [intRem, if_neg (mt (val_eq_zero uns y).mp hy), Spec.rem, if_neg hy, ofNat_wrapNat, Int.tmod_def, Int.mul_comm]

/-! The logic and shift functions (R171, R172, R25). -/

/-- R171: `andn`. -/
theorem ofNat_andn {w : Nat} (x y : BitVec w) :
    BitVec.ofNat w (x.toNat &&& (2 ^ w - 1 - y.toNat)) = x &&& ~~~y := by
  rw [← BitVec.toNat_not, ← BitVec.toNat_and, BitVec.ofNat_toNat, BitVec.setWidth_eq]

/-- R171: `not`. -/
theorem ofNat_not {w : Nat} (x : BitVec w) : BitVec.ofNat w (2 ^ w - 1 - x.toNat) = ~~~x := by
  rw [← BitVec.toNat_not, BitVec.ofNat_toNat, BitVec.setWidth_eq]

/-- R25: a left shift, which leaves zeros from the width on. -/
theorem ofNat_shlNat {w : Nat} (x : BitVec w) (k : Nat) : BitVec.ofNat w (shlNat w x.toNat k) = x <<< k := by
  by_cases h : w ≤ k
  · rw [shlNat, if_pos h, BitVec.shiftLeft_eq_zero h]
  · exact BitVec.eq_of_toNat_eq (by simp [shlNat, h, Nat.mod_eq_of_lt x.isLt])

/-- R25: a logical right shift, which leaves zeros from the width on. -/
theorem ofNat_shrNat {w : Nat} (x : BitVec w) (k : Nat) : BitVec.ofNat w (shrNat w x.toNat k) = x >>> k := by
  by_cases h : w ≤ k
  · rw [shrNat, if_pos h, BitVec.ushiftRight_eq_zero h]
  · rw [shrNat, if_neg h, Nat.mod_eq_of_lt x.isLt, ← BitVec.toNat_ushiftRight, BitVec.ofNat_toNat, BitVec.setWidth_eq]

/-- R25: shifting right by more than the width shifts in no more than copies of the sign. -/
theorem toInt_div_two_pow_min {w : Nat} (x : BitVec w) (k : Nat) :
    x.toInt / ((2 ^ min k w : Nat) : Int) = x.toInt >>> k := by
  rw [Int.shiftRight_eq_div_pow]
  rcases Nat.le_total k w with h | h
  · rw [Nat.min_eq_left h]
  · have hw : ((2 ^ w : Nat) : Int) ≤ (2 ^ k : Nat) := by exact_mod_cast Nat.pow_le_pow_right (by decide) h
    have hlt := x.two_mul_toInt_lt
    have hle := x.le_two_mul_toInt
    rw [Nat.min_eq_right h]
    push_cast at hw ⊢
    rcases Int.lt_or_le x.toInt 0 with hx | hx
    · rw [Int.ediv_eq_neg_one_of_neg_of_le hx (by omega), Int.ediv_eq_neg_one_of_neg_of_le hx (by omega)]
    · rw [Int.ediv_eq_zero_of_lt hx (by omega), Int.ediv_eq_zero_of_lt hx (by omega)]

/-- R25: an arithmetic right shift. -/
theorem ofNat_sarNat {w : Nat} (x : BitVec w) (k : Nat) :
    BitVec.ofNat w (sarNat w x.toNat k) = x.sshiftRight k := by
  rw [sarNat, ofNat_wrapNat, toSigned_eq_toInt, BitVec.ofNat_toNat, BitVec.setWidth_eq, toInt_div_two_pow_min,
    ← BitVec.toInt_sshiftRight, BitVec.ofInt_toInt]

/-- R25, R172: a rotation, by the amount modulo the width. -/
theorem ofNat_rotNat {w : Nat} (x : BitVec w) (k : Nat) :
    BitVec.ofNat w (rotNat w x.toNat k) = x.rotateLeft (k % w) := by
  rcases Nat.eq_zero_or_pos w with rfl | hw
  · exact BitVec.of_length_zero.trans BitVec.of_length_zero.symm
  have hr := Nat.mod_lt k hw
  have hlow : x.toNat >>> (w - k % w) < 2 ^ (k % w) := by
    rw [Nat.shiftRight_eq_div_pow, Nat.div_lt_iff_lt_mul (Nat.two_pow_pos _), ← Nat.pow_add,
      Nat.add_sub_cancel' hr.le]
    exact x.isLt
  have hhigh : x.toNat <<< (k % w) % 2 ^ w = (x.toNat % 2 ^ (w - k % w)) <<< (k % w) := by
    rw [Nat.shiftLeft_eq, Nat.shiftLeft_eq, ← Nat.mul_mod_mul_right, ← Nat.pow_add, Nat.sub_add_cancel hr.le]
  have hadd : rotNat w x.toNat k = (x.rotateLeft (k % w)).toNat := by
    rw [rotNat, Nat.mod_eq_of_lt x.isLt, BitVec.toNat_rotateLeft, Nat.mod_mod, hhigh,
      Nat.shiftLeft_add_eq_or_of_lt hlow]
  rw [hadd, BitVec.ofNat_toNat, BitVec.setWidth_eq]

/-! The counts (R25). -/

/-- R25: the count of leading zeros. -/
theorem isClz_clzNat {w : Nat} (x : BitVec w) : Spec.isClz x (clzNat w x.toNat) := by
  rw [clzNat, Nat.mod_eq_of_lt x.isLt]
  by_cases hx : x.toNat = 0
  · rw [if_pos hx]
    exact .inl ⟨BitVec.eq_of_toNat_eq hx, rfl⟩
  · rw [if_neg hx]
    have hw := (Nat.log2_lt hx).mpr x.isLt
    have htop : w - 1 - (w - 1 - x.toNat.log2) = x.toNat.log2 := by omega
    refine .inr ⟨by omega, ?_, fun j hj => ?_⟩
    · rw [htop]
      exact Nat.testBit_log2 hx
    · exact Nat.testBit_lt_two_pow (Nat.lt_of_lt_of_le Nat.lt_log2_self (Nat.pow_le_pow_right (by decide) (by omega)))

/-- R25: the index of the lowest set bit. -/
theorem isFfs_ffsNat {w : Nat} (x : BitVec w) : Spec.isFfs x (ffsNat w x.toNat) := by
  rw [ffsNat]
  cases h : (List.range w).find? (fun i => x.toNat.testBit i) with
  | none =>
    rw [List.find?_range_eq_none] at h
    refine .inl ⟨BitVec.eq_of_getLsbD_eq fun i hi => ?_, rfl⟩
    simpa [BitVec.getLsbD] using h i hi
  | some r =>
    obtain ⟨hr, hmem, hlow⟩ := List.find?_range_eq_some.mp h
    exact .inr ⟨List.mem_range.mp hmem, hr, fun j hj => by simpa [BitVec.getLsbD] using hlow j hj⟩

/-- Adding 1 for each element that meets a condition counts those elements. -/
theorem foldl_count (p : Nat → Bool) (l : List Nat) (n : Nat) :
    l.foldl (fun n i => n + (if p i then 1 else 0)) n = n + (l.filter p).length := by
  induction l generalizing n with
  | nil => rfl
  | cons i l ih =>
    rw [List.foldl_cons, ih, List.filter_cons]
    split <;> simp [Nat.add_assoc, Nat.add_comm 1]

/-- R25: the count of set bits. -/
theorem popcNat_eq_popc {w : Nat} (x : BitVec w) : popcNat w x.toNat = Spec.popc x :=
  (foldl_count _ _ 0).trans (Nat.zero_add _)

/-! What the fronts of the scalar instructions compute. -/

/-- An instruction whose meaning `m` is a scalar computation gives what its function gives. -/
theorem computes_of_pureScalar {i : Instr} {f r : List Val → Word} (m : State → Out) (hi : ∀ s, exec i s = m s)
    (hm : ∀ s, m s = pureScalar s (opsOf i) f) (hr : ∀ vs, f vs = r vs) : Computes i r := by
  intro _ s vs h
  rw [hi, hm, pureScalar_ready f h, hr]

/-- An integer instruction computes the bits of what its operation makes of the integers read. -/
theorem computesBits_of_intOp {i : Instr} {f : BaseF} {op : Int → Int → Nat} {r : List Val → BitVec (BaseF.w f)}
    (m : State → Out) (hi : ∀ s, exec i s = m s) (hm : ∀ s, m s = intOp i f s op)
    (hr : ∀ vs, BitVec.ofNat (BaseF.w f) (op (Spec.x f vs) (Spec.y f vs)) = r vs) : ComputesBits i f r :=
  computes_of_pureScalar m hi hm fun vs => by
    rw [readInt_eq_val, readInt_eq_val, extend_eq_ext, ← hr]
    rfl

/-- A logic or shift instruction gives the bits of what its operation makes of the bits of its operands. -/
theorem exec_of_bitOp {i : Instr} {f : BaseF} {op : Nat → Nat → Nat} (m : State → Out)
    (hi : ∀ s, exec i s = m s) (hm : ∀ s, m s = bitOp i f s op) {s : State} {vs : List Val}
    (h : MayAct s .both (opsOf i) 1 vs) :
    exec i s = .next (s.retire s.focus 1
      [.scalar (Spec.ext (BaseF.uns f) (BitVec.ofNat (BaseF.w f) (op (Spec.a f vs).toNat (Spec.b f vs).toNat)))]) := by
  rw [hi, hm, bitOp, pureScalar_ready _ h, extend_eq_ext, Spec.a, Spec.b, BitVec.toNat_setWidth, BitVec.toNat_setWidth]

/-- A logic or shift instruction computes bits from the bits of its operands. -/
theorem computesBits_of_bitOp {i : Instr} {f : BaseF} {op : Nat → Nat → Nat} {r : List Val → BitVec (BaseF.w f)}
    (m : State → Out) (hi : ∀ s, exec i s = m s) (hm : ∀ s, m s = bitOp i f s op)
    (hr : ∀ vs, BitVec.ofNat (BaseF.w f) (op (Spec.a f vs).toNat (Spec.b f vs).toNat) = r vs) : ComputesBits i f r :=
  fun _ _ _ h => (exec_of_bitOp m hi hm h).trans (by rw [hr])

/-- R174: a compare gives 1 where its relation holds of the integers read, else 0. -/
theorem computes_of_cmpOp {i : Instr} {f : BaseF} (rel : Rel) {r : List Val → Word}
    (m : State → Out) (hi : ∀ s, exec i s = m s) (hm : ∀ s, m s = cmpOp i f s rel)
    (hr : ∀ vs, (if relInt rel (Spec.x f vs) (Spec.y f vs) then 1 else 0) = r vs) : Computes i r :=
  computes_of_pureScalar m hi hm fun vs => by
    rw [readInt_eq_val, readInt_eq_val]
    exact hr vs

end Sys2Proof.Machine

section
open Sys2Proof Sys2Proof.Machine

/-- Settles O5: each instruction is `intOp` of a function of integers, whose bits are those of the exact arithmetic. -/
theorem integerResults : Obligations.IntegerResults := by
  unfold Obligations.IntegerResults
  intro f
  refine ⟨?add, ?sub, ?mul, ?mulh, ?div, ?rem, ?min, ?max, ?abs, ?neg⟩
  case add => exact computesBits_of_intOp (execAdd f) (fun _ => rfl) (fun _ => rfl) fun _ => ofNat_storeInt ..
  case sub => exact computesBits_of_intOp (execSub f) (fun _ => rfl) (fun _ => rfl) fun _ => ofNat_storeInt ..
  case mul => exact computesBits_of_intOp (execMul f) (fun _ => rfl) (fun _ => rfl) fun _ => ofNat_storeInt ..
  case mulh => exact computesBits_of_intOp (execMulh f) (fun _ => rfl) (fun _ => rfl) fun _ => by simp [intMulh]
  case div => exact computesBits_of_intOp (execDiv f) (fun _ => rfl) (fun _ => rfl) fun _ => ofNat_intDiv ..
  case rem => exact computesBits_of_intOp (execRem f) (fun _ => rfl) (fun _ => rfl) fun _ => ofNat_intRem ..
  case min =>
    refine computesBits_of_intOp (execMin f) (fun _ => rfl) (fun _ => rfl) fun vs => ?_
    by_cases h : Spec.x f vs ≤ Spec.y f vs <;> simp [h]
  case max =>
    refine computesBits_of_intOp (execMax f) (fun _ => rfl) (fun _ => rfl) fun vs => ?_
    by_cases h : Spec.y f vs ≤ Spec.x f vs <;> simp [h]
  case abs =>
    refine computesBits_of_intOp (execAbs f) (fun _ => rfl) (fun _ => rfl) fun vs => ?_
    rw [ofNat_storeInt, Int.abs_eq_natAbs]
  case neg => exact computesBits_of_intOp (execNeg f) (fun _ => rfl) (fun _ => rfl) fun _ => ofNat_storeInt ..

end
end

section
/-! PROOFS. The encodings of the scalar instructions (R57, R73, R171 to R176). -/

namespace Sys2Proof.Machine

/-! The fields that an encoding admits (R171 to R175). -/

/-- The checks shared by base-form entries, one by one. -/
theorem baseOk_iff (tys : List Nat) (ua ub uc : Bool) (mask : BitVec 24) (f : BaseF) :
    baseOk tys ua ub uc mask f = true
      ↔ f.ty.toNat ∈ tys ∧ (ua = false → f.a = 0) ∧ (ub = false → f.b = 0) ∧ (uc = false → f.c = 0)
        ∧ f.mod &&& ~~~mask = 0 := by
  cases ua <;> cases ub <;> cases uc <;> simp [baseOk, and_assoc]

theorem mem_intTys_iff (n : Nat) : n ∈ intTys ↔ 1 ≤ n ∧ n ≤ 5 := by
  simp only [intTys, List.mem_cons, List.not_mem_nil, or_false]
  omega

theorem mem_scalTys_iff (n : Nat) : n ∈ scalTys ↔ n ≤ 5 := by
  simp only [scalTys, List.mem_cons, List.not_mem_nil, or_false]
  omega

/-- The fields of a family at the integer types. -/
theorem baseOk_intTys_iff (b c : Bool) (mask : BitVec 24) (f : BaseF) :
    baseOk intTys true b c mask f = true ↔ ScalarFields 1 b c mask f := by
  rw [baseOk_iff, mem_intTys_iff, ScalarFields]
  constructor
  · rintro ⟨⟨hlo, hhi⟩, -, hb, hc, hmod⟩
    exact ⟨hlo, hhi, hb, hc, hmod, fun h => by simp [h] at hlo⟩
  · rintro ⟨hlo, hhi, hb, hc, hmod, -⟩
    exact ⟨⟨hlo, hhi⟩, nofun, hb, hc, hmod⟩

/-- UNS needs an integer type: among the types up to 5, any but b64. -/
theorem unsOk_iff {f : BaseF} (h : f.ty.toNat ≤ 5) : unsOk f = true ↔ (f.ty = 0 → f.mod.getLsbD 0 = false) := by
  have hzero : f.ty = 0 ↔ f.ty.toNat = 0 := BitVec.toNat_eq
  have hint : isIntTy f.ty.toNat = true ↔ f.ty ≠ 0 := by
    simp only [isIntTy, Bool.and_eq_true, decide_eq_true_eq, ne_eq, hzero]
    omega
  rw [unsOk, Bool.or_eq_true, hint, Bool.not_eq_true', or_comm]
  exact imp_iff_not_or.symm

/-- The fields of a family at b64 and the integer types. -/
theorem baseOk_scalTys_iff (b c : Bool) (mask : BitVec 24) (f : BaseF) :
    (baseOk scalTys true b c mask f && unsOk f) = true ↔ ScalarFields 0 b c mask f := by
  rw [Bool.and_eq_true, baseOk_iff, mem_scalTys_iff, ScalarFields]
  constructor
  · rintro ⟨⟨hhi, -, hb, hc, hmod⟩, huns⟩
    exact ⟨Nat.zero_le _, hhi, hb, hc, hmod, (unsOk_iff hhi).mp huns⟩
  · rintro ⟨-, hhi, hb, hc, hmod, huns⟩
    exact ⟨⟨hhi, nofun, hb, hc, hmod⟩, (unsOk_iff hhi).mpr huns⟩

/-- R173: the fields of `ext`. -/
theorem wf_ext_iff (f : BaseF) :
    (Instr.ext f).wf = true
      ↔ ScalarFields 1 false false 0x3F3F01 f ∧ bitsNat f.mod 16 6 + (bitsNat f.mod 8 6 + 1) ≤ BaseF.w f := by
  rw [← baseOk_intTys_iff]
  simp [Instr.wf, extOk, BaseF.w, Nat.add_assoc]

/-! What the decoder makes of a word of one of these families. -/

/-- An instruction that is found is accepted where its fields are legal. -/
theorem accept_wf {i : Instr} (n : Nat) (h : i.wf = true) : accept (some i) n = .ok (i, n) := by simp [accept, h]

/-- An instruction whose fields are not legal is ILLEGAL (R71). -/
theorem accept_not_wf {i : Instr} (n : Nat) (h : i.wf ≠ true) : accept (some i) n = .error .illegal := by
  simp [accept, h]

/-- The opcodes of R171 to R176 are read by the table of fixed opcodes. -/
theorem decode_scalar {w : Word} (ws : List Word) (hlo : 0x10 ≤ (opOf w).toNat) (hhi : (opOf w).toNat ≤ 0x15)
    (hli : opOf w = 0x15 → fnOf w ≠ 2) : decode (w :: ws) = accept (decodeFixed (opOf w) (fnOf w) w) 1 := by
  have hne : ∀ n : BitVec 8, n.toNat < 0x10 ∨ 0x15 < n.toNat → (opOf w == n) = false := by
    intro n h
    refine beq_false_of_ne ?_
    rintro rfl
    omega
  have hclaimed : ¬0xF0 ≤ (opOf w).toNat := by omega
  have hlit : (opOf w == 0x15 && fnOf w == 2) = false := by simpa using hli
  simp only [decode, if_neg hclaimed, hne 2 (by decide), hne 3 (by decide), hne 4 (by decide), hlit, hne 0xA3 (by decide),
    hne 0xB0 (by decide), Bool.or_self, Bool.false_and, Bool.false_eq_true, if_false]

/-- R57, R73: an instruction of one word that is found in a word is read back where its fields are legal. -/
theorem encodesAs_of_decode {i : Instr} {w : Word} {good : Prop} (hw : encode i = some [w])
    (hd : ∀ ws, decode (w :: ws) = accept (some i) 1) (hgood : i.wf = true ↔ good) : EncodesAs i w good where
  word := hw
  legal h ws := (hd ws).trans (accept_wf 1 (hgood.mpr h))
  illegal h ws := (hd ws).trans (accept_not_wf 1 (mt hgood.mp h))

/-- A base-form instruction under one of the opcodes of R171 to R175. -/
theorem encodesAs_packBase (c : BaseF → Instr) {op : BitVec 8} {fn : BitVec 4} {f : BaseF} {good : Prop}
    (hw : encode (c f) = some [packBase op fn f]) (hd : ∀ w, decodeFixed op fn w = some (c (unpackBase w)))
    (hop : 0x10 ≤ op.toNat ∧ op.toNat < 0x15) (hgood : (c f).wf = true ↔ good) :
    EncodesAs (c f) (packBase op fn f) good := by
  have hli : op ≠ 0x15 := by
    rintro rfl
    exact absurd hop.2 (by decide)
  refine encodesAs_of_decode hw (fun ws => ?_) hgood
  rw [decode_scalar ws (by simpa using hop.1) (by simpa using hop.2.le) (fun h => absurd h (by simpa using hli)),
    opOf_packBase, fnOf_packBase, hd, unpackBase_packBase]

/-- R176: a form I instruction of the immediates. -/
theorem encodesAs_packImm (c : ImmF → Instr) {fn : BitVec 4} {f : ImmF} {good : Prop} (hf : f.fn = fn)
    (hw : encode (c f) = some [packImm 0x15 f]) (hd : ∀ w, decodeFixed 0x15 fn w = some (c (unpackImm w)))
    (hfn : fn ≠ 2) (hgood : (c f).wf = true ↔ good) : EncodesAs (c f) (packImm 0x15 f) good := by
  refine encodesAs_of_decode hw (fun ws => ?_) hgood
  rw [decode_scalar ws (by simp) (by simp) (by simpa [hf] using hfn), opOf_packImm, fnOf_packImm, hf, hd,
    unpackImm_packImm]

/-- Under an opcode of R171 to R176, every FN that the table of fixed opcodes leaves out is ILLEGAL. -/
theorem fnIllegal_of_decodeFixed {op : BitVec 8} {n : Nat} (hop : 0x10 ≤ op.toNat ∧ op.toNat ≤ 0x15)
    (hli : op = 0x15 → 2 < n)
    (hd : ∀ k, n ≤ k → k < 16 → ∀ w, decodeFixed op (BitVec.ofNat 4 k) w = none) : FnIllegal op n := by
  intro fn f ws hfn
  have hfn2 : op = 0x15 → fn ≠ 2 := by
    rintro h rfl
    exact absurd (hli h) (Nat.not_lt.mpr hfn)
  have hnone : decodeFixed op fn (packBase op fn f) = none := by
    simpa using hd fn.toNat hfn fn.isLt (packBase op fn f)
  rw [decode_scalar ws (by simpa using hop.1) (by simpa using hop.2) (by simpa using hfn2), opOf_packBase, fnOf_packBase,
    hnone]
  rfl

/-! `li64` and its LIT64 word (R61, R176). -/

/-- The opcode of a LIT64 word. -/
@[simp] theorem opOf_append (op : BitVec 8) (lit : BitVec 56) : opOf (op ++ lit) = op := by
  rw [opOf, BitVec.extractLsb'_append_eq_of_le (by decide)]
  simp

@[simp] theorem extractLsb'_append_lit (op : BitVec 8) (lit : BitVec 56) : (op ++ lit).extractLsb' 0 56 = lit := by
  rw [BitVec.extractLsb'_append_eq_of_add_le (by decide)]
  simp

/-- R61: OP 0x15, FN 2 takes its literal from the LIT64 word after it. -/
theorem decode_li64 (f : BaseF) (lit : BitVec 56) (ws : List Word) :
    decode (packBase 0x15 2 f :: ((0x0E : BitVec 8) ++ lit) :: ws) = accept (some (.li64 f lit)) 2 := by
  simp [decode]

/-- `li64` is carried out as `execLi64` says. -/
theorem exec_li64 (f : BaseF) (lit : BitVec 56) (s : State) : exec (.li64 f lit) s = execLi64 f lit s := rfl

/-- The fields of `li64`: LHI alone. -/
theorem wf_li64_iff (f : BaseF) (lit : BitVec 56) :
    (Instr.li64 f lit).wf = true ↔ f.ty = 0 ∧ f.a = 0 ∧ f.b = 0 ∧ f.c = 0 ∧ f.mod &&& ~~~0xFF = 0 := by
  have hty : f.ty = 0 ↔ f.ty.toNat = 0 := BitVec.toNat_eq
  rw [Instr.wf, baseOk_iff, List.mem_singleton, hty]
  simp

end Sys2Proof.Machine

section
open Sys2Proof Sys2Proof.Machine

/-- Settles O6: each instruction is `bitOp` of a function of numbers, whose bits are those of the operation on bit
vectors; its word is read by the table of fixed opcodes. -/
theorem bitResults : Obligations.BitResults := by
  unfold Obligations.BitResults
  refine ⟨fun f => ⟨?and, ?or, ?xor, ?andn, ?not, ?encAnd, ?encOr, ?encXor, ?encAndn, ?encNot, ?fnLogic⟩,
    fun f => ⟨?shl, ?shr, ?sar, ?rot, ?popc, ?clz, ?ffs, ?ext, ?encShl, ?encShr, ?encSar, ?encRot, ?encClz, ?encFfs,
      ?encPopc, ?encExt, ?fnShift⟩⟩
  case and => exact computesBits_of_bitOp (execAnd f) (fun _ => rfl) (fun _ => rfl) fun _ => by simp
  case or => exact computesBits_of_bitOp (execOr f) (fun _ => rfl) (fun _ => rfl) fun _ => by simp
  case xor => exact computesBits_of_bitOp (execXor f) (fun _ => rfl) (fun _ => rfl) fun _ => by simp
  case andn => exact computesBits_of_bitOp (execAndn f) (fun _ => rfl) (fun _ => rfl) fun _ => ofNat_andn ..
  case not => exact computesBits_of_bitOp (execNot f) (fun _ => rfl) (fun _ => rfl) fun _ => ofNat_not _
  case encAnd => exact encodesAs_packBase .and rfl (fun _ => rfl) (by decide) (baseOk_scalTys_iff ..)
  case encOr => exact encodesAs_packBase .or rfl (fun _ => rfl) (by decide) (baseOk_scalTys_iff ..)
  case encXor => exact encodesAs_packBase .xor rfl (fun _ => rfl) (by decide) (baseOk_scalTys_iff ..)
  case encAndn => exact encodesAs_packBase .andn rfl (fun _ => rfl) (by decide) (baseOk_scalTys_iff ..)
  case encNot => exact encodesAs_packBase .not rfl (fun _ => rfl) (by decide) (baseOk_scalTys_iff ..)
  case fnLogic =>
    exact fnIllegal_of_decodeFixed (by decide) (by decide) fun k hlo hhi _ => by interval_cases k <;> rfl
  case shl => exact computesBits_of_bitOp (execShl f) (fun _ => rfl) (fun _ => rfl) fun _ => ofNat_shlNat ..
  case shr => exact computesBits_of_bitOp (execShr f) (fun _ => rfl) (fun _ => rfl) fun _ => ofNat_shrNat ..
  case sar => exact computesBits_of_bitOp (execSar f) (fun _ => rfl) (fun _ => rfl) fun _ => ofNat_sarNat ..
  case rot => exact computesBits_of_bitOp (execRot f) (fun _ => rfl) (fun _ => rfl) fun _ => ofNat_rotNat ..
  case popc =>
    intro _ s vs h
    rw [exec_of_bitOp (execPopc f) (fun _ => rfl) (fun _ => rfl) h, popcNat_eq_popc]
  case clz => exact fun _ s vs h => ⟨_, isClz_clzNat _, exec_of_bitOp (execClz f) (fun _ => rfl) (fun _ => rfl) h⟩
  case ffs => exact fun _ s vs h => ⟨_, isFfs_ffsNat _, exec_of_bitOp (execFfs f) (fun _ => rfl) (fun _ => rfl) h⟩
  case ext => exact computes_of_pureScalar (execExt f) (fun _ => rfl) (fun _ => rfl) fun _ => extend_eq_ext ..
  case encShl => exact encodesAs_packBase .shl rfl (fun _ => rfl) (by decide) (baseOk_intTys_iff ..)
  case encShr => exact encodesAs_packBase .shr rfl (fun _ => rfl) (by decide) (baseOk_intTys_iff ..)
  case encSar => exact encodesAs_packBase .sar rfl (fun _ => rfl) (by decide) (baseOk_intTys_iff ..)
  case encRot => exact encodesAs_packBase .rot rfl (fun _ => rfl) (by decide) (baseOk_intTys_iff ..)
  case encClz => exact encodesAs_packBase .clz rfl (fun _ => rfl) (by decide) (baseOk_intTys_iff ..)
  case encFfs => exact encodesAs_packBase .ffs rfl (fun _ => rfl) (by decide) (baseOk_intTys_iff ..)
  case encPopc => exact encodesAs_packBase .popc rfl (fun _ => rfl) (by decide) (baseOk_intTys_iff ..)
  case encExt => exact encodesAs_packBase .ext rfl (fun _ => rfl) (by decide) (wf_ext_iff f)
  case fnShift =>
    exact fnIllegal_of_decodeFixed (by decide) (by decide) fun k hlo hhi _ => by interval_cases k <;> rfl

/-- Settles O7: a compare is `cmpOp` of its relation, and the words of `sel`, the compares and the immediates are read by
the table of fixed opcodes, but for `li64`, which `decode_li64` reads. -/
theorem selectionResults : Obligations.SelectionResults := by
  unfold Obligations.SelectionResults
  refine ⟨fun f => ⟨?eq, ?ne, ?lt, ?le, ?gt, ?ge, ?sel, ?encEq, ?encNe, ?encLt, ?encLe, ?encGt, ?encGe, ?fnCmp, ?encSel,
    ?fnSel⟩, fun f => ⟨?li, ?liZ, ?encLi, ?encLiZ, ?fnImm⟩, fun f lit => ⟨?word, ?legal, ?illegal, ?li64⟩⟩
  case eq => exact computes_of_cmpOp .eq (execCmpEq f) (fun _ => rfl) (fun _ => rfl) fun _ => by simp [relInt]
  case ne => exact computes_of_cmpOp .ne (execCmpNe f) (fun _ => rfl) (fun _ => rfl) fun _ => by simp [relInt]
  case lt => exact computes_of_cmpOp .lt (execCmpLt f) (fun _ => rfl) (fun _ => rfl) fun _ => by simp [relInt]
  case le => exact computes_of_cmpOp .le (execCmpLe f) (fun _ => rfl) (fun _ => rfl) fun _ => by simp [relInt]
  case gt => exact computes_of_cmpOp .gt (execCmpGt f) (fun _ => rfl) (fun _ => rfl) fun _ => by simp [relInt]
  case ge => exact computes_of_cmpOp .ge (execCmpGe f) (fun _ => rfl) (fun _ => rfl) fun _ => by simp [relInt]
  case sel =>
    refine computes_of_pureScalar (execSel f) (fun _ => rfl) (fun _ => rfl) fun vs => ?_
    simp only [extend_eq_ext, BitVec.ofNat_toNat, ite_not, apply_ite (BitVec.setWidth (BaseF.w f))]
  case encEq => exact encodesAs_packBase .cmpEq rfl (fun _ => rfl) (by decide) (baseOk_intTys_iff ..)
  case encNe => exact encodesAs_packBase .cmpNe rfl (fun _ => rfl) (by decide) (baseOk_intTys_iff ..)
  case encLt => exact encodesAs_packBase .cmpLt rfl (fun _ => rfl) (by decide) (baseOk_intTys_iff ..)
  case encLe => exact encodesAs_packBase .cmpLe rfl (fun _ => rfl) (by decide) (baseOk_intTys_iff ..)
  case encGt => exact encodesAs_packBase .cmpGt rfl (fun _ => rfl) (by decide) (baseOk_intTys_iff ..)
  case encGe => exact encodesAs_packBase .cmpGe rfl (fun _ => rfl) (by decide) (baseOk_intTys_iff ..)
  case fnCmp =>
    exact fnIllegal_of_decodeFixed (by decide) (by decide) fun k hlo hhi _ => by interval_cases k <;> rfl
  case encSel => exact encodesAs_packBase .sel rfl (fun _ => rfl) (by decide) (baseOk_scalTys_iff ..)
  case fnSel =>
    exact fnIllegal_of_decodeFixed (by decide) (by decide) fun k hlo hhi _ => by interval_cases k <;> rfl
  case li => exact computes_of_pureScalar (execLi f) (fun _ => rfl) (fun _ => rfl) fun _ => rfl
  case liZ => exact computes_of_pureScalar (execLiZ f) (fun _ => rfl) (fun _ => rfl) fun _ => rfl
  case encLi =>
    exact fun hfn => encodesAs_packImm .li hfn rfl (fun _ => rfl) (by decide) (by simp [Instr.wf, hfn, and_assoc])
  case encLiZ =>
    exact fun hfn => encodesAs_packImm .liZ hfn rfl (fun _ => rfl) (by decide) (by simp [Instr.wf, hfn, and_assoc])
  case fnImm =>
    exact fnIllegal_of_decodeFixed (by decide) (by decide) fun k hlo hhi _ => by interval_cases k <;> rfl
  case word => rfl
  case legal => exact fun h ws => (decode_li64 f lit ws).trans (accept_wf 2 ((wf_li64_iff f lit).mpr h))
  case illegal => exact fun h ws => (decode_li64 f lit ws).trans (accept_not_wf 2 (mt (wf_li64_iff f lit).mp h))
  case li64 => exact fun s _ h => (exec_li64 f lit s).trans (withOps_ready (kinds := [false]) 2 _ h)

end
end

section
/-! PROOFS. The flag words of a core: `sem.sig`, `sem.sig.err`, `sem.clr` and `sem.clr.all` (R188, R189, R191). -/

namespace Sys2Proof.Machine

/-! What the decoder makes of a word under an opcode between the immediates and `t.map` (R57, R73). -/

/-- The opcodes 0x16 to 0xA2 are read by the table of fixed opcodes. -/
theorem decode_of_mid {w : Word} (ws : List Word) (hlo : 0x15 < (opOf w).toNat) (hhi : (opOf w).toNat < 0xA3) :
    decode (w :: ws) = accept (decodeFixed (opOf w) (fnOf w) w) 1 := by
  have hne : ∀ n : BitVec 8, n.toNat ≤ 0x15 ∨ 0xA3 ≤ n.toNat → (opOf w == n) = false := by
    intro n h
    refine beq_false_of_ne ?_
    rintro rfl
    omega
  have hclaimed : ¬0xF0 ≤ (opOf w).toNat := by omega
  simp only [decode, if_neg hclaimed, hne 2 (by decide), hne 3 (by decide), hne 4 (by decide), hne 0x15 (by decide),
    hne 0xA3 (by decide), hne 0xB0 (by decide), Bool.or_self, Bool.false_and, Bool.false_eq_true, if_false]

/-- A base-form instruction under one of these opcodes. -/
theorem encodesAs_packBase_mid (c : BaseF → Instr) {op : BitVec 8} {fn : BitVec 4} {f : BaseF} {good : Prop}
    (hw : encode (c f) = some [packBase op fn f]) (hd : ∀ w, decodeFixed op fn w = some (c (unpackBase w)))
    (hop : 0x15 < op.toNat ∧ op.toNat < 0xA3) (hgood : (c f).wf = true ↔ good) :
    EncodesAs (c f) (packBase op fn f) good := by
  refine encodesAs_of_decode hw (fun ws => ?_) hgood
  rw [decode_of_mid ws (by simpa using hop.1) (by simpa using hop.2), opOf_packBase, fnOf_packBase, hd,
    unpackBase_packBase]

/-- Under one of these opcodes, every FN that the table of fixed opcodes leaves out is ILLEGAL. -/
theorem fnIllegal_mid {op : BitVec 8} {n : Nat} (hop : 0x15 < op.toNat ∧ op.toNat < 0xA3)
    (hd : ∀ k, n ≤ k → k < 16 → ∀ w, decodeFixed op (BitVec.ofNat 4 k) w = none) : FnIllegal op n := by
  intro fn f ws hfn
  have hnone : decodeFixed op fn (packBase op fn f) = none := by
    simpa using hd fn.toNat hfn fn.isLt (packBase op fn f)
  rw [decode_of_mid ws (by simpa using hop.1) (by simpa using hop.2), opOf_packBase, fnOf_packBase, hnone]
  rfl

/-- The fields of an instruction whose TY is 0. -/
theorem baseOk_zeroTy_iff (ua ub uc : Bool) (mask : BitVec 24) (f : BaseF) :
    baseOk [0] ua ub uc mask f = true
      ↔ f.ty = 0 ∧ (ua = false → f.a = 0) ∧ (ub = false → f.b = 0) ∧ (uc = false → f.c = 0)
        ∧ f.mod &&& ~~~mask = 0 := by
  have hty : f.ty = 0 ↔ f.ty.toNat = 0 := BitVec.toNat_eq
  rw [baseOk_iff, List.mem_singleton, hty]

/-! Kernel instructions in stream text (R75). -/

/-- A fault of the class or privilege check comes before the operands. -/
theorem withOps_clsFault {s : State} {cl : Cls} {c : Cause} (ops : List (Want × BitVec 8)) (kinds : List Bool) (len : Nat)
    (k : Agent → List Val → Out) (hrun : s.canRun s.focus = true) (hcls : s.clsFault s.focus cl = some c) :
    withOps s cl ops kinds len k = .next (s.trap s.focus c kinds len) := by
  simp [withOps, hrun, hcls]

/-- In stream text a kernel instruction is the translation fault CLASS. -/
theorem coreOp_sfe {s : State} {p : Nat} (i : Instr) (k : Nat → List Val → Out) (hf : s.focus = .sfe p)
    (hrun : s.canRun (.sfe p) = true) :
    coreOp s i k = .next (s.trap (.sfe p) { code := cTRANSLATE, sub := 5 } (kindsOf i) (lenOf i)) := by
  rw [coreOp, withOps_clsFault (c := { code := cTRANSLATE, sub := 5 }) _ _ _ _ (hf ▸ hrun) (by rw [hf]; rfl), hf]

/-! Signals of the sequencer (R189). -/

/-- Every older access has performed when none is left. -/
theorem Core.quiet_iff (c : Core) : c.quiet = true ↔ c.acc = [] := List.isEmpty_iff

/-- A signal of the sequencer on flag word `n`: once every older access has performed, and while its turn of the clk has
not passed, the word becomes what `upd` makes of it and the instruction retires; until then it stands. -/
def State.signalFlag (s : State) (g n : Nat) (upd : BitVec 32 → BitVec 32) : State :=
  if (s.core g).acc = [] ∧ (s.core g).turnOpen n 0 = true then
    (s.modCore g (fun c => c.setFlagAt n 0 (upd (c.flag n)))).retire (.core g) 1 []
  else s

theorem State.signalFlag_performs {s : State} {g n : Nat} (upd : BitVec 32 → BitVec 32) (hacc : (s.core g).acc = [])
    (hturn : (s.core g).turnOpen n 0 = true) :
    s.signalFlag g n upd = (s.modCore g (fun c => c.setFlagAt n 0 (upd (c.flag n)))).retire (.core g) 1 [] :=
  if_pos ⟨hacc, hturn⟩

theorem State.signalFlag_stands {s : State} {g n : Nat} (upd : BitVec 32 → BitVec 32)
    (h : (s.core g).acc ≠ [] ∨ (s.core g).turnOpen n 0 = false) : s.signalFlag g n upd = s := by
  refine if_neg ?_
  rintro ⟨hacc, hturn⟩
  rcases h with h | h
  · exact h hacc
  · simp [hturn] at h

/-- The guard of the model's signals is that of `signalFlag`. -/
theorem State.next_signalFlag (s : State) (g n : Nat) (upd : BitVec 32 → BitVec 32) :
    (if !(s.core g).quiet || !(s.core g).turnOpen n 0 then .next s
      else .next ((s.modCore g (fun c => c.setFlagAt n 0 (upd (c.flag n)))).retire (.core g) 1 []) : Out)
      = .next (s.signalFlag g n upd) := by
  by_cases h : (s.core g).acc = [] ∧ (s.core g).turnOpen n 0 = true
  · obtain ⟨hacc, hturn⟩ := h
    rw [s.signalFlag_performs upd hacc hturn, if_neg (by simp [(Core.quiet_iff _).mpr hacc, hturn])]
  · have hguard : (!(s.core g).quiet || !(s.core g).turnOpen n 0) = true := by
      rw [← Core.quiet_iff] at h
      simpa [imp_iff_not_or] using h
    rw [if_pos hguard, State.signalFlag, if_neg h]

/-- `sem.sig` is carried out as `execSemSig` says. -/
theorem exec_semSig_eq (f : BaseF) (s : State) : exec (.semSig f) s = execSemSig f s := rfl

/-- `sem.sig.err` is carried out as `execSemSigErr` says. -/
theorem exec_semSigErr_eq (f : BaseF) (s : State) : exec (.semSigErr f) s = execSemSigErr f s := rfl

/-- R189: `sem.sig` of 2^24 or more is out of range; any other adds to COUNT. -/
theorem exec_semSig {s : State} {g : Nat} {f : BaseF} {v : Word} (h : MayActOn s g .kernel (.semSig f) [.scalar v]) :
    exec (.semSig f) s = if 2 ^ 24 ≤ v.toNat then .next (s.trap (.core g) { code := cOPERAND } [] 1)
      else .next (s.signalFlag g (flagOf f) (flagAdd · v.toNat)) := by
  rw [exec_semSig_eq, execSemSig, coreOp_ready _ h, ← State.next_signalFlag]
  rfl

/-- A count below 2^24 passes the check of `sem.sig`. -/
theorem exec_semSig_of_lt {s : State} {g : Nat} {f : BaseF} {v : Word}
    (h : MayActOn s g .kernel (.semSig f) [.scalar v]) (hlt : v.toNat < 2 ^ 24) :
    exec (.semSig f) s = .next (s.signalFlag g (flagOf f) (flagAdd · v.toNat)) := by
  rw [exec_semSig h, if_neg (Nat.not_le.mpr hlt)]

/-- R189: `sem.sig.err` takes a code from 1 to 63, and sets ERR. -/
theorem exec_semSigErr {s : State} {g : Nat} {f : BaseF} {v : Word}
    (h : MayActOn s g .kernel (.semSigErr f) [.scalar v]) :
    exec (.semSigErr f) s = if v.toNat < 1 || 63 < v.toNat then .next (s.trap (.core g) { code := cOPERAND } [] 1)
      else .next (s.signalFlag g (flagOf f) (flagSetErr · v.toNat)) := by
  rw [exec_semSigErr_eq, execSemSigErr, coreOp_ready _ h, ← State.next_signalFlag]
  rfl

/-- A code from 1 to 63 passes the check of `sem.sig.err`. -/
theorem exec_semSigErr_of_code {s : State} {g : Nat} {f : BaseF} {v : Word}
    (h : MayActOn s g .kernel (.semSigErr f) [.scalar v]) (hlo : 1 ≤ v.toNat) (hhi : v.toNat ≤ 63) :
    exec (.semSigErr f) s = .next (s.signalFlag g (flagOf f) (flagSetErr · v.toNat)) := by
  rw [exec_semSigErr h, if_neg (by simp; omega)]

/-! Clearing a flag word (R191). -/

/-- `sem.clr` is carried out as `execSemClr` says. -/
theorem exec_semClr_eq (f : BaseF) (s : State) : exec (.semClr f) s = execSemClr f s := rfl

/-- `sem.clr.all` is carried out as `execSemClrAll` says. -/
theorem exec_semClrAll_eq (f : BaseF) (s : State) : exec (.semClrAll f) s = execSemClrAll f s := rfl

/-- A clearing instruction acts in its turn of the clk, whether or not older accesses have performed. -/
theorem coreOp_inTurn {s : State} {g n : Nat} {i : Instr} {vs : List Val} (t : State) (k : Nat → List Val → Out)
    (h : MayActOn s g .kernel i vs)
    (hk : k g vs = if !(s.core g).turnOpen n 0 then .next s else .next t) :
    coreOp s i k = .next (if (s.core g).turnOpen n 0 then t else s) := by
  rw [coreOp_ready k h, hk]
  cases (s.core g).turnOpen n 0 <;> rfl

end Sys2Proof.Machine

section
open Sys2Proof Sys2Proof.Machine

/-- Settles O18: past the operand check each instruction is `signalFlag`, which performs or stands. -/
theorem semSig : Obligations.SemSig := by
  unfold Obligations.SemSig
  intro f
  refine ⟨?encSig, ?encErr, rfl, rfl, rfl, rfl, ?fn, fun s g v => ⟨fun h => ⟨?sigRange, ?sigStands, ?sigAdds⟩,
    fun h => ⟨?errRange, ?errStands, ?errSets⟩, fun p hf hrun => ⟨?sigStream, ?errStream⟩⟩⟩
  case encSig => exact encodesAs_packBase_mid .semSig rfl (fun _ => rfl) (by decide) (by simp [Instr.wf, baseOk_zeroTy_iff])
  case encErr =>
    exact encodesAs_packBase_mid .semSigErr rfl (fun _ => rfl) (by decide) (by simp [Instr.wf, baseOk_zeroTy_iff])
  case fn => exact fnIllegal_mid (by decide) fun k hlo hhi _ => by interval_cases k <;> rfl
  case sigRange =>
    intro hv
    rw [exec_semSig h, if_pos hv]
  case sigStands =>
    intro hv hwait
    exact (exec_semSig_of_lt h hv).trans (congrArg _ (State.signalFlag_stands _ hwait))
  case sigAdds =>
    intro hv hacc hturn
    exact (exec_semSig_of_lt h hv).trans (congrArg _ (State.signalFlag_performs _ hacc hturn))
  case errRange =>
    intro hv
    rw [exec_semSigErr h, if_pos (by simpa using hv)]
  case errStands =>
    intro hlo hhi hwait
    exact (exec_semSigErr_of_code h hlo hhi).trans (congrArg _ (State.signalFlag_stands _ hwait))
  case errSets =>
    intro hlo hhi hacc hturn
    exact (exec_semSigErr_of_code h hlo hhi).trans (congrArg _ (State.signalFlag_performs _ hacc hturn))
  case sigStream =>
    rw [exec_semSig_eq, execSemSig, coreOp_sfe _ _ hf hrun]
    rfl
  case errStream =>
    rw [exec_semSigErr_eq, execSemSigErr, coreOp_sfe _ _ hf hrun]
    rfl

/-- Settles O20: `coreOp_inTurn` at the two words that clearing can leave. -/
theorem semClr : Obligations.SemClr := by
  unfold Obligations.SemClr
  intro f
  refine ⟨?encClr, ?encAll, rfl, rfl, ?fn, fun s => ⟨?clr, ?all, fun p hf hrun => ⟨?clrStream, ?allStream⟩⟩⟩
  case encClr => exact encodesAs_packBase_mid .semClr rfl (fun _ => rfl) (by decide) (by simp [Instr.wf, baseOk_zeroTy_iff])
  case encAll =>
    exact encodesAs_packBase_mid .semClrAll rfl (fun _ => rfl) (by decide) (by simp [Instr.wf, baseOk_zeroTy_iff])
  case fn => exact fnIllegal_mid (by decide) fun k hlo hhi _ => by interval_cases k <;> rfl
  case clr =>
    intro g h
    rw [exec_semClr_eq, execSemClr]
    exact coreOp_inTurn _ _ h rfl
  case all =>
    intro g h
    rw [exec_semClrAll_eq, execSemClrAll]
    exact coreOp_inTurn _ _ h rfl
  case clrStream =>
    rw [exec_semClr_eq, execSemClr, coreOp_sfe _ _ hf hrun]
    rfl
  case allStream =>
    rw [exec_semClrAll_eq, execSemClrAll, coreOp_sfe _ _ hf hrun]
    rfl

end
end

section
/-! PROOFS. A field of a bit vector replaced (R3), a lane of a vector replaced (R211), and `vins` (R240). -/

namespace Sys2Proof.Machine

/-! What the bits and the fields are after a field is replaced. -/

/-- A bit of a field is a bit of the whole. -/
theorem testBit_bitsNat {n : Nat} (x : BitVec n) (lo w j : Nat) :
    (bitsNat x lo w).testBit j = (decide (j < w) && x.getLsbD (lo + j)) := by
  rw [bitsNat, Nat.testBit_mod_two_pow, Nat.testBit_shiftRight, BitVec.testBit_toNat]

/-- A number is made of the bits above a field, the field, and the bits below it. -/
theorem toNat_eq_bitsNat {n : Nat} (x : BitVec n) (lo w : Nat) :
    x.toNat = 2 ^ lo * (2 ^ w * (x.toNat / 2 ^ lo / 2 ^ w) + bitsNat x lo w) + x.toNat % 2 ^ lo := by
  rw [bitsNat, Nat.shiftRight_eq_div_pow, Nat.div_add_mod, Nat.div_add_mod]

/-- Replacing a field changes that summand of `toNat_eq_bitsNat` alone. -/
theorem setBits_eq_ofNat {n : Nat} (x : BitVec n) (lo w v : Nat) :
    setBits x lo w v
      = BitVec.ofNat n (2 ^ lo * (2 ^ w * (x.toNat / 2 ^ lo / 2 ^ w) + v % 2 ^ w) + x.toNat % 2 ^ lo) := by
  have hx := toNat_eq_bitsNat x lo w
  rw [setBits, Nat.shiftLeft_eq, Nat.shiftLeft_eq, Nat.mul_comm _ (2 ^ lo), Nat.mul_comm _ (2 ^ lo)]
  rw [Nat.mul_add] at hx ⊢
  congr 1
  omega

/-- The bits of the field are those of the new value, the others as they were. -/
theorem getLsbD_setBits {n lo w : Nat} (x : BitVec n) (v j : Nat) (h : lo + w ≤ n) :
    (setBits x lo w v).getLsbD j = if lo ≤ j ∧ j < lo + w then v.testBit (j - lo) else x.getLsbD j := by
  rw [setBits_eq_ofNat, BitVec.getLsbD_ofNat, Nat.testBit_two_pow_mul_add _ (Nat.mod_lt _ (Nat.two_pow_pos lo)),
    Nat.testBit_two_pow_mul_add _ (Nat.mod_lt _ (Nat.two_pow_pos w)), Nat.testBit_mod_two_pow, Nat.testBit_mod_two_pow,
    Nat.testBit_div_two_pow, Nat.testBit_div_two_pow, BitVec.testBit_toNat, BitVec.testBit_toNat]
  rcases lt_or_ge j lo with hlo | hlo
  · have hn : j < n := by omega
    simp [hlo, hn]
  rcases lt_or_ge j (lo + w) with hhi | hhi
  · have hn : j < n := by omega
    have hw : j - lo < w := by omega
    simp [hlo, hhi, hn, hw]
  · have hw : ¬ j - lo < w := by omega
    have hj : j - lo - w + w + lo = j := by omega
    simpa [hlo.not_gt, hhi.not_gt, hw, hj] using BitVec.lt_of_getLsbD

/-- The replaced field reads the low bits of the new value. -/
theorem bitsNat_setBits_same {n lo w : Nat} (x : BitVec n) (v : Nat) (h : lo + w ≤ n) :
    bitsNat (setBits x lo w v) lo w = v % 2 ^ w := by
  refine Nat.eq_of_testBit_eq fun j => ?_
  rw [testBit_bitsNat, getLsbD_setBits x v _ h, Nat.testBit_mod_two_pow]
  by_cases hj : j < w <;> simp [hj]

/-- A field that shares no bit with the replaced one reads as before. -/
theorem bitsNat_setBits_disjoint {n lo w lo' w' : Nat} (x : BitVec n) (v : Nat) (h : lo + w ≤ n)
    (hd : lo' + w' ≤ lo ∨ lo + w ≤ lo') : bitsNat (setBits x lo w v) lo' w' = bitsNat x lo' w' := by
  refine Nat.eq_of_testBit_eq fun j => ?_
  rw [testBit_bitsNat, testBit_bitsNat, getLsbD_setBits x v _ h]
  by_cases hj : j < w'
  · rw [if_neg (by omega)]
  · simp [hj]

/-! What the lanes are after a lane is replaced. -/

/-- The lanes of a type lie inside a vector. -/
theorem lane_fits {t k : Nat} (h : k < lanes t) : tyWidth t * k + tyWidth t ≤ 4096 :=
  calc tyWidth t * k + tyWidth t = tyWidth t * (k + 1) := rfl
    _ ≤ tyWidth t * (4096 / tyWidth t) := Nat.mul_le_mul_left _ h
    _ ≤ 4096 := Nat.mul_div_le ..

/-- Replacing lane `k` changes no other lane. -/
theorem lane_setBits {w k : Nat} (a : Vec) (v i : Nat) (h : w * k + w ≤ 4096) :
    lane w (setBits a (w * k) w v) i = if i = k then v % 2 ^ w else lane w a i := by
  rcases lt_trichotomy i k with hik | rfl | hki
  · rw [if_neg hik.ne]
    exact bitsNat_setBits_disjoint a v h (.inl (Nat.mul_le_mul_left w hik))
  · rw [if_pos rfl]
    exact bitsNat_setBits_same a v h
  · rw [if_neg hki.ne']
    exact bitsNat_setBits_disjoint a v h (.inr (Nat.mul_le_mul_left w hki))

/-- `vins` replaces lane (C mod L), and draws nothing. -/
theorem vecEval_vins (f : BaseF) (v : Vec) (x n : Word) (sr : BitVec 32) :
    vecEval (.vins f) [.vector v, .scalar x, .scalar n] sr
      = ([.vector (setBits v (tyWidth f.ty.toNat * (n.toNat % lanes f.ty.toNat)) (tyWidth f.ty.toNat) x.toNat)], sr) :=
  rfl

end Sys2Proof.Machine
end

section
open Sys2Proof Sys2Proof.Machine

/-- Settles O35: `vins` replaces the bits of one lane, and the lanes of a type share no bit. -/
theorem vectorInsert : Obligations.VectorInsert := by
  unfold Obligations.VectorInsert
  intro f
  refine ⟨rfl, rfl, rfl, rfl, rfl, fun _ v x n sr => ⟨_, vecEval_vins f v x n sr, fun i hi => ?_⟩⟩
  have hk : n.toNat % lanes f.ty.toNat < lanes f.ty.toNat := Nat.mod_lt _ (Nat.zero_lt_of_lt hi)
  exact lane_setBits v x.toNat i (lane_fits hk)

end

section
/-! PROOFS. The decoder reads what the encoder writes, and accepts nothing else (R57 to R62, R71 to R73). -/

namespace Sys2Proof.Machine

/-! Spec-list words (R62). -/

@[simp] theorem natToBytes_length (n v : Nat) : (natToBytes n v).length = n := by
  induction n generalizing v with
  | zero => rfl
  | succ n ih => simp [natToBytes, ih]

theorem bytesToNat_lt (bs : List Byte) : bytesToNat bs < 256 ^ bs.length := by
  induction bs with
  | nil => simp [bytesToNat]
  | cons b bs ih =>
    have hb := b.isLt
    simp only [bytesToNat, List.length_cons, pow_succ]
    omega

/-- The bytes of the number of a list of bytes, with zeros behind them. -/
theorem natToBytes_bytesToNat (bs : List Byte) (n : Nat) (h : bs.length ≤ n) :
    natToBytes n (bytesToNat bs) = bs ++ List.replicate (n - bs.length) 0 := by
  induction bs generalizing n with
  | nil =>
    clear h
    induction n with
    | zero => rfl
    | succ n ih => simpa [natToBytes, bytesToNat, List.replicate_succ] using ih
  | cons b bs ih =>
    obtain ⟨n, rfl⟩ : ∃ m, n = m + 1 := ⟨n - 1, by simp at h; omega⟩
    have hb := b.isLt
    have hmod : bytesToNat (b :: bs) % 256 = b.toNat := by simp only [bytesToNat]; omega
    have hdiv : bytesToNat (b :: bs) / 256 = bytesToNat bs := by simp only [bytesToNat]; omega
    simp [natToBytes, hmod, hdiv, ih n (by simpa using h)]

/-- The number of the bytes of a number is what they hold of it. -/
theorem bytesToNat_natToBytes (n v : Nat) : bytesToNat (natToBytes n v) = v % 256 ^ n := by
  induction n generalizing v with
  | zero => simp [natToBytes, bytesToNat, Nat.mod_one]
  | succ n ih =>
    rw [natToBytes, bytesToNat, ih, BitVec.toNat_ofNat, Nat.mod_eq_of_lt (Nat.mod_lt v (by decide)), pow_succ', Nat.mod_mul]

/-- Zeros at the end add nothing to the number of a list of bytes. -/
theorem bytesToNat_append_replicate_zero (bs : List Byte) (n : Nat) :
    bytesToNat (bs ++ List.replicate n 0#8) = bytesToNat bs := by
  induction bs with
  | nil =>
    induction n with
    | zero => rfl
    | succ n ih => simpa [bytesToNat, List.replicate_succ] using ih
  | cons b bs ih => simp [bytesToNat, ih]

theorem bytesToNat_take_lt (l : List Byte) : bytesToNat (l.take 7) < 2 ^ 56 :=
  calc bytesToNat (l.take 7) < 256 ^ (l.take 7).length := bytesToNat_lt _
    _ ≤ 256 ^ 7 := Nat.pow_le_pow_right (by decide) (by simp)
    _ = 2 ^ 56 := by norm_num

/-- A spec-list word of up to seven specifiers. -/
def specWord (l : List (BitVec 8)) : Word := BitVec.ofNat 64 (0x0F * 2 ^ 56 + bytesToNat l)

theorem specWord_toNat {l : List (BitVec 8)} (h : bytesToNat l < 2 ^ 56) :
    (specWord l).toNat = 0x0F * 2 ^ 56 + bytesToNat l := by
  rw [specWord, BitVec.toNat_ofNat, Nat.mod_eq_of_lt (by omega)]

theorem opOf_toNat (w : Word) : (opOf w).toNat = w.toNat / 2 ^ 56 := by
  have := w.isLt
  simp only [opOf, BitVec.extractLsb'_toNat, Nat.shiftRight_eq_div_pow]
  omega

theorem opOf_specWord {l : List (BitVec 8)} (h : bytesToNat l < 2 ^ 56) : opOf (specWord l) = 0x0F := by
  apply BitVec.eq_of_toNat_eq
  rw [opOf_toNat, specWord_toNat h, show (0x0F : BitVec 8).toNat = 0x0F from rfl]
  omega

theorem specWordCount_succ (n : Nat) : specWordCount (n + 1) = specWordCount (n + 1 - 7) + 1 := by
  simp only [specWordCount, ceilDiv]
  omega

theorem specWords_of_pos {l : List (BitVec 8)} (h : l ≠ []) :
    specWords l = specWord (l.take 7) :: specWords (l.drop 7) := by
  obtain ⟨n, hn⟩ : ∃ n, l.length = n + 1 := ⟨l.length - 1, by have := List.length_pos_iff.mpr h; omega⟩
  simp only [specWords, hn, specWordCount_succ, specWordsN, List.length_drop]
  rfl

/-- R62: the specifiers of a spec list are read back, whatever words follow. -/
theorem readSpecs_specWords (l : List (BitVec 8)) (rest : List Word) :
    readSpecs (specWords l ++ rest) l.length = .ok l := by
  induction hn : l.length using Nat.strong_induction_on generalizing l with
  | _ n ih =>
    subst hn
    cases hl : l with
    | nil => simp [readSpecs]
    | cons b bs =>
      have hlt := bytesToNat_take_lt l
      have hlen : (l.take 7).length ≤ 7 := by simp
      have hbytes : natToBytes 7 ((specWord (l.take 7)).toNat % 2 ^ 56)
          = l.take 7 ++ List.replicate (7 - (l.take 7).length) 0 := by
        rw [specWord_toNat hlt, Nat.mul_add_mod_self_right, Nat.mod_eq_of_lt hlt, natToBytes_bytesToNat _ _ hlen]
      have hrest := ih (l.drop 7).length (by simp [hl]) (l.drop 7) rfl
      rw [← hl, specWords_of_pos (by simp [hl])]
      have hlen' : l.length = bs.length + 1 := by simp [hl]
      rw [List.cons_append, hlen', readSpecs, hbytes, opOf_specWord hlt, ← hlen']
      rw [List.length_drop] at hrest
      rw [hrest]
      have hzero : (List.drop l.length (l.take 7 ++ List.replicate (7 - (l.take 7).length) (0 : BitVec 8))).any (· != 0)
          = false := by
        rw [List.drop_append, List.drop_eq_nil_of_le (by simp)]
        simp
      have htake : List.take l.length (l.take 7 ++ List.replicate (7 - (l.take 7).length) (0 : BitVec 8)) = l.take 7 := by
        rcases Nat.le_total l.length 7 with h | h
        · rw [List.take_of_length_le h, List.take_left]
        · have : (l.take 7).length = 7 := by simp [h]
          simp [h]
      simp only [hzero, htake]
      simp

theorem natToBytes_take_add_drop {n k : Nat} (v : Nat) (h : ((natToBytes n v).drop k).any (· != 0) = false) :
    natToBytes n v = (natToBytes n v).take k ++ List.replicate (n - k) 0#8 := by
  have hz : (natToBytes n v).drop k = List.replicate (n - k) 0#8 := by
    rw [List.eq_replicate_iff]
    refine ⟨by simp, fun b hb => ?_⟩
    simpa using (List.any_eq_false.mp h) b hb
  rw [← hz, List.take_append_drop]

/-- R62: the words that a spec list was read from are those it is encoded as. -/
theorem readSpecs_ok {ws : List Word} {n : Nat} {l : List (BitVec 8)} (h : readSpecs ws n = .ok l) :
    l.length = n ∧ specWords l = ws.take (specWordCount n) ∧ specWordCount n ≤ ws.length := by
  induction n using Nat.strong_induction_on generalizing ws l with
  | _ n ih =>
    match n, ws with
    | 0, ws =>
      simp only [readSpecs, Except.ok.injEq] at h
      subst h
      exact ⟨rfl, rfl, Nat.zero_le _⟩
    | n + 1, [] => simp [readSpecs] at h
    | n + 1, w :: ws =>
      simp only [readSpecs] at h
      split at h
      · cases h
      rename_i hok
      simp only [Bool.or_eq_true, bne_iff_ne, not_or, Decidable.not_not, Bool.not_eq_true] at hok
      obtain ⟨hop, hzero⟩ := hok
      split at h
      case h_2 => cases h
      rename_i rest hrest
      cases h
      obtain ⟨hlen, hwords, hcount⟩ := ih (n + 1 - 7) (by omega) hrest
      set bs := natToBytes 7 (w.toNat % 2 ^ 56) with hbs
      have hbl : bs.length = 7 := by simp [hbs]
      have hw : specWord (bs.take (n + 1)) = w := by
        have hnat : bytesToNat (bs.take (n + 1)) = w.toNat % 2 ^ 56 := by
          have := bytesToNat_append_replicate_zero (bs.take (n + 1)) (7 - (n + 1))
          rw [← natToBytes_take_add_drop _ hzero, ← hbs] at this
          rw [← this, bytesToNat_natToBytes]
          norm_num
        have hw56 : w.toNat / 2 ^ 56 = 0x0F := by rw [← opOf_toNat, hop]; rfl
        apply BitVec.eq_of_toNat_eq
        rw [specWord_toNat (by rw [hnat]; exact Nat.mod_lt _ (by decide)), hnat]
        omega
      have htake : (bs.take (n + 1) ++ rest).take 7 = bs.take (n + 1) ∧ (bs.take (n + 1) ++ rest).drop 7 = rest := by
        rcases Nat.lt_or_ge n 7 with hn | hn
        · have : rest = [] := List.eq_nil_of_length_eq_zero (by omega)
          subst this
          rw [List.append_nil, List.take_of_length_le (by simp; omega), List.drop_eq_nil_of_le (by simp; omega)]
          exact ⟨rfl, rfl⟩
        · rw [List.take_of_length_le (l := bs) (by omega), List.take_left' hbl, List.drop_left' hbl]
          exact ⟨rfl, rfl⟩
      refine ⟨by simp [hlen, hbl]; omega, ?_, by rw [specWordCount_succ]; simpa using hcount⟩
      rw [specWords_of_pos (List.ne_nil_of_length_pos (by simp [hbl])), htake.1, htake.2, hw, hwords, specWordCount_succ,
        List.take_succ_cons]


/-! One-word instructions. -/

/-- The opcodes and functions that the table of fixed opcodes reads. -/
def plainOp (op : BitVec 8) (fn : BitVec 4) : Bool :=
  op.toNat < 0xF0 && op != 0x02 && op != 0x03 && op != 0x04 && op != 0xA3 && (op != 0x15 || fn != 2)
    && (op != 0xB0 || fn != 0)

theorem decode_plain {w : Word} (ws : List Word) (h : plainOp (opOf w) (fnOf w) = true) :
    decode (w :: ws) = accept (decodeFixed (opOf w) (fnOf w) w) 1 := by
  simp only [plainOp, Bool.and_eq_true, decide_eq_true_eq, bne_iff_ne, Bool.or_eq_true] at h
  obtain ⟨⟨⟨⟨⟨⟨h0, h2⟩, h3⟩, h4⟩, hA3⟩, h15⟩, hB0⟩ := h
  have h15' : (opOf w == 0x15 && fnOf w == 2) = false := by simpa [imp_iff_not_or] using h15
  have hB0' : (opOf w == 0xB0 && fnOf w == 0) = false := by simpa [imp_iff_not_or] using hB0
  simp only [decode, if_neg (Nat.not_le.mpr h0), beq_false_of_ne h2, beq_false_of_ne h3, beq_false_of_ne h4,
    beq_false_of_ne hA3, h15', hB0', Bool.or_self, Bool.false_eq_true, if_false]


/-- What is accepted was found, and its fields are legal. -/
theorem accept_ok_iff {o : Option Instr} {i : Instr} {n m : Nat} :
    accept o n = .ok (i, m) ↔ o = some i ∧ i.wf = true ∧ n = m := by
  cases o with
  | none => simp [accept]
  | some j =>
    by_cases hj : j.wf = true
    · simp only [accept, if_pos hj, Except.ok.injEq, Prod.mk.injEq, Option.some.injEq]
      constructor
      · rintro ⟨rfl, rfl⟩
        exact ⟨rfl, hj, rfl⟩
      · rintro ⟨rfl, -, rfl⟩
        exact ⟨rfl, rfl⟩
    · simp only [accept, if_neg hj, reduceCtorEq, Option.some.injEq, false_iff]
      rintro ⟨rfl, h, -⟩
      exact hj h

/-! Words of the three forms of one word are read back (R57, R58). -/

theorem decode_packBase {c : BaseF → Instr} {op : BitVec 8} {fn : BitVec 4} {f : BaseF} {rest : List Word}
    (hd : ∀ w, decodeFixed op fn w = some (c (unpackBase w))) (hp : plainOp op fn = true) (hwf : (c f).wf = true) :
    decode (packBase op fn f :: rest) = .ok (c f, 1) := by
  rw [decode_plain rest (by simpa using hp), opOf_packBase, fnOf_packBase, hd, unpackBase_packBase, accept_wf 1 hwf]

theorem decode_packImm {c : ImmF → Instr} {op : BitVec 8} {f : ImmF} {rest : List Word} {fn : BitVec 4} (hf : f.fn = fn)
    (hd : ∀ w, decodeFixed op fn w = some (c (unpackImm w))) (hp : plainOp op fn = true) (hwf : (c f).wf = true) :
    decode (packImm op f :: rest) = .ok (c f, 1) := by
  subst hf
  rw [decode_plain rest (by simpa using hp), opOf_packImm, fnOf_packImm, hd, unpackImm_packImm, accept_wf 1 hwf]

theorem decode_packEng {c : EngF → Instr} {op : BitVec 8} {f : EngF} {rest : List Word} {fn : BitVec 4} (hf : f.fn = fn)
    (hd : decodeFixed op fn (packEng op f) = some (c (unpackEng (packEng op f)))) (hp : plainOp op fn = true)
    (hwf : (c f).wf = true) :
    decode (packEng op f :: rest) = .ok (c f, 1) := by
  subst hf
  rw [decode_plain rest (by simpa using hp), opOf_packEng, fnOf_packEng, hd, unpackEng_packEng, accept_wf 1 hwf]

/-! Form B with its CARRY words (R58, R62). -/

theorem packBr_nc (op : BitVec 8) (fn : BitVec 4) (f : BrF) :
    (packBr op fn f).extractLsb' 32 8 = BitVec.ofNat 8 f.carry.length := by
  apply BitVec.eq_of_getLsbD_eq
  intro i hi
  simp only [packBr, BitVec.getLsbD_extractLsb', BitVec.getLsbD_append, hi, decide_true, Bool.true_and]
  repeat' split
  all_goals first | omega | (congr 1; omega)

theorem packBr_ty (op : BitVec 8) (fn : BitVec 4) (f : BrF) : (unpackBase (packBr op fn f)).ty = 0 := by
  apply BitVec.eq_of_getLsbD_eq
  intro i hi
  simp only [unpackBase, packBr, BitVec.getLsbD_extractLsb', BitVec.getLsbD_append, hi, decide_true, Bool.true_and]
  repeat' split
  all_goals first | omega | (congr 1; omega)

/-- The words of a spec list are as many as its specifiers need. -/
theorem length_specWords (l : List (BitVec 8)) : (specWords l).length = specWordCount l.length := by
  have h : ∀ (k : Nat) (l : List (BitVec 8)), (specWordsN k l).length = k := by
    intro k
    induction k with
    | zero => exact fun _ => rfl
    | succ k ih => exact fun l => congrArg (· + 1) (ih _)
  exact h _ _

theorem decode_packBr {op : BitVec 8} {fn : BitVec 4} {f : BrF} {i : Instr} (rest : List Word)
    (hop : (op == 0x02 || op == 0x03 || op == 0x04) = true) (hc : f.carry.length ≤ 16)
    (hd : decodeBranch op fn f = some i) (hwf : i.wf = true) :
    decode (packBr op fn f :: specWords f.carry ++ rest) = .ok (i, (packBr op fn f :: specWords f.carry).length) := by
  have hlow : ¬ 0xF0 ≤ op.toNat := by
    simp only [Bool.or_eq_true, beq_iff_eq] at hop
    rcases hop with (rfl | rfl) | rfl <;> decide
  have hnc : ((packBr op fn f).extractLsb' 32 8).toNat = f.carry.length := by
    rw [packBr_nc, BitVec.toNat_ofNat, Nat.mod_eq_of_lt (by omega)]
  have hlen : ¬ (specWords f.carry ++ rest).length < specWordCount f.carry.length := by
    rw [List.length_append, length_specWords]
    omega
  simp only [decode, List.cons_append, opOf_packBr, fnOf_packBr, if_neg hlow, if_pos hop, hnc, if_neg (Nat.not_lt.mpr hc),
    if_neg hlen, packBr_ty, bne_self_eq_false, Bool.false_eq_true, if_false, readSpecs_specWords, packBr_cond, packBr_off, hd,
    accept_wf _ hwf, List.length_cons, length_specWords, Nat.add_comm 1]

/-! The base-form instructions with spec lists: `t.map` and `eret` (R62). -/

theorem decode_tMap {n : BitVec 4} {f : BaseF} {tl args : List (BitVec 8)} (rest : List Word)
    (hwf : (Instr.tMap n f tl args).wf = true) :
    decode (packBase 0xA3 n f :: (specWords tl ++ specWords args) ++ rest)
      = .ok (.tMap n f tl args, (packBase 0xA3 n f :: (specWords tl ++ specWords args)).length) := by
  have hok := hwf
  simp only [Instr.wf, tMapOk, Bool.and_eq_true, decide_eq_true_eq, beq_iff_eq] at hok
  obtain ⟨⟨⟨⟨⟨⟨⟨hn, hty⟩, htl⟩, hargs⟩, -⟩, -⟩, -⟩, -⟩ := hok
  have hshape : (decide (8 < args.length) || decide (7 < tl.length)) = false := by simp; omega
  have hlen : ¬ (specWords tl ++ (specWords args ++ rest)).length < specWordCount tl.length + specWordCount args.length := by
    simp only [List.length_append, length_specWords]
    omega
  have hdrop : (specWords tl ++ (specWords args ++ rest)).drop (specWordCount tl.length) = specWords args ++ rest :=
    List.drop_left' (length_specWords tl)
  simp only [decode, List.cons_append, List.append_assoc, opOf_packBase, fnOf_packBase, unpackBase_packBase, hshape, ← htl,
    ← hargs, if_neg hlen, readSpecs_specWords, hdrop, accept_wf _ hwf]
  simp [length_specWords, Nat.add_assoc, Nat.add_comm]

theorem decode_eret {f : BaseF} {carry : List (BitVec 8)} (rest : List Word) (hwf : (Instr.eret f carry).wf = true) :
    decode (packBase 0xB0 0 f :: specWords carry ++ rest)
      = .ok (.eret f carry, (packBase 0xB0 0 f :: specWords carry).length) := by
  have hok := hwf
  simp only [Instr.wf, Bool.and_eq_true, decide_eq_true_eq, beq_iff_eq] at hok
  obtain ⟨⟨-, hnc⟩, hc⟩ := hok
  have hlen : ¬ (specWords carry ++ rest).length < specWordCount carry.length := by
    rw [List.length_append, length_specWords]
    omega
  simp only [decode, List.cons_append, opOf_packBase, fnOf_packBase, unpackBase_packBase, ← hnc, if_neg (Nat.not_lt.mpr hc),
    if_neg hlen, readSpecs_specWords, accept_wf _ hwf]
  simp [length_specWords]
  omega

theorem decode_claimed {w : Word} (rest : List Word) (hwf : (Instr.claimedInstruction w).wf = true) :
    decode (w :: rest) = .ok (.claimedInstruction w, 1) := by
  have hop : 0xF0 ≤ (opOf w).toNat := by
    have hlt := w.isLt
    rw [opOf_toNat]
    simp only [Instr.wf, bitsNat, decide_eq_true_eq, Nat.shiftRight_eq_div_pow] at hwf
    omega
  simp only [decode, if_pos hop, accept_wf 1 hwf]

/-- R201: bit 1 of FN tells the two forms of `mm.drain` apart. -/
theorem decodeFixed_drain (fn : BitVec 4) (w : Word) :
    decodeFixed 0x91 fn w
      = some (if (unpackEng w).fn.getLsbD 1 then .mmDrainQ0 (unpackEng w) else .mmDrain (unpackEng w)) := rfl

theorem decodeFixed_mmDrain {f : EngF} (h : f.fn.getLsbD 1 = false) :
    decodeFixed 0x91 f.fn (packEng 0x91 f) = some (.mmDrain (unpackEng (packEng 0x91 f))) := by
  rw [decodeFixed_drain, unpackEng_packEng, h]
  rfl

theorem decodeFixed_mmDrainQ0 {f : EngF} (h : f.fn.getLsbD 1 = true) :
    decodeFixed 0x91 f.fn (packEng 0x91 f) = some (.mmDrainQ0 (unpackEng (packEng 0x91 f))) := by
  rw [decodeFixed_drain, unpackEng_packEng, h]
  rfl

/-! A word is what its fields pack to (R57, R58). -/

theorem packBase_unpackBase (w : Word) : packBase (opOf w) (fnOf w) (unpackBase w) = w := by
  apply BitVec.eq_of_getLsbD_eq
  intro i hi
  simp only [packBase, opOf, fnOf, unpackBase, BitVec.getLsbD_extractLsb', BitVec.getLsbD_append]
  repeat' split
  all_goals rw [decide_eq_true (by omega), Bool.true_and]; congr 1; omega

theorem packImm_unpackImm (w : Word) : packImm (opOf w) (unpackImm w) = w := by
  apply BitVec.eq_of_getLsbD_eq
  intro i hi
  simp only [packImm, opOf, unpackImm, BitVec.getLsbD_extractLsb', BitVec.getLsbD_append]
  repeat' split
  all_goals rw [decide_eq_true (by omega), Bool.true_and]; congr 1; omega

theorem packEng_unpackEng (w : Word) : packEng (opOf w) (unpackEng w) = w := by
  apply BitVec.eq_of_getLsbD_eq
  intro i hi
  simp only [packEng, opOf, unpackEng, BitVec.getLsbD_extractLsb', BitVec.getLsbD_append]
  repeat' split
  all_goals rw [decide_eq_true (by omega), Bool.true_and]; congr 1; omega

/-- A word whose TY is zero packs again as form B (R58). -/
theorem packBr_of_word {w : Word} {carry : List (BitVec 8)} (hty : (unpackBase w).ty = 0)
    (hnc : carry.length = (w.extractLsb' 32 8).toNat) :
    packBr (opOf w) (fnOf w) { cond := w.extractLsb' 40 8, off := w.extractLsb' 0 32, carry := carry } = w := by
  have hnc' : BitVec.ofNat 8 carry.length = w.extractLsb' 32 8 := by rw [hnc, BitVec.ofNat_toNat, BitVec.setWidth_eq]
  rw [packBr, hnc', ← hty]
  apply BitVec.eq_of_getLsbD_eq
  intro i hi
  simp only [opOf, fnOf, unpackBase, BitVec.getLsbD_extractLsb', BitVec.getLsbD_append]
  repeat' split
  all_goals rw [decide_eq_true (by omega), Bool.true_and]; congr 1; omega

/-- A LIT64 word is its opcode and its literal (R61). -/
theorem append_literal {w : Word} (h : opOf w = 0x0E) : (0x0E : BitVec 8) ++ w.extractLsb' 0 56 = w := by
  rw [← h, opOf, BitVec.extractLsb'_append_extractLsb'_eq_extractLsb' (by rfl)]
  exact BitVec.extractLsb'_eq_self

/-! The form that each opcode of the table of fixed opcodes fixes (R57, R58, R72). -/

/-- The form E opcodes. -/
def engOp (n : Nat) : Bool := 0x90 ≤ n && n ≤ 0x96

/-- The form I opcodes. -/
def immOp (n : Nat) : Bool := n == 0x09 || n == 0x0A || n == 0x15 || n == 0x30 || n == 0x31

/-- A function code is one of sixteen. -/
theorem exists_fn (fn : BitVec 4) : ∃ k < 16, fn = BitVec.ofNat 4 k := ⟨fn.toNat, fn.isLt, by simp⟩

/-- An opcode is one of 256. -/
theorem exists_op (op : BitVec 8) : ∃ n < 256, op = BitVec.ofNat 8 n := ⟨op.toNat, op.isLt, by simp⟩

/-- R73: the table reads no word of a reserved opcode. -/
theorem decodeFixed_reserved {op : BitVec 8} (h : reservedOp op.toNat = true) (fn : BitVec 4) (w : Word) :
    decodeFixed op fn w = none := by
  obtain ⟨n, hn, rfl⟩ := exists_op op
  interval_cases n
  all_goals first | rfl | cases h

theorem encode_of_decodeFixed_eng {op : BitVec 8} {fn : BitVec 4} {w : Word} {i : Instr} (h : engOp op.toNat = true)
    (hi : decodeFixed op fn w = some i) : encode i = some [packEng op (unpackEng w)] := by
  obtain ⟨n, hn, rfl⟩ := exists_op op
  obtain ⟨k, hk, rfl⟩ := exists_fn fn
  obtain ⟨hlo, hhi⟩ : 0x90 ≤ n ∧ n ≤ 0x96 := by simpa [engOp, Nat.mod_eq_of_lt hn] using h
  clear h hn
  have hop : n = 0x91 ∨ ((((n = 0x90 ∨ n = 0x92) ∨ n = 0x93) ∨ n = 0x94) ∨ n = 0x95) ∨ n = 0x96 := by omega
  obtain rfl | ((((rfl | rfl) | rfl) | rfl) | rfl) | rfl := hop
  · cases (decodeFixed_drain _ w).symm.trans hi
    split <;> rfl
  all_goals interval_cases k
  all_goals cases hi
  all_goals rfl

theorem encode_of_decodeFixed_imm {op : BitVec 8} {fn : BitVec 4} {w : Word} {i : Instr} (h : immOp op.toNat = true)
    (hi : decodeFixed op fn w = some i) : encode i = some [packImm op (unpackImm w)] := by
  obtain ⟨n, hn, rfl⟩ := exists_op op
  obtain ⟨k, hk, rfl⟩ := exists_fn fn
  have hop : (((n = 0x09 ∨ n = 0x0A) ∨ n = 0x15) ∨ n = 0x30) ∨ n = 0x31 := by
    simpa [immOp, Nat.mod_eq_of_lt hn] using h
  clear h hn
  rcases hop with (((rfl | rfl) | rfl) | rfl) | rfl
  all_goals interval_cases k
  all_goals cases hi
  all_goals rfl


/-- The opcodes that are not reserved, claimed, form E or form I. -/
theorem baseOp_ranges {n : Nat} (hop : n < 0xF0) (hres : reservedOp n = false) (heng : engOp n = false)
    (himm : immOp n = false) :
    (1 ≤ n ∧ n ≤ 4 ∨ 6 ≤ n ∧ n ≤ 8 ∨ 0x10 ≤ n ∧ n ≤ 0x14 ∨ 0x32 ≤ n ∧ n ≤ 0x39 ∨ 0x40 ≤ n ∧ n ≤ 0x4B)
      ∨ (0x50 ≤ n ∧ n ≤ 0x55 ∨ 0x60 ≤ n ∧ n ≤ 0x66 ∨ 0x70 ≤ n ∧ n ≤ 0x78 ∨ 0x80 ≤ n ∧ n ≤ 0x83)
      ∨ 0xA0 ≤ n ∧ n ≤ 0xB9 := by
  simp only [reservedOp, engOp, immOp, Bool.or_eq_false_iff, Bool.and_eq_false_imp, decide_eq_true_eq, decide_eq_false_iff_not,
    beq_eq_false_iff_ne] at hres heng himm
  omega

/-- What the table reads under opcode `n` encodes as a word of the base form: for every function code at once, so that one
evaluation of the opcode's row proves it. -/
def BaseRow (n : Nat) : Prop :=
  ∀ w : Word, (List.range 16).map (fun k => (decodeFixed (BitVec.ofNat 8 n) (BitVec.ofNat 4 k) w).bind encode)
    = (List.range 16).map (fun k => (decodeFixed (BitVec.ofNat 8 n) (BitVec.ofNat 4 k) w).map (fun _ =>
        [packBase (BitVec.ofNat 8 n) (BitVec.ofNat 4 k) (unpackBase w)]))

theorem baseRow_scalar {n : Nat} (h : 1 ≤ n ∧ n ≤ 4 ∨ 6 ≤ n ∧ n ≤ 8 ∨ 0x10 ≤ n ∧ n ≤ 0x14 ∨ 0x32 ≤ n ∧ n ≤ 0x39
      ∨ 0x40 ≤ n ∧ n ≤ 0x4B) : BaseRow n := by
  rcases h with h | h | h | h | h
  all_goals
    obtain ⟨hlo, hhi⟩ := h
    interval_cases n
  all_goals exact fun _ => rfl

theorem baseRow_vector {n : Nat} (h : 0x50 ≤ n ∧ n ≤ 0x55 ∨ 0x60 ≤ n ∧ n ≤ 0x66 ∨ 0x70 ≤ n ∧ n ≤ 0x78
      ∨ 0x80 ≤ n ∧ n ≤ 0x83) : BaseRow n := by
  rcases h with h | h | h | h
  all_goals
    obtain ⟨hlo, hhi⟩ := h
    interval_cases n
  all_goals exact fun _ => rfl

theorem baseRow_system {n : Nat} (h : 0xA0 ≤ n ∧ n ≤ 0xB9) : BaseRow n := by
  obtain ⟨hlo, hhi⟩ := h
  interval_cases n
  all_goals exact fun _ => rfl

theorem encode_of_decodeFixed_base {op : BitVec 8} {fn : BitVec 4} {w : Word} {i : Instr} (hop : op.toNat < 0xF0)
    (heng : engOp op.toNat = false) (himm : immOp op.toNat = false) (hi : decodeFixed op fn w = some i) :
    encode i = some [packBase op fn (unpackBase w)] := by
  have hres : reservedOp op.toNat = false := by
    rw [← Bool.not_eq_true]
    intro h
    rw [decodeFixed_reserved h] at hi
    cases hi
  have hrow := (baseOp_ranges hop hres heng himm).elim baseRow_scalar (Or.elim · baseRow_vector baseRow_system)
  have h := List.map_inj_left.mp (hrow w) fn.toNat (List.mem_range.mpr fn.isLt)
  simpa [hi] using h

/-- R57, R58: what the table of fixed opcodes reads encodes to the word it was read from. -/
theorem encode_of_decodeFixed {w : Word} {i : Instr} (hop : (opOf w).toNat < 0xF0)
    (hi : decodeFixed (opOf w) (fnOf w) w = some i) : encode i = some [w] := by
  by_cases heng : engOp (opOf w).toNat = true
  · rw [encode_of_decodeFixed_eng heng hi, packEng_unpackEng]
  by_cases himm : immOp (opOf w).toNat = true
  · rw [encode_of_decodeFixed_imm himm hi, packImm_unpackImm]
  · rw [encode_of_decodeFixed_base hop (by simpa using heng) (by simpa using himm) hi, packBase_unpackBase]

/-! What a word that is accepted says of the instruction, by the branches of the decoder. -/

/-- A word with the opcode of a branch has one of the four encodings of form B. -/
theorem encode_of_decodeBranch {op : BitVec 8} {fn : BitVec 4} {f : BrF} {i : Instr} (h : decodeBranch op fn f = some i) :
    encode i = some (packBr op fn f :: specWords f.carry) := by
  unfold decodeBranch at h
  have hop : ∀ n, op.toNat = n → op = BitVec.ofNat 8 n := fun n h => by simp [← h]
  have hfn : ∀ n, fn.toNat = n → fn = BitVec.ofNat 4 n := fun n h => by simp [← h]
  split at h
  case h_5 => cases h
  all_goals
    rename_i ho hf
    cases h
    rw [hop _ ho, hfn _ hf]
    rfl

/-- R73: a word with a reserved opcode is ILLEGAL. -/
theorem decode_reserved {w : Word} (ws : List Word) (h : reservedOp (opOf w).toNat = true) :
    decode (w :: ws) = .error .illegal := by
  have hne : ∀ m : BitVec 8, reservedOp m.toNat = false → opOf w ≠ m := by
    rintro m hm rfl
    rw [h] at hm
    cases hm
  have hlow : (opOf w).toNat < 0xF0 := by
    simp only [reservedOp, Bool.or_eq_true, Bool.and_eq_true, decide_eq_true_eq] at h
    omega
  have hp : plainOp (opOf w) (fnOf w) = true := by
    simp only [plainOp, decide_eq_true hlow, bne_iff_ne.mpr (hne 0x02 rfl), bne_iff_ne.mpr (hne 0x03 rfl),
      bne_iff_ne.mpr (hne 0x04 rfl), bne_iff_ne.mpr (hne 0xA3 rfl), bne_iff_ne.mpr (hne 0x15 rfl),
      bne_iff_ne.mpr (hne 0xB0 rfl), Bool.true_or, Bool.and_true]
  rw [decode_plain ws hp, decodeFixed_reserved h]
  rfl

/-- R60, R71: what the decoder accepts is legal and encodes to the words it was read from, in each branch of the decoder. -/
theorem encode_of_decode {ws : List Word} {i : Instr} {n : Nat} (h : decode ws = .ok (i, n)) :
    i.wf = true ∧ encode i = some (ws.take n) ∧ n ≤ ws.length := by
  cases ws with
  | nil => cases h
  | cons w ws =>
    simp only [decode] at h
    split at h
    · obtain ⟨hi, hwf, rfl⟩ := accept_ok_iff.mp h
      cases hi
      exact ⟨hwf, rfl, by simp⟩
    rename_i hclaimed
    split at h
    · -- form B
      split at h
      · cases h
      split at h
      · cases h
      split at h
      · cases h
      split at h
      · cases h
      rename_i hty _ carry hcarry
      obtain ⟨hi, hwf, rfl⟩ := accept_ok_iff.mp h
      obtain ⟨hlen, hwords, hcount⟩ := readSpecs_ok hcarry
      refine ⟨hwf, ?_, by rw [List.length_cons]; omega⟩
      rw [encode_of_decodeBranch hi, packBr_of_word (by simpa using hty) hlen, hwords, Nat.add_comm 1, List.take_succ_cons]
    split at h
    · -- LIT64
      rename_i hop
      split at h
      · cases h
      split at h
      case isFalse => cases h
      rename_i x xs hx
      obtain ⟨hi, hwf, rfl⟩ := accept_ok_iff.mp h
      cases hi
      have hop : opOf w = 0x15 ∧ fnOf w = 2 := by simpa using hop
      have hw := packBase_unpackBase w
      rw [hop.1, hop.2] at hw
      refine ⟨hwf, ?_, by simp⟩
      simp only [encode, hw, append_literal (by simpa using hx), List.take_succ_cons, List.take_zero]
    split at h
    · -- t.map
      rename_i hop
      split at h
      · cases h
      split at h
      · cases h
      split at h
      · cases h
      rename_i tl htl
      split at h
      · cases h
      rename_i args hargs
      obtain ⟨hi, hwf, rfl⟩ := accept_ok_iff.mp h
      cases hi
      obtain ⟨-, htlw, htlc⟩ := readSpecs_ok htl
      obtain ⟨-, hargsw, hargsc⟩ := readSpecs_ok hargs
      have hw := packBase_unpackBase w
      rw [show opOf w = 0xA3 by simpa using hop] at hw
      rw [List.length_drop] at hargsc
      refine ⟨hwf, ?_, by simp; omega⟩
      rw [encode, hw, htlw, hargsw, Nat.add_assoc, Nat.add_comm 1, List.take_succ_cons, List.take_add]
    split at h
    · -- eret
      rename_i hop
      split at h
      · cases h
      split at h
      · cases h
      split at h
      · cases h
      rename_i carry hcarry
      obtain ⟨hi, hwf, rfl⟩ := accept_ok_iff.mp h
      cases hi
      obtain ⟨-, hwords, hcount⟩ := readSpecs_ok hcarry
      have hop : opOf w = 0xB0 ∧ fnOf w = 0 := by simpa using hop
      have hw := packBase_unpackBase w
      rw [hop.1, hop.2] at hw
      refine ⟨hwf, ?_, by simp; omega⟩
      rw [encode, hw, hwords, Nat.add_comm 1, List.take_succ_cons]
    · obtain ⟨hi, hwf, rfl⟩ := accept_ok_iff.mp h
      exact ⟨hwf, encode_of_decodeFixed (by omega) hi, by simp⟩

end Sys2Proof.Machine

section
open Sys2Proof Sys2Proof.Machine

/-- Settles O1: by the encodings, each of which one lemma reads back for the form of its first word. -/
theorem decodeEncode : Obligations.DecodeEncode := by
  unfold Obligations.DecodeEncode
  intro i ws rest hwf he
  cases i
  case claimedInstruction => cases he; exact decode_claimed rest hwf
  case br =>
    cases he
    exact decode_packBr rest rfl (by simpa [Instr.wf] using hwf) rfl hwf
  case brZ =>
    cases he
    exact decode_packBr rest rfl (by simp [Instr.wf] at hwf; exact hwf.1) rfl hwf
  case call =>
    cases he
    exact decode_packBr rest rfl (by simp [Instr.wf] at hwf; exact hwf.1) rfl hwf
  case ret =>
    cases he
    exact decode_packBr rest rfl (by simp [Instr.wf] at hwf; exact hwf.1.1) rfl hwf
  case li64 f lit => cases he; exact (decode_li64 f lit rest).trans (accept_wf 2 hwf)
  case tMap => cases he; exact decode_tMap rest hwf
  case eret => cases he; exact decode_eret rest hwf
  case trap f => cases he; exact decode_packImm (fn := 0) (by simp_all [Instr.wf]) (fun _ => rfl) rfl hwf
  case svc f => cases he; exact decode_packImm (fn := 0) (by simp_all [Instr.wf]) (fun _ => rfl) rfl hwf
  case li f => cases he; exact decode_packImm (fn := 0) (by simp_all [Instr.wf]) (fun _ => rfl) rfl hwf
  case liZ f => cases he; exact decode_packImm (fn := 1) (by simp_all [Instr.wf]) (fun _ => rfl) rfl hwf
  case ld f => cases he; exact decode_packImm rfl (fun _ => rfl) rfl hwf
  case st f => cases he; exact decode_packImm rfl (fun _ => rfl) rfl hwf
  case mm => cases he; exact decode_packEng rfl rfl rfl hwf
  case mmDrain f => cases he; exact decode_packEng rfl (decodeFixed_mmDrain (by simp_all [Instr.wf])) rfl hwf
  case mmDrainQ0 f => cases he; exact decode_packEng rfl (decodeFixed_mmDrainQ0 (by simp_all [Instr.wf])) rfl hwf
  case mmGang f => cases he; exact decode_packEng (fn := 0) (by simp_all [Instr.wf]) rfl rfl hwf
  case mmGangOff f => cases he; exact decode_packEng (fn := 1) (by simp_all [Instr.wf]) rfl rfl hwf
  case cp f => cases he; exact decode_packEng (fn := 0) (by simp_all [Instr.wf]) rfl rfl hwf
  case cpQ2 f => cases he; exact decode_packEng (fn := 1) (by simp_all [Instr.wf]) rfl rfl hwf
  case cpQ3 f => cases he; exact decode_packEng (fn := 2) (by simp_all [Instr.wf]) rfl rfl hwf
  case cpFill f => cases he; exact decode_packEng (fn := 0) (by simp_all [Instr.wf]) rfl rfl hwf
  case cpGather f => cases he; exact decode_packEng (fn := 0) (by simp_all [Instr.wf]) rfl rfl hwf
  case tlbInv f => cases he; exact decode_packEng (fn := 0) (by simp_all [Instr.wf]) rfl rfl hwf
  case tlbInvAll f => cases he; exact decode_packEng (fn := 1) (by simp_all [Instr.wf]) rfl rfl hwf
  case tCopy => cases he; exact decode_packBase (fun _ => rfl) rfl hwf
  all_goals cases he
  all_goals exact decode_packBase (fun _ => rfl) rfl hwf

/-- Settles O2: the branches of the decoder one by one, and the reserved opcodes, which only the table of fixed opcodes
could read. -/
theorem acceptedWordsAreCanonical : Obligations.AcceptedWordsAreCanonical := by
  unfold Obligations.AcceptedWordsAreCanonical
  exact ⟨fun _ _ _ h => encode_of_decode h, fun _ ws h => decode_reserved ws h⟩

/-- Settles O3: each word evaluates to its instruction. -/
theorem decodeWords : Obligations.DecodeWords := by
  unfold Obligations.DecodeWords
  decide

end
end

section
/-! PROOFS. Reset, and a step as the execution of the decoded instruction (R22, R74, R149). -/

section
open Sys2Proof Sys2Proof.Machine

/-- Settles O58: every unit that reset leaves unlisted reads as its reset value. -/
theorem resetState : Obligations.ResetState := by
  unfold Obligations.ResetState
  exact ⟨fun _ _ => ⟨rfl, rfl, rfl⟩, fun _ => ⟨rfl, rfl, rfl, rfl, fun _ => rfl⟩, fun _ => ⟨rfl, rfl, fun _ => rfl⟩, rfl⟩

/-- Settles O59: no byte of HBM is listed after reset. -/
theorem resetMemoryCanonical : Obligations.ResetMemoryCanonical := by
  unfold Obligations.ResetMemoryCanonical
  exact reset_memory_wf

end
end

section
/-! PROOFS. Retiring an instruction, scalar instructions, branches, calls and returns (R65, R68, R164 to R168, R305, R306). -/

namespace Sys2Proof.Machine

/-! The context of an agent. -/

/-- Changing the context of an agent changes nothing else. -/
theorem onlyCtx_modCtx (s : State) (a : Agent) (f : Ctx → Ctx) : OnlyCtx s (s.modCtx a f) a := by
  cases a with
  | core g => exact ⟨onlyCore_modCore s g fun c => { c with ctx := f c.ctx }, by simp [State.modCtx]⟩
  | sfe p => exact ⟨onlyPart_modPart s p fun q => { q with sfe := { q.sfe with ctx := f q.sfe.ctx } }, by simp [State.modCtx]⟩
  | die d => rfl
  | entry p n => rfl

/-- An agent that executes instructions reads back the context it is given. -/
theorem ctxOf_modCtx {s : State} {a : Agent} (f : Ctx → Ctx) (h : s.canRun a = true) :
    (s.modCtx a f).ctxOf a = f (s.ctxOf a) := by
  rcases canRun_cases h with ⟨g, rfl⟩ | ⟨p, rfl⟩ <;> simp [State.modCtx, State.ctxOf]

/-- Whatever agent's context differs, of every core only the context can. -/
theorem OnlyCtx.core_eq {s t : State} {a : Agent} (h : OnlyCtx s t a) (g : Nat) :
    t.core g = { s.core g with ctx := (t.core g).ctx } := by
  cases a with
  | core k =>
    obtain ⟨⟨-, hother⟩, hself⟩ := h
    by_cases hg : g = k
    · rw [hg]
      exact hself
    · rw [hother g hg]
  | sfe p =>
    obtain ⟨⟨hs, -⟩, -⟩ := h
    rw [hs]
    rfl
  | die d => rw [show t = s from h]
  | entry p n => rw [show t = s from h]

/-- Outside a template control goes on after the instruction's words. -/
theorem Ctx.advance_of_tmpl_nil {c : Ctx} (len : Nat) (h : c.tmpl = []) : c.advance len = { c with vpc := c.vpc + 8 * len } := by
  simp [Ctx.advance, h]

theorem Ctx.push_of_tmpl_nil {c : Ctx} (vs : List Slot) (h : c.tmpl = []) :
    c.push vs = { c with vals := vs.reverse ++ c.vals, pos := c.pos + vs.length } := by
  simp [Ctx.push, h, countMade]

/-- R65, R161: results take the next positions, and control goes on after the instruction. -/
theorem Ctx.push_advance_of_tmpl_nil {c : Ctx} (vs : List Slot) (len : Nat) (h : c.tmpl = []) :
    (c.push vs).advance len
      = { c with vpc := c.vpc + 8 * len, vals := vs.reverse ++ c.vals, pos := c.pos + vs.length } := by
  rw [Ctx.push_of_tmpl_nil vs h]
  exact Ctx.advance_of_tmpl_nil len h

/-- In a template too, going on leaves the block and the return stack. -/
theorem Ctx.advance_blk_rets (c : Ctx) (len : Nat) :
    (c.advance len).blk = c.blk ∧ (c.advance len).rets = c.rets := by
  unfold Ctx.advance
  split
  · exact ⟨rfl, rfl⟩
  split
  · exact ⟨rfl, rfl⟩
  dsimp only
  split
  · exact ⟨rfl, rfl⟩
  split
  · exact ⟨rfl, rfl⟩
  · exact ⟨rfl, rfl⟩

/-! Scalar instructions. -/

/-- Every instruction that computes one scalar from scalars is `pureScalar` of some function. -/
theorem exec_of_isScalarOp {i : Instr} (h : isScalarOp i = true) :
    ∃ r, ∀ s, exec i s = pureScalar s (opsOf i) r := by
  cases i
  case add | sub | mul | mulh | div | rem | min | max | abs | neg | and | or | xor | andn | not | shl | shr | sar | rot
      | clz | ffs | popc | ext | cmpEq | cmpNe | cmpLt | cmpLe | cmpGt | cmpGe | sel | li | liZ =>
    unfold exec
    exact ⟨_, fun _ => rfl⟩
  all_goals cases h

/-! Popping operands and passing control. -/

/-- R66: an instruction goes on with the values its operands take. -/
theorem popThen_takes {s t : State} {a : Agent} {ops : List (Want × BitVec 8)} {vs ws : List Val} (len : Nat)
    (k : State → List Val → Out) (h : Takes s a ops vs t ws) : s.popThen a ops vs len k = k t ws := by
  rcases h with ⟨hpop, rfl, rfl⟩ | ⟨g, c, rfl, hpop, hchk, hvq, htake, hpois, rfl⟩
  · cases a with
    | core g => exact if_pos hpop
    | _ => rfl
  · have hpop' : noPops (s.core g).ctx ops = false := hpop
    simp [State.popThen, hpop', hchk, hvq, htake, hpois]

theorem onlyCtx_goTo (s : State) (a : Agent) (target : Nat) (vs : List Val) (rs : List RetEntry) :
    OnlyCtx s (s.goTo a target vs rs) a := onlyCtx_modCtx ..

/-- R68: a block is entered at its `enter`, with its arguments as its only values. -/
theorem ctxOf_goTo {s : State} {a : Agent} (target : Nat) (vs : List Val) (rs : List RetEntry) (h : s.canRun a = true) :
    (s.goTo a target vs rs).ctxOf a
      = { vpc := target, blk := none, head := blockHead (vs.map Slot.ready), pos := vs.length,
          vals := (vs.map Slot.ready).reverse, rets := rs, tmpl := [] } := by
  simp [State.goTo, ctxOf_modCtx _ h, Ctx.enterBlock]

/-- A branch without a condition. -/
theorem branchOp_always {s t : State} {i : Instr} {f : BrF} {vs ws : List Val} (cond : Bool → Word → Bool)
    (hc : f.cond = 0) (hcond : ∀ w, cond true w = true) (h : MayAct s .both (carryOps f.carry) 0 vs)
    (ht : Takes s s.focus (carryOps f.carry) vs t ws)
    (hok : s.checkTarget s.focus (branchTarget (s.ctxOf s.focus) f.off) (vs.map Val.isVec) = none) :
    branchOp i f cond s
      = .next (t.goTo s.focus (branchTarget (s.ctxOf s.focus) f.off).toNat ws (s.ctxOf s.focus).rets) := by
  simp only [branchOp, hc, decide_true, if_true, List.nil_append]
  rw [withOps_ready (kinds := []) _ _ h]
  simp only [hcond, hok, if_true]
  exact popThen_takes _ _ ht

/-- A branch with a condition: taken, to a target that passes its checks, or not taken. -/
theorem branchOp_cond {s t : State} {i : Instr} {f : BrF} {w : Word} {vs ws : List Val} (cond : Bool → Word → Bool)
    (hc : f.cond ≠ 0) (h : MayAct s .both ((Want.int, f.cond) :: carryOps f.carry) 0 (.scalar w :: vs))
    (ht : Takes s s.focus ((Want.int, f.cond) :: carryOps f.carry) (.scalar w :: vs) t (.scalar w :: ws))
    (hok : s.checkTarget s.focus (branchTarget (s.ctxOf s.focus) f.off) (vs.map Val.isVec) = none) :
    branchOp i f cond s
      = .next (if cond false w then
          t.goTo s.focus (branchTarget (s.ctxOf s.focus) f.off).toNat ws (s.ctxOf s.focus).rets
        else t.retire s.focus (lenOf i) []) := by
  simp only [branchOp, hc, decide_false, if_false, List.singleton_append]
  rw [withOps_ready (kinds := []) _ _ h]
  have hw : w0 (.scalar w :: vs) = w := rfl
  simp only [hw, List.drop_one, List.tail_cons, hok, popThen_takes _ _ ht]
  split <;> rfl

end Sys2Proof.Machine

section
open Sys2Proof Sys2Proof.Machine

/-- Settles O8: finishing an instruction pushes its results and advances the context. -/
theorem retirement : Obligations.Retirement := by
  unfold Obligations.Retirement
  refine ⟨⟨?nop, ?enter, ?keep⟩, fun s a len vs hrun htmpl => ?retire⟩
  case nop =>
    intro f s h
    rw [exec, execNop, withOps_ready (kinds := []) 1 _ h]
  case enter =>
    intro f s h
    rw [exec, execEnter, withOps_ready (kinds := []) 1 _ h]
  case keep =>
    intro f s v h
    rw [exec, execKeep, withOps_ready 1 _ h]
    rfl
  case retire =>
    have hctx : (s.retire a len vs).ctxOf a = _ :=
      (ctxOf_modCtx _ hrun).trans (Ctx.push_advance_of_tmpl_nil (vs.map .ready) len htmpl)
    rw [hctx]
    exact ⟨onlyCtx_modCtx .., rfl, rfl, by simp, rfl, rfl⟩

/-- Settles O9: a scalar computation only retires. -/
theorem scalarFrame : Obligations.ScalarFrame := by
  unfold Obligations.ScalarFrame
  intro i s t vs hi _ hact ht
  obtain ⟨r, hr⟩ := exec_of_isScalarOp hi
  rw [hr, pureScalar_ready r hact] at ht
  cases ht
  have hctx : (s.retire s.focus 1 [.scalar (r vs)]).ctxOf s.focus = _ := ctxOf_modCtx _ hact.runs
  have hframe : OnlyCtx s (s.retire s.focus 1 [.scalar (r vs)]) s.focus := onlyCtx_modCtx ..
  obtain ⟨hblk, hrets⟩ := Ctx.advance_blk_rets ((s.ctxOf s.focus).push [.ready (.scalar (r vs))]) 1
  refine ⟨hframe, ?_, ?_, fun a => by rw [State.retire_hbm], fun g => ?_⟩
  · rw [hctx]
    exact hrets
  · rw [hctx]
    exact hblk
  · rw [hframe.core_eq g]
    exact ⟨rfl, rfl, rfl, rfl, rfl, rfl, rfl, rfl⟩

/-- Settles O10: `branchOp` at its two conditions. -/
theorem branches : Obligations.Branches := by
  unfold Obligations.Branches
  refine ⟨fun s t f vs ws => ⟨?always, fun w hc h ht hok => ⟨?br, ?brZ⟩⟩,
    fun s a target vs rs hrun => ⟨onlyCtx_goTo .., ctxOf_goTo _ _ _ hrun⟩⟩
  case always =>
    intro hc h ht hok
    rw [exec, execBr, branchOp_always _ hc (fun _ => rfl) h ht hok]
  case br =>
    rw [exec, execBr, branchOp_cond _ hc h ht hok]
    by_cases hw : w = 0 <;> simp [hw, lenOf]
  case brZ =>
    rw [exec, execBrZ, branchOp_cond _ hc h ht hok]
    by_cases hw : w = 0 <;> simp [hw, lenOf]

/-- Settles O11: past their checks `call` and `ret` pass control; the other branches of their definitions are the traps. -/
theorem callAndReturn : Obligations.CallAndReturn := by
  unfold Obligations.CallAndReturn
  refine ⟨fun s t f vs ws h ht => ⟨?call, ?ret, ?mark⟩, fun s f vs h => ⟨?full, ?empty⟩⟩
  case call =>
    intro hdepth hok hback
    rw [exec, execCall, withOps_ready (kinds := []) _ _ h]
    simp only [lenOf, if_neg (Nat.not_le.mpr hdepth), hok, hback]
    exact popThen_takes _ _ ht
  case ret =>
    intro v rs hrets hok
    rw [exec, execRet, withOps_ready (kinds := []) _ _ h]
    simp only [hrets, hok]
    exact popThen_takes _ _ ht
  case mark =>
    intro p rs hf hrets
    rw [exec, execRet, withOps_ready (kinds := []) _ _ h]
    simp only [hrets]
    rw [hf]
    refine ⟨?_, fun hv => ?_⟩
    · rintro w rfl
      rfl
    · dsimp only
      split
      · exact absurd rfl (hv _)
      · rfl
  case full =>
    intro hdepth
    rw [exec, execCall, withOps_ready (kinds := []) _ _ h]
    exact if_pos hdepth
  case empty =>
    intro hrets
    rw [exec, execRet, withOps_ready (kinds := []) _ _ h]
    simp only [hrets]
    rfl

/-- Settles O12: each instruction acts once its operands are there. -/
theorem softTrapAndCall : Obligations.SoftTrapAndCall := by
  unfold Obligations.SoftTrapAndCall
  intro s f x y
  refine ⟨fun h => ?trap, fun h => ⟨fun g hf => ?svcCore, fun p hf hw => ?svcStream⟩⟩
  case trap =>
    rw [exec, execTrap, withOps_ready (kinds := []) 1 _ h]
    rfl
  case svcCore =>
    rw [exec, execSvc, withOps_ready (kinds := [false]) 1 _ h, hf]
    rfl
  case svcStream =>
    rw [exec, execSvc, withOps_ready (kinds := [false]) 1 _ h, hf]
    simp only [hw, Bool.not_true, Bool.false_eq_true, if_false]
    split <;> rfl

end
end

section
/-! PROOFS. Taking a trap on a user core and on a service core (R75, R76, R296 to R299, R308). -/

namespace Sys2Proof.Machine

/-! What dissolving a gang can change. -/

/-- A core of which only the gang, the element buffers of MQ and the sequencer's view of its engines may have changed. -/
def Core.GangFrame (c c' : Core) : Prop :=
  c' = { c with gang := c'.gang, gangOff := c'.gangOff, mq := c'.mq, pview := c'.pview, cview := c'.cview,
                bview0 := c'.bview0, bview1 := c'.bview1, gview := c'.gview }

theorem Core.GangFrame.refl (c : Core) : c.GangFrame c := rfl

theorem Core.GangFrame.trans {c c' c'' : Core} (h : c.GangFrame c') (k : c'.GangFrame c'') : c.GangFrame c'' := by
  unfold Core.GangFrame at *
  rw [h] at k
  exact k

/-- A core of which only the sequencer's view of its engines may have changed. -/
def Core.ViewFrame (c c' : Core) : Prop :=
  c' = { c with pview := c'.pview, cview := c'.cview, bview0 := c'.bview0, bview1 := c'.bview1, gview := c'.gview }

theorem Core.viewFrame_noteView (c : Core) (k : Cmd) : c.ViewFrame (c.noteView k) := by
  unfold Core.noteView Core.setBview
  split
  case h_7 => dsimp only; split <;> rfl
  all_goals rfl

theorem Core.ViewFrame.trans {c c' c'' : Core} (h : c.ViewFrame c') (k : c'.ViewFrame c'') : c.ViewFrame c'' := by
  unfold Core.ViewFrame at *
  rw [h] at k
  exact k

theorem Core.viewFrame_review (c : Core) : c.ViewFrame c.review := by
  unfold Core.review
  generalize (List.filter _ _ : List Cmd) = l
  dsimp only
  have fold : ∀ (l : List Cmd) (c : Core), c.ViewFrame (l.foldl (fun c k => c.noteView k) c) := by
    intro l
    induction l with
    | nil => exact fun c => rfl
    | cons k l ih => exact fun c => (c.viewFrame_noteView k).trans (ih _)
  refine Core.ViewFrame.trans ?_ (fold _ _)
  exact rfl

theorem Core.gangFrame_review (c : Core) : c.GangFrame c.review := by
  have h := c.viewFrame_review
  unfold Core.ViewFrame at h
  unfold Core.GangFrame
  rw [h]

/-- A state of which only gangs, the latches of sectors and what `Core.GangFrame` names of the cores may have changed. -/
structure State.GangFrame (s t : State) : Prop where
  state : t = { s with cores := t.cores, dies := t.dies, sectors := t.sectors }
  core : ∀ h, (s.core h).GangFrame (t.core h)
  die : ∀ e, t.die e = { s.die e with gangs := (t.die e).gangs }

theorem State.GangFrame.refl (s : State) : State.GangFrame s s := ⟨rfl, fun _ => rfl, fun _ => rfl⟩

theorem State.GangFrame.trans {s t u : State} (h : State.GangFrame s t) (k : State.GangFrame t u) : State.GangFrame s u where
  state := by
    have := k.state
    rw [h.state] at this
    exact this
  core x := (h.core x).trans (k.core x)
  die e := by
    have := k.die e
    rw [h.die e] at this
    exact this

theorem State.gangFrame_modCore {s : State} {g : Nat} {f : Core → Core} (h : ∀ c : Core, c.GangFrame (f c)) :
    State.GangFrame s (s.modCore g f) where
  state := rfl
  core x := by
    rw [State.core_modCore]
    split
    · subst x
      exact h _
    · exact Core.GangFrame.refl _
  die _ := rfl

theorem State.gangFrame_foldl {α : Type} {f : State → α → State} (h : ∀ s x, State.GangFrame s (f s x)) :
    ∀ (l : List α) (s : State), State.GangFrame s (l.foldl f s)
  | [], s => State.GangFrame.refl s
  | x :: l, s => (h s x).trans (State.gangFrame_foldl h l (f s x))

theorem State.gangFrame_keepBridled (s : State) (d : Nat) (x : Gang) : State.GangFrame s (s.keepBridled d x) := by
  simp only [State.keepBridled]
  split
  · exact State.GangFrame.refl s
  · refine State.gangFrame_foldl (fun s m => State.gangFrame_modCore fun _ => ?_) _ _
    exact rfl

theorem State.gangFrame_sealGang (s : State) (d : Nat) (x : Gang) : State.GangFrame s (s.sealGang d x) := by
  refine State.gangFrame_foldl (fun s i => ?_) _ _
  exact ⟨rfl, fun _ => rfl, fun _ => rfl⟩

theorem State.gangFrame_gangs (s : State) (d : Nat) (f : List Gang → List Gang) :
    State.GangFrame s (s.modDie d (fun k => { k with gangs := f k.gangs })) where
  state := rfl
  core _ := rfl
  die e := by
    rw [State.die_modDie]
    split
    · subst e
      rfl
    · rfl

/-- R210: how far dissolving a gang reaches. -/
theorem State.gangFrame_dissolveGang (s : State) (g : Nat) : State.GangFrame s (s.dissolveGang g) := by
  simp only [State.dissolveGang]
  split
  · exact State.gangFrame_modCore fun _ => rfl
  · refine ((State.gangFrame_gangs _ _ _).trans
      ((State.gangFrame_keepBridled _ _ _).trans (State.gangFrame_sealGang _ _ _))).trans
      (State.gangFrame_foldl (fun s m => State.gangFrame_modCore fun c => ?_) _ _)
    exact Core.GangFrame.trans (c' := { c with gang := none, gangOff := m != g }) rfl (Core.gangFrame_review _)

/-! The report of a trap. -/

/-- A context outside any template stands as it is. -/
theorem Ctx.dropTmpl_of_nil {c : Ctx} (h : c.tmpl = []) : c.dropTmpl = c := by
  cases c
  cases h
  rfl

/-- Marking accesses as passed changes nothing but the access queue of the core. -/
theorem State.commitFirst_core (s : State) (g n h : Nat) :
    (s.commitFirst g n).core h = { s.core h with acc := ((s.commitFirst g n).core h).acc } := by
  simp only [State.commitFirst]
  split
  · rfl
  · rw [State.core_modCore]
    split
    · subst h
      rfl
    · rfl

theorem State.commitFirst_state (s : State) (g n : Nat) :
    s.commitFirst g n = { s with cores := (s.commitFirst g n).cores } := by
  simp only [State.commitFirst]
  split <;> rfl

theorem State.core_queueRecord {s : State} {d : Nat} (i : TrapInfo) {g : Nat} (h : g ≠ svcOf d) :
    (s.queueRecord d i).core g = s.core g := by
  simp [State.queueRecord, State.svcSignal, State.core_modCore, h]

theorem State.flag_queueRecord (s : State) (d : Nat) (i : TrapInfo) :
    ((s.queueRecord d i).core (svcOf d)).flag 0 = flagAdd ((s.core (svcOf d)).flag 0) 1 := by
  simp [State.queueRecord, State.svcSignal, Core.flag, Core.setFlag]

theorem State.trapq_queueRecord (s : State) (d : Nat) (i : TrapInfo) :
    ((s.queueRecord d i).die d).trapq = (s.die d).trapq ++ [i] := by
  simp [State.queueRecord, State.svcSignal]

theorem State.queueRecord_state (s : State) (d : Nat) (i : TrapInfo) :
    s.queueRecord d i = { s with cores := (s.queueRecord d i).cores, dies := (s.queueRecord d i).dies } := rfl

/-- A core of which only what a trap records, and what `Core.GangFrame` names, may have changed. -/
def Core.TrapFrame (c c' : Core) : Prop :=
  c.GangFrame { c' with cstate := c.cstate, wait := c.wait, trap := c.trap, cres := c.cres, acc := c.acc }

theorem Core.TrapFrame.of_frame {c c' : Core} (h : c.TrapFrame c') :
    c'.ctx = c.ctx ∧ c'.flags = c.flags ∧ c'.slots = c.slots ∧ c'.pad = c.pad := by
  unfold Core.TrapFrame Core.GangFrame at h
  have hctx := congrArg Core.ctx h
  have hflags := congrArg Core.flags h
  have hslots := congrArg Core.slots h
  have hpad := congrArg Core.pad h
  exact ⟨hctx, hflags, hslots, hpad⟩

/-- R296, R299: what the report of an instruction's trap changes: of the core, its state, its wait and what it reports; the
trap queue of its die; flag word f0 of the service core. -/
structure Reported (s t : State) (g : Nat) (i : TrapInfo) (p : TrapPend) (cres : List Word) : Prop where
  core : (s.core g).TrapFrame (t.core g)
  cstate : (t.core g).cstate = .trapped
  wait : (t.core g).wait = none
  trap : (t.core g).trap = some p
  cres : (t.core g).cres = tputs 0 [] 0 cres
  signal : (t.core (svcOf (dieOf g))).flag 0 = flagAdd ((s.core (svcOf (dieOf g))).flag 0) 1
  record : (t.die (dieOf g)).trapq = (s.die (dieOf g)).trapq ++ [i]
  state : t = { s with cores := t.cores, dies := t.dies, sectors := t.sectors }

theorem State.report_instr {s : State} {g : Nat} (i : TrapInfo) {p : TrapPend} (cres : List Word) (hg : g < 128)
    (hp : p.queue = none) (ht : (s.core g).ctx.tmpl = []) : Reported s (s.report g i p cres) g i p cres := by
  have hcmd : p.ofCmd = false := by simp [TrapPend.ofCmd, hp]
  have hne : g ≠ svcOf (dieOf g) := by simp only [svcOf]; omega
  obtain ⟨u, hu⟩ : ∃ u, (s.commitAll g).queueRecord (dieOf g) i = u := ⟨_, rfl⟩
  have hframe := State.gangFrame_dissolveGang u g
  obtain ⟨v, hv⟩ : ∃ v, u.dissolveGang g = v := ⟨_, rfl⟩
  rw [hv] at hframe
  have hcommit : ∀ h, (s.commitAll g).core h = { s.core h with acc := ((s.commitAll g).core h).acc } :=
    s.commitFirst_core g _
  have hucore : u.core g = { s.core g with acc := ((s.commitAll g).core g).acc } := by
    rw [← hu, State.core_queueRecord i hne]
    exact hcommit g
  have hvcore := hframe.core g
  rw [hucore] at hvcore
  have hctx : (v.core g).ctx = (s.core g).ctx := by rw [hvcore]
  have ht' : s.report g i p cres = v.modCore g (fun c =>
      { c with cstate := .trapped, wait := none, trap := some p, cres := tputs 0 [] 0 cres, ctx := c.ctx.dropTmpl }) := by
    simp [State.report, hcmd, hu, hv]
  rw [ht']
  have hself := State.core_modCore_self v g (fun c =>
      { c with cstate := .trapped, wait := none, trap := some p, cres := tputs 0 [] 0 cres, ctx := c.ctx.dropTmpl })
  refine ⟨?core, by rw [hself], by rw [hself], by rw [hself], by rw [hself], ?signal, ?record, ?state⟩
  case core =>
    rw [hself, hctx, Ctx.dropTmpl_of_nil ht]
    unfold Core.TrapFrame Core.GangFrame at *
    rw [hvcore]
  case signal =>
    rw [State.core_modCore, if_neg hne.symm]
    have hflags := congrArg Core.flags (hframe.core (svcOf (dieOf g)))
    have hflags' := congrArg Core.flags (hcommit (svcOf (dieOf g)))
    rw [Core.flag, hflags]
    dsimp only
    rw [← hu, ← Core.flag, State.flag_queueRecord, Core.flag, hflags']
    rfl
  case record =>
    rw [State.die_modCore, hframe.die, ← hu]
    dsimp only
    rw [State.trapq_queueRecord, State.commitAll, State.commitFirst_state]
    rfl
  case state =>
    have hst := hframe.state
    rw [← hu, State.queueRecord_state, State.commitAll, State.commitFirst_state] at hst
    rw [hst]
    rfl

/-- R76, R152: a trap that no KIND 1 slot acts on is reported. -/
theorem State.trapMatched_unmatched {s : State} {g : Nat} {p : TrapPend} (cres : List Word)
    (h : p.info.cause = cSVC
      ∨ s.patchFor (dieOf g) p.info.part 1 (faultKey p.info.vpc p.info.cause p.info.sub) = none) :
    s.trapMatched g p cres = s.report g p.info p cres := by
  have hnone : (if p.info.cause = cSVC then none
      else s.patchFor (dieOf g) p.info.part 1 (faultKey p.info.vpc p.info.cause p.info.sub)) = none := by
    rcases h with h | h <;> simp [h]
  simp only [State.trapMatched, hnone]

theorem isSvc_eq_false {g : Nat} (h : g < 128) : isSvc g = false := by simp [isSvc, h]

/-- The trap of a user core outside a routine and a template is matched with its own record. -/
theorem State.trapAt_user {s : State} {g : Nat} (c : Cause) (kinds : List Bool) (len : Nat) (cres : List Word) (res qpos : Nat)
    (hg : g < 128) (he : (s.core g).emul = none) (ht : (s.core g).ctx.tmpl = []) :
    s.trapAt (.core g) c kinds len cres res qpos
      = s.trapMatched g { info := s.mkInfo g c (s.core g).ctx.vpc (s.core g).ctx.vpc res qpos, queue := none, cmdSeq := 0,
                          kinds := kinds, len := len } cres := by
  simp [State.trapAt, isSvc_eq_false hg, he, Ctx.pend, ht]

end Sys2Proof.Machine

section
open Sys2Proof Sys2Proof.Machine

/-- Settles O14: the trap is reported, and the report reaches no further than `Reported` says. -/
theorem trapTaken : Obligations.TrapTaken := by
  unfold Obligations.TrapTaken
  intro s g c kinds len cres res qpos hg he htmpl hmatch
  rw [State.trapAt_user c kinds len cres res qpos hg he htmpl, State.trapMatched_unmatched cres hmatch]
  have h := State.report_instr (s.mkInfo g c (s.core g).ctx.vpc (s.core g).ctx.vpc res qpos) cres hg (p :=
    { info := s.mkInfo g c (s.core g).ctx.vpc (s.core g).ctx.vpc res qpos, queue := none, cmdSeq := 0, kinds := kinds,
      len := len }) rfl htmpl
  obtain ⟨hctx, hflags, hslots, hpad⟩ := h.core.of_frame
  have hhbm := congrArg State.hbm h.state
  have hl2 := congrArg State.l2 h.state
  have hparts := congrArg State.parts h.state
  exact ⟨h.cstate, h.wait, hctx, h.cres, hflags, hslots, hpad, hhbm, hl2, hparts, h.signal, _, h.record, rfl, rfl, rfl, rfl, rfl, rfl, rfl, rfl, rfl, rfl, rfl⟩

end
end

section
/-! PROOFS. Traps of service code, class, privilege and operand traps, the checks of an address (R63, R65, R75, R178, R308). -/

namespace Sys2Proof.Machine

/-- Marking accesses as passed is the affair of their core. -/
theorem onlyCore_commitFirst (s : State) (g n : Nat) : OnlyCore s (s.commitFirst g n) g := by
  simp only [State.commitFirst]
  split
  · exact ⟨rfl, fun _ _ => rfl⟩
  · exact onlyCore_modCore ..

/-! A trap in service code. -/

/-- What a trap outside the handler leaves of a service core, whatever instruction or command of it trapped at `vpc`. -/
structure SvcTrapped (s t : State) (g : Nat) (c : Cause) (vpc : Nat) : Prop where
  only : OnlyCore s t g
  sepc : (t.core g).sepc = BitVec.ofNat 64 vpc
  scause : (t.core g).scause = BitVec.ofNat 64 (c.code % 256 + (c.sub % 256) * 256)
  saddr : (t.core g).saddr = BitVec.ofNat 64 c.addr
  kept : (t.core g).svcKept = some (s.core g).ctx.dropTmpl
  ctx : (t.core g).ctx = { Ctx.reset with vpc := (s.core g).stvec.toNat }

/-- With no argument a block starts with no value. -/
theorem Ctx.reset_enterBlock (vpc : Nat) : Ctx.reset.enterBlock vpc [] = { Ctx.reset with vpc := vpc } := rfl

theorem State.svcTrap_outside {s : State} {g : Nat} (c : Cause) (kinds : List Bool) (len vpc : Nat) (cmd : Option (Eng × Nat))
    (h : (s.core g).svcKept = none) : SvcTrapped s (s.svcTrap g c kinds len vpc cmd) g c vpc := by
  have hcommit : (s.commitAll g).core g = { s.core g with acc := ((s.commitAll g).core g).acc } := s.commitFirst_core g _ g
  have hctx : ((if cmd.isSome then s else s.commitAll g).core g).ctx = (s.core g).ctx := by
    split
    · rfl
    · rw [hcommit]
  have hstvec : ((if cmd.isSome then s else s.commitAll g).core g).stvec = (s.core g).stvec := by
    split
    · rfl
    · rw [hcommit]
  have honly : OnlyCore s (if cmd.isSome then s else s.commitAll g) g := by
    split
    · exact ⟨rfl, fun _ _ => rfl⟩
    · exact onlyCore_commitFirst s g _
  simp only [State.svcTrap, h]
  exact ⟨honly.trans (onlyCore_modCore ..), by simp, by simp, by simp, by simp [hctx],
    by simp [hstvec, Ctx.reset_enterBlock]⟩

theorem State.trap_service {s : State} {g : Nat} (c : Cause) (kinds : List Bool) (len : Nat) (h : isSvc g = true) :
    s.trap (.core g) c kinds len = s.svcTrap g c kinds len (s.core g).ctx.vpc none := by
  simp [State.trap, State.trapAt, h]

/-- A started command that stops changes only its queue. -/
theorem Core.setQueue_frame (c : Core) (q : Eng) (l : List Cmd) :
    c.setQueue q l = { c with mq := (c.setQueue q l).mq, vq := (c.setQueue q l).vq, cq := (c.setQueue q l).cq } := by
  cases q <;> rfl

theorem State.stopCmd_core (s : State) (g : Nat) (q : Eng) (k : Cmd) :
    OnlyCore s (s.stopCmd g q k) g ∧ (s.stopCmd g q k).core g
      = { s.core g with mq := ((s.stopCmd g q k).core g).mq, vq := ((s.stopCmd g q k).core g).vq,
                        cq := ((s.stopCmd g q k).core g).cq } := by
  unfold State.stopCmd
  split
  · exact ⟨⟨rfl, fun _ _ => rfl⟩, rfl⟩
  · refine ⟨onlyCore_modCore .., ?_⟩
    rw [State.core_modCore_self]
    exact Core.setQueue_frame ..

/-! The text an instruction may stand in. -/

theorem canRun_of_runs {s : State} {g : Nat} (h : Runs s g) : s.canRun (.core g) = true := by
  simp [State.canRun, isSvc_eq_false h.user, h.run, h.whole, h.up, h.calm]

/-- Every system instruction passes the shared front in service mode. -/
theorem exec_of_isSystem {i : Instr} (h : isSystem i = true) (s : State) :
    ∃ ops kinds len k, exec i s = withOps s .system ops kinds len k := by
  cases i
  case codeInv | codeInvObj | codeInvAll =>
    simp only [exec, execCodeInv, execCodeInvObj, execCodeInvAll, codeInvOp]
    exact ⟨_, _, _, _, rfl⟩
  case scanFrz | scanFrzAt =>
    simp only [exec, execScanFrz, execScanFrzAt, frzOp]
    exact ⟨_, _, _, _, rfl⟩
  case eret | eretRetry | csrR | csrW | scanOut | scanIn | scanRun | patchLd | ctxScrub =>
    rw [exec]
    exact ⟨_, _, _, _, rfl⟩
  all_goals cases h

/-- Every stream instruction passes the shared front in stream text. -/
theorem exec_of_isStreamOp {i : Instr} (h : isStreamOp i = true) (s : State) : exec i s = streamOp i s := by
  cases i
  case tNew | tFree | tView | tMap | tCopy | tFill | tRead | tFence | tSync | tSignalAdd | tSignalStore | tSvc | tSend | tRecv
      | tWaitEq | tWaitNe | tWaitGe =>
    rw [exec]
    exact rfl
  all_goals cases h

/-- The flag, barrier, team and `align` instructions pass the shared front of kernel text, the system instructions that of
system text, and the vector instructions that of the engine commands. -/
theorem exec_of_sfeClass (f : BaseF) {i : Instr} (h : i ∈ [.semSig f, .semSigErr f, .semWait f, .semWaitT f, .semClr f,
      .semClrAll f, .barArr f, .barArrErr f, .barWait f, .barWaitT f, .teamJoin f, .teamLeave f, .teamBar f, .trig f,
      .sleepGt f, .sleepGtNt f, .align f, .vadd f, .csrR f, .ctxScrub f]) (s : State) :
    (∃ chk, exec i s = withPush s i .v true chk)
    ∨ ∃ cl ops kinds len k, (cl = Cls.kernel ∨ cl = .system) ∧ exec i s = withOps s cl ops kinds len k := by
  simp only [List.mem_cons, List.not_mem_nil, or_false] at h
  rcases h with rfl | rfl | rfl | rfl | rfl | rfl | rfl | rfl | rfl | rfl | rfl | rfl | rfl | rfl | rfl | rfl | rfl | rfl
    | rfl | rfl
  all_goals
    simp only [exec, execSemSig, execSemSigErr, execSemWait, execSemWaitT, semWaitOp, execSemClr, execSemClrAll, execBarArr,
      execBarArrErr, barArrOp, execBarWait, execBarWaitT, barWaitOp, execTeamJoin, execTeamLeave, execTeamBar, execTrig,
      execSleepGt, execSleepGtNt, sleepOp, coreOp, execAlign, execVadd, vecOp, execCsrR, execCtxScrub]
  on_goal 18 => exact .inl ⟨_, rfl⟩
  all_goals
    refine .inr ⟨_, _, _, _, _, ?_, rfl⟩
    simp

/-- An engine command is of kernel text. -/
theorem withPush_sfe {s : State} {p : Nat} (i : Instr) (q : Eng) (poison : Bool)
    (chk : Nat → List Val → Except Cause (List (BitVec 256))) (hf : s.focus = .sfe p) (hrun : s.canRun (.sfe p) = true) :
    withPush s i q poison chk = .next (s.trap (.sfe p) { code := cTRANSLATE, sub := 5 } (kindsOf i) 1) := by
  simp only [withPush, hf, hrun]
  rfl

end Sys2Proof.Machine

section
open Sys2Proof Sys2Proof.Machine

/-- Settles O15: `svcTrap` outside and inside the handler. -/
theorem serviceTrap : Obligations.ServiceTrap := by
  unfold Obligations.ServiceTrap
  intro s g c kinds len hsvc
  refine ⟨fun hk => ?outside, fun k hk => ?inside, fun q k hk => ?command⟩
  case outside =>
    rw [State.trap_service c kinds len hsvc]
    obtain ⟨honly, hsepc, hscause, hsaddr, hkept, hctx⟩ := State.svcTrap_outside c kinds len (s.core g).ctx.vpc none hk
    exact ⟨honly, hsepc, hscause, hsaddr, hkept, hctx⟩
  case inside =>
    have ht : s.svcTrap g c kinds len (s.core g).ctx.vpc none
        = { s.modCore g (fun k => { k with svcStop := true, wait := none }) with
            board := s.board ++ [[BitVec.ofNat 8 (dieOf g), BitVec.ofNat 8 c.code]] } := by
      simp only [State.svcTrap, hk]
    have hself := State.core_modCore_self s g (fun k => { k with svcStop := true, wait := none })
    have hother : ∀ h, h ≠ g → (s.modCore g (fun k => { k with svcStop := true, wait := none })).core h = s.core h :=
      fun h hh => by rw [State.core_modCore, if_neg hh]
    rw [State.trap_service c kinds len hsvc, ht]
    dsimp only
    have hsepc := congrArg Core.sepc hself
    have hscause := congrArg Core.scause hself
    have hsaddr := congrArg Core.saddr hself
    refine ⟨rfl, hother, hself, ?_, by simp, hsepc, hscause, hsaddr⟩
    have hstop : ∀ t : State, (t.core g).svcStop = true → t.canRun (.core g) = false := by
      intro t h
      simp [State.canRun, hsvc, h]
    refine hstop _ ?_
    have h := congrArg Core.svcStop hself
    exact h
  case command =>
    obtain ⟨honly, hframe⟩ := s.stopCmd_core g q k
    have hk' : ((s.stopCmd g q k).core g).svcKept = none := by rw [hframe]; exact hk
    have ht : s.trapCmd g q k c 0 0 = (s.stopCmd g q k).svcTrap g c k.kinds 0 k.vpc (some (q, k.seq)) := by
      simp [State.trapCmd, hsvc, hk']
    rw [ht]
    obtain ⟨honly', hsepc, hscause, hsaddr, hkept, hctx⟩ :=
      State.svcTrap_outside c k.kinds 0 k.vpc (some (q, k.seq)) hk'
    have hctx₀ : ((s.stopCmd g q k).core g).ctx = (s.core g).ctx := by rw [hframe]
    have hstvec : ((s.stopCmd g q k).core g).stvec = (s.core g).stvec := by rw [hframe]
    rw [hctx₀] at hkept
    rw [hstvec] at hctx
    exact ⟨honly.trans honly', hsepc, hscause, hsaddr, hkept, hctx⟩

/-- Settles O16: the checks of the shared front that the instruction meets first. -/
theorem classPrivilegeAndOperandTraps : Obligations.ClassPrivilegeAndOperandTraps := by
  unfold Obligations.ClassPrivilegeAndOperandTraps
  refine ⟨?priv, ⟨?stream, ?kernel⟩, ?operand⟩
  case priv =>
    intro s g i hi hf hr hemul
    obtain ⟨ops, kinds, len, k, hk⟩ := exec_of_isSystem hi s
    refine ⟨kinds, len, ?_⟩
    rw [hk, withOps_clsFault (c := { code := cPRIV }) _ _ _ _ (hf ▸ canRun_of_runs hr)
      (by simp [hf, State.clsFault, isSvc_eq_false hr.user, hemul]), hf]
  case stream =>
    intro s g i hi hf hr
    have hrun : s.canRun s.focus = true := hf ▸ canRun_of_runs hr
    refine ⟨kindsOf i, lenOf i, ?_⟩
    rw [exec_of_isStreamOp hi, streamOp, withOps_clsFault (c := { code := cTRANSLATE, sub := 5 }) _ _ _ _ hrun
      (by rw [hf]; rfl), hf]
  case kernel =>
    intro s p f i hf hrun hi
    have hrun' : s.canRun s.focus = true := hf ▸ hrun
    have hcls : ∀ cl, cl = .kernel ∨ cl = .system → s.clsFault s.focus cl = some { code := cTRANSLATE, sub := 5 } := by
      rw [hf]
      rintro cl (rfl | rfl) <;> rfl
    rcases exec_of_sfeClass f hi s with ⟨k, hk⟩ | ⟨cl, ops, kinds, len, k, hcl, hk⟩
    · exact ⟨kindsOf i, 1, hk.trans (withPush_sfe i .v true k hf hrun)⟩
    · exact ⟨kinds, len, hk.trans (hf ▸ withOps_clsFault ops kinds len k hrun' (hcls cl hcl))⟩
  case operand =>
    intro s i hi hrun htmpl hspec
    obtain ⟨r, hr⟩ := exec_of_isScalarOp hi
    have hcls : s.clsFault s.focus .both = none := by
      rcases canRun_cases hrun with ⟨g, hf⟩ | ⟨p, hf⟩ <;> rw [hf] <;> rfl
    rw [hr]
    simp [pureScalar, withOps, hrun, hcls, hspec, operandFault, htmpl]

/-- Settles O17: the branches of `checkAddr` in their order. -/
theorem addressChecks : Obligations.AddressChecks := by
  unfold Obligations.AddressChecks
  intro s g n a need _
  refine ⟨fun h => ?_, fun h k => ?_, fun h k₀ k => ?_, fun h => ?_, fun k₀ k h => ?_⟩
  · simp [State.checkAddr, h]
  · simp [State.checkAddr, h, k]
  · simp [State.checkAddr, h, Int.not_lt.mpr k₀, Int.not_lt.mpr k]
  · simp only [State.checkAddr, Bool.false_eq_true, if_false, if_pos h]
  · simp only [State.checkAddr, Bool.false_eq_true, if_false, if_pos h,
      if_neg (not_or.mpr ⟨Int.not_lt.mpr k₀, Int.not_lt.mpr k⟩)]

end
end

section
/-! PROOFS. Returning from a service trap handler and from an EMULATE routine (R156, R307). -/

namespace Sys2Proof.Machine

/-! What taking operands, and going on with stopped commands, can change of a core. -/

/-- A core of which only ports, channels and the stochastic state of VQ may have changed. -/
def Core.PopFrame (c c' : Core) : Prop := c' = { c with ports := c'.ports, chans := c'.chans, srv := c'.srv }

theorem Core.PopFrame.trans {c c' c'' : Core} (h : c.PopFrame c') (k : c'.PopFrame c'') : c.PopFrame c'' := by
  unfold Core.PopFrame at *
  rw [h] at k
  exact k

theorem Core.popFrame_popPort {c c' : Core} {n : Nat} {v : Val} (h : c.popPort n = .got v c') : c.PopFrame c' := by
  simp only [Core.popPort] at h
  split at h
  · cases h
  split at h
  · cases h
  split at h
  · cases h
    exact rfl
  · cases h
    exact rfl

theorem Core.popFrame_popChan {c c' : Core} {q : Nat} {peek : Bool} {v : Val} (h : c.popChan q peek = .got v c') :
    c.PopFrame c' := by
  simp only [Core.popChan] at h
  split at h
  · cases h
  split at h
  · cases h
  · cases h
    exact rfl

theorem Core.popFrame_takeSrc {c c' : Core} {src : Nat} {x : Slot} {v : Val} (h : c.takeSrc src x = .got v c') :
    c.PopFrame c' := by
  unfold Core.takeSrc at h
  split at h
  · exact Core.popFrame_popPort h
  · exact Core.popFrame_popChan h
  · exact Core.popFrame_popChan h
  · split at h
    · cases h
      exact rfl
    · cases h

theorem Core.popFrame_takeAll : ∀ {l : List (Nat × Slot)} {c c' : Core} {vs : List Val}, c.takeAll l = .got vs c' →
    c.PopFrame c'
  | [], c, c', vs, h => by
    cases h
    exact rfl
  | (src, x) :: l, c, c', vs, h => by
    rw [Core.takeAll] at h
    split at h
    · cases h
    · split at h <;> cases h
    next v c₁ hsrc =>
      split at h
      next ws c₂ hl =>
        cases h
        exact (Core.popFrame_takeSrc hsrc).trans (Core.popFrame_takeAll hl)
      next hl =>
        exact absurd h (hl _ _)

/-- Delivering results changes only values that waited. -/
theorem Core.deliverAll_frame : ∀ (vs : List Val) (c : Core) (id : Nat),
    c.deliverAll id vs = { c with
      ctx := { c.ctx with vals := (c.deliverAll id vs).ctx.vals }, acc := (c.deliverAll id vs).acc,
      emul := (c.deliverAll id vs).emul, svcKept := (c.deliverAll id vs).svcKept }
  | [], _, _ => rfl
  | v :: vs, c, id => by
    rw [Core.deliverAll, Core.deliverAll_frame vs]
    exact rfl

theorem Core.deliverAll_svcKept : ∀ (vs : List Val) {c : Core} (id : Nat), c.svcKept = none →
    (c.deliverAll id vs).svcKept = none
  | [], _, _, h => h
  | v :: vs, c, id, h => by
    rw [Core.deliverAll]
    exact Core.deliverAll_svcKept vs _ (by simp [Core.deliver, h])

@[simp] theorem Core.queue_setQueue (c : Core) (q : Eng) (l : List Cmd) : (c.setQueue q l).queue q = l := by
  cases q <;> rfl

/-- The stopped commands go on; besides them only copy tags change. -/
theorem Core.unstop_frame (c : Core) :
    c.unstop = { c with mq := c.mq.map (fun k => { k with stopped := false }), vq := c.vq.map (fun k => { k with stopped := false }),
                        cq := c.cq.map (fun k => { k with stopped := false }), tags := c.unstop.tags } := by
  have fold : ∀ (l : List Nat) (c : Core),
      l.foldl (fun c t => if (c.tag t).st == TagState.stopped then c.setTag t { c.tag t with st := .active } else c) c
        = { c with tags := (l.foldl (fun c t =>
            if (c.tag t).st == TagState.stopped then c.setTag t { c.tag t with st := .active } else c) c).tags } := by
    intro l
    induction l with
    | nil => exact fun c => rfl
    | cons t l ih =>
      intro c
      rw [List.foldl_cons, ih]
      split
      · exact rfl
      · exact rfl
  simp only [Core.unstop]
  rw [fold]

theorem Core.queue_unstop (c : Core) (q : Eng) : c.unstop.queue q = (c.queue q).map (fun k => { k with stopped := false }) := by
  rw [Core.unstop_frame]
  cases q <;> rfl

theorem Core.queue_review (c : Core) (q : Eng) : c.review.queue q = c.queue q := by
  have h := c.viewFrame_review
  unfold Core.ViewFrame at h
  rw [h]
  cases q <;> rfl

theorem Core.completeCmd_found {c : Core} {q : Eng} {seq : Nat} {k : Cmd} (vs : List Val)
    (h : (c.queue q).find? (fun k => k.seq = seq) = some k) :
    ∃ c' : Core, c' = { c with tags := c'.tags }
      ∧ c.completeCmd q seq vs = (((c'.deliverAll k.dest vs).dropCmd q seq).popDone q).review := by
  simp only [Core.completeCmd, h]
  cases k.tag with
  | none => exact ⟨c, rfl, rfl⟩
  | some t =>
    refine ⟨c.setTag t { c.tag t with st := .done, err := false, ecode := 0 }, ?_, ?_⟩
    · exact rfl
    · exact rfl

/-- Completing a command leaves the context where it was, its older values apart, and the command in no place of its queue. -/
theorem Core.completeCmd_ctx (c : Core) (q : Eng) (seq : Nat) (vs : List Val) :
    (c.completeCmd q seq vs).ctx = { c.ctx with vals := (c.completeCmd q seq vs).ctx.vals }
    ∧ (c.completeCmd q seq vs).wait = c.wait
    ∧ (c.svcKept = none → (c.completeCmd q seq vs).svcKept = none)
    ∧ ∀ k ∈ (c.completeCmd q seq vs).queue q, k.seq ≠ seq := by
  cases hfind : (c.queue q).find? (fun k => k.seq = seq) with
  | none =>
    have hid : c.completeCmd q seq vs = c := by simp only [Core.completeCmd, hfind]
    rw [hid]
    refine ⟨rfl, rfl, id, fun k hk => ?_⟩
    simpa using List.find?_eq_none.mp hfind k hk
  | some k =>
    obtain ⟨c', htag, hc'⟩ := Core.completeCmd_found vs hfind
    rw [hc']
    generalize hd : c'.deliverAll k.dest vs = d
    have hframe := Core.deliverAll_frame vs c' k.dest
    have hkept := Core.deliverAll_svcKept (c := c') vs k.dest
    rw [hd] at hframe hkept
    generalize hp : (d.dropCmd q seq).popDone q = p
    have hpop : p = { d with mq := p.mq, vq := p.vq, cq := p.cq } := by
      rw [← hp]
      cases q <;> rfl
    have hview := p.viewFrame_review
    unfold Core.ViewFrame at hview
    refine ⟨?ctx, ?wait, fun h => ?kept, fun x hx => ?queue⟩
    case ctx =>
      have : p.review.ctx = p.ctx := by rw [hview]
      rw [this, hpop, hframe, htag]
    case wait =>
      have : p.review.wait = p.wait := by rw [hview]
      rw [this, hpop, hframe, htag]
    case kept =>
      have : p.review.svcKept = p.svcKept := by rw [hview]
      rw [this, hpop]
      refine hkept ?_
      rw [htag]
      exact h
    case queue =>
      rw [Core.queue_review, ← hp, Core.popDone, Core.queue_setQueue, Core.dropCmd, Core.queue_setQueue] at hx
      have := List.mem_filter.mp (List.dropWhile_subset _ hx)
      simpa using this.2

/-- A core of which only what operands pop, its accesses and its wait may have changed. -/
def Core.TakeFrame (c c' : Core) : Prop :=
  c' = { c with ports := c'.ports, chans := c'.chans, srv := c'.srv, acc := c'.acc, wait := c'.wait }

/-- R66: what taking operands can change. -/
theorem Takes.frame {s u : State} {g : Nat} {ops : List (Want × BitVec 8)} {vs ws : List Val}
    (h : Takes s (.core g) ops vs u ws) : u = { s with cores := u.cores } ∧ (s.core g).TakeFrame (u.core g) := by
  rcases h with ⟨-, rfl, -⟩ | ⟨g, c, hg, -, -, -, htake, -, rfl⟩
  · exact ⟨rfl, rfl⟩
  · cases hg
    have hpop := Core.popFrame_takeAll htake
    generalize hv : s.setCore g { c with wait := none } = v
    have hvcore : v.core g = { c with wait := none } := by
      rw [← hv]
      simp
    refine ⟨?_, ?_⟩
    · rw [State.commit, State.commitAll, State.commitFirst_state, ← hv]
      rfl
    · unfold Core.PopFrame at hpop
      unfold Core.TakeFrame
      rw [State.commit, State.commitAll, State.commitFirst_core, hvcore, hpop]

/-! The context at SEPC. -/

/-- R307: the context at SEPC is the kept one, but for the place it stands at. -/
theorem State.sepcShape_ctx (s : State) (g : Nat) (k : Ctx) :
    (s.sepcShape g k).1 = { k with vpc := (s.sepcShape g k).1.vpc, blk := (s.sepcShape g k).1.blk } := by
  simp only [State.sepcShape]
  split
  · rfl
  split
  · rfl
  · rfl

/-! Code words are read through the page tables and the L2, whatever the cores hold. -/

/-- The state with other cores. -/
def State.withCores (s : State) (cs : Tab Core) : State := { s with cores := cs }

theorem State.withCores_hbmWrite (s : State) (cs : Tab Core) (sec : Nat) (mask : BitVec 128) (data : BitVec 512)
    (poison : BitVec 8) (ecode : BitVec 6) (key gen : Nat) :
    (s.withCores cs).hbmWrite sec mask data poison ecode key gen
      = (s.hbmWrite sec mask data poison ecode key gen).withCores cs := by
  unfold State.hbmWrite
  split <;> rfl

theorem State.withCores_uncache (s : State) (cs : Tab Core) (sec : Nat) (x : CSec) :
    (s.withCores cs).uncache .l2 sec x = (s.uncache .l2 sec x).withCores cs := by
  generalize ht : s.setCached .l2 sec none = t
  have htc : (s.withCores cs).setCached .l2 sec none = t.withCores cs := by
    rw [← ht]
    rfl
  have hforget : (t.withCores cs).l2Forget x.home sec = (t.l2Forget x.home sec).withCores cs := by
    have hcached : ∀ y, (t.withCores cs).cached .l2 y = t.cached .l2 y := fun _ => rfl
    simp only [State.l2Forget, hcached]
    split <;> rfl
  simp only [State.uncache, ht, htc, beq_self_eq_true, if_true, hforget]

theorem State.withCores_dropOther (s : State) (cs : Tab Core) (sec key gen : Nat) :
    (s.withCores cs).dropOther .l2 sec key gen = (s.dropOther .l2 sec key gen).withCores cs := by
  have hcached : (s.withCores cs).cached .l2 sec = s.cached .l2 sec := rfl
  unfold State.dropOther
  rw [hcached]
  cases s.cached .l2 sec with
  | none => rfl
  | some x =>
    dsimp only
    split
    · rfl
    split
    · exact State.withCores_uncache ..
    · rw [State.withCores_uncache]
      simp only [State.pushDown, nextStore, State.withCores_hbmWrite]

theorem State.withCores_l2Evict (s : State) (cs : Tab Core) (sec : Nat) :
    (s.withCores cs).l2Evict sec = (s.l2Evict sec).withCores cs := by
  have hcached : (s.withCores cs).cached .l2 sec = s.cached .l2 sec := rfl
  unfold State.l2Evict
  rw [hcached]
  cases s.cached .l2 sec with
  | none => rfl
  | some x => exact State.withCores_hbmWrite (s.setCached .l2 sec none) cs ..

theorem State.withCores_l2Request (s : State) (cs : Tab Core) (part : Option Nat) (home sec : Nat) :
    ((s.withCores cs).l2Request part home sec).2 = ((s.l2Request part home sec).2).withCores cs := by
  have hways : (s.withCores cs).waysOf part home sec = s.waysOf part home sec := by cases part <;> rfl
  have hlines : (s.withCores cs).l2Lines (l2Set home sec) = s.l2Lines (l2Set home sec) := rfl
  simp only [State.l2Request, hways, hlines, State.withCores_l2Evict]
  split
  · split <;> rfl
  split
  · rfl
  split
  · rfl
  split <;> rfl

/-- What a read through the L2 alone gives. -/
theorem State.fetch_l2_fst (s : State) (part : Option Nat) (sec key home : Nat) (need : BitVec 128) :
    (s.fetch part sec key home need [.l2]).1 =
      if s.unreachable home then errorSec key (s.keyGen key) home
      else
        match (s.dropOther .l2 sec key (s.keyGen key)).cached .l2 sec with
        | some x =>
          if x.valid &&& need = need then x
          else x.fill (((s.dropOther .l2 sec key (s.keyGen key)).l2Request part home sec).2.hbmRead sec key home)
        | none =>
          { (s.dropOther .l2 sec key (s.keyGen key)).hbmRead sec key home with dirty := 0, owner := part.getD 16 } := by
  simp only [State.fetch, beq_self_eq_true, Bool.and_true]
  generalize s.dropOther .l2 sec key (s.keyGen key) = t
  split
  · rfl
  cases t.cached .l2 sec with
  | some x =>
    simp only [if_true]
    split <;> rfl
  | none =>
    have hkeep : ∀ (b : Bool) (r : Bool × State) (z : CSec),
        (if b then (z, t) else
          match r with
          | (true, u) => (z, u.setCached .l2 sec (some z))
          | (false, u) => (z, u)).1 = z := by
      rintro (_ | _) ⟨_ | _, u⟩ z <;> rfl
    exact hkeep (t.unreachable home) (t.claimLine part .l2 home sec) _

theorem State.withCores_fetch (s : State) (cs : Tab Core) (part : Option Nat) (sec key home : Nat) (need : BitVec 128) :
    ((s.withCores cs).fetch part sec key home need [.l2]).1 = (s.fetch part sec key home need [.l2]).1 := by
  have hunreach : (s.withCores cs).unreachable home = s.unreachable home := rfl
  have hgen : (s.withCores cs).keyGen key = s.keyGen key := rfl
  have hcached : ∀ t : State, (t.withCores cs).cached .l2 sec = t.cached .l2 sec := fun _ => rfl
  have hread : ∀ t : State, (t.withCores cs).hbmRead sec key home = t.hbmRead sec key home := fun _ => rfl
  simp only [State.fetch_l2_fst, hunreach, hgen, State.withCores_dropOther, hcached, State.withCores_l2Request, hread]

theorem State.withCores_readPath (s : State) (cs : Tab Core) (part : Option Nat) (p : Path) (len : Nat) :
    ((s.withCores cs).readPath part p len [.l2]).1 = (s.readPath part p len [.l2]).1 := by
  have hfetch := s.withCores_fetch cs part (p.pa / 64) p.key p.home (byteMask (p.pa % 64) len)
  simp only [State.readPath, hfetch]
  split <;> rfl

theorem State.wordsAt_congr {s t : State} {g : Nat} (v : Nat) (ht : t = { s with cores := t.cores })
    (hemul : (t.core g).emul = (s.core g).emul) (hpart : (t.core g).part = (s.core g).part) :
    t.wordsAt (.core g) v = s.wordsAt (.core g) v := by
  have hserv : t.inService (.core g) = s.inService (.core g) := by simp only [State.inService, hemul]
  have hroot : t.codeRoot (.core g) = s.codeRoot (.core g) := by
    simp only [State.codeRoot, hserv, State.partOfAgent, hpart]
    rw [ht]
    rfl
  have hpath : ∀ va, t.codePath (.core g) va = s.codePath (.core g) va := fun va => by
    simp only [State.codePath, hroot, hserv]
    rw [ht]
    rfl
  have hread : t.readCode (.core g) = s.readCode (.core g) := by
    funext va
    have hpaths : ∀ p, (t.readPath none p 8 [.l2]).1 = (s.readPath none p 8 [.l2]).1 := fun p => by
      rw [ht]
      exact s.withCores_readPath t.cores none p 8
    simp only [State.readCode, hpath, hpaths]
  simp only [State.wordsAt, hread]

theorem State.sepcShape_congr {s t : State} {g : Nat} (k : Ctx) (ht : t = { s with cores := t.cores })
    (hcore : (s.core g).TakeFrame (t.core g)) : t.sepcShape g k = s.sepcShape g k := by
  have hwords := fun v => State.wordsAt_congr (s := s) (t := t) (g := g) v ht (by rw [hcore]) (by rw [hcore])
  simp only [State.sepcShape, hwords]
  rw [hcore]

/-! Where `eret` goes on. -/

/-- `eret` returns with the values its operands take, once it waits for no access of its routine. -/
theorem exec_eret {s u : State} {g : Nat} {f : BaseF} {carry : List (BitVec 8)} {vs ws : List Val} (hf : s.focus = .core g)
    (hact : MayAct s .system (carryOps carry) 0 vs) (htake : Takes s (.core g) (carryOps carry) vs u ws)
    (hwait : s.eretWaits (.core g) = false) :
    exec (.eret f carry) s = .next (u.eretNow (.core g) ws false (lenOf (.eret f carry))) := by
  rw [exec, execEret, withOps_ready (kinds := []) _ _ hact, hf, hwait, if_neg Bool.false_ne_true]
  exact popThen_takes _ _ htake

/-- `eret` in the handler of an instruction's trap. -/
theorem State.eretNow_handler {s u : State} {g : Nat} {k : Ctx} (vs : List Val) (again : Bool) (len : Nat)
    (hu : u = { s with cores := u.cores }) (hcore : (s.core g).TakeFrame (u.core g)) (hk : (s.core g).svcKept = some k)
    (hemul : (s.core g).emul = none) (hcmd : (s.core g).svcCmd = none) :
    ((u.eretNow (.core g) vs again len).core g).svcKept = none ∧ ((u.eretNow (.core g) vs again len).core g).wait = none
    ∧ ((u.eretNow (.core g) vs again len).core g).ctx = if again then (s.sepcShape g k).1
        else ((s.sepcShape g k).1.push ((s.sepcShape g k).2.1.map (fun v => .ready (zeroVal v)))).advance (s.sepcShape g k).2.2 := by
  have hemul' : (u.core g).emul = none := by rw [hcore]; exact hemul
  have hk' : (u.core g).svcKept = some k := by rw [hcore]; exact hk
  have hcmd' : (u.core g).svcCmd = none := by rw [hcore]; exact hcmd
  have ht : u.eretNow (.core g) vs again len
      = (u.commitAll g).modCore g (fun c => c.unstop.leaveHandler (s.sepcShape g k) again) := by
    simp only [State.eretNow, hemul', hk', hcmd', Option.filter_none, State.sepcShape_congr k hu hcore]
    rfl
  rw [ht, State.core_modCore_self]
  exact ⟨rfl, rfl, rfl⟩

/-- `eret` in the handler of an engine command's trap, where SEPC names the command. -/
theorem State.eretNow_command {s u : State} {g : Nat} {k : Ctx} {q : Eng} {seq : Nat} (vs : List Val) (again : Bool)
    (len : Nat) (hcore : (s.core g).TakeFrame (u.core g)) (hk : (s.core g).svcKept = some k)
    (hemul : (s.core g).emul = none) (hcmd : (s.core g).svcCmd = some (q, seq, (s.core g).sepc.toNat)) :
    u.eretNow (.core g) vs again len = (u.commitAll g).modCore g (fun c => c.leaveForCmd k q seq again) := by
  have hemul' : (u.core g).emul = none := by rw [hcore]; exact hemul
  have hk' : (u.core g).svcKept = some k := by rw [hcore]; exact hk
  have hcmd' : (u.core g).svcCmd = some (q, seq, (s.core g).sepc.toNat) := by rw [hcore]; exact hcmd
  have hsepc : (u.core g).sepc = (s.core g).sepc := by rw [hcore]
  simp only [State.eretNow, hemul', hk', hcmd', hsepc, Option.filter_some, decide_true, if_true]
  rfl

/-- The command of a handler's trap is left with its queue's other commands going on. -/
theorem Core.leaveForCmd_again (c : Core) (k : Ctx) (q : Eng) (seq : Nat) :
    (c.leaveForCmd k q seq true).svcKept = none ∧ (c.leaveForCmd k q seq true).wait = none
    ∧ (c.leaveForCmd k q seq true).ctx = k
    ∧ (c.leaveForCmd k q seq true).queue q = (c.queue q).map (fun x => { x with stopped := false }) := by
  obtain ⟨d, hd⟩ : ∃ d : Core, d = { c with svcKept := none, svcCmd := none, wait := none, ctx := k, late := c.svcLate } :=
    ⟨_, rfl⟩
  have ht : c.leaveForCmd k q seq true = d.unstop := by rw [hd]; rfl
  have hframe := d.unstop_frame
  have hq : d.queue q = c.queue q := by
    rw [hd]
    cases q <;> rfl
  rw [ht]
  refine ⟨?_, ?_, ?_, ?_⟩
  case refine_4 => rw [Core.queue_unstop, hq]
  all_goals rw [hframe, hd]

/-- A command that counts as completed is in no place of its queue any more. -/
theorem Core.leaveForCmd_completed (c : Core) (k : Ctx) (q : Eng) (seq : Nat) :
    (c.leaveForCmd k q seq false).svcKept = none ∧ (c.leaveForCmd k q seq false).wait = none
    ∧ (c.leaveForCmd k q seq false).ctx.vpc = k.vpc ∧ (c.leaveForCmd k q seq false).ctx.pos = k.pos
    ∧ ∀ x ∈ (c.leaveForCmd k q seq false).queue q, x.seq ≠ seq := by
  obtain ⟨d, hd⟩ : ∃ d : Core, d = { c with svcKept := none, svcCmd := none, wait := none, ctx := k, late := c.svcLate } :=
    ⟨_, rfl⟩
  have hseq : ∀ (l : List Cmd) (x : Cmd), x ∈ l.map (fun y => { y with stopped := false }) → (∀ y ∈ l, y.seq ≠ seq) →
      x.seq ≠ seq := by
    intro l x hx h
    obtain ⟨y, hy, rfl⟩ := List.mem_map.mp hx
    exact h y hy
  cases hfind : (d.queue q).find? (fun x => x.seq = seq) with
  | none =>
    have ht : c.leaveForCmd k q seq false = d.unstop := by
      rw [hd] at hfind ⊢
      simp only [Core.leaveForCmd, hfind]
      rfl
    have hframe := d.unstop_frame
    rw [ht]
    refine ⟨?_, ?_, ?_, ?_, fun x hx => ?_⟩
    case refine_5 =>
      rw [Core.queue_unstop] at hx
      refine hseq _ x hx fun y hy => ?_
      simpa using List.find?_eq_none.mp hfind y hy
    all_goals rw [hframe, hd]
  | some m =>
    have ht : c.leaveForCmd k q seq false = (d.completeCmd q seq (m.kinds.map zeroVal)).unstop := by
      rw [hd] at hfind ⊢
      simp only [Core.leaveForCmd, hfind]
      rfl
    obtain ⟨hctx, hwait, hkept, hqueue⟩ := d.completeCmd_ctx q seq (m.kinds.map zeroVal)
    have hframe := (d.completeCmd q seq (m.kinds.map zeroVal)).unstop_frame
    rw [ht]
    refine ⟨?_, ?_, ?_, ?_, fun x hx => ?_⟩
    · rw [hframe]
      exact hkept (by rw [hd])
    · rw [hframe]
      rw [hd] at hwait ⊢
      exact hwait
    · rw [hframe]
      dsimp only
      rw [hctx, hd]
    · rw [hframe]
      dsimp only
      rw [hctx, hd]
    · rw [Core.queue_unstop] at hx
      exact hseq _ x hx hqueue

end Sys2Proof.Machine

section
open Sys2Proof Sys2Proof.Machine

/-- Settles O13: where `eret` and `eret.retry` leave the handler, by what it was entered for, and the routine. -/
theorem returnFromException : Obligations.ReturnFromException := by
  unfold Obligations.ReturnFromException
  refine ⟨fun s u g f carry vs ws k hf hk hemul htmpl => ⟨fun hcmd => ?handler, fun q seq hcmd => ?command⟩,
    fun s u g f carry vs ws e hf he hfault htmpl hacc hact htake hkinds => ?routine⟩
  case handler =>
    have hshape := s.sepcShape_ctx g k
    refine ⟨fun hact htake => ?eret, fun hact => ?retry, fun hheap => ?heap, fun hheap => ?away, fun hv => ?same,
      fun b i n hheap hb hv hlo hhi hdec => ?other⟩
    case eret =>
      rw [hf] at htake
      obtain ⟨hu, hcore⟩ := htake.frame
      obtain ⟨hkept, hwait, hctx⟩ := State.eretNow_handler ws false (lenOf (.eret f carry)) hu hcore hk hemul hcmd
      refine ⟨u.eretNow (.core g) ws false (lenOf (.eret f carry)),
        exec_eret hf hact htake (by simp [State.eretWaits, hemul]), hkept, hwait, ?_⟩
      rw [hctx, if_neg Bool.false_ne_true, Ctx.push_advance_of_tmpl_nil _ _ (by rw [hshape]; exact htmpl), hshape]
      simp
    case retry =>
      obtain ⟨hkept, hwait, hctx⟩ := State.eretNow_handler (s := s) (u := s) [] true 1 rfl rfl hk hemul hcmd
      refine ⟨s.eretNow (.core g) [] true 1, ?_, hkept, hwait, hctx⟩
      rw [exec, execEretRetry, withOps_ready (kinds := []) _ _ hact, hf]
    case heap =>
      obtain ⟨hpc, hne, hcause⟩ := hheap
      have hpc' : k.enterPc ≠ k.vpc := hpc ▸ hne
      simp [State.sepcShape, hcmd, hpc, hpc', hcause]
    case away =>
      by_cases hv : (s.core g).sepc.toNat = k.vpc
      · simp [State.sepcShape, hcmd, hv]
      · have hno : ¬((s.core g).sepc.toNat = k.enterPc ∧ bitsNat (s.core g).scause 0 16 = cTRANSLATE + 256) :=
          fun h => hheap ⟨h.1, hv, h.2⟩
        simp [State.sepcShape, hcmd, hv, hno]
    case same =>
      simp [State.sepcShape, hcmd, hv]
    case other =>
      have hno : ¬((s.core g).sepc.toNat = k.enterPc ∧ bitsNat (s.core g).scause 0 16 = cTRANSLATE + 256) :=
        fun h => hheap ⟨h.1, hv, h.2⟩
      simp [State.sepcShape, hcmd, hv, hno, hb, hlo, hhi, hdec]
  case command =>
    refine ⟨fun hact htake => ?eret, fun hact => ?retry⟩
    case eret =>
      rw [hf] at htake
      obtain ⟨hu, hcore⟩ := htake.frame
      have ht := State.eretNow_command ws false (lenOf (.eret f carry)) hcore hk hemul hcmd
      refine ⟨u.eretNow (.core g) ws false (lenOf (.eret f carry)),
        exec_eret hf hact htake (by simp [State.eretWaits, hemul]), ?_⟩
      · rw [ht, State.core_modCore_self]
        exact Core.leaveForCmd_completed ..
    case retry =>
      have ht := State.eretNow_command (s := s) (u := s) [] true 1 rfl hk hemul hcmd
      have hcommit := s.commitFirst_core g (s.core g).acc.length g
      obtain ⟨hkept, hwait, hctx, hq⟩ := ((s.commitAll g).core g).leaveForCmd_again k q seq
      refine ⟨s.eretNow (.core g) [] true 1, ?_, ?_⟩
      · rw [exec, execEretRetry, withOps_ready (kinds := []) _ _ hact, hf]
      · rw [ht, State.core_modCore_self]
        refine ⟨hkept, hwait, hctx, hq.trans ?_⟩
        rw [State.commitAll, hcommit]
        cases q <;> rfl
  case routine =>
    rw [hf] at htake
    obtain ⟨hu, hcore⟩ := htake.frame
    have he' : (u.core g).emul = some e := by rw [hcore]; exact he
    have ht : u.eretNow (.core g) ws false (lenOf (.eret f carry)) = u.modCore g (fun c => c.leaveRoutine e ws) := by
      simp [State.eretNow, he', kindsAgree, hkinds]
    refine ⟨u.eretNow (.core g) ws false (lenOf (.eret f carry)),
      exec_eret hf hact htake (by simp [State.eretWaits, Core.quiet, hacc]), ?_⟩
    · rw [ht, State.core_modCore_self]
      simp only [Core.leaveRoutine, hfault]
      refine ⟨trivial, ?_⟩
      rw [Ctx.push_advance_of_tmpl_nil _ _ htmpl]
      simp

end
end

section
/-! PROOFS. One step, queueing an access, cache steps and the values of atomics (R152, R181, R253, R262, R283 to R285). -/

namespace Sys2Proof.Machine

/-! What an agent finds at its virtual PC. -/

/-- A word that no patch slot acts on is the instruction it decodes to. -/
theorem State.lookWord_plain {s : State} {a : Agent} {slots : Tab Patch} {w : Word} {ws : List Word} {i : Instr} {n : Nat}
    (cut : CodeFault) (again : Bool) (hdec : decode (w :: ws) = .ok (i, n))
    (hslot : s.inService a = true ∨ match0 slots (s.partOfAgent a) w = none) :
    s.lookWord a slots w ws cut again false = .instr i := by
  have hnone : (if s.inService a = true then none else match0 slots (s.partOfAgent a) w) = none := by
    rcases hslot with h | h <;> simp [h]
  simp [State.lookWord, hdec, hnone]

theorem State.lookBlock_instr {s : State} {a : Agent} {b : Block} {k : Nat} {w : Word} {ws : List Word} {i : Instr} {n : Nat}
    (hread : b.readable k = w :: ws) (hdec : decode (w :: ws) = .ok (i, n))
    (hslot : s.inService a = true ∨ match0 b.slots (s.partOfAgent a) w = none) : s.lookBlock a b k = .instr i := by
  unfold State.lookBlock
  rw [hread]
  rcases b.badFrom k with _ | ⟨j, f⟩
  · cases b.next with
    | none => exact State.lookWord_plain _ _ hdec hslot
    | some _ => exact State.lookWord_plain _ _ hdec hslot
  · exact State.lookWord_plain _ _ hdec hslot

/-! Queues. -/

/-- Queues whose oldest access is neither an `align` nor a descriptor that has been read stand as they are. -/
theorem Core.settle_of_head {c : Core} (h : ∀ y ∈ c.acc.head?, y.op ≠ .align ∧ (y.stage = .performed → ∀ n, y.op ≠ .tdRec n)) :
    c.settle = c := by
  unfold Core.settle
  cases hacc : c.acc with
  | nil =>
    rw [Core.settleFrom, ← hacc]
  | cons y ys =>
    obtain ⟨halign, hrec⟩ := h y (by simp [hacc])
    rw [Core.settleFrom]
    split
    next h => exact absurd h halign
    next n h hs => exact absurd h (hrec hs n)
    · rw [← hacc]

/-! What a write-back leaves of the cores. -/

/-- The storage below a cache is never an LSC. -/
theorem nextStore_ne_lsc {c n : CacheId} {home : Nat} (h : nextStore c home = some n) (g : Nat) : n ≠ .lsc g := by
  unfold nextStore at h
  split at h
  · split at h <;> cases h <;> exact nofun
  · cases h
    exact nofun
  · cases h

theorem State.setCached_cores {c : CacheId} (s : State) (sec : Nat) (x : Option CSec) (h : ∀ g, c ≠ .lsc g) :
    (s.setCached c sec x).cores = s.cores := by
  cases c with
  | lsc g => exact absurd rfl (h g)
  | rdc d => rfl
  | l2 => rfl

theorem State.uncache_cores {c : CacheId} (s : State) (sec : Nat) (x : CSec) (h : ∀ g, c ≠ .lsc g) :
    (s.uncache c sec x).cores = s.cores := by
  unfold State.uncache
  dsimp only
  split
  · unfold State.l2Forget
    split
    · exact State.setCached_cores s sec none h
    · exact State.setCached_cores s sec none h
  · exact State.setCached_cores s sec none h

theorem State.hbmWrite_cores (s : State) (sec : Nat) (mask : BitVec 128) (data : BitVec 512) (poison : BitVec 8)
    (ecode : BitVec 6) (key gen : Nat) : (s.hbmWrite sec mask data poison ecode key gen).cores = s.cores := by
  unfold State.hbmWrite
  split <;> rfl

theorem State.putBytes_cores {c : CacheId} (s : State) (sec : Nat) (mask : BitVec 128) (data : BitVec 512) (poison : BitVec 8)
    (ecode : BitVec 6) (key gen home owner : Nat) (h : ∀ g, c ≠ .lsc g) :
    (s.putBytes (some c) sec mask data poison ecode key gen home owner).cores = s.cores :=
  State.setCached_cores _ _ _ h

theorem State.l2Evict_cores (s : State) (sec : Nat) : (s.l2Evict sec).cores = s.cores := by
  unfold State.l2Evict
  split
  · rfl
  · exact State.hbmWrite_cores ..

theorem State.l2Request_cores (s : State) (part : Option Nat) (home sec : Nat) :
    (s.l2Request part home sec).2.cores = s.cores := by
  simp only [State.l2Request]
  split
  · split <;> rfl
  split
  · rfl
  split
  · rfl
  split
  · rfl
  · exact (State.l2Evict_cores ..).trans (State.l2Evict_cores ..)

/-- A sector that is moved down goes to the next storage, once one under another key has left it. -/
theorem State.pushDown_succ {c n : CacheId} {x : CSec} (s : State) (sec fuel : Nat) (hn : nextStore c x.home = some n) :
    ∃ t : State, (t = s ∨ ∃ y, t = (s.uncache n sec y).pushDown n sec y fuel)
      ∧ s.pushDown c sec x (fuel + 1) =
        if x.dirty = 0 then t
        else if n == .l2 then
          (t.l2Request (if x.owner < 16 then some x.owner else none) x.home sec).2.putBytes
            (if (t.l2Request (if x.owner < 16 then some x.owner else none) x.home sec).1 then some n else none)
            sec x.dirty x.data x.poison x.ecode x.key x.gen x.home x.owner
        else if t.hasRoom n sec then
          t.putBytes (some n) sec x.dirty x.data x.poison x.ecode x.key x.gen x.home x.owner
        else t.pushDown n sec x fuel := by
  cases hcached : s.cached n sec with
  | none =>
    refine ⟨s, .inl rfl, ?_⟩
    simp only [State.pushDown, hn, hcached]
  | some y =>
    by_cases hkey : y.key = x.key ∧ y.gen = x.gen
    · refine ⟨s, .inl rfl, ?_⟩
      simp only [State.pushDown, hn, hcached, if_pos hkey]
    · refine ⟨_, .inr ⟨y, rfl⟩, ?_⟩
      simp only [State.pushDown, hn, hcached, if_neg hkey]

/-- A sector that is moved down reaches no LSC. -/
theorem State.pushDown_cores : ∀ (fuel : Nat) (s : State) (c : CacheId) (sec : Nat) (x : CSec),
    (s.pushDown c sec x fuel).cores = s.cores
  | 0, _, _, _, _ => rfl
  | fuel + 1, s, c, sec, x => by
    cases hn : nextStore c x.home with
    | none =>
      rw [State.pushDown, hn]
      exact State.hbmWrite_cores ..
    | some n =>
      have hlsc := nextStore_ne_lsc hn
      obtain ⟨t, ht, hpush⟩ := s.pushDown_succ sec fuel hn
      have htc : t.cores = s.cores := by
        rcases ht with rfl | ⟨y, rfl⟩
        · rfl
        · exact (State.pushDown_cores fuel ..).trans (State.uncache_cores _ _ _ hlsc)
      rw [hpush, ← htc]
      split
      · rfl
      split
      · generalize (if x.owner < 16 then some x.owner else none) = part
        rw [← State.l2Request_cores t part x.home sec]
        split
        · exact State.putBytes_cores _ _ _ _ _ _ _ _ _ _ hlsc
        · exact State.hbmWrite_cores ..
      split
      · exact State.putBytes_cores _ _ _ _ _ _ _ _ _ _ hlsc
      · exact State.pushDown_cores fuel ..

/-! Bytes and words of HBM. -/

theorem State.hbmByte_hbmWrite (s : State) (sec : Nat) (mask : BitVec 128) (data : BitVec 512) (poison : BitVec 8)
    (ecode : BitVec 6) (key gen a : Nat) :
    (s.hbmWrite sec mask data poison ecode key gen).hbmByte a =
      if a / 64 = sec then
        mergeByte (bitsNat mask (2 * (a % 64)) 2) (s.hbmByte a) (data.extractLsb' (8 * (a % 64)) 8)
      else s.hbmByte a := by
  unfold State.hbmWrite
  split
  next h => simp [h, bitsNat, mergeByte]
  · exact tget_hbmStore ..

/-- Of the nibbles of two bytes. -/
theorem toNat_or_nibbles (x y : Byte) :
    ((x &&& 0xF0) ||| (y &&& 0x0F)).toNat = x.toNat / 16 * 16 + y.toNat % 16 := by
  have hcat : (x &&& 0xF0) ||| (y &&& 0x0F) = x.extractLsb' 4 4 ++ y.extractLsb' 0 4 := by
    refine BitVec.eq_of_getLsbD_eq fun i hi => ?_
    simp only [BitVec.getLsbD_or, BitVec.getLsbD_and, BitVec.getLsbD_append, BitVec.getLsbD_extractLsb']
    interval_cases i <;> simp
  rw [hcat, BitVec.toNat_append, ← Nat.shiftLeft_add_eq_or_of_lt (BitVec.isLt _)]
  have := x.isLt
  simp [Nat.shiftLeft_eq, Nat.shiftRight_eq_div_pow]
  omega

end Sys2Proof.Machine

section
open Sys2Proof Sys2Proof.Machine

/-- Settles O4: the item of the agenda is carried out, and what stands at the virtual PC is the decoded instruction. -/
theorem stepRunsTheDecodedInstruction : Obligations.StepRunsTheDecodedInstruction := by
  unfold Obligations.StepRunsTheDecodedInstruction
  refine ⟨fun s a xs b w ws i n hagenda hexists hrun hboundary htmpl hblk hstale hread hdec hslot => ?run,
    fun s a i xs hagenda hexists hev => ?event⟩
  case run =>
    have hctx : ({ s with agenda := xs, focus := a } : State).ctxOf a = s.ctxOf a := by cases a <;> rfl
    have hserv : ({ s with agenda := xs, focus := a } : State).inService a = s.inService a := by cases a <;> rfl
    have hpart : ({ s with agenda := xs, focus := a } : State).partOfAgent a = s.partOfAgent a := by cases a <;> rfl
    have hlook : ({ s with agenda := xs, focus := a } : State).look a = .instr i := by
      simp only [State.look, hctx, htmpl, hblk, Option.filter_some, hstale]
      exact State.lookBlock_instr hread hdec (by rw [hserv, hpart]; exact hslot)
    rw [step_cons hagenda]
    simp only [doAction, hexists, if_true, runAgent, hrun, Bool.not_true, Bool.false_eq_true, if_false, hboundary, hlook]
  case event =>
    exact step_event hagenda hexists (by simp [Instr.isEvent, hev])

/-- Settles O24: behind the others, and settling changes nothing. -/
theorem issueAccess : Obligations.IssueAccess := by
  unfold Obligations.IssueAccess
  intro c x len htmpl hhead
  have hissue : ∀ results, c.issueAcc x results len = { c with
      acc := c.acc ++ [x], serials := c.serials + results,
      ctx := (c.ctx.push ((List.range results).map (fun i => .pending false (c.serials + i)))).advance len } := by
    intro results
    exact Core.settle_of_head (c := { c with
      acc := c.acc ++ [x], serials := c.serials + results,
      ctx := (c.ctx.push ((List.range results).map (fun i => .pending false (c.serials + i)))).advance len }) hhead
  rw [hissue, hissue, Ctx.push_advance_of_tmpl_nil _ _ htmpl, Ctx.push_advance_of_tmpl_nil _ _ htmpl]
  exact ⟨rfl, rfl⟩

/-- Settles O27: the write of a mask, and the write-back through it. -/
theorem cacheSteps : Obligations.CacheSteps := by
  unfold Obligations.CacheSteps
  refine ⟨fun s sec mask data poison ecode key gen a => s.hbmByte_hbmWrite sec mask data poison ecode key gen a,
    fun old new => ⟨rfl, rfl, toNat_or_nibbles old new, ?high⟩,
    fun s c sec => ⟨rfl, fun hc => ?back, fun x hx hdirty => ?drop⟩,
    fun s sec x hx hdirty => ?l2, fun s g sec x hx hdirty hreach => ?lsc⟩
  case high =>
    rw [mergeByte, BitVec.or_comm]
    exact toNat_or_nibbles new old
  case back =>
    cases c with
    | l2 => exact absurd rfl hc
    | lsc g => rfl
    | rdc d => rfl
  case drop =>
    rw [exec, execCacheLineDrop]
    simp only [State.dropClean, hx, hdirty, if_true, State.uncache]
    cases c <;> rfl
  case l2 =>
    have hback : s.writeBack .l2 sec
        = (s.setCached .l2 sec (some { x with dirty := 0 })).hbmWrite sec x.dirty x.data x.poison x.ecode x.key x.gen := by
      simp only [State.writeBack, hx, hdirty, if_false, State.stays, Bool.false_eq_true, State.pushDown, nextStore]
    rw [hback]
    refine ⟨?_, fun a => ?_⟩
    · have hl2 : ∀ t : State, (t.hbmWrite sec x.dirty x.data x.poison x.ecode x.key x.gen).cached .l2 sec
          = t.cached .l2 sec := by
        intro t
        unfold State.hbmWrite
        split <;> rfl
      rw [hl2, State.cached_setCached, if_pos rfl]
    · rw [State.hbmByte_hbmWrite]
      rfl
  case lsc =>
    have hback : s.writeBack (.lsc g) sec
        = (s.setCached (.lsc g) sec (some { x with dirty := 0 })).pushDown (.lsc g) sec x 3 := by
      simp only [State.writeBack, hx, if_neg hdirty, State.stays, hreach, Bool.and_false, Bool.false_eq_true, if_false]
    have hcached : ∀ t u : State, t.cores = u.cores → t.cached (.lsc g) sec = u.cached (.lsc g) sec := by
      intro t u h
      simp only [State.cached, State.core, h]
    rw [hback, hcached _ _ (State.pushDown_cores ..), State.cached_setCached, if_pos rfl]

/-- Settles O28: the exact values of `amoNew` and `barNew`. -/
theorem atomicResults : Obligations.AtomicResults := by
  unfold Obligations.AtomicResults
  refine ⟨fun uns w x y z _ => ?amo, fun count gen ec err n rep hcount hgen hec herr hn hn1 => ?bar⟩
  case amo =>
    have hval : ∀ x : BitVec w, readInt w uns x.toNat = Spec.val uns x := by
      intro x
      cases uns
      · simp [readInt, Spec.val, toSigned_eq_toInt]
      · simp [readInt, Spec.val, Nat.mod_eq_of_lt x.isLt]
    refine ⟨by simp [amoNew, BitVec.toNat_add], ?_, ?_, rfl, rfl, rfl, rfl, ?_⟩
    · simp only [amoNew, hval, apply_ite BitVec.toNat]
    · simp only [amoNew, hval, ge_iff_le, apply_ite BitVec.toNat]
    · simp only [amoNew, BitVec.toNat_inj]
  case bar =>
    dsimp only
    refine ⟨?fields, fun k hk hk9 => ?reserved⟩
    case fields =>
      have hfields : ∀ w, w = count + gen * 2 ^ 32 + ec * 2 ^ 48 + err * 2 ^ 63 →
          w / 2 ^ 54 % 2 ^ 9 = 0 ∧ w % 2 ^ 32 = count ∧ w / 2 ^ 32 % 2 ^ 16 = gen ∧ w / 2 ^ 48 % 64 = ec ∧ w / 2 ^ 63 % 2 = err := by
        intro w hw
        norm_num at hw hcount hgen hec herr ⊢
        omega
      obtain ⟨hres, hc, hg, he, hr⟩ := hfields _ rfl
      simp only [barNew, hres, hc, hg, he, hr]
      cases rep <;> simp
    case reserved =>
      have hres : (count + gen * 2 ^ 32 + ec * 2 ^ 48 + err * 2 ^ 63 + k * 2 ^ 54) / 2 ^ 54 % 2 ^ 9 ≠ 0 := by
        norm_num at hcount hgen hec herr hk9 ⊢
        omega
      simp only [barNew, if_pos hres]

end
end

section
/-! PROOFS. Loads, stores, atomics, fences and cache operations become accesses (R177 to R182, R280 to R285). -/

namespace Sys2Proof.Machine

/-- An instruction that queues an access whose address passes its checks, with room in its queues. -/
theorem State.queueAcc_ready {s t : State} {g n : Nat} {op : AccOp} {pad : Bool} {a : Int} {need : Need} {p : Path}
    (data hint : Nat) (kinds : List Bool) (h : s.checkAddr g pad a n need = (.ok p, t)) (hroom : (s.core g).noRoom op = false) :
    s.queueAcc g op pad a n need data hint kinds
      = .next (t.modCore g (fun c => c.issueAcc (mkAcc c op pad a.toNat n p data hint) kinds.length 1)) := by
  simp only [State.queueAcc, h, hroom, Bool.false_eq_true, if_false]

/-- An instruction that acts on core `g` by queueing an access queues it. -/
theorem queuesAccess_of_exec {s : State} {g n : Nat} {i : Instr} {op : AccOp} {pad : Bool} {a : Int} {need : Need}
    {data hint : Nat} {kinds : List Bool} (h : exec i s = s.queueAcc g op pad a n need data hint kinds) :
    QueuesAccess s g i op pad a n need data hint kinds.length :=
  fun _ _ hchk hroom => h.trans (State.queueAcc_ready data hint kinds hchk hroom)

/-- The form of a load or store that stream text does not have. -/
theorem streamIllegal_core {s : State} {g : Nat} (f : ImmF) (hf : s.focus = .core g) : streamIllegal s f = false := by
  simp [streamIllegal, hf, isStream]

theorem streamIllegal_plain {s : State} {f : ImmF} (hpad : f.fn.getLsbD 2 = false) (hhint : bitsNat f.fn 0 2 = 0) :
    streamIllegal s f = false := by
  simp only [streamIllegal, hpad, hhint]
  simp

/-! Elements of a tensor. -/

/-- A load of an element that lies in the tensor, its slot free and its descriptor valid. -/
theorem exec_ldD_at {s : State} {g byte : Nat} {f : BaseF} {o : Word} {e0 e1 e2 : Int} {hi : Option Bool} {d : Desc}
    (hd : Desc.of ((s.core g).slot (bitsNat f.mod 16 6)) = d) (h : MayActOn s g .kernel (.ldD f) [.scalar o])
    (hbusy : (s.core g).slotBusy (bitsNat f.mod 16 6) = false) (hdesc : descFault d = none)
    (hidx : offsetIdx d o.toInt = (e0, e1, e2)) (hloc : d.locate e0 e1 e2 false = .at byte hi) :
    exec (.ldD f) s =
      if (s.core g).outsidePad d byte then .next (s.trap (.core g) { code := cBOUNDS, addr := byte } [false] 1)
      else
        s.queueAcc g (.load (tyWidth d.fmt) (!f.mod.getLsbD 0 && isIntTy d.fmt) (hi == some true)) (d.space == 1) byte
          (ceilDiv (tyWidth d.fmt) 8) Need.load 0 0 [false] := by
  have hw : w0 [Val.scalar o] = o := rfl
  rw [exec, execLdD, withOps_ready (kinds := [false]) 1 _ h.ready, h.focus]
  simp only [hd, hbusy, hdesc, hw, hidx, hloc, Bool.false_eq_true, if_false]

/-- A load of an element outside the tensor. -/
theorem exec_ldD_out {s : State} {g : Nat} {f : BaseF} {o : Word} {e0 e1 e2 : Int} {d : Desc}
    (hd : Desc.of ((s.core g).slot (bitsNat f.mod 16 6)) = d) (h : MayActOn s g .kernel (.ldD f) [.scalar o])
    (hbusy : (s.core g).slotBusy (bitsNat f.mod 16 6) = false) (hdesc : descFault d = none)
    (hidx : offsetIdx d o.toInt = (e0, e1, e2)) :
    (d.locate e0 e1 e2 false = .zero → exec (.ldD f) s = .next (s.retire (.core g) 1 [.scalar 0]))
    ∧ (d.locate e0 e1 e2 false = .bounds → exec (.ldD f) s = .next (s.trap (.core g) { code := cBOUNDS } [false] 1)) := by
  have hw : w0 [Val.scalar o] = o := rfl
  rw [exec, execLdD, withOps_ready (kinds := [false]) 1 _ h.ready, h.focus]
  constructor <;> intro hloc <;> simp only [hd, hbusy, hdesc, hw, hidx, hloc, Bool.false_eq_true, if_false]

/-- A store of an element that lies in the tensor, its slot free and its descriptor valid. -/
theorem exec_stD_at {s : State} {g byte : Nat} {f : BaseF} {o v : Word} {e0 e1 e2 : Int} {hi : Option Bool} {d : Desc}
    (hd : Desc.of ((s.core g).slot (bitsNat f.mod 16 6)) = d) (h : MayActOn s g .kernel (.stD f) [.scalar o, .scalar v])
    (hbusy : (s.core g).slotBusy (bitsNat f.mod 16 6) = false) (hdesc : descFault d = none)
    (hidx : offsetIdx d o.toInt = (e0, e1, e2)) (hloc : d.locate e0 e1 e2 true = .at byte hi) :
    exec (.stD f) s =
      if (s.core g).outsidePad d byte then .next (s.trap (.core g) { code := cBOUNDS, addr := byte } [] 1)
      else
        s.queueAcc g (.store hi) (d.space == 1) byte (ceilDiv (tyWidth d.fmt) 8) Need.store
          (v.toNat % 2 ^ tyWidth d.fmt) 0 [] := by
  have hw0 : w0 [Val.scalar o, .scalar v] = o := rfl
  have hw1 : w1 [Val.scalar o, .scalar v] = v := rfl
  rw [exec, execStD, withOps_ready (kinds := []) 1 _ h.ready, h.focus]
  simp only [hd, hbusy, hdesc, hw0, hw1, hidx, hloc, Bool.false_eq_true, if_false]

/-- A store of an element outside the tensor. -/
theorem exec_stD_out {s : State} {g : Nat} {f : BaseF} {o v : Word} {e0 e1 e2 : Int} {d : Desc}
    (hd : Desc.of ((s.core g).slot (bitsNat f.mod 16 6)) = d) (h : MayActOn s g .kernel (.stD f) [.scalar o, .scalar v])
    (hbusy : (s.core g).slotBusy (bitsNat f.mod 16 6) = false) (hdesc : descFault d = none)
    (hidx : offsetIdx d o.toInt = (e0, e1, e2)) :
    (d.locate e0 e1 e2 true = .drop → exec (.stD f) s = .next (s.retire (.core g) 1 []))
    ∧ (d.locate e0 e1 e2 true = .bounds → exec (.stD f) s = .next (s.trap (.core g) { code := cBOUNDS } [] 1)) := by
  have hw : w0 [Val.scalar o, .scalar v] = o := rfl
  rw [exec, execStD, withOps_ready (kinds := []) 1 _ h.ready, h.focus]
  constructor <;> intro hloc <;> simp only [hd, hbusy, hdesc, hw, hidx, hloc, Bool.false_eq_true, if_false]

/-- An element of the pad outside its extent, as `ld.d` and `st.d` ask. -/
theorem Core.outsidePad_eq_true {c : Core} {d : Desc} {byte : Nat} (hspace : d.space = 1)
    (hout : padBytes c < byte + ceilDiv (tyWidth d.fmt) 8) : c.outsidePad d byte = true := by
  simp [Core.outsidePad, hspace, hout]

/-- Where its address passes its checks, an element of the pad lies inside its extent. -/
theorem State.outsidePad_of_checkAddr {s t : State} {g byte : Nat} {d : Desc} {need : Need} {p : Path}
    (h : s.checkAddr g (d.space == 1) byte (ceilDiv (tyWidth d.fmt) 8) need = (.ok p, t)) :
    (s.core g).outsidePad d byte = false := by
  unfold Core.outsidePad
  cases hspace : d.space == 1 with
  | false => rfl
  | true =>
    rw [hspace] at h
    simp only [State.checkAddr, if_true] at h
    split at h
    · cases h
    split at h
    · cases h
    next hin =>
      have := not_or.mp hin
      simp only [Bool.true_and, decide_eq_false_iff_not]
      omega

/-- The functions of the `amo` instructions. -/
theorem exec_amo (f : BaseF) {x : Instr × Nat} (s : State)
    (h : x ∈ [(Instr.amoAdd f, 0), (.amoMin f, 1), (.amoMax f, 2), (.amoAnd f, 3), (.amoOr f, 4), (.amoXor f, 5), (.amoSwap f, 6)]) :
    exec x.1 s = atomicOp x.1 f x.2 s ∧ kindsOf x.1 = [false] := by
  simp only [List.mem_cons, List.not_mem_nil, or_false] at h
  rcases h with rfl | rfl | rfl | rfl | rfl | rfl | rfl <;>
    simp only [exec, execAmoAdd, execAmoMin, execAmoMax, execAmoAnd, execAmoOr, execAmoXor, execAmoSwap, true_and] <;> rfl

/-- An atomic queues its access. -/
theorem exec_atomic {s : State} {g : Nat} {i : Instr} {f : BaseF} {fn : Nat} {a v : Word} {vs : List Val}
    (hexec : exec i s = atomicOp i f fn s) (hkinds : kindsOf i = [false])
    (h : MayActOn s g .kernel i (.scalar a :: .scalar v :: vs)) :
    exec i s = s.queueAcc g
      (.amo fn (f.mod.getLsbD 0) (bitsNat f.mod 8 3) (f.mod.getLsbD 7) (f.mod.getLsbD 6) (w2 (.scalar a :: .scalar v :: vs)).toNat)
      false a.toInt (sizeOfTy f.ty.toNat) Need.both v.toNat 0 [false] := by
  have hready := h.ready
  rw [hkinds] at hready
  rw [hexec, atomicOp, withOps_ready (kinds := [false]) 1 _ hready, h.focus]
  rfl

/-- An arrival at a barrier with a legal count, and a legal code where it reports an error, queues its access. -/
theorem barArrOp_core {s : State} {g : Nat} {i : Instr} {f : BaseF} {err : Bool} {a v : Word} {vs : List Val}
    (h : MayActOn s g .kernel i (.scalar a :: .scalar v :: vs)) (hn : 1 ≤ v.toNat) (hn' : v.toNat < 2 ^ 32)
    (hc : err = true → 1 ≤ (w2 (.scalar a :: .scalar v :: vs)).toNat ∧ (w2 (.scalar a :: .scalar v :: vs)).toNat ≤ 63) :
    barArrOp i f err s
      = s.queueAcc g (.barArr v.toNat (if err then some (w2 (.scalar a :: .scalar v :: vs)).toNat else none) (scopeField f))
          false a.toInt 8 Need.both 0 0 [false] := by
  rw [barArrOp, coreOp_ready _ h]
  generalize w2 (.scalar a :: .scalar v :: vs) = c at hc ⊢
  refine if_neg ?_
  have hw1 : w1 (.scalar a :: .scalar v :: vs) = v := rfl
  simp only [hw1, Bool.or_eq_true, Bool.and_eq_true, decide_eq_true_eq]
  rintro ((h | h) | ⟨he, h⟩)
  · omega
  · omega
  · have := hc he
    omega

/-- A fence of a core takes its place among the accesses. -/
theorem fenceOp_core {s : State} {g : Nat} {f : BaseF} {rel acq : Bool} (hf : s.focus = .core g) (h : MayAct s .both [] 0 [])
    (hroom : (s.core g).noRoom (.fence rel acq (bitsNat f.mod 8 3)) = false) :
    fenceOp f rel acq s = .next (s.modCore g (fun c =>
      c.issueAcc (mkAcc c (.fence rel acq (bitsNat f.mod 8 3)) false 0 0 { pa := 0, home := 0, ccls := 0, key := 0 } 0 0) 0 1)) := by
  rw [fenceOp, withOps_ready (kinds := []) 1 _ h, hf]
  exact if_neg (by simp [hroom])

/-- A write-back of a range of addresses takes its place among the accesses. -/
theorem cacheOpOf_core {s : State} {g : Nat} {i : Instr} {f : BaseF} {inval : Bool} {a n : Word} {runs : List (Nat × Nat)}
    (h : MayActOn s g .kernel i [.scalar a, .scalar n]) (hkinds : kindsOf i = []) (ha : 0 ≤ a.toInt)
    (ha' : a.toInt + n.toNat ≤ (2 ^ 48 : Int)) (hn : 1 ≤ n.toNat) (hn' : n.toNat ≤ 2 ^ 32)
    (hruns : s.cacheRuns g a.toInt.toNat n.toNat = .ok runs)
    (hroom : (s.core g).noRoom (.cacheOp inval (bitsNat f.mod 8 3) runs) = false) :
    cacheOpOf i f inval s = .next (s.modCore g (fun c => c.issueAcc
      (mkAcc c (.cacheOp inval (bitsNat f.mod 8 3) runs) false 0 0 { pa := 0, home := 0, ccls := 0, key := 0 } 0 0) 0 1)) := by
  have hready := h.ready
  rw [hkinds] at hready
  have hw0 : w0 [Val.scalar a, .scalar n] = a := rfl
  have hw1 : w1 [Val.scalar a, .scalar n] = n := rfl
  rw [cacheOpOf, withOps_ready (kinds := []) 1 _ hready, h.focus]
  simp only [hw0, hw1, if_neg (Nat.not_lt.mpr hn'), if_neg (not_or.mpr ⟨Int.not_lt.mpr ha, Int.not_lt.mpr ha'⟩),
    if_neg (Nat.one_le_iff_ne_zero.mp hn), hruns, hroom, Bool.false_eq_true, if_false]

end Sys2Proof.Machine

section
open Sys2Proof Sys2Proof.Machine

/-- Settles O22: each instruction queues its access once `checkAddr` passes; elements outside the tensor never reach it. -/
theorem loadsAndStoresQueue : Obligations.LoadsAndStoresQueue := by
  unfold Obligations.LoadsAndStoresQueue
  intro s g
  refine ⟨fun f b h => ?ld, fun f b v h => ?st, ?ldD, ?stD, ?outside, ?stream⟩
  case ld =>
    refine queuesAccess_of_exec (kinds := [false]) ?_
    rw [exec, execLd, streamIllegal_core f h.focus, withOps_ready (kinds := [false]) 1 _ h.ready, h.focus]
    rfl
  case st =>
    refine queuesAccess_of_exec (kinds := []) ?_
    rw [exec, execSt, streamIllegal_core f h.focus, withOps_ready (kinds := []) 1 _ h.ready, h.focus]
    rfl
  case ldD =>
    intro f o e0 e1 e2 byte hi d h hbusy hdesc hidx hloc p t hchk hroom
    rw [exec_ldD_at rfl h hbusy hdesc hidx hloc, State.outsidePad_of_checkAddr hchk, if_neg Bool.false_ne_true]
    exact State.queueAcc_ready 0 0 [false] hchk hroom
  case stD =>
    intro f o v e0 e1 e2 byte hi d h hbusy hdesc hidx hloc p t hchk hroom
    rw [exec_stD_at rfl h hbusy hdesc hidx hloc, State.outsidePad_of_checkAddr hchk, if_neg Bool.false_ne_true]
    exact State.queueAcc_ready _ 0 [] hchk hroom
  case outside =>
    intro f o v e0 e1 e2 d hbusy hdesc hidx
    refine ⟨fun h => exec_ldD_out rfl h hbusy hdesc hidx, fun byte hi hspace hout => ⟨fun h hloc => ?_, fun h hloc => ?_⟩,
      fun h => exec_stD_out rfl h hbusy hdesc hidx⟩
    · rw [exec_ldD_at rfl h hbusy hdesc hidx hloc, if_pos (Core.outsidePad_eq_true hspace hout)]
    · rw [exec_stD_at rfl h hbusy hdesc hidx hloc, if_pos (Core.outsidePad_eq_true hspace hout)]
  case stream =>
    intro p f x hpad hhint hf
    refine ⟨fun b w t h hpath hheld hread => ?sld, fun b v h hwin hpath hheld hreach => ?sst⟩
    case sld =>
      have hpath' : s.streamPath p (immAddr f [.scalar b]) (sizeOfTy f.ty.toNat) Need.load = .ok x := hpath
      rw [exec, execLd, streamIllegal_plain hpad hhint, if_neg Bool.false_ne_true, withOps_ready (kinds := [false]) 1 _ h, hf]
      simp only [hpath', hheld, hread, Bool.false_eq_true, if_false]
    case sst =>
      have hpath' : s.streamPath p (immAddr f [.scalar b, .scalar v]) (sizeOfTy f.ty.toNat) Need.store = .ok x := hpath
      rw [exec, execSt, streamIllegal_plain hpad hhint, if_neg Bool.false_ne_true, withOps_ready (kinds := []) 1 _ h, hf]
      simp only [hwin, hpath', hheld, State.refused, hreach, Bool.not_true, Bool.false_and, Bool.false_eq_true, if_false]
      rfl

/-- Settles O23: each instruction queues its access. -/
theorem atomicsAndFencesQueue : Obligations.AtomicsAndFencesQueue := by
  unfold Obligations.AtomicsAndFencesQueue
  refine ⟨fun s g f a v z => ⟨fun x hx h => ?amo, fun h => ?cas, fun h hn hn' => ?arr, fun h hn hn' hz hz' => ?arrErr⟩,
    fun s g f => ⟨fun hf h => ?fence, fun h => ?align, fun a n runs ha ha' hn hn' hruns => ?cache⟩⟩
  case amo =>
    obtain ⟨hexec, hkinds⟩ := exec_amo f s hx
    exact queuesAccess_of_exec (kinds := [false]) (exec_atomic hexec hkinds h)
  case cas => exact queuesAccess_of_exec (kinds := [false]) (exec_atomic (by rw [exec, execCas]) rfl h)
  case arr =>
    refine queuesAccess_of_exec (kinds := [false]) ?_
    rw [exec, execBarArr, barArrOp_core h hn hn' fun h => absurd h Bool.false_ne_true]
    rfl
  case arrErr =>
    refine queuesAccess_of_exec (kinds := [false]) ?_
    rw [exec, execBarArrErr, barArrOp_core h hn hn' fun _ => ⟨hz, hz'⟩]
    rfl
  case fence =>
    refine ⟨fun hroom => ?_, fun hroom => ?_, fun hroom => ?_⟩
    · rw [exec, execFenceAcq, fenceOp_core hf h hroom]
    · rw [exec, execFenceRel, fenceOp_core hf h hroom]
    · rw [exec, execFenceAr, fenceOp_core hf h hroom]
  case align =>
    intro hroom
    rw [exec, execAlign, withOps_ready (kinds := []) 1 _ h.ready, h.focus]
    exact if_neg (by simp [hroom])
  case cache =>
    refine ⟨fun h hroom => ?_, fun h hroom => ?_⟩
    · rw [exec, execCwb, cacheOpOf_core h rfl ha ha' hn hn' hruns hroom]
    · rw [exec, execCinv, cacheOpOf_core h rfl ha ha' hn hn' hruns hroom]

end
end

section
/-! PROOFS. How far the operations of caches and paths reach: the caches themselves, and HBM. -/

namespace Sys2Proof.Machine

/-- Of the machine only caches, their replacement, HBM and the tick of free choices differ: of a core its LSC, of
a die its RDC. -/
structure CacheFrame (s t : State) : Prop where
  state : t = { s with cores := t.cores, dies := t.dies, hbm := t.hbm, hbmMeta := t.hbmMeta, l2 := t.l2, l2sets := t.l2sets,
                       fresh := t.fresh }
  core : ∀ g, t.core g = { s.core g with lsc := (t.core g).lsc, lscFirst := (t.core g).lscFirst }
  die : ∀ d, t.die d = { s.die d with rdc := (t.die d).rdc }

theorem CacheFrame.rfl {s : State} : CacheFrame s s := ⟨Eq.refl _, fun _ => Eq.refl _, fun _ => Eq.refl _⟩

theorem CacheFrame.trans {s t u : State} (h : CacheFrame s t) (k : CacheFrame t u) : CacheFrame s u where
  state := by
    have := k.state
    rw [h.state] at this
    exact this
  core g := by
    have := k.core g
    rw [h.core g] at this
    exact this
  die d := by
    have := k.die d
    rw [h.die d] at this
    exact this

/-- A loop of operations of the caches is one. -/
theorem CacheFrame.foldl {α : Type} (f : State → α → State) (h : ∀ s x, CacheFrame s (f s x)) :
    ∀ (l : List α) (s : State), CacheFrame s (l.foldl f s)
  | [], _ => CacheFrame.rfl
  | x :: xs, s => (h s x).trans (CacheFrame.foldl f h xs (f s x))

/-- An operation that changes neither cores nor dies. -/
theorem CacheFrame.of_shared {s t : State}
    (h : t = { s with hbm := t.hbm, hbmMeta := t.hbmMeta, l2 := t.l2, l2sets := t.l2sets, fresh := t.fresh }) :
    CacheFrame s t := by
  refine ⟨?_, fun g => ?_, fun d => ?_⟩
  · rw [h]
  · rw [h]
    rfl
  · rw [h]
    rfl

theorem cacheFrame_setCached (s : State) (c : CacheId) (sec : Nat) (x : Option CSec) : CacheFrame s (s.setCached c sec x) := by
  cases c with
  | lsc g =>
    refine ⟨rfl, fun h => ?_, fun _ => rfl⟩
    simp only [State.setCached, State.core_modCore]
    split
    · subst h
      rfl
    · rfl
  | rdc d =>
    refine ⟨rfl, fun _ => rfl, fun e => ?_⟩
    simp only [State.setCached, State.die_modDie]
    split
    · subst e
      rfl
    · rfl
  | l2 => exact CacheFrame.of_shared rfl

theorem cacheFrame_uncache (s : State) (c : CacheId) (sec : Nat) (x : CSec) : CacheFrame s (s.uncache c sec x) := by
  unfold State.uncache
  dsimp only
  split
  · refine (cacheFrame_setCached s c sec none).trans ?_
    unfold State.l2Forget
    split
    · exact CacheFrame.rfl
    · exact CacheFrame.of_shared rfl
  · exact cacheFrame_setCached ..

theorem cacheFrame_hbmWrite (s : State) (sec : Nat) (mask : BitVec 128) (data : BitVec 512) (poison : BitVec 8)
    (ecode : BitVec 6) (key gen : Nat) : CacheFrame s (s.hbmWrite sec mask data poison ecode key gen) := by
  unfold State.hbmWrite
  split
  · exact CacheFrame.rfl
  · exact CacheFrame.of_shared rfl

theorem cacheFrame_putBytes (s : State) (c : Option CacheId) (sec : Nat) (mask : BitVec 128) (data : BitVec 512)
    (poison : BitVec 8) (ecode : BitVec 6) (key gen home owner : Nat) :
    CacheFrame s (s.putBytes c sec mask data poison ecode key gen home owner) := by
  cases c with
  | none => exact cacheFrame_hbmWrite ..
  | some c => exact cacheFrame_setCached ..

theorem cacheFrame_l2Evict (s : State) (sec : Nat) : CacheFrame s (s.l2Evict sec) := by
  unfold State.l2Evict
  split
  · exact CacheFrame.rfl
  · exact (cacheFrame_setCached ..).trans (cacheFrame_hbmWrite ..)

theorem cacheFrame_l2Request (s : State) (part : Option Nat) (home sec : Nat) :
    CacheFrame s (s.l2Request part home sec).2 := by
  simp only [State.l2Request]
  split
  · split
    · exact CacheFrame.of_shared rfl
    · exact CacheFrame.rfl
  split
  · exact CacheFrame.rfl
  split
  · exact CacheFrame.of_shared rfl
  split
  · exact CacheFrame.rfl
  · exact ((cacheFrame_l2Evict ..).trans (cacheFrame_l2Evict ..)).trans (CacheFrame.of_shared rfl)

theorem cacheFrame_l2Touch (s : State) (part : Option Nat) (home sec : Nat) : CacheFrame s (s.l2Touch part home sec) := by
  unfold State.l2Touch
  split
  · exact cacheFrame_l2Request ..
  · exact CacheFrame.rfl

theorem cacheFrame_pushDown : ∀ (fuel : Nat) (s : State) (c : CacheId) (sec : Nat) (x : CSec),
    CacheFrame s (s.pushDown c sec x fuel)
  | 0, _, _, _, _ => CacheFrame.rfl
  | fuel + 1, s, c, sec, x => by
    cases hn : nextStore c x.home with
    | none =>
      rw [State.pushDown, hn]
      exact cacheFrame_hbmWrite ..
    | some n =>
      obtain ⟨t, ht, hpush⟩ := s.pushDown_succ sec fuel hn
      have hst : CacheFrame s t := by
        rcases ht with rfl | ⟨y, rfl⟩
        · exact CacheFrame.rfl
        · exact (cacheFrame_uncache ..).trans (cacheFrame_pushDown fuel ..)
      rw [hpush]
      refine hst.trans ?_
      split
      · exact CacheFrame.rfl
      split
      · exact (cacheFrame_l2Request ..).trans (cacheFrame_putBytes ..)
      split
      · exact cacheFrame_putBytes ..
      · exact cacheFrame_pushDown fuel ..

theorem cacheFrame_dropOther (s : State) (c : CacheId) (sec key gen : Nat) : CacheFrame s (s.dropOther c sec key gen) := by
  unfold State.dropOther
  split
  · exact CacheFrame.rfl
  split
  · exact CacheFrame.rfl
  split
  · exact cacheFrame_uncache ..
  · exact (cacheFrame_uncache ..).trans (cacheFrame_pushDown ..)

theorem cacheFrame_writeBack (s : State) (c : CacheId) (sec : Nat) : CacheFrame s (s.writeBack c sec) := by
  unfold State.writeBack
  split
  · exact CacheFrame.rfl
  split
  · exact CacheFrame.rfl
  split
  · exact CacheFrame.rfl
  · exact (cacheFrame_setCached ..).trans (cacheFrame_pushDown ..)

theorem cacheFrame_dropClean (s : State) (c : CacheId) (sec : Nat) : CacheFrame s (s.dropClean c sec) := by
  unfold State.dropClean
  split
  · split
    · exact cacheFrame_uncache ..
    · exact CacheFrame.rfl
  · exact CacheFrame.rfl

theorem cacheFrame_flushSec (s : State) (c : CacheId) (sec : Nat) : CacheFrame s (s.flushSec c sec) :=
  (cacheFrame_writeBack ..).trans (cacheFrame_dropClean ..)

theorem cacheFrame_writeBackAll (s : State) (c : CacheId) : CacheFrame s (s.writeBackAll c) :=
  CacheFrame.foldl _ (fun s x => cacheFrame_writeBack s c x) _ _

theorem cacheFrame_flushAll (s : State) (c : CacheId) : CacheFrame s (s.flushAll c) :=
  CacheFrame.foldl _ (fun s x => cacheFrame_flushSec s c x) _ _

theorem cacheFrame_evictLine (s : State) (c : CacheId) (lines : List Nat) : CacheFrame s (s.evictLine c lines).2 := by
  simp only [State.evictLine]
  split
  · exact CacheFrame.rfl
  · have tick : CacheFrame s { s with fresh := s.fresh + 1 } := CacheFrame.of_shared rfl
    exact (tick.trans (cacheFrame_flushSec ..)).trans (cacheFrame_flushSec ..)

theorem cacheFrame_claimLine (s : State) (part : Option Nat) (c : CacheId) (home sec : Nat) :
    CacheFrame s (s.claimLine part c home sec).2 := by
  unfold State.claimLine
  split
  · exact cacheFrame_l2Request ..
  · unfold State.lineRoom
    split
    · exact CacheFrame.rfl
    · exact cacheFrame_evictLine ..

theorem cacheFrame_fetch (part : Option Nat) (sec key home : Nat) : ∀ (cs : List CacheId) (s : State) (need : BitVec 128),
    CacheFrame s (s.fetch part sec key home need cs).2
  | [], _, _ => CacheFrame.rfl
  | c :: cs, s, need => by
    have below := fun s => cacheFrame_fetch part sec key home cs s wholeSec
    have drop := cacheFrame_dropOther s c sec key (s.keyGen key)
    simp only [State.fetch]
    split
    · exact CacheFrame.rfl
    split
    · have hit : CacheFrame s (if c == .l2 then ((s.dropOther c sec key (s.keyGen key)).l2Request part home sec).2
          else s.dropOther c sec key (s.keyGen key)) := by
        split
        · exact drop.trans (cacheFrame_l2Request ..)
        · exact drop
      split
      · exact hit
      · exact (hit.trans (below _)).trans (cacheFrame_setCached ..)
    · have miss := drop.trans (below (s.dropOther c sec key (s.keyGen key)))
      split
      · exact miss
      · have claim := miss.trans (cacheFrame_claimLine _ part c home sec)
        split
        next u hu =>
          rw [hu] at claim
          exact claim.trans (cacheFrame_setCached ..)
        next u hu =>
          rw [hu] at claim
          exact claim

theorem cacheFrame_store (part : Option Nat) (sec key home : Nat) (mask : BitVec 128) (data : BitVec 512) :
    ∀ (cs : List CacheId) (s : State), CacheFrame s (s.store part sec key home mask data cs)
  | [], _ => cacheFrame_hbmWrite ..
  | c :: cs, s => by
    simp only [State.store]
    split
    · exact CacheFrame.rfl
    · have claim := (cacheFrame_dropOther s c sec key (s.keyGen key)).trans (cacheFrame_claimLine _ part c home sec)
      split
      next u hu =>
        rw [hu] at claim
        exact claim.trans (cacheFrame_putBytes ..)
      next u hu =>
        rw [hu] at claim
        exact claim.trans (cacheFrame_store part sec key home mask data cs _)

theorem cacheFrame_storeHeld (sec key home : Nat) (mask : BitVec 128) (data : BitVec 512) :
    ∀ (cs : List CacheId) (s : State), CacheFrame s (s.storeHeld sec key home mask data cs)
  | [], _ => cacheFrame_hbmWrite ..
  | c :: cs, s => by
    unfold State.storeHeld
    split
    · exact cacheFrame_putBytes ..
    · exact cacheFrame_storeHeld sec key home mask data cs s

theorem cacheFrame_spoilAt (sec : Nat) (w : BitVec 8) (e : BitVec 6) :
    ∀ (cs : List CacheId) (s : State), CacheFrame s (s.spoilAt sec w e cs)
  | [], s => by
    simp only [State.spoilAt]
    split
    · exact CacheFrame.rfl
    · exact CacheFrame.of_shared rfl
  | c :: cs, s => by
    unfold State.spoilAt
    split
    · exact cacheFrame_setCached ..
    · exact cacheFrame_spoilAt sec w e cs s

theorem cacheFrame_readPath (s : State) (part : Option Nat) (p : Path) (len : Nat) (cs : List CacheId) :
    CacheFrame s (s.readPath part p len cs).2 := by
  simp only [State.readPath]
  have h := cacheFrame_fetch part (p.pa / 64) p.key p.home cs s (byteMask (p.pa % 64) len)
  split <;> exact h

theorem cacheFrame_readHome (s : State) (part : Option Nat) (p : Path) (len : Nat) :
    CacheFrame s (s.readHome part p len).2 := by
  have h := (cacheFrame_dropOther s .l2 (p.pa / 64) p.key (s.keyGen p.key)).trans
    (cacheFrame_l2Touch _ part p.home (p.pa / 64))
  simp only [State.readHome]
  split <;> exact h

/-! Accesses of a core. -/

theorem cacheFrame_beforeAcc (s : State) (g : Nat) (x : Acc) : CacheFrame s (s.beforeAcc g x) := by
  unfold State.beforeAcc
  split
  · unfold State.beforeNoAlloc
    split
    · exact cacheFrame_dropOther ..
    · exact CacheFrame.rfl
  · exact CacheFrame.rfl

theorem cacheFrame_noteHint (s : State) (g : Nat) (x : Acc) (had : Bool) : CacheFrame s (s.noteHint g x had) := by
  simp only [State.noteHint]
  split
  · exact CacheFrame.rfl
  · refine ⟨rfl, fun h => ?_, fun _ => rfl⟩
    rw [State.core_modCore]
    split
    · subst h
      rfl
    · rfl

theorem cacheFrame_readAcc (s : State) (g : Nat) (x : Acc) : CacheFrame s (s.readAcc g x).2 := by
  unfold State.readAcc
  split
  · exact CacheFrame.rfl
  split
  · split <;> exact CacheFrame.rfl
  · exact ((cacheFrame_beforeAcc ..).trans (cacheFrame_readPath ..)).trans (cacheFrame_noteHint ..)

theorem cacheFrame_beforeAtomic (s : State) (g sc sec : Nat) : CacheFrame s (s.beforeAtomic g sc sec) := by
  have h : CacheFrame s (if sc = 0 then s else s.flushSec (.lsc g) sec) := by
    split
    · exact CacheFrame.rfl
    · exact cacheFrame_flushSec ..
  simp only [State.beforeAtomic]
  split
  · exact h.trans (cacheFrame_writeBack ..)
  · exact h

end Sys2Proof.Machine
end

section
/-! PROOFS. Loads and stores perform (R76, R178, R181, R250, R251, R254). -/

namespace Sys2Proof.Machine

/-! The pad. -/

theorem getElem?_natToBytes (n v i : Nat) (h : i < n) : (natToBytes n v)[i]? = some (BitVec.ofNat 8 (v / 256 ^ i % 256)) := by
  induction n generalizing v i with
  | zero => omega
  | succ n ih =>
    cases i with
    | zero => simp [natToBytes]
    | succ i =>
      rw [natToBytes, List.getElem?_cons_succ, ih _ _ (by omega), Nat.div_div_eq_div_mul, pow_succ']

/-- A cleared range reads as nothing, and every other key as before. -/
theorem tget_tclear {α : Type} (d : α) (t : Tab α) (lo n k : Nat) :
    tget d (tclear t lo n) k = if lo ≤ k ∧ k < lo + n then d else tget d t k := by
  induction t with
  | nil => simp [tclear, tget]
  | cons x t ih =>
    obtain ⟨j, w⟩ := x
    unfold tclear at ih ⊢
    by_cases hj : lo ≤ j ∧ j < lo + n
    · rw [List.filter_cons_of_neg (by simp [hj]), ih, tget]
      by_cases hk : lo ≤ k ∧ k < lo + n
      · rw [if_pos hk, if_pos hk]
      · rw [if_neg hk, if_neg hk, if_neg (fun h : k = j => hk (h ▸ hj))]
    · have hpos : (!(decide (lo ≤ j) && decide (j < lo + n))) = true := by
        simp only [Bool.not_eq_true', Bool.and_eq_false_iff, decide_eq_false_iff_not]
        exact not_and_or.mp hj
      rw [List.filter_cons_of_pos (p := fun kv : Nat × α => !(decide (lo ≤ kv.1) && decide (kv.1 < lo + n))) hpos, tget, ih, tget]
      by_cases hk : k = j
      · rw [if_pos hk, if_pos hk, if_neg (hk ▸ hj)]
      · rw [if_neg hk, if_neg hk]

/-- Clearing some sectors of the pad. -/
theorem tget_foldl_tclear (l : List Nat) (t : Tab Byte) (a : Nat) :
    tget 0 (l.foldl (fun p x => tclear p (x * 64) 64) t) a = if a / 64 ∈ l then 0 else tget 0 t a := by
  induction l generalizing t with
  | nil => simp
  | cons x l ih =>
    rw [List.foldl_cons, ih, tget_tclear]
    have hsec : (x * 64 ≤ a ∧ a < x * 64 + 64) ↔ a / 64 = x := by omega
    simp only [hsec, List.mem_cons]
    by_cases h : a / 64 ∈ l
    · simp [h]
    · simp [h]

theorem mem_secsOf {lo n x : Nat} (h : 1 ≤ n) : x ∈ secsOf lo n ↔ lo / 64 ≤ x ∧ x ≤ (lo + n - 1) / 64 := by
  rw [secsOf, if_neg (by omega)]
  simp only [List.mem_map, List.mem_range]
  constructor
  · rintro ⟨i, hi, rfl⟩
    omega
  · rintro ⟨h1, h2⟩
    exact ⟨x - lo / 64, by omega, by omega⟩

/-- R251: a byte of the pad after some bytes have been written. -/
theorem Core.padByte_padWrite (c : Core) (off n v a : Nat) (h : 1 ≤ n) :
    (c.padWrite off (natToBytes n v)).padByte a =
      if off ≤ a ∧ a < off + n then BitVec.ofNat 8 (v / 256 ^ (a - off) % 256)
      else if off / 64 ≤ a / 64 ∧ a / 64 ≤ (off + n - 1) / 64 ∧ tget false c.padW (a / 64) = false then 0
      else c.padByte a := by
  simp only [Core.padByte, Core.padWrite, tget_tputs, natToBytes_length, tget_foldl_tclear, List.mem_filter, mem_secsOf h,
    Bool.not_eq_true', and_assoc]
  by_cases hin : off ≤ a ∧ a < off + n
  · rw [if_pos hin, if_pos hin, getElem?_natToBytes _ _ _ (by omega)]
    rfl
  · rw [if_neg hin, if_neg hin]

/-! The oldest access. -/

/-- With no older store there is nothing to forward. -/
theorem forwarded_nil {x : Acc} (h : 1 ≤ x.size) : forwarded [] x = none := by
  obtain ⟨n, hn⟩ : ∃ n, x.size = n + 1 := ⟨x.size - 1, by omega⟩
  simp only [forwarded, hn, List.range_succ_eq_map, List.foldr_cons]
  split
  next h => cases h
  · rfl

theorem mayPass_nil (x : Acc) : mayPass [] x = true := rfl

/-- No access is older than the oldest. -/
theorem State.mustTrap_zero (s : State) (g : Nat) : s.mustTrap g 0 = false := rfl

theorem State.commitFirst_zero (s : State) (g : Nat) : s.commitFirst g 0 = s := rfl

theorem execLoadPerform_of_performs {s : State} {g : Nat} (h : Performs s g) : exec .loadPerform s = .next (s.loadPerform g) := by
  rw [exec]
  exact onCore_run _ h.focus h.thawed h.whole h.up

theorem execStoreLeaveSq_of_performs {s : State} {g : Nat} (h : Performs s g) :
    exec .storeLeaveSq s = .next (s.storeLeave g) := by
  rw [exec]
  exact onCore_run _ h.focus h.thawed h.whole h.up

section
variable {s : State} {g : Nat} {x : Acc} {xs : List Acc}

/-- LOAD_PERFORM on a load that is the oldest access reads its storage. -/
theorem State.loadPerform_head (hacc : (s.core g).acc = x :: xs) (hload : x.op.isLoad = true) (hstage : x.stage = .waiting)
    (hsize : 1 ≤ x.size) (hheld : s.accHeld g x = false) (hearly : s.readsEarly g 0 = false) :
    s.loadPerform g =
      match s.readAcc g x with
      | (.ok v, t) => (t.finishLoad g 0 x v).remark g
      | (.error e, t) =>
        if s.takesTrap g then t.accTrap g 0 x (x.poisonCause e).1 (x.poisonCause e).2 else s := by
  have hfind : (x :: xs).findIdx? (fun y => y.op.isLoad && y.stage != .performed) = some 0 := by
    simp [List.findIdx?_cons, hload, hstage]
  simp only [State.loadPerform, hacc, hfind, List.getElem?_cons_zero, List.take_zero, mayPass_nil, forwarded_nil hsize,
    List.any_nil, hheld, hearly, Bool.not_true, Bool.or_self, Bool.false_eq_true, if_false, State.mustTrap_zero,
    Bool.not_false, Bool.and_true]
  cases x.early <;> rfl

/-- A load that a younger effect has passed, where one of these would trap by now, gives what it kept. -/
theorem State.loadPerform_early {v : Nat} (hacc : (s.core g).acc = x :: xs) (hload : x.op.isLoad = true)
    (hstage : x.stage = .waiting) (hsize : 1 ≤ x.size) (hheld : s.accHeld g x = false) (hearly : s.readsEarly g 0 = true)
    (hv : x.early = some v) : s.loadPerform g = s.finishLoad g 0 x v := by
  have hfind : (x :: xs).findIdx? (fun y => y.op.isLoad && y.stage != .performed) = some 0 := by
    simp [List.findIdx?_cons, hload, hstage]
  simp only [State.loadPerform, hacc, hfind, List.getElem?_cons_zero, List.take_zero, mayPass_nil, forwarded_nil hsize,
    List.any_nil, hheld, hearly, hv, Bool.not_true, Bool.or_self, Bool.false_eq_true, if_false]

/-- STORE_LEAVE_SQ on a store that is the oldest access. -/
theorem State.storeLeave_head (hacc : (s.core g).acc = x :: xs) (hstore : x.op = .store none)
    (hheld : s.accHeld g x = false) :
    s.storeLeave g =
      if x.committed && !x.pad && s.refused x.path.home (s.accPath g x) then s
      else if s.wouldTrap g [] x then (if s.takesTrap g then s.accTrap g 0 x (x.poisonCause 1).1 [] else s)
      else (s.modCore g (·.dropAcc 0)).writeAcc g x none := by
  have hfind : (x :: xs).findIdx? (fun y => y.op.isStore) = some 0 := by
    simp [List.findIdx?_cons, hstore, AccOp.isStore]
  simp only [State.storeLeave, hacc, hfind, List.getElem?_cons_zero, List.take_zero, mayPass_nil, State.mustTrap_zero, hheld,
    hstore, State.commitFirst_zero, Bool.not_true, Bool.false_or]

/-- The younger accesses are discarded where the oldest traps. -/
theorem State.accTrap_zero (s : State) (g : Nat) (x : Acc) (c : Cause) (kinds : List Bool) :
    s.accTrap g 0 x c kinds = (s.modCore g (fun k => { k with ctx := x.snap, acc := [], wait := none })).trap (.core g) c kinds 1 :=
  rfl

end

/-! Settling the queues. -/

/-- What settling can change: the access queue, and the slots of descriptors that have been read. -/
theorem Core.settleFrom_frame : ∀ (l : List Acc) (c : Core),
    c.settleFrom l = { c with acc := (c.settleFrom l).acc, slots := (c.settleFrom l).slots }
  | [], _ => rfl
  | x :: xs, c => by
    rw [Core.settleFrom]
    split
    · exact Core.settleFrom_frame xs c
    next n _ _ =>
      have h := Core.settleFrom_frame xs (c.setSlot n (BitVec.ofNat 256 (x.early.getD 0)))
      rw [h]
      rfl
    · rfl

theorem Core.dropAcc_frame (c : Core) (j : Nat) :
    c.dropAcc j = { c with acc := (c.dropAcc j).acc, slots := (c.dropAcc j).slots } := by
  unfold Core.dropAcc Core.settle
  rw [Core.settleFrom_frame]

/-- What settling makes of some accesses does not depend on those the core listed. -/
theorem Core.settleFrom_acc (l a : List Acc) (c : Core) : { c with acc := a }.settleFrom l = c.settleFrom l := by
  induction l generalizing c with
  | nil => rfl
  | cons x xs ih =>
    rw [Core.settleFrom, Core.settleFrom]
    split
    · exact ih c
    next n _ _ => exact ih (c.setSlot n (BitVec.ofNat 256 (x.early.getD 0)))
    · rfl

/-- A store of the pad writes its bytes there, and its poison. -/
theorem State.writeAcc_pad (s : State) (g : Nat) {x : Acc} (hpad : x.pad = true) :
    OnlyCore s (s.writeAcc g x none) g
    ∧ (s.writeAcc g x none).core g = { (s.core g) with
        pad := ((s.core g).padWrite x.path.pa (natToBytes x.size x.data)).pad,
        padW := ((s.core g).padWrite x.path.pa (natToBytes x.size x.data)).padW,
        padP := ((s.writeAcc g x none).core g).padP } := by
  simp only [State.writeAcc, State.writeBytes, State.spoilAcc, hpad, if_true]
  cases x.bad with
  | none =>
    refine ⟨onlyCore_modCore .., ?_⟩
    rw [State.core_modCore_self]
    rfl
  | some e =>
    refine ⟨(onlyCore_modCore ..).trans (onlyCore_modCore ..), ?_⟩
    rw [State.core_modCore_self, State.core_modCore_self]
    rfl

theorem State.remark_core (s : State) (g h : Nat) : (s.remark g).core h = { s.core h with acc := ((s.remark g).core h).acc } :=
  s.commitFirst_core g _ h

end Sys2Proof.Machine

section
open Sys2Proof Sys2Proof.Machine

/-- Settles O26: the oldest access reads or writes its storage, or traps. -/
theorem deviceAccessesPerform : Obligations.DeviceAccessesPerform := by
  unfold Obligations.DeviceAccessesPerform
  intro s g x xs hperf hacc hstage hsize hheld
  refine ⟨fun bits sx hi hop => ?load, fun hop hpad => ?store⟩
  case load =>
    have hload : x.op.isLoad = true := by rw [hop]; rfl
    rw [execLoadPerform_of_performs hperf]
    refine ⟨fun v t hpad hbad hearly hread => ?reads, fun v hearly hv => ?kept, fun e t htrap hearly hread => ?poison⟩
    case reads =>
      have hacc' : s.readAcc g x = (.ok v, t.noteHint g x ((s.beforeAcc g x).hasLine g x)) := by
        simp only [State.readAcc, hbad, hpad, Bool.false_eq_true, if_false, hread]
      rw [State.loadPerform_head hacc hload hstage hsize hheld hearly, hacc']
      simp only [State.finishLoad, hop]
    case kept =>
      rw [State.loadPerform_early hacc hload hstage hsize hheld hearly hv]
      simp only [State.finishLoad, hop]
    case poison =>
      rw [State.loadPerform_head hacc hload hstage hsize hheld hearly, hread]
      simp only [htrap, if_true, State.accTrap_zero, Acc.poisonCause, hop]
  case store =>
    rw [execStoreLeaveSq_of_performs hperf, State.storeLeave_head hacc hop hheld]
    refine ⟨fun hreach => ?writes, fun href hcom htrap => ?traps, fun href hcom => ?waits⟩
    case writes =>
      have href : s.refused x.path.home (s.accPath g x) = false := by simp [State.refused, hreach]
      have hno : s.wouldTrap g [] x = false := by simp [State.wouldTrap, hop, href]
      simp only [href, hno, Bool.and_false, Bool.false_eq_true, if_false, State.writeAcc, State.writeBytes, hpad]
    case traps =>
      have hyes : s.wouldTrap g [] x = true := by simp [State.wouldTrap, hop, href, hcom, hpad]
      simp only [hyes, hcom, htrap, Bool.false_and, Bool.false_eq_true, if_false, if_true, State.accTrap_zero, Acc.poisonCause]
      rfl
    case waits =>
      simp only [href, hcom, hpad, Bool.not_false, Bool.and_self, if_true]

/-- Settles O25: the bytes of the pad that the oldest load reads, or the oldest store writes. -/
theorem padAccessesPerform : Obligations.PadAccessesPerform := by
  unfold Obligations.PadAccessesPerform
  refine ⟨fun s g x xs bits sx hi hperf hacc hop hstage hpad hsize hbad hearly hpoison => ?load,
    fun s g x xs hperf hacc hop hpad hsize => ?store⟩
  case load =>
    have hheld : s.accHeld g x = false := by simp [State.accHeld, hpad]
    have hread : s.readAcc g x = (.ok ((s.core g).padRead x.path.pa x.size), s) := by
      simp only [State.readAcc, hbad, hpad, if_true, hpoison]
    obtain ⟨t, ht⟩ : ∃ t, s.modCore g (fun c => (c.dropAcc 0).deliver x.dest
        (.scalar (loadedWord bits sx hi ((s.core g).padRead x.path.pa x.size)))) = t := ⟨_, rfl⟩
    have hperform : s.loadPerform g = t.remark g := by
      rw [State.loadPerform_head hacc (by rw [hop]; rfl) hstage hsize hheld hearly, hread, ← ht]
      simp only [State.finishLoad, hop]
    have honly : OnlyCore s (t.remark g) g := by
      refine OnlyCore.trans ?_ (onlyCore_commitFirst t g _)
      rw [← ht]
      exact onlyCore_modCore ..
    have hpadt : ((t.remark g).core g).pad = (s.core g).pad := by
      rw [State.remark_core, ← ht, State.core_modCore_self, Core.dropAcc_frame]
      rfl
    have hhbm : (t.remark g).hbm = s.hbm := by
      rw [honly.1]
    refine ⟨t.remark g, by rw [execLoadPerform_of_performs hperf, hperform], honly, ?_, fun a => ?_, fun a => ?_⟩
    · rw [← ht]
      rfl
    · rw [Core.padByte, hpadt, Core.padByte]
    · rw [State.hbmByte, hhbm, State.hbmByte]
  case store =>
    have hheld : s.accHeld g x = false := by simp [State.accHeld, hpad]
    have hno : s.wouldTrap g [] x = false := by simp [State.wouldTrap, hop, hpad]
    have hperform : s.storeLeave g = (s.modCore g (·.dropAcc 0)).writeAcc g x none := by
      rw [State.storeLeave_head hacc hop hheld]
      simp only [hno, hpad, Bool.not_true, Bool.and_false, Bool.false_and, Bool.false_eq_true, if_false]
    obtain ⟨honly, hcore⟩ := State.writeAcc_pad (s.modCore g (·.dropAcc 0)) g hpad
    obtain ⟨t, ht⟩ : ∃ t, (s.modCore g (·.dropAcc 0)).writeAcc g x none = t := ⟨_, rfl⟩
    rw [ht] at honly hcore hperform
    have honly := (onlyCore_modCore s g (·.dropAcc 0)).trans honly
    rw [State.core_modCore_self, Core.dropAcc_frame] at hcore
    have hhbm : t.hbm = s.hbm := by rw [honly.1]
    refine ⟨t, by rw [execStoreLeaveSq_of_performs hperf, hperform], honly, fun a => ?_, ?_, ?_, fun a => ?_⟩
    · rw [← Core.padByte_padWrite _ _ _ _ _ hsize, Core.padByte, hcore]
      rfl
    · rw [hcore]
    · rw [hcore]
    · rw [State.hbmByte, hhbm, State.hbmByte]

end
end

section
/-! PROOFS. Atomics, releases and acquires perform (R255, R275, R283, R285). -/

namespace Sys2Proof.Machine

/-! The access that releases, and the one that acquires. -/

/-- The oldest access, where it has a release to make, is the one that may make it. -/
theorem Core.releaser_head {c : Core} {x : Acc} {xs : List Acc} (hacc : c.acc = x :: xs)
    (h : x.releasing = true ∨ x.op.blocks = true) : c.releaser = some (0, x) := by
  have hfind : (x :: xs).findIdx? (fun y => y.releasing || y.op.blocks) = some 0 := by
    rw [List.findIdx?_cons, if_pos (by simpa using h)]
  simp only [Core.releaser, hacc, hfind, List.getElem?_cons_zero, List.take_zero, List.any_nil, Bool.false_eq_true, if_false,
    if_true]
  split <;> rfl

/-- Whether an access is the acquire of a satisfied `bar.wait`. -/
def Acc.isAcquire (x : Acc) : Bool :=
  match x.op with
  | .acquire _ => true
  | _ => false

theorem Acc.isAcquire_eq_false {x : Acc} (h : ∀ sc, x.op ≠ .acquire sc) : x.isAcquire = false := by
  unfold Acc.isAcquire
  split
  next sc hsc => exact absurd hsc (h sc)
  · rfl

theorem Core.acquirer_eq (c : Core) :
    c.acquirer = (c.acc[(c.acc.findIdx? Acc.isAcquire).getD 0]?).map (fun x => ((c.acc.findIdx? Acc.isAcquire).getD 0, x)) :=
  rfl

/-- The oldest access acquires, where it is that of a `bar.wait` or no younger one is. -/
theorem Core.acquirer_head {c : Core} {x : Acc} {xs : List Acc} (hacc : c.acc = x :: xs)
    (h : x.isAcquire = true ∨ ∀ y ∈ xs, ∀ sc, y.op ≠ .acquire sc) : c.acquirer = some (0, x) := by
  have hfind : ((x :: xs).findIdx? Acc.isAcquire).getD 0 = 0 := by
    cases hx : x.isAcquire with
    | true => simp [List.findIdx?_cons, hx]
    | false =>
      have hxs := h.resolve_left (by simp [hx])
      rw [List.findIdx?_eq_none_iff.mpr]
      · rfl
      · intro y hy
        rcases List.mem_cons.mp hy with rfl | hy
        · exact hx
        · exact Acc.isAcquire_eq_false (hxs y hy)
  rw [Core.acquirer_eq, hacc, hfind]
  rfl

/-! One access of an atomic. -/

/-- An atomic that writes no new word reads the old one. -/
theorem State.atomicAt_reads {s t : State} {g old : Nat} {x : Acc} (hbad : x.bad = none)
    (hread : (s.beforeAtomic g (s.scopeOf g x.op.atomScope) (x.path.pa / 64)).readPath (s.partOf g) x.path x.size
      ((s.beforeAtomic g (s.scopeOf g x.op.atomScope) (x.path.pa / 64)).atomicPath g (s.scopeOf g x.op.atomScope) x.path)
      = (.ok old, t)) (hnew : x.atomNew old = .ok none) : s.atomicAt g x = (.ok old, t) := by
  simp only [State.atomicAt, hread, hbad, hnew, Except.map]

/-- An atomic writes the new word where it has read the old one. -/
theorem State.atomicAt_writes {s t : State} {g old v : Nat} {x : Acc} (hbad : x.bad = none)
    (hread : (s.beforeAtomic g (s.scopeOf g x.op.atomScope) (x.path.pa / 64)).readPath (s.partOf g) x.path x.size
      ((s.beforeAtomic g (s.scopeOf g x.op.atomScope) (x.path.pa / 64)).atomicPath g (s.scopeOf g x.op.atomScope) x.path)
      = (.ok old, t)) (hnew : x.atomNew old = .ok (some v)) :
    s.atomicAt g x = (.ok old, (t.writeHeld x.path x.size v ((s.beforeAtomic g (s.scopeOf g x.op.atomScope)
      (x.path.pa / 64)).atomicPath g (s.scopeOf g x.op.atomScope) x.path)).modCore g (·.noteSec x.path.pa)) := by
  simp only [State.atomicAt, hread, hbad, hnew, Except.map]

/-- The reserved bits of a barrier word trap, with nothing written. -/
theorem State.atomicAt_error {s t : State} {g old : Nat} {x : Acc} {c : Cause} (hbad : x.bad = none) (hearly : x.early = none)
    (hread : (s.beforeAtomic g (s.scopeOf g x.op.atomScope) (x.path.pa / 64)).readPath (s.partOf g) x.path x.size
      ((s.beforeAtomic g (s.scopeOf g x.op.atomScope) (x.path.pa / 64)).atomicPath g (s.scopeOf g x.op.atomScope) x.path)
      = (.ok old, t)) (hnew : x.atomNew old = .error c) : s.atomicAt g x = (.error c, t) := by
  simp only [State.atomicAt, hread, hbad, hnew, hearly, Except.map]

/-! The steps on a core that may take them. -/

theorem execAtomicPerform_of_performs {s : State} {g : Nat} (h : Performs s g) :
    exec .atomicPerform s = .next (s.atomicPerform g) := by
  rw [exec]
  exact onCore_run _ h.focus h.thawed h.whole h.up

theorem execReleaseComplete_of_performs {s : State} {g : Nat} (h : Performs s g) :
    exec .releaseComplete s = .next (s.releaseComplete g) := by
  rw [exec]
  exact onCore_run _ h.focus h.thawed h.whole h.up

theorem execAcquireComplete_of_performs {s : State} {g : Nat} (h : Performs s g) :
    exec .acquireComplete s = .next (s.acquireComplete g) := by
  rw [exec]
  exact onCore_run _ h.focus h.thawed h.whole h.up

end Sys2Proof.Machine

section
open Sys2Proof Sys2Proof.Machine

/-- Settles O29: the oldest access makes its release, its access and its acquire. -/
theorem orderingSteps : Obligations.OrderingSteps := by
  unfold Obligations.OrderingSteps
  intro s g x xs hperf hacc
  rw [execAtomicPerform_of_performs hperf, execReleaseComplete_of_performs hperf, execAcquireComplete_of_performs hperf]
  refine ⟨fun fn uns sc rel acq z hop => ⟨fun old t hstage hrel hbad hheld hread => ?amo, fun hrel hstage hheld => ?amoRel,
      fun hacq hstage hheld hxs => ?amoAcq⟩,
    fun n err sc hop => ⟨fun hstage hheld => ?barRel, fun old t hstage hbad hheld hread => ⟨fun v hv => ?bar, fun hv hearly htrap => ?barTrap⟩⟩,
    fun acq sc hop hstage hheld => ?fence, fun sc hop hheld => ?acquire, fun sc runs hop hheld => ?cwb,
    fun sc runs hop hheld hxs => ?cinv⟩
  case amo =>
    have hgo : (x.stage == .performed || (rel && x.stage == .waiting)) = false := by
      cases rel
      · simp [hstage]
      · simp [hstage, hrel rfl]
    have hscope : x.op.atomScope = sc := by rw [hop]; rfl
    cases hnew : amoNew fn uns (8 * x.size) old (x.data % 2 ^ (8 * x.size)) (z % 2 ^ (8 * x.size)) with
    | none =>
      have hat := State.atomicAt_reads hbad (by rw [hscope]; exact hread) (by simp only [Acc.atomNew, hop, hnew])
      simp only [State.atomicPerform, hacc, hop, hgo, Bool.false_eq_true, if_false, AccOp.atomScope, hheld, hat]
    | some v =>
      have hat := State.atomicAt_writes (v := v) hbad (by rw [hscope]; exact hread) (by simp only [Acc.atomNew, hop, hnew])
      rw [hscope] at hat
      simp only [State.atomicPerform, hacc, hop, hgo, Bool.false_eq_true, if_false, AccOp.atomScope, hheld, hat]
  case amoRel =>
    have hhead := Core.releaser_head hacc (.inl (by simp [Acc.releasing, hstage, hop, hrel]))
    simp only [State.releaseComplete, hhead, hop, hstage, hrel, AccOp.releaseScope, hheld, Bool.false_eq_true, if_false]
  case amoAcq =>
    have hhead := Core.acquirer_head hacc (.inr hxs)
    simp only [State.acquireComplete, hhead, hop, hstage, hacq, AccOp.acquireScope, hheld, Bool.false_eq_true, if_false]
  case barRel =>
    have hhead := Core.releaser_head hacc (.inl (by simp [Acc.releasing, hstage, hop]))
    simp only [State.releaseComplete, hhead, hop, hstage, AccOp.releaseScope, hheld, Bool.false_eq_true, if_false]
  case bar =>
    have hscope : x.op.atomScope = sc := by rw [hop]; rfl
    have hat := State.atomicAt_writes (v := v) hbad (by rw [hscope]; exact hread) (by simp only [Acc.atomNew, hop, hv])
    rw [hscope] at hat
    simp only [State.atomicPerform, hacc, hop, hstage, Bool.false_eq_true, if_false, AccOp.atomScope, hheld, hat]
  case barTrap =>
    have hscope : x.op.atomScope = sc := by rw [hop]; rfl
    have hat := State.atomicAt_error (c := { code := cOPERAND }) hbad hearly (by rw [hscope]; exact hread)
      (by simp only [Acc.atomNew, hop, hv])
    simp only [State.atomicPerform, hacc, hop, hstage, Bool.false_eq_true, if_false, AccOp.atomScope, hheld, hat, htrap, if_true,
      State.accTrap_zero]
  case fence =>
    have hhead := Core.releaser_head hacc (.inr (by simp [hop, AccOp.blocks]))
    simp only [State.releaseComplete, hhead, hop, hstage, AccOp.releaseScope, hheld, Bool.false_eq_true, if_false]
  case acquire =>
    rcases hop with ⟨⟨rel, hop, hrel⟩, hxs⟩ | hop
    · have hhead := Core.acquirer_head hacc (.inr hxs)
      have hgo : (rel && x.stage == .waiting) = false := by
        cases rel
        · rfl
        · simp [hrel rfl]
      simp only [State.acquireComplete, hhead, hop, hgo, AccOp.acquireScope, hheld, Bool.false_eq_true, if_false]
    · have hhead := Core.acquirer_head hacc (.inl (by simp [Acc.isAcquire, hop]))
      simp only [State.acquireComplete, hhead, hop, AccOp.acquireScope, hheld, Bool.false_eq_true, if_false]
  case cwb =>
    have hhead := Core.releaser_head hacc (.inr (by simp [hop, AccOp.blocks]))
    simp only [State.releaseComplete, hhead, hop, AccOp.releaseScope, hheld, Bool.false_eq_true, if_false]
  case cinv =>
    have hhead := Core.acquirer_head hacc (.inr hxs)
    simp only [State.acquireComplete, hhead, hop, AccOp.acquireScope, hheld, Bool.false_eq_true, if_false]

end
end

section
/-! PROOFS. Descriptor slots and flag waits (R87, R187, R188, R190). -/

namespace Sys2Proof.Machine

/-! Descriptor fields. -/

/-- Every field of a descriptor lies inside the slot. -/
theorem fieldLow_add_fieldWidth_le (f : Nat) : fieldLow f + fieldWidth f ≤ 256 := by
  unfold fieldLow fieldWidth
  split <;> decide

theorem tget_slots_setSlot (c : Core) (n k : Nat) (x : BitVec 256) : (c.setSlot n x).slot k = if k = n then x else c.slot k := by
  simp [Core.setSlot, Core.slot, tget_tput]

/-- R87: a descriptor that has been read enters its slot once nothing is before it. -/
theorem Core.settle_tdRec {c : Core} {x : Acc} {xs : List Acc} {n v : Nat} (hop : x.op = .tdRec n) :
    Core.settle { c with acc := { x with stage := .performed, early := some v } :: xs }
      = Core.settle { c.setSlot n (BitVec.ofNat 256 v) with acc := xs } := by
  have hleft : Core.settle { c with acc := { x with stage := .performed, early := some v } :: xs }
      = (Core.setSlot { c with acc := { x with stage := .performed, early := some v } :: xs } n (BitVec.ofNat 256 v)).settleFrom xs := by
    unfold Core.settle
    rw [Core.settleFrom]
    simp only [hop, Option.getD_some]
  have hright : Core.settle { c.setSlot n (BitVec.ofNat 256 v) with acc := xs } = (c.setSlot n (BitVec.ofNat 256 v)).settleFrom xs :=
    Core.settleFrom_acc xs xs _
  rw [hleft, hright]
  exact Core.settleFrom_acc xs _ (c.setSlot n (BitVec.ofNat 256 v))

/-- Whether a field holds a count less one. -/
def sizeField (fld : Nat) : Bool := fld = 6 || fld = 7

/-- Whether a value fits a field (R87). -/
def fieldFits (fld v : Nat) : Bool := if sizeField fld then 1 ≤ v && v ≤ 2 ^ 20 else v < 2 ^ fieldWidth fld

/-- What a field holds of a value that fits it. -/
theorem fieldFits_lt {fld v : Nat} (h : fieldFits fld v = true) :
    (if sizeField fld then v - 1 else v) < 2 ^ fieldWidth fld := by
  unfold fieldFits at h
  cases hs : sizeField fld with
  | true =>
    rw [hs] at h
    simp only [if_true, Bool.and_eq_true, decide_eq_true_eq] at h ⊢
    have hw : fieldWidth fld = 20 := by
      simp only [sizeField, Bool.or_eq_true, decide_eq_true_eq] at hs
      rcases hs with rfl | rfl <;> rfl
    rw [hw]
    omega
  | false => simpa [hs] using h

section
variable {s : State} {g : Nat} {f : BaseF}

/-- R87: `td.set` on a free slot. -/
theorem exec_tdSet {v : Word} (h : MayActOn s g .kernel (.tdSet f) [.scalar v])
    (hbusy : (s.core g).slotBusy (bitsNat f.mod 16 6) = false) :
    exec (.tdSet f) s =
      if fieldFits (bitsNat f.mod 0 4) v.toNat then
        .next (((s.commit (.core g)).modCore g (fun c => c.setSlot (bitsNat f.mod 16 6)
          (setBits (c.slot (bitsNat f.mod 16 6)) (fieldLow (bitsNat f.mod 0 4)) (fieldWidth (bitsNat f.mod 0 4))
            (if sizeField (bitsNat f.mod 0 4) then v.toNat - 1 else v.toNat)))).retire (.core g) 1 [])
      else .next (s.trap (.core g) { code := cOPERAND } [] 1) := by
  have hw : w0 [Val.scalar v] = v := rfl
  have hout : (if sizeField (bitsNat f.mod 0 4) then decide (v.toNat < 1) || decide (2 ^ 20 < v.toNat)
      else decide (2 ^ fieldWidth (bitsNat f.mod 0 4) ≤ v.toNat)) = !fieldFits (bitsNat f.mod 0 4) v.toNat := by
    unfold fieldFits
    cases sizeField (bitsNat f.mod 0 4) with
    | true => simp only [if_true, Bool.not_and, ← decide_not, Nat.not_le]
    | false => simp only [Bool.false_eq_true, if_false, ← decide_not, Nat.not_lt]
  rw [exec, execTdSet, coreOp_ready _ h]
  simp only [hbusy, hw, Bool.false_eq_true, if_false]
  unfold sizeField at hout ⊢
  rw [hout]
  cases fieldFits (bitsNat f.mod 0 4) v.toNat <;> rfl

/-- R87: `td.get` on a free slot. -/
theorem exec_tdGet (h : MayActOn s g .kernel (.tdGet f) []) (hbusy : (s.core g).slotBusy (bitsNat f.mod 16 6) = false) :
    exec (.tdGet f) s = .next (s.retire (.core g) 1
      [.scalar (BitVec.ofNat 64 (bitsNat ((s.core g).slot (bitsNat f.mod 16 6)) (fieldLow (bitsNat f.mod 0 4))
        (fieldWidth (bitsNat f.mod 0 4)) + if sizeField (bitsNat f.mod 0 4) then 1 else 0))]) := by
  rw [exec, execTdGet, coreOp_ready _ h]
  simp only [hbusy, Bool.false_eq_true, if_false]
  unfold sizeField
  split <;> rfl

end

/-! Flag words. -/

/-- A flag word as a number. -/
theorem toNat_mkFlag {e : Bool} {ec n : Nat} (hec : ec < 64) (hn : n < 2 ^ 24) :
    (mkFlag e ec n).toNat = (if e then 2 ^ 31 else 0) + ec * 2 ^ 24 + n := by
  rw [mkFlag, BitVec.toNat_ofNat, Nat.mod_eq_of_lt hec, Nat.mod_eq_of_lt hn, Nat.mod_eq_of_lt]
  cases e <;> simp at * <;> omega

/-- Beginning a wait changes only the core's wait. -/
theorem State.waitB_core (s : State) (g : Nat) (k : WaitKind) (own dflt : Nat) :
    OnlyCore s (s.waitB g k own dflt) g
    ∧ (s.waitB g k own dflt).core g = { s.core g with wait := ((s.waitB g k own dflt).core g).wait }
    ∧ ∃ x, ((s.waitB g k own dflt).core g).wait = some x ∧ x.kind = k := by
  unfold State.waitB State.waitOn
  split
  · exact ⟨onlyCore_modCore .., by rw [State.core_modCore_self], _, by rw [State.core_modCore_self], rfl⟩
  · exact ⟨onlyCore_modCore .., by rw [State.core_modCore_self], _, by rw [State.core_modCore_self], rfl⟩

/-- R190: a count that has been reached is taken in its turn. -/
theorem State.semStep_ok {s : State} {g flag n : Nat} (t : Bool) (own : Nat) (herr : flagErr ((s.core g).flag flag) = false)
    (hn : n ≤ flagCount ((s.core g).flag flag)) (hturn : (s.core g).turnOpen flag 4 = true) :
    s.semStep g flag n t own = ((((s.commit (.core g)).modCore g (fun c => c.setFlagAt flag 4
      (mkFlag false (flagEcode ((s.core g).flag flag)) (flagCount ((s.core g).flag flag) - n)))).endWait g).retire (.core g) 1
        [.scalar (((s.core g).flag flag).setWidth 64)]) := by
  have hwait : flagWait ((s.core g).flag flag) n = .ok := by simp [flagWait, herr, hn]
  simp only [State.semStep, hwait, hturn, if_true, State.endWith, flagSub, herr]

/-- R190: a word with ERR is yielded, or traps. -/
theorem State.semStep_err {s : State} {g flag : Nat} (n : Nat) (t : Bool) (own : Nat)
    (herr : flagErr ((s.core g).flag flag) = true) :
    s.semStep g flag n t own = if t then (s.endWait g).trap (.core g) { code := cERRBIT, ecode := flagEcode ((s.core g).flag flag) } [false] 1
      else (s.endWait g).retire (.core g) 1 [.scalar (((s.core g).flag flag).setWidth 64)] := by
  have hwait : flagWait ((s.core g).flag flag) n = .err := by simp [flagWait, herr]
  simp only [State.semStep, hwait, State.endWith, State.endTrap]

/-- R190: a count that has not been reached, or whose turn has passed, waits. -/
theorem State.semStep_waits {s : State} {g flag n : Nat} (t : Bool) (own : Nat)
    (herr : flagErr ((s.core g).flag flag) = false)
    (h : flagCount ((s.core g).flag flag) < n ∨ (s.core g).turnOpen flag 4 = false) :
    s.semStep g flag n t own = s.waitB g (.sem flag n t) own ((s.core g).dflt (·.bflag)) := by
  by_cases hn : n ≤ flagCount ((s.core g).flag flag)
  · have hwait : flagWait ((s.core g).flag flag) n = .ok := by simp [flagWait, herr, hn]
    have hturn := h.resolve_left (Nat.not_lt.mpr hn)
    simp only [State.semStep, hwait, hturn, Bool.false_eq_true, if_false]
  · exact State.semStep_no t own (by simp [flagWait, herr, hn])

/-- `sem.wait` and `sem.wait.t` with their operand. -/
theorem semWaitOp_ready {s : State} {g : Nat} {i : Instr} {f : BaseF} {n : Word} (t : Bool)
    (h : MayActOn s g .kernel i [.scalar n]) :
    semWaitOp i f t s = if 2 ^ 24 ≤ n.toNat then .next (s.trap (.core g) { code := cOPERAND } [false] 1)
      else .next (s.semStep g (bitsNat f.mod 16 5) n.toNat t (boundField f)) := by
  rw [semWaitOp, coreOp_ready _ h]
  rfl

end Sys2Proof.Machine

section
open Sys2Proof Sys2Proof.Machine

/-- Settles O30: the field is set in the slot and read back; a record that is loaded enters its slot. -/
theorem descriptorSlots : Obligations.DescriptorSlots := by
  unfold Obligations.DescriptorSlots
  refine ⟨fun s g f v => ?fields, fun s g => ⟨fun f a h hbusy => ?queues, fun x xs n v t hperf hacc hop hstage hsize hheld hearly hread => ?performs⟩⟩
  case fields =>
    intro n fld size inside hbusy
    have hfits : inside = fieldFits fld v.toNat := rfl
    refine ⟨fun h => ⟨fun hin => ?set, fun hout => ?trap⟩, fun h => exec_tdGet h hbusy⟩
    case set =>
      rw [hfits] at hin
      have hlt := fieldFits_lt hin
      have hle := fieldLow_add_fieldWidth_le fld
      have hcommit := s.commitFirst_core g (s.core g).acc.length g
      have hslots : ∀ k, ((s.commitAll g).core g).slot k = (s.core g).slot k := by
        intro k
        rw [State.commitAll, hcommit]
        rfl
      refine ⟨_, (exec_tdSet h hbusy).trans (if_pos hin), ?_, fun k hk => ?_, ?_, fun b hb => ?_, ?_, fun a => ?_⟩
      · simp only [State.retire, State.modCtx, State.core_modCore_self, State.ctxOf, State.commit, State.commitAll]
        rw [hcommit]
        rfl
      · simp only [State.retire, State.modCtx, State.core_modCore_self, State.commit]
        refine (tget_slots_setSlot _ _ _ _).trans ?_
        rw [if_neg hk, hslots]
      · simp only [State.retire, State.modCtx, State.core_modCore_self, State.commit]
        refine (congrArg (bitsNat · (fieldLow fld) (fieldWidth fld)) (tget_slots_setSlot _ _ _ _)).trans ?_
        rw [if_pos rfl, bitsNat_setBits_same _ _ hle, Nat.mod_eq_of_lt hlt]
        rfl
      · simp only [State.retire, State.modCtx, State.core_modCore_self, State.commit]
        refine (congrArg (BitVec.getLsbD · b) (tget_slots_setSlot _ _ _ _)).trans ?_
        rw [if_pos rfl, getLsbD_setBits _ _ _ hle, if_neg (by omega), hslots]
      · simp only [State.retire, State.modCtx, State.core_modCore_self, State.commit, State.commitAll]
        rw [hcommit]
        rfl
      · simp [State.hbmByte]
    case trap =>
      rw [hfits] at hout
      exact (exec_tdSet h hbusy).trans (if_neg (by rw [hout]; exact Bool.false_ne_true))
  case queues =>
    refine queuesAccess_of_exec (kinds := []) ?_
    rw [exec, execTdSetRec, coreOp_ready _ h]
    exact if_neg (by simp [hbusy])
  case performs =>
    rw [execLoadPerform_of_performs hperf, State.loadPerform_head hacc (by rw [hop]; rfl) hstage hsize hheld hearly, hread]
    have hframe := (cacheFrame_readAcc s g x).core g
    rw [hread] at hframe
    have hacct : (t.core g).acc = x :: xs := by rw [hframe]; exact hacc
    have hcore : ∀ c : Core, c.acc = x :: xs →
        Core.settle { c with acc := c.acc.set 0 { x with stage := .performed, early := some v } }
          = (c.setSlot n (BitVec.ofNat 256 v)).dropAcc 0 := by
      intro c hc
      have hset : c.acc.set 0 { x with stage := .performed, early := some v }
          = { x with stage := .performed, early := some v } :: xs := by rw [hc]; rfl
      have hdrop : (c.setSlot n (BitVec.ofNat 256 v)).dropAcc 0 = Core.settle { c.setSlot n (BitVec.ofNat 256 v) with acc := xs } := by
        have herase : (c.setSlot n (BitVec.ofNat 256 v)).acc.eraseIdx 0 = xs := by
          rw [show (c.setSlot n (BitVec.ofNat 256 v)).acc = x :: xs from hc]
          rfl
        rw [Core.dropAcc, herase]
      rw [hset, hdrop, Core.settle_tdRec hop]
    have hfinish : t.finishLoad g 0 x v = t.modCore g (fun c => (c.setSlot n (BitVec.ofNat 256 v)).dropAcc 0) := by
      refine Eq.trans ?_ (congrArg (t.setCore g) (hcore _ hacct))
      simp only [State.finishLoad, hop]
      rfl
    exact congrArg (fun u : State => Host.Outcome.next (u.remark g)) hfinish

/-- Settles O19: the three outcomes of `semStep`. -/
theorem semWait : Obligations.SemWait := by
  unfold Obligations.SemWait
  refine ⟨fun e ec n hec hn => ?fields, fun s g f n => ⟨fun h hn => ?plain, fun h hn => ?trapping, fun hn => ?operand⟩⟩
  case fields =>
    have hnat := toNat_mkFlag (e := e) hec hn
    have hbits : ∀ lo w, bitsNat (mkFlag e ec n) lo w = ((if e then 2 ^ 31 else 0) + ec * 2 ^ 24 + n) / 2 ^ lo % 2 ^ w := by
      intro lo w
      rw [bitsNat, hnat, Nat.shiftRight_eq_div_pow]
    refine ⟨?_, ?_, ?_⟩
    · rw [flagErr, ← BitVec.testBit_toNat, hnat, Nat.testBit_eq_decide_div_mod_eq]
      cases e <;> simp <;> omega
    · rw [flagEcode, hbits]
      cases e <;> simp <;> omega
    · rw [flagCount, hbits]
      cases e <;> simp <;> omega
  case plain =>
    rw [exec, execSemWait, semWaitOp_ready _ h, if_neg (Nat.not_le.mpr hn)]
    refine ⟨fun herr hcount hturn => ?_, fun herr => ?_, fun herr hwait => ?_⟩
    · rw [State.semStep_ok false _ herr hcount hturn]
    · rw [State.semStep_err _ false _ herr]
      rfl
    · rw [State.semStep_waits false _ herr hwait]
      obtain ⟨honly, hcore, x, hx, hkind⟩ := s.waitB_core g (.sem (bitsNat f.mod 16 5) n.toNat false) (boundField f)
        ((s.core g).dflt (·.bflag))
      refine ⟨_, x, rfl, hx, hkind, honly, ?_, ?_⟩
      · rw [hcore]
      · rw [hcore]
  case trapping =>
    rw [exec, execSemWaitT, semWaitOp_ready _ h, if_neg (Nat.not_le.mpr hn)]
    refine ⟨fun herr hcount hturn => ?_, fun herr => ?_⟩
    · rw [State.semStep_ok true _ herr hcount hturn]
    · rw [State.semStep_err _ true _ herr]
      rfl
  case operand =>
    refine ⟨fun h => ?_, fun h => ?_⟩
    · rw [exec, execSemWait, semWaitOp_ready _ h, if_pos hn]
    · rw [exec, execSemWaitT, semWaitOp_ready _ h, if_pos hn]

end
end

section
/-! PROOFS. Pushing engine commands, and what they are pushed with (R161, R183, R197 to R210, R218 to R229, R245, R246,
R264 to R271). -/

namespace Sys2Proof.Machine

/-- Results numbered one by one are the pending positions from the first number on. -/
theorem pendings_eq_map_zipIdx (id : Nat) (ks : List Bool) :
    (ks.zipIdx).map (fun x : Bool × Nat => Slot.pending x.1 (id + x.2)) = pendings id ks := by
  have shift : ∀ (ks : List Bool) (n : Nat),
      (ks.zipIdx n).map (fun x : Bool × Nat => Slot.pending x.1 (id + x.2)) = pendings (id + n) ks := by
    intro ks
    induction ks with
    | nil => exact fun _ => rfl
    | cons k ks ih => exact fun n => congrArg (Slot.pending k (id + n) :: ·) (ih (n + 1))
  exact shift ks 0

/-- Once every access of a core is marked, each is marked in its place. -/
theorem State.commitAll_acc (s : State) (g : Nat) :
    ((s.commitAll g).core g).acc = ((s.core g).acc.zipIdx).map (fun x => s.marked g ((s.core g).acc.take x.2) x.1) := by
  have clip : ∀ x ∈ (s.core g).acc.zipIdx, ((s.core g).acc.take (s.core g).acc.length).take x.2 = (s.core g).acc.take x.2 := by
    intro x _
    rw [List.take_length]
  simp only [State.commitAll, State.commitFirst, List.take_length, List.isEmpty_iff]
  split
  case isTrue h => rw [h]; rfl
  case isFalse => simp

/-- R181: what marking an access as passed keeps and records. -/
theorem State.marked_committed (s : State) (g : Nat) (older : List Acc) (x : Acc) :
    (s.marked g older x).committed = true ∧ (s.marked g older x).op = x.op ∧ (s.marked g older x).addr = x.addr := by
  simp only [State.marked]
  split
  · exact ⟨rfl, rfl, rfl⟩
  · split <;> exact ⟨rfl, rfl, rfl⟩

/-- R181: a load that is passed keeps what it would have read, and does not trap any more. -/
theorem State.marked_load {s : State} {g : Nat} {older : List Acc} {x : Acc} {v : Nat} (hload : x.op.isLoad = true)
    (hwait : x.stage = .waiting) (hread : s.wouldRead g older x = some v) (t : State) :
    (s.marked g older x).early = some v ∧ t.wouldTrap g older (s.marked g older x) = false := by
  have hmark : s.marked g older x = { x with committed := true, early := some v } := by
    have hread' : s.wouldRead g older { x with committed := true } = some v := hread
    simp only [State.marked]
    rw [if_neg (by simp [Acc.hasRead, hwait, hload]), hread']
  rw [hmark]
  refine ⟨rfl, ?_⟩
  unfold State.wouldTrap
  dsimp only
  split
  case h_1 hop => simp [hop, AccOp.isLoad] at hload
  case h_2 => rfl

/-- The core after a push of a command that takes no tag, before the sequencer's view takes note of it. -/
def Core.pushed (c : Core) (q : Eng) (k : Cmd) : Core :=
  let c' : Core := { c with
    seq := c.seq + 1, serials := c.serials + (kindsOf k.instr).length, wait := none,
    ctx := (c.ctx.push (pendings c.serials (kindsOf k.instr))).advance 1 }
  c'.setQueue q (c'.queue q ++ [{ k with seq := c.seq, dest := c.serials }])

/-- R161, R183: a push of a command that takes no tag, on its core. -/
theorem State.core_pushNow (s : State) (g : Nat) (q : Eng) {k : Cmd} (hk : takesTag k.instr = false) :
    (s.pushNow g q k).core g = (((s.commitAll g).core g).pushed q k).noteView
      { k with seq := ((s.commitAll g).core g).seq, dest := ((s.commitAll g).core g).serials } := by
  simp only [State.pushNow, hk, Bool.false_eq_true, if_false, pendings_eq_map_zipIdx, State.core_modCore_self, Core.pushed,
    State.endWait, State.commit]

theorem onlyCore_pushNow (s : State) (g : Nat) (q : Eng) {k : Cmd} (hk : takesTag k.instr = false) :
    OnlyCore s (s.pushNow g q k) g := by
  simp only [State.pushNow, hk, Bool.false_eq_true, if_false]
  exact ((onlyCore_commitFirst s g _).trans (onlyCore_modCore _ g _)).trans (onlyCore_modCore _ g _)

/-- What a push leaves of the core, besides the place in its queue, its context and the sequencer's view. -/
theorem Core.pushed_frame (c : Core) (q : Eng) (k : Cmd) :
    c.pushed q k = { c with
      seq := c.seq + 1, serials := c.serials + (kindsOf k.instr).length, wait := none,
      ctx := (c.ctx.push (pendings c.serials (kindsOf k.instr))).advance 1,
      mq := (c.pushed q k).mq, vq := (c.pushed q k).vq, cq := (c.pushed q k).cq } := by
  cases q <;> rfl

theorem Core.queue_pushed (c : Core) (q : Eng) (k : Cmd) :
    (c.pushed q k).queue q = c.queue q ++ [{ k with seq := c.seq, dest := c.serials }] := by
  cases q <;> rfl

theorem Core.queue_noteView (c : Core) (k : Cmd) (q : Eng) : (c.noteView k).queue q = c.queue q := by
  have h := c.viewFrame_noteView k
  unfold Core.ViewFrame at h
  rw [h]
  cases q <;> rfl

theorem length_pendings (id : Nat) (ks : List Bool) : (pendings id ks).length = ks.length := by
  simp [← pendings_eq_map_zipIdx]

/-! R225: vector instructions. -/

/-- A vector instruction is pushed as `vecOp` says. -/
theorem exec_of_isVecOp {i : Instr} (hi : isVecOp i = true) (s : State) : exec i s = vecOp i s := by
  cases i
  case vadd | vsub | vmul | vmin | vmax | vabs | vneg | vfma | vfms | vfnma | vfnms | vand | vor | vxor | vandn | vnot | vshl
      | vshr | vsar | vclz | vffs | vpopc | vcmpEq | vcmpNe | vcmpLt | vcmpLe | vcmpGt | vcmpGe | vsel | vmulh | vbc | vbcLane
      | vext | vins | vperm | vrot | vredSum | vredMin | vredMax | vredAnd | vredOr | vredXor | vscanSum | vscanMin
      | vscanMax | vcvt | vwid | vnar | vexp2 | vlog2 | vrcp | vrsq | vsqrt | vtanh =>
    rw [exec]
    exact rfl
  all_goals cases hi

/-- R225: a vector instruction whose ports and channels are set up is pushed. -/
theorem vecOp_ready {s : State} {g : Nat} {i : Instr} {vs : List Val} (h : MayPush s g .v i vs)
    (hpop : (s.core g).popChk (s.core g).ctx (popSpecs i) = none) :
    vecOp i s = .next (s.pushNow g .v (s.command g .v i [])) :=
  withPush_ready true h (by simp only [hpop])

/-- R245: `vput` to a target set up for it is pushed. -/
theorem vputOp_ready {s : State} {g : Nat} {i : Instr} {f : BaseF} {vs : List Val} (h : MayPush s g .v i vs)
    (hpop : (s.core g).popChk (s.core g).ctx (popSpecs i) = none)
    (ht : (bitsNat f.mod 16 5 < 8 ∧ tget .unbound (s.core g).pview (bitsNat f.mod 16 5) = .write)
      ∨ (8 ≤ bitsNat f.mod 16 5 ∧ ∃ k, tget none (s.core g).cview (bitsNat f.mod 16 5 - 8) = some k
          ∧ bitsNat k.mod 16 4 = f.ty.toNat)) :
    vputOp i f s = .next (s.pushNow g .v (s.command g .v i [])) := by
  refine withPush_ready true h ?_
  simp only [hpop]
  rcases ht with ⟨hlt, hw⟩ | ⟨hle, k, hk, hsrc⟩
  · simp [hlt, hw]
  · simp [Nat.not_lt.mpr hle, hk, hsrc]

/-- R218: `port.set` and `port.set.w` over a tensor of the pad that they walk inside are pushed. -/
theorem portSetOp_ready {s : State} {g : Nat} {i : Instr} {f : BaseF} {isWrite : Bool} {v : Word}
    (h : MayPush s g .v i [.scalar v]) (hbusy : (s.core g).slotBusy (bitsNat f.mod 16 6) = false) {d : Desc}
    (hd : d = Desc.of ((s.core g).slot (bitsNat f.mod 16 6))) (hvalid : d.valid = true) (hspace : d.space = 1)
    (halign : d.misaligned = false) (hin : d.bchk ≠ 0 ∨ walkInside d v = true)
    (hpad : walkInPad d v isWrite (padBytes (s.core g)) = true) :
    portSetOp i f isWrite s = .next (s.pushNow g .v (s.command g .v i [(s.core g).slot (bitsNat f.mod 16 6)])) := by
  have hcheck : (decide (d.bchk = 0) && !walkInside d v) = false := by
    rcases hin with h | h
    · rw [decide_eq_false h, Bool.false_and]
    · rw [h, Bool.not_true, Bool.and_false]
  simp only [portSetOp, h.focus, hbusy, Bool.false_eq_true, if_false]
  refine withPush_ready false h ?_
  rw [show w0 [.scalar v] = v from rfl]
  simp only [← hd, hvalid, hspace, halign, hcheck, hpad, ne_eq, not_true_eq_false, decide_false, Bool.not_true, Bool.or_false,
    Bool.false_eq_true, if_false]

/-! R197 to R210, R264 to R271: matrix and copy commands. -/

/-- A command is pushed once no load into a slot it names is to come. -/
theorem pushSlots_ready {s : State} {g : Nat} {q : Eng} {i : Instr} {slots : List Nat} {vs : List Val}
    {chk : Nat → List Val → Except Cause (List (BitVec 256))} {desc : List (BitVec 256)} (h : MayPush s g q i vs)
    (hbusy : ∀ n ∈ slots, (s.core g).slotBusy n = false) (hchk : chk g vs = .ok desc) :
    pushSlots s i q slots chk = .next (s.pushNow g q (s.command g q i desc)) := by
  have hany : slots.any (s.core g).slotBusy = false := by simpa using hbusy
  simp only [pushSlots, h.focus, hany, Bool.false_eq_true, if_false]
  exact withPush_ready false h hchk

/-- A copy is pushed over its slots once the checks of R266 pass. -/
theorem copyOp_ready {s : State} {g : Nat} {i : Instr} {slots : List Nat} {vs : List Val}
    {chk : Core → List Desc → Option Cause} (h : MayPush s g .c i vs) (hbusy : ∀ n, (s.core g).slotBusy n = false)
    (hchk : chk (s.core g) ((slots.map (s.core g).slot).map Desc.of) = none) :
    copyOp s i slots chk = .next (s.pushNow g .c (s.command g .c i (slots.map (s.core g).slot))) := by
  refine pushSlots_ready h (fun n _ => hbusy n) ?_
  simp only [hchk]

section
variable {s : State} {g : Nat} {f : EngF}

/-- Rows and columns of a drain (R202): those of the bank, or all that its sectors hold. -/
def State.drainSize (s : State) (g : Nat) (view : BankView) : Nat × Nat :=
  if view.mode.isNone then (128, 256 * (s.driven g (s.core g).gview).length) else (view.m, view.n)

/-- R202: a drain whose checks pass is pushed with the descriptors it names. -/
theorem drainOp_ready {i : Instr} {q0 : Bool} {vs : List Val} {m n : Nat} (h : MayPush s g .m i vs)
    (hbusy : ∀ x ∈ drainSlots f q0, (s.core g).slotBusy x = false)
    (hsize : s.drainSize g ((s.core g).bview (f.fn.getLsbD 0)) = (m, n))
    (hbias : f.fn.getLsbD 3 = true →
      let b := Desc.of (if f.fn.getLsbD 3 then (s.core g).slot (slotB f) else 0)
      b.valid = true ∧ b.misaligned = false ∧ b.space = 1 ∧ (b.fmt = 9 ∨ b.fmt = 10 ∨ b.fmt = 11) ∧ n ≤ b.n0
        ∧ b.base + b.rowBytes n ≤ padBytes (s.core g))
    (hown : (s.driven g (s.core g).gview).any (fun y => !s.ownsSect (s.core g).part y) = false)
    (hsa : s.scaleFault g ((s.core g).bview (f.fn.getLsbD 0)).refA m = none)
    (hsb : s.scaleFault g ((s.core g).bview (f.fn.getLsbD 0)).refB n = none)
    (hpad : q0 = false →
      let d := Desc.of ((s.core g).slot (slotA f))
      d.valid = true ∧ d.misaligned = false ∧ d.space = 1 ∧ d.fmt = f.ty.toNat ∧ drainBounds d m n (padBytes (s.core g)) = true)
    (hchan : q0 = true → ((tget none (s.core g).cview 0).map (fun k => bitsNat k.mod 16 4)) = some f.ty.toNat) :
    drainOp i f q0 s = .next (s.pushNow g .m (s.command g .m i
      [if q0 then 0 else (s.core g).slot (slotA f), if f.fn.getLsbD 3 then (s.core g).slot (slotB f) else 0])) := by
  refine pushSlots_ready h hbusy ?_
  simp only [State.drainSize] at hsize
  dsimp only
  rw [hsize]
  dsimp only
  rw [hown, hsa, hsb]
  generalize (if f.fn.getLsbD 3 = true then (s.core g).slot (slotB f) else 0) = bb at *
  cases hb : f.fn.getLsbD 3
  case false =>
    cases q0
    · obtain ⟨h1, h2, h3, h4, h5⟩ := hpad rfl
      simp [h1, h2, h3, h4, h5]
    · simp [hchan rfl]
  case true =>
    obtain ⟨b1, b2, b3, b4, b5, b6⟩ := hbias hb
    have hb5 := Nat.not_lt.mpr b5
    have hb6 := Nat.not_lt.mpr b6
    cases q0
    · obtain ⟨h1, h2, h3, h4, h5⟩ := hpad rfl
      simp [h1, h2, h3, h4, h5, b1, b2, b3, hb5, hb6]
      exact fun h9 h10 => (b4.resolve_left h9).resolve_left h10
    · simp [hchan rfl, b1, b2, b3, hb5, hb6]
      exact fun h9 h10 => (b4.resolve_left h9).resolve_left h10

end

end Sys2Proof.Machine

section
open Sys2Proof Sys2Proof.Machine

/-- Settles O31: the push on a core whose accesses are marked, and that the sequencer's view is no more than a view. -/
theorem pushTakesItsPlace : Obligations.PushTakesItsPlace := by
  intro s g q k hk htmpl
  have hcommit : (s.commitAll g).core g = { s.core g with acc := ((s.commitAll g).core g).acc } := s.commitFirst_core g _ g
  have hacc := s.commitAll_acc g
  have hpush := s.core_pushNow g q hk
  generalize (s.commitAll g).core g = c at hcommit hacc hpush
  have hview := (c.pushed q k).viewFrame_noteView { k with seq := c.seq, dest := c.serials }
  unfold Core.ViewFrame at hview
  rw [← hpush, c.pushed_frame] at hview
  have htmpl' : c.ctx.tmpl = [] := by rw [hcommit]; exact htmpl
  have hctx := Ctx.push_advance_of_tmpl_nil (pendings c.serials (kindsOf k.instr)) 1 htmpl'
  refine ⟨onlyCore_pushNow s g q hk, ?_, ?_, ?_, ?_, ?_, ?_, ?_, fun older x => ?_, ?_, ?_, ?_⟩
  case refine_1 =>
    rw [hpush, Core.queue_noteView, Core.queue_pushed, hcommit]
    cases q <;> rfl
  case refine_8 =>
    obtain ⟨h1, h2, h3⟩ := s.marked_committed g older x
    exact ⟨h1, h2, h3, fun v hload hwait hread => State.marked_load hload hwait hread _⟩
  all_goals rw [hview]
  case refine_7 => exact hacc
  case refine_4 | refine_6 => dsimp only; rw [hctx, hcommit]
  case refine_5 => dsimp only; rw [hctx, length_pendings, hcommit]
  all_goals rw [hcommit]

/-- Settles O32: the checks of a push hold, so that `withPush_ready` applies. -/
theorem vectorPushes : Obligations.VectorPushes := by
  intro s g vs
  refine ⟨fun i hi h hpop => ?_, fun f h hpop hk => ?_, fun f ht => ⟨fun h hpop => ?_, fun h hpop => ?_⟩⟩
  · rw [exec_of_isVecOp hi]
    exact vecOp_ready h hpop
  · have hctx : s.ctxOf s.focus = (s.core g).ctx := by rw [h.focus]; rfl
    rw [exec, execVtry, hctx]
    rcases hk with ⟨n, hn⟩ | ⟨n, hn⟩
    · rw [hn]
      exact vecOp_ready h hpop
    · rw [hn]
      exact vecOp_ready h hpop
  · rw [exec, execVput]
    exact vputOp_ready h hpop ht
  · rw [exec, execVputNb]
    exact vputOp_ready h hpop ht

/-- Settles O33: each check of a push passes, so that `withPush_ready` applies. -/
theorem portAndFlagPushes : Obligations.PortAndFlagPushes := by
  intro s g f v
  refine ⟨fun hbusy hvalid hspace halign hin => ⟨fun h hpad => ?_, fun h hpad => ?_⟩, fun h hbound => ?_, fun h => ?_, fun h => ?_,
    fun h hn => ?_, fun h hlo hhi => ?_, fun h hn => ?_⟩
  · rw [exec, execPortSet]
    exact portSetOp_ready h hbusy rfl hvalid hspace halign hin hpad
  · rw [exec, execPortSetW]
    exact portSetOp_ready h hbusy rfl hvalid hspace halign hin hpad
  · rw [exec, execPortRst]
    exact withPush_ready false h (if_neg (by simpa using hbound))
  · rw [exec, execPortRstOff]
    exact withPush_ready false h rfl
  · rw [exec, execChanCfg]
    exact withPush_ready false h rfl
  · rw [exec, execVsemSig]
    exact withPush_ready false h (if_neg (Nat.not_le.mpr hn))
  · rw [exec, execVsemSigErr]
    exact withPush_ready false h (if_neg (by simp [w0, Val.word]; omega))
  · rw [exec, execVsemWait]
    exact withPush_ready false h (if_neg (Nat.not_le.mpr hn))

/-- Settles O37: each check of a push passes, so that the command is pushed. -/
theorem matrixAndCopyPushes : Obligations.MatrixAndCopyPushes := by
  refine ⟨fun s g f w => ⟨fun h ha hb hchk => ?_, ?_, fun h hown hw hle hlt => ?_, fun h => ?_⟩, ?_⟩
  case refine_1 =>
    rw [exec, execMm]
    refine pushSlots_ready h (by simp [ha, hb]) ?_
    simp only [hchk]
  case refine_2 =>
    intro view d bb b secs m n hbias hown hsa hsb
    have hany : secs.any (fun y => !s.ownsSect (s.core g).part y) = false := by
      simpa using hown
    have hsize : s.drainSize g view = (m, n) := by
      simp only [State.drainSize, m, n, secs]
      split <;> rfl
    refine ⟨fun h hbusy hvalid halign hspace hfmt hbounds => ?_, fun h hbusy ⟨k, hk, hsrc⟩ => ?_⟩
    · rw [exec, execMmDrain]
      refine drainOp_ready h hbusy hsize hbias hany hsa hsb (fun _ => ⟨hvalid, halign, hspace, hfmt, hbounds⟩) ?_
      exact fun h => absurd h Bool.false_ne_true
    · rw [exec, execMmDrainQ0]
      refine drainOp_ready h hbusy hsize hbias hany hsa hsb (fun h => absurd h Bool.noConfusion) ?_
      exact fun _ => by rw [hk, ← hsrc]; rfl
  case refine_3 =>
    rw [exec, execMmGang]
    refine withPush_ready false h ?_
    have hrange : (decide (4 < w.toNat + 2 * bitsNat f.efl 0 2) || decide (sectCol g < w.toNat)
        || decide (w.toNat + 2 * bitsNat f.efl 0 2 ≤ sectCol g)) = false := by
      simp [Nat.not_lt.mpr hw, Nat.not_lt.mpr hle, Nat.not_le.mpr hlt]
    rw [show w0 [.scalar w] = w from rfl]
    simp only [hown, hrange, Bool.not_true, Bool.false_eq_true, if_false]
  case refine_4 =>
    rw [exec, execMmGangOff]
    exact withPush_ready false h rfl
  case refine_5 =>
    intro s g f vs
    refine fun hbusy => ⟨fun h hchk => ?_, fun h hchk => ?_, fun k h hk hfmt hchk => ?_, fun k h hk hfmt hchk => ?_,
      fun h hs hf h1 h2 hd1 hd2 hx2 h0 hpad hchk => ?_, fun x n h hx hxn => ?_, fun h => ?_⟩
    · rw [exec, execCp]
      exact copyOp_ready h hbusy hchk
    · rw [exec, execCpFill]
      exact copyOp_ready h hbusy hchk
    · rw [exec, execCpQ2]
      refine copyOp_ready h hbusy ?_
      have hchan : ((tget none (s.core g).cview 2).map (fun k => bitsNat k.mod 16 4) == some (Desc.of ((s.core g).slot (slotB f))).fmt) = true := by
        simp [hk, hfmt]
      rw [← hchk, ← hchan]
      rfl
    · rw [exec, execCpQ3]
      refine copyOp_ready h hbusy ?_
      have hchan : ((tget none (s.core g).cview 3).map (·.snk) == some (Desc.of ((s.core g).slot (slotA f))).fmt) = true := by
        simp [hk, hfmt]
      rw [← hchk, ← hchan]
      rfl
    · rw [exec, execCpGather]
      refine copyOp_ready h hbusy ?_
      simp only [nthDesc, List.map_cons, List.map_nil, List.getElem?_cons_zero, List.getElem?_cons_succ, Option.getD_some, hs, hf, h1, h2, hd1,
        hd2, hx2, h0, beq_self_eq_true, Bool.and_true, Bool.true_and]
      have hor : ((Desc.of ((s.core g).slot (slotA f))).space == 1 || (Desc.of ((s.core g).slot (slotB f))).space == 1) = true := by
        simpa using hpad
      rw [← hchk, ← hor]
    · rw [exec, execTlbInv]
      exact withPush_ready false h (if_neg (by simp [w0, w1, Val.word]; omega))
    · rw [exec, execTlbInvAll]
      exact withPush_ready false h rfl

end
end

section
/-! PROOFS. The head of VQ and what vector instructions compute lane by lane (R185, R225, R231, R233, R238, R239). -/

namespace Sys2Proof.Machine

/-! Lanes of a vector made lane by lane. -/

/-- A field of the number that packs a list of fields. -/
theorem packed_div_mod (w : Nat) : ∀ (l : List Nat) (i : Nat) (h : i < l.length),
    l.foldr (fun x a => a * 2 ^ w + x % 2 ^ w) 0 / 2 ^ (w * i) % 2 ^ w = l[i] % 2 ^ w
  | x :: l, 0, _ => by simp
  | x :: l, i + 1, h => by
    have hi := packed_div_mod w l i (Nat.lt_of_succ_lt_succ h)
    have hx : x % 2 ^ w < 2 ^ w := Nat.mod_lt _ (Nat.two_pow_pos w)
    rw [List.getElem_cons_succ, ← hi, List.foldr_cons, Nat.mul_succ, Nat.add_comm (w * i) w, Nat.pow_add, ← Nat.div_div_eq_div_mul,
      Nat.mul_comm _ (2 ^ w), Nat.mul_add_div (Nat.two_pow_pos w), Nat.div_eq_of_lt hx, Nat.add_zero]

/-- A field inside a vector made of a number. -/
theorem bitsNat_ofNat {n lo w : Nat} (x : Nat) (h : lo + w ≤ n) : bitsNat (BitVec.ofNat n x) lo w = x / 2 ^ lo % 2 ^ w := by
  refine Nat.eq_of_testBit_eq fun j => ?_
  rw [testBit_bitsNat, BitVec.getLsbD_ofNat, Nat.testBit_mod_two_pow, Nat.testBit_div_two_pow]
  by_cases hj : j < w
  · have hn : lo + j < n := by omega
    simp [hj, hn, Nat.add_comm]
  · simp [hj]

/-- R213: a lane of the vector made of a function of its number. -/
theorem lane_ofLanes {t : Nat} (g : Nat → Nat) {i : Nat} (h : i < lanes t) :
    lane (tyWidth t) (ofLanes (tyWidth t) ((List.range (lanes t)).map g)) i = g i % 2 ^ tyWidth t := by
  rw [lane, ofLanes, bitsNat_ofNat _ (lane_fits h), packed_div_mod _ _ i (by simpa using h)]
  simp

/-! Lane-wise instructions that draw nothing. -/

/-- A lane function that draws nothing leaves the stochastic state, and is applied in every active lane. -/
theorem mapLanes_pure (n : Nat) (act : Nat → Bool) (h : Nat → Nat) (sr : BitVec 32) :
    mapLanes noPre n act (fun i sr => (h i, sr)) sr = ((List.range n).map (fun i => if act i then h i else 0), sr) := by
  have fold : ∀ (l acc : List Nat), l.foldl (fun (x : List Nat × BitVec 32) i =>
      if act i then (h i :: x.1, x.2) else (0 :: x.1, x.2)) (acc, sr)
        = ((l.map (fun i => if act i then h i else 0)).reverse ++ acc, sr) := by
    intro l
    induction l with
    | nil => exact fun _ => rfl
    | cons i l ih =>
      intro acc
      rw [List.foldl_cons, List.map_cons, List.reverse_cons, List.append_assoc]
      cases act i
      · exact ih (0 :: acc)
      · exact ih (h i :: acc)
  have := fold (List.range n) []
  simp only [mapLanes, noPre]
  rw [this]
  simp

/-- The first result as a vector, read at a lane. -/
theorem lane_result (w : Nat) (v : Vec) (sr : BitVec 32) (i : Nat) :
    lane w (((([Val.vector v], sr) : List Val × BitVec 32).1[0]?.map Val.vec).getD 0) i = lane w v i := rfl

/-- R214: a lane is active where the instruction has no mask or the mask has its bit. -/
theorem active_maskOf (f : BaseF) (m : Vec) (w i : Nat) :
    active (maskOf f (some (.vector m))) w i = (f.c = 0 || m.getLsbD (w * i)) := by
  by_cases h : f.c = 0
  · rw [maskOf, if_pos h, decide_eq_true h]
    rfl
  · rw [maskOf, if_neg h, decide_eq_false h]
    rfl

/-- R214: a lane of a vector made lane by lane under a mask. -/
theorem lane_masked (f : BaseF) (m : Vec) (h : Nat → Nat) {i : Nat} (hi : i < lanes f.ty.toNat) :
    let w := tyWidth f.ty.toNat
    lane w (ofLanes w ((List.range (lanes f.ty.toNat)).map (fun i =>
      if active (maskOf f (some (.vector m))) w i then h i else 0))) i
      = if f.c = 0 || m.getLsbD (w * i) then h i % 2 ^ w else 0 := by
  intro w
  rw [lane_ofLanes _ hi, ← active_maskOf f m w i, apply_ite (· % 2 ^ w), Nat.zero_mod]

/-- R231, R233: a lane of a lane-wise instruction of two operands that draws nothing. -/
theorem lane_lanewise_pure (f : BaseF) (a b m : Vec) (sr : BitVec 32) (op : Nat → Nat → Nat) {i : Nat}
    (h : i < lanes f.ty.toNat) :
    let w := tyWidth f.ty.toNat
    lane w ((((lanewise noPre f [.vector a, .vector b, .vector m] sr true (fun a b sr => (op a b, sr))).1[0]?).map Val.vec).getD 0) i
      = if f.c = 0 || m.getLsbD (w * i) then op (lane w a i) (lane w b i) % 2 ^ w else 0 := by
  simp only [lanewise, mapLanes_pure]
  exact lane_masked f m _ h

/-- A lane is below two to the power of its width. -/
theorem lane_lt (w : Nat) (v : Vec) (i : Nat) : lane w v i < 2 ^ w := Nat.mod_lt _ (Nat.two_pow_pos w)

/-- R24: an integer stored at a width, as a number. -/
theorem storeInt_mod (w : Nat) (uns sat : Bool) (i : Int) : storeInt w uns sat i % 2 ^ w = (Spec.fit w uns sat i).toNat := by
  rw [← ofNat_storeInt, BitVec.toNat_ofNat]

/-- R23: a number read as an integer at a width. -/
theorem readInt_eq_val_ofNat (w : Nat) (uns : Bool) (x : Nat) : readInt w uns x = Spec.val uns (BitVec.ofNat w x) := by
  cases uns <;> simp [readInt, Spec.val, toSigned_eq_toInt]

/-! The head of VQ. -/

/-- A source that is neither port nor channel gives its value. -/
theorem Core.takeAll_ready (c : Core) : ∀ vs : List Val,
    c.takeAll ((List.replicate vs.length 0).zip (vs.map Slot.ready)) = .got vs c
  | [] => rfl
  | v :: vs => by
    have hv : c.takeSrc 0 (.ready v) = .got v c := rfl
    rw [List.length_cons, List.replicate_succ, List.map_cons, List.zip_cons_cons, Core.takeAll, hv]
    dsimp only
    rw [Core.takeAll_ready c vs]

theorem Core.drawSrcs_ready (c : Core) : ∀ vs : List Val,
    c.drawSrcs [] ((List.replicate vs.length 0).zip (vs.map Slot.ready)) = vs.map (fun _ => .plain)
  | [] => rfl
  | v :: vs => by
    have hv : c.takeSrc 0 (.ready v) = .got v c := rfl
    have hx : xKind 0 = .zero := rfl
    rw [List.length_cons, List.replicate_succ, List.map_cons, List.zip_cons_cons, Core.drawSrcs, hv, hx]
    dsimp only
    rw [Core.drawSrcs_ready c vs]
    rfl

/-- A function that drops what draws nothing drops all of it. -/
theorem filterMap_plain {α : Type} (F : DrawSrc × Nat → Option α) (vs : List Val) (h : ∀ n, F (.plain, n) = none) :
    ((vs.map (fun _ => DrawSrc.plain)).zipIdx).filterMap F = [] := by
  rw [List.filterMap_eq_nil_iff]
  rintro ⟨x, n⟩ hx
  obtain ⟨v, _, rfl⟩ := List.mem_map.mp (List.fst_mem_of_mem_zipIdx hx)
  exact h n

/-- R29: operands that do not pop draw nothing. -/
theorem Core.takeOps_ready (c : Core) (i : Instr) (vs : List Val) :
    c.takeOps i ((List.replicate vs.length 0).zip (vs.map Slot.ready)) = .got vs c noPre := by
  simp only [Core.takeOps, Core.takeAll_ready, Core.drawSrcs_ready]
  rw [filterMap_plain _ vs fun _ => rfl]
  rfl

/-- R225: how a vector instruction executes. -/
theorem Core.vStep_of_isVecOp {c : Core} {k : Cmd} (first : Bool) (hi : isVecOp k.instr = true) {vs : List Val}
    (hcfg : c.cfgRes k = 0) (hops : c.takeOps k.instr (k.srcs.zip k.ops) = .got vs c noPre) (hp : firstPoison vs = none) :
    c.vStep k first = .done { c with srv := (vecEval k.instr vs c.srv).2 } (vecEval k.instr vs c.srv).1 := by
  unfold Core.vStep
  extract_lets scalar compute
  split
  case h_12 =>
    simp only [compute, hcfg, hops, hp]
    rfl
  all_goals
    rename_i heq
    rw [heq] at hi
    exact absurd hi Bool.false_ne_true

/-- No channel is asked for by a vector instruction whose operands do not pop. -/
theorem Core.cfgRes_of_isVecOp (c : Core) {k : Cmd} (hi : isVecOp k.instr = true) (n : Nat) (hs : k.srcs = List.replicate n 0) :
    c.cfgRes k = 0 := by
  have huses : ∀ q, usesChan k q = false := by
    intro q
    have hsrc : k.srcs.any (fun x => match xKind x with
        | .pop n => n == q
        | .peek n => n == q
        | _ => false) = false := by
      rw [hs, List.any_eq_false]
      intro x hx
      rw [List.eq_of_mem_replicate hx]
      exact Bool.false_ne_true
    unfold usesChan
    refine (congrArg (· || _) hsrc).trans ?_
    split
    case h_7 => rfl
    all_goals
      rename_i heq
      rw [heq] at hi
      exact absurd hi Bool.false_ne_true
  simp only [Core.cfgRes, huses, Bool.false_and]
  rfl

/-- Changing the oldest command of VQ changes no other. -/
theorem Core.modCmd_head {c : Core} {k : Cmd} {ks : List Cmd} (hq : c.vq = k :: ks) (hseq : ∀ x ∈ ks, x.seq ≠ k.seq)
    (f : Cmd → Cmd) : c.modCmd .v k.seq f = { c with vq := f k :: ks } := by
  have hks : ks.map (fun x => if x.seq = k.seq then f x else x) = ks := by
    conv_rhs => rw [← List.map_id ks]
    exact List.map_congr_left fun x hx => if_neg (hseq x hx)
  show { c with vq := c.vq.map _ } = _
  rw [hq, List.map_cons, if_pos rfl, hks]

/-- R225: the entry at the head of VQ is the one that executes, with every older entry completed. -/
theorem Core.vHead_head {c : Core} {k : Cmd} {ks : List Cmd} (hq : c.vq = k :: ks) (hs : k.started = false) :
    c.vHead = some (k, true) := by
  have hfind : c.vq.findIdx? (fun k => !k.started) = some 0 := by
    rw [hq, List.findIdx?_cons, hs]
    rfl
  rw [Core.vHead, hfind]
  dsimp only
  rw [hq]
  rfl

/-- A vector instruction has no fields of form E, takes no copy tag, and invalidates nothing. -/
theorem not_formE_of_isVecOp {i : Instr} (hi : isVecOp i = true) : engFields i = none := by
  unfold engFields
  split
  case h_13 => rfl
  all_goals exact absurd hi Bool.false_ne_true

theorem takesTag_of_isVecOp {i : Instr} (hi : isVecOp i = true) : takesTag i = false := by
  unfold takesTag
  split
  case h_6 => rfl
  all_goals exact absurd hi Bool.false_ne_true

theorem isInv_of_isVecOp {i : Instr} (hi : isVecOp i = true) : isInv i = false := by
  unfold isInv
  split
  case h_3 => rfl
  all_goals exact absurd hi Bool.false_ne_true

/-- R185: a vector instruction that has executed has nothing left to perform. -/
theorem State.cmdFinished_of_isVecOp (s : State) (g : Nat) {k : Cmd} (hi : isVecOp k.instr = true) (hs : k.started = true)
    (hd : k.done = false) : s.cmdFinished g k = true := by
  unfold State.cmdFinished
  rw [hs, hd]
  split
  case h_6 =>
    rw [takesTag_of_isVecOp hi, isInv_of_isVecOp hi]
    rfl
  all_goals
    rename_i heq
    rw [heq] at hi
    exact absurd hi Bool.false_ne_true

end Sys2Proof.Machine

section
open Sys2Proof Sys2Proof.Machine

/-- Settles O36: a lane of the vector that `ofLanes` makes. -/
theorem laneResults : Obligations.LaneResults := by
  intro f a b m x sr i w on at' hi
  have masked : ∀ (g : Nat → Nat → Nat), (∀ p q, p < 2 ^ w → q < 2 ^ w → g p q < 2 ^ w) →
      lane w ((((lanePure f [.vector a, .vector b, .vector m] sr true g).1[0]?).map Val.vec).getD 0) i
        = if on then g (lane w a i) (lane w b i) else 0 := by
    intro g hg
    rw [lanePure, lane_lanewise_pure f a b m sr g hi, Nat.mod_eq_of_lt (hg _ _ (lane_lt w a i) (lane_lt w b i))]
  refine ⟨fun _ => masked _ fun p q hp _ => Nat.and_lt_two_pow p ‹_›, fun _ => masked _ fun p q => Nat.or_lt_two_pow,
    fun _ => masked _ fun p q => Nat.xor_lt_two_pow, fun _ hint => ?_, fun _ => ?_, fun _ => ?_, fun _ => ?_⟩
  case refine_1 =>
    have hint' : isIntTy (vmodOf f).ty = true := hint
    have harith : (vmodOf f).arith .add = fun p q sr => ((vmodOf f).arithInt .add p q, sr) := by
      funext p q sr
      rw [VMod.arith, if_pos hint']
    simp only [at', vecEval, vecEvalAt, harith]
    rw [lane_lanewise_pure f a b m sr _ hi, ← readInt_eq_val_ofNat, ← readInt_eq_val_ofNat, ← storeInt_mod]
    rfl
  case refine_2 => exact (lane_masked f m _ hi).trans (if_congr Iff.rfl (Nat.mod_mod _ _) rfl)
  case refine_3 => exact (lane_masked f m _ hi).trans (if_congr Iff.rfl (Nat.mod_eq_of_lt (lane_lt w a _)) rfl)
  case refine_4 => exact congrArg (fun y => [Val.scalar y]) (extend_eq_ext _ _ _)

/-- Settles O34: the head of VQ executes with its own values, and its completion touches no younger entry. -/
theorem vectorExecutes : Obligations.VectorExecutes := by
  intro s g k ks vs hruns hq hi
  refine ⟨fun hs hd hinj hbad hops hsrcs hp hseq => ?_, fun hs hd htag hseq hdone => ?_⟩
  · have hcfg := (s.core g).cfgRes_of_isVecOp hi vs.length hsrcs
    have htake : (s.core g).takeOps k.instr (k.srcs.zip k.ops) = .got vs (s.core g) noPre := by
      rw [hsrcs, hops, Core.takeOps_ready]
    have hstep := Core.vStep_of_isVecOp true hi hcfg htake hp
    have hinject : ((s.core g).injection k.instr).isSome = false := by
      rw [Core.injection, hinj]
      rfl
    have hfrozen : s.frozenSect g .v = false := rfl
    simp only [exec, execEngineCommandStart, State.engineStart, hruns, hfrozen, Bool.not_true, Bool.or_self, Bool.false_eq_true, if_false,
      State.vStart, Core.vHead_head hq hs, hinject, hbad, hstep, State.vAdvance, Option.isSome_none]
    refine congrArg Host.Outcome.next (congrArg (s.setCore g) ?_)
    beta_reduce
    refine (Core.modCmd_head (c := { s.core g with srv := (vecEval k.instr vs (s.core g).srv).2 }) hq hseq _).trans ?_
    dsimp only
    rw [hbad]
  · have hrun := hruns
    simp only [State.queueRuns, Bool.and_eq_true] at hrun
    obtain ⟨⟨⟨hengines, hup⟩, _⟩, _⟩ := hrun
    have hopen : (s.core g).sigOpen .v k = true := by
      rw [Core.sigOpen, not_formE_of_isVecOp hi]
    have hget : ((s.core g).queue .v)[0]? = some k := by
      show (s.core g).vq[0]? = some k
      rw [hq]
      rfl
    simp only [exec, execCommandComplete, hget, hengines, hup, hopen, s.cmdFinished_of_isVecOp g hi hs hd, Bool.and_self, if_true,
      State.cmdComplete, State.vComplete, State.finishCmd]
    refine congrArg Host.Outcome.next (congrArg (s.setCore g) ?_)
    beta_reduce
    have hsignal : (s.core g).applySignal .v k.instr none = s.core g := by rw [Core.applySignal, not_formE_of_isVecOp hi]
    have hfree : ∀ f, (s.core g).modTag k f = s.core g := fun f => by rw [Core.modTag, htag]
    have hvq : ((s.core g).deliverAll k.dest k.out).vq = k :: ks := by
      rw [Core.deliverAll_frame]
      exact hq
    rw [hsignal, hfree, Core.modCmd_head hvq hseq]
    have hdrop : ks.dropWhile (·.done) = ks := List.dropWhile_eq_self_iff.mpr fun h => by
      simp [hdone _ (List.getElem_mem h)]
    simp [Core.popDone, Core.setQueue, Core.queue, hdrop]

end
end

section
/-! PROOFS. The ends of the waits of a task: `trig`, `halt`, `phase`, `sleep.gt` and `sem.wait` (R163, R190, R252, R272,
R291). -/

namespace Sys2Proof.Machine

/-- R291: `trig` with nothing older under way. -/
theorem State.trigStep_drained {s : State} {g : Nat} (hd : (s.core g).drained = true) (hh : s.taskHeld g = false) :
    s.trigStep g = (((s.commit (.core g)).taskRelease g).markTrig g).endWith g [] := by
  rw [State.trigStep, hd, hh]
  rfl

/-- R163: `halt` with nothing older under way and no error to report. -/
theorem State.haltStep_drained {s : State} {g : Nat} (hd : (s.core g).drained = true) (hh : s.taskHeld g = false)
    (hb : s.errBoundary g = none) (he : (s.core g).haltErr = none) : s.haltStep g = s.haltFinish g := by
  simp only [State.haltStep, hd, hh, hb, he, Bool.not_true, Bool.or_self, Bool.false_eq_true, if_false]

/-- A record of a window entry is no part of a core. -/
theorem State.core_modTaskEntry (s : State) (g : Nat) (f : Entry → Task → Entry) (h : Nat) :
    (s.modTaskEntry g f).core h = s.core h := by
  simp only [State.modTaskEntry]
  split
  · rfl
  · split
    · split <;> rfl
    · rfl

/-- R163: what `halt` leaves of its core. -/
theorem State.core_haltFinish (s : State) (g : Nat) :
    ((s.haltFinish g).core g).cstate = .idle ∧ ((s.haltFinish g).core g).task = none ∧ ((s.haltFinish g).core g).wait = none
      ∧ ((s.haltFinish g).core g).ports = [] ∧ ((s.haltFinish g).core g).chans = [] ∧ ((s.haltFinish g).core g).teamKey = none := by
  rw [State.haltFinish, State.core_modCore_self]
  refine ⟨rfl, rfl, rfl, rfl, rfl, ?_⟩
  rw [State.taskDone, State.core_modTaskEntry, State.leaveTeam, State.core_modCore_self]

/-- R252: lines that leave an LSC change nothing but caches and HBM. -/
theorem cacheFrame_shrinkStore (g : Nat) : ∀ (n : Nat) (s : State), CacheFrame s (s.shrinkStore g n)
  | 0, _ => CacheFrame.rfl
  | n + 1, s => by
    rw [State.shrinkStore]
    split
    · exact CacheFrame.rfl
    · exact (cacheFrame_evictLine s _ _).trans (cacheFrame_shrinkStore g n _)

/-- R252: what `phase` leaves of its core once the drain is over. -/
theorem State.core_phaseStep {s : State} {g : Nat} (k : Nat) (hd : (s.core g).drained = true) :
    ((s.phaseStep g k).core g).padUnits = k ∧ ((s.phaseStep g k).core g).wait = none
      ∧ ((s.phaseStep g k).core g).ctx = ((s.core g).ctx.push []).advance 1 := by
  have hcommit : (s.commitAll g).core g = { s.core g with acc := ((s.commitAll g).core g).acc } := s.commitFirst_core g _ g
  simp only [State.phaseStep, hd, Bool.not_true, Bool.false_eq_true, if_false, State.endWith, State.endWait, State.retire,
    State.modCtx, State.core_modCore_self]
  have hframe := (cacheFrame_shrinkStore g ((s.cachedSecs (.lsc g)).length) ((s.commitAll g).modCore g (fun c =>
    { c.padClear (min (s.core g).padUnits k) (max (s.core g).padUnits k) with padUnits := k }))).core g
  rw [State.core_modCore_self, hcommit] at hframe
  refine ⟨?_, trivial, ?_⟩
  · exact congrArg Core.padUnits hframe
  · exact congrArg (fun c => (c.ctx.push []).advance 1) hframe

/-- R272: the promised time has come, and the copy is done. -/
theorem State.sleepStep_reached {s : State} {g time tag : Nat} {nt : Bool} (bound : Nat) (hl : (s.core g).late = false)
    (hg : gtcReached (s.die (dieOf g)).gtc time = true) (hd : sleepDone ((s.core g).tag tag) time = true) :
    s.sleepStep g time tag nt false bound = s.sleepEnd g time tag nt 0 := by
  simp [State.sleepStep, hl, hg, hd]

theorem sleepDone_of {x : Tag} {time : Nat} (h : x.st = .done ∨ x.st = .free ∨ x.time ≠ time) : sleepDone x time = true := by
  rcases h with h | h | h
  · simp [sleepDone, h]
  · simp [sleepDone, h]
  · simp [sleepDone, h]

/-- R272: `sleep.gt` at issue. -/
theorem sleepOp_ready {s : State} {g : Nat} {i : Instr} {f : BaseF} {v : Word} (nt : Bool)
    (h : MayActOn s g .kernel i [.scalar v]) (hv : v.toNat % 256 ≤ 31) (hw : (s.core g).wait = none) :
    sleepOp i f nt s = .next (s.sleepStep g (v.toNat / 256) (v.toNat % 256) nt false (boundField f)) := by
  have h31 : ¬ 31 < (w0 [.scalar v]).toNat % 256 := Nat.not_lt.mpr hv
  rw [sleepOp, coreOp_ready _ h]
  simp only [h31, hw, if_false]
  rfl

/-- The end of a wait of a running core is one step of what waits. -/
theorem onCore_runs {s : State} {g : Nat} (k : Nat → State) (hf : s.focus = .core g) (hr : Runs s g) :
    onCore s k = .next (k g) :=
  onCore_run k hf (by rw [hr.run]; decide) hr.whole hr.up

end Sys2Proof.Machine

section
open Sys2Proof Sys2Proof.Machine

/-- Settles O39: each step of a wait, at issue and later, once what it waits for is there. -/
theorem waitsEnd : Obligations.WaitsEnd := by
  intro s g f
  refine ⟨fun hd hh => ⟨fun h => ?_, fun hf hg h hb he => ?_, fun h => ⟨s.phaseStep g (bitsNat f.mod 16 5), ?_, ?_⟩,
      fun hf hr stall b => ⟨fun hw => ?_, fun hw hb he => ?_, fun k hw => ⟨s.phaseStep g k, ?_, ?_⟩⟩⟩,
    ⟨_, rfl, s.core_haltFinish g⟩, fun v hv hw hl hg hdone => ⟨fun h => ?_, fun h => ?_⟩,
    fun time tag stall b nt hf hr hw hl hg hdone => ?_, fun flag n stall b tr hf hr hw herr hn hopen => ?_⟩
  · rw [exec, execTrig, coreOp_ready _ h, State.trigStep_drained hd hh]
  · rw [exec, execHalt, withOps_ready (kinds := []) 1 _ h, hf]
    simp only [isSvc_eq_false hg, Bool.false_eq_true, if_false, State.haltStep_drained hd hh hb he]
  · rw [exec, execPhase, coreOp_ready _ h]
  · obtain ⟨hpad, hwait, hctx⟩ := State.core_phaseStep (bitsNat f.mod 16 5) hd
    refine ⟨hpad, hwait, hctx.trans ?_⟩
    simp [State.retire, State.modCtx, State.ctxOf]
  · rw [exec, execTrigRelease, onCore_runs _ hf hr, hw]
    simp only [canRun_of_runs hr, if_true, State.trigStep_drained hd hh]
  · rw [exec, execHaltDrainEnd, onCore_runs _ hf hr, hw]
    simp only [canRun_of_runs hr, if_true, State.haltStep_drained hd hh hb he]
  · rw [exec, execPhaseMove, onCore_runs _ hf hr, hw]
    simp only [canRun_of_runs hr, if_true]
  · obtain ⟨hpad, hwait, -⟩ := State.core_phaseStep k hd
    exact ⟨hpad, hwait⟩
  · rw [exec, execSleepGt, sleepOp_ready _ h hv hw, State.sleepStep_reached _ hl hg (sleepDone_of hdone)]
  · rw [exec, execSleepGtNt, sleepOp_ready _ h hv hw, State.sleepStep_reached _ hl hg (sleepDone_of hdone)]
  · rw [exec, execPromiseTimeReached, onCore_runs _ hf hr, hw]
    simp only [canRun_of_runs hr, if_true, State.sleepStep_reached 0 hl hg (sleepDone_of (.inl hdone))]
  · rw [exec, execSemWaitSatisfied, onCore_runs _ hf hr, hw]
    have hok : flagWait ((s.core g).flag flag) n = .ok := by
      simp [flagWait, herr, hn]
    have hgo : (FlagWait.ok == FlagWait.no) = false := rfl
    simp only [canRun_of_runs hr, hok, hgo, hopen, if_true, State.semStep, Bool.false_eq_true, if_false]

end
end

section
/-! PROOFS. Barrier words, teams and the team barrier (R286 to R290). -/

namespace Sys2Proof.Machine

/-! R286: `bar.wait`. -/

/-- A barrier word that ends the wait: the generation has moved on, or the word is in error and the wait takes errors. -/
theorem State.barStep_ends {s u : State} {g gen scope w : Nat} {x : Acc} {t : Bool} (own : Nat)
    (hb : (s.core g).barHeld x = false)
    (hh : s.held (dieOf g) x.path false (s.atomicPath g (s.scopeOf g scope) x.path) = false)
    (hr : s.barRead g (s.scopeOf g scope) x = (.ok w, u))
    (hend : w / 2 ^ 32 % 2 ^ 16 ≠ gen ∨ w / 2 ^ 63 % 2 = 1) (hres : w / 2 ^ 54 % 2 ^ 9 = 0)
    (herr : t = true → w / 2 ^ 63 % 2 = 0) :
    s.barStep g x gen t scope own = (u.modCore g (fun c =>
      c.addAcc (mkAcc c (.acquire scope) false 0 0 x.path 0 0))).endWith g [.scalar (BitVec.ofNat 64 w)] := by
  have hstand : ¬ (w / 2 ^ 32 % 2 ^ 16 = gen ∧ (!(w / 2 ^ 63 % 2 == 1)) = true) := by
    rintro ⟨hg, he⟩
    rcases hend with h | h
    · exact h hg
    · rw [h] at he
      exact absurd he (by decide)
  have htrap : (w / 2 ^ 63 % 2 == 1 && t) = false := by
    cases t
    · exact Bool.and_false _
    · rw [herr rfl]
      rfl
  simp only [State.barStep, hb, hh, hr, Bool.or_self, Bool.false_eq_true, if_false, Bool.and_eq_true, decide_eq_true_eq, hstand, hres,
    ne_eq, not_true_eq_false, htrap]

/-- `.t` on a barrier word in error. -/
theorem State.barStep_error {s u : State} {g gen scope w : Nat} {x : Acc} (own : Nat)
    (hb : (s.core g).barHeld x = false)
    (hh : s.held (dieOf g) x.path false (s.atomicPath g (s.scopeOf g scope) x.path) = false)
    (hr : s.barRead g (s.scopeOf g scope) x = (.ok w, u)) (herr : w / 2 ^ 63 % 2 = 1) (hres : w / 2 ^ 54 % 2 ^ 9 = 0) :
    s.barStep g x gen true scope own = u.endTrap g { code := cERRBIT, ecode := w / 2 ^ 48 % 64 } [false] := by
  have herr' : (w / 2 ^ 63 % 2 == 1) = true := by rw [herr]; rfl
  simp only [State.barStep, hb, hh, hr, Bool.or_self, Bool.false_eq_true, if_false, herr', Bool.not_true, Bool.and_false, hres,
    ne_eq, not_true_eq_false, Bool.and_self, if_true]

/-- `bar.wait` whose address passes its checks reads the word there. -/
theorem barWaitOp_ready {s t : State} {g : Nat} {i : Instr} {f : BaseF} {a gen : Word} {p : Path} (tr : Bool)
    (h : MayActOn s g .kernel i [.scalar a, .scalar gen]) (hc : s.checkAddr g false a.toInt 8 Need.load = (.ok p, t)) :
    barWaitOp i f tr s = .next (t.barStep g (mkAcc (t.core g) (.acquire (bitsNat f.mod 8 3)) false a.toNat 8 p 0 0)
      (gen.toNat % 2 ^ 16) tr (bitsNat f.mod 8 3) (bitsNat f.mod 11 5)) := by
  have hc' : s.checkAddr g false (w0 [.scalar a, .scalar gen]).toInt 8 Need.load = (.ok p, t) := hc
  rw [barWaitOp, coreOp_ready _ h]
  simp only [hc']
  rfl

/-! R287 to R290: teams. -/

/-- Finding a record by a key that a change of the record keeps. -/
theorem find_modTeam (l : List Team) (key : Nat) {f : Team → Team} (hf : ∀ t, (f t).key = t.key) :
    (l.map (fun t => if t.key = key then f t else t)).find? (fun t => t.key = key)
      = (l.find? (fun t => t.key = key)).map f := by
  induction l with
  | nil => rfl
  | cons t l ih =>
    rw [List.map_cons, List.find?_cons, List.find?_cons]
    by_cases h : t.key = key
    · simp [h, hf]
    · simp only [h, if_false, decide_false]
      exact ih

/-- Inserting into an ascending list and sorting are those of the library. -/
theorem insertNat_eq_orderedInsert (x : Nat) (l : List Nat) : insertNat x l = l.orderedInsert (· ≤ ·) x := by
  induction l with
  | nil => rfl
  | cons y l ih => rw [insertNat, List.orderedInsert_cons, ih]

theorem sortNat_eq_insertionSort (l : List Nat) : sortNat l = l.insertionSort (· ≤ ·) := by
  induction l with
  | nil => rfl
  | cons x l ih =>
    rw [List.insertionSort_cons, ← ih, ← insertNat_eq_orderedInsert]
    rfl

/-- A record with a core added to its members (R287, R288). -/
def Team.joined (t : Team) (g : Nat) : Team :=
  { t with members := t.members ++ [g], complete := (t.members ++ [g]).length == t.count,
           ranks := if (t.members ++ [g]).length == t.count then sortNat (t.members ++ [g]) else [] }

theorem Team.joined_ranks {t : Team} {g : Nat} (h : (t.joined g).complete = true) :
    (t.joined g).ranks.Pairwise (· ≤ ·) ∧ ∀ x, x ∈ (t.joined g).ranks ↔ x ∈ (t.joined g).members := by
  have hr : (t.joined g).ranks = (t.members ++ [g]).insertionSort (· ≤ ·) := by
    rw [← sortNat_eq_insertionSort]
    exact if_pos h
  rw [hr]
  exact ⟨List.pairwise_insertionSort (· ≤ ·) _, fun x => List.mem_insertionSort _⟩

/-- A record that a first member opens. -/
def Team.opened (key n : Nat) : Team :=
  { key := key, count := n, members := [], gen := 0, arrived := [], complete := false, ranks := [] }

/-- R287, R288: the record of a key once a core has joined it. -/
theorem State.find_joinTeam (s : State) (g key n : Nat) :
    ((s.joinTeam g key n).part (s.core g).part).teams.find? (fun t => t.key = key)
      = some ((((s.part (s.core g).part).teams.find? (fun t => t.key = key)).getD (Team.opened key n)).joined g) := by
  simp only [State.joinTeam, State.modTeam, State.part_modCore, State.part_modPart_self]
  refine (find_modTeam _ key (f := (·.joined g)) fun _ => rfl).trans ?_
  split
  case isTrue h =>
    obtain ⟨t, ht⟩ := Option.isSome_iff_exists.mp ((List.find?_isSome.trans List.any_eq_true.symm).mpr h)
    rw [ht]
    rfl
  case isFalse h =>
    have hnone : (s.part (s.core g).part).teams.find? (fun t => decide (t.key = key)) = none :=
      List.find?_eq_none.mpr fun t ht hk => h (List.any_eq_true.mpr ⟨t, ht, hk⟩)
    rw [State.part_modPart_self, List.find?_append, hnone]
    simp [Team.opened]

/-- R288: the core of a member names its team. -/
theorem State.teamKey_joinTeam (s : State) (g key n : Nat) : ((s.joinTeam g key n).core g).teamKey = some key := by
  rw [State.joinTeam, State.core_modCore_self]

/-- R289: what leaving a team does to its core and to the records. -/
theorem State.core_leaveTeam (s : State) (g : Nat) :
    ((s.leaveTeam g).core g).teamKey = none ∧ ((s.leaveTeam g).core g).team = none := by
  rw [State.leaveTeam, State.core_modCore_self]
  exact ⟨rfl, rfl⟩

theorem State.mem_leaveTeam (s : State) (g : Nat) (r : Team) :
    r ∈ ((s.leaveTeam g).part (s.core g).part).teams ↔ r.members ≠ [] ∧ ∃ t ∈ (s.part (s.core g).part).teams,
      r = { t with members := t.members.filter (· != g) } := by
  have hpart : (s.dissolveGang g).part (s.core g).part = s.part (s.core g).part := by
    rw [(State.gangFrame_dissolveGang s g).state]
    rfl
  simp only [State.leaveTeam, State.part_modCore, State.part_modPart_self, hpart, List.mem_filter, List.mem_map]
  constructor
  · rintro ⟨⟨t, ht, rfl⟩, hne⟩
    exact ⟨by simpa using hne, t, ht, rfl⟩
  · rintro ⟨hne, t, ht, rfl⟩
    exact ⟨⟨t, ht, rfl⟩, by simpa using hne⟩

/-- R290: an arrival in the record of its team. -/
theorem State.find_arrive {s : State} {p g key : Nat} {t : Team} (ht : (s.part p).teams.find? (fun t => t.key = key) = some t)
    (hg : g ∉ t.arrived) :
    ((s.arrive p g key).part p).teams.find? (fun t => t.key = key)
      = some (if t.arrived.length + 1 = t.count then { t with arrived := [], gen := t.gen + 1 }
          else { t with arrived := t.arrived ++ [g] }) := by
  simp only [State.arrive, State.modTeam, State.part_modPart_self]
  refine (find_modTeam _ key fun t => ?_).trans ?_
  · split
    · split <;> rfl
    · split <;> rfl
  · rw [ht]
    simp [hg]

theorem cacheFrame_acquireAct (s : State) (g sc : Nat) : CacheFrame s (s.acquireAct g sc) := by
  have flush (s : State) (n : Nat) (c : CacheId) : CacheFrame s (if n ≤ sc then s.flushAll c else s) := by
    split
    · exact cacheFrame_flushAll s c
    · exact CacheFrame.rfl
  exact (flush s 2 _).trans (flush _ 3 _)

/-- A loop that changes a state only at one element, where the others find nothing to change. -/
theorem foldl_once {α β : Type} {F : β → α → β} {l : List α} {g : α} (hg : g ∈ l) (hn : l.Nodup) (P : β → Prop)
    (hid : ∀ u h, h ∈ l → h ≠ g → P u → F u h = u) {s : β} (hP : P (F s g)) (hs : P s) : l.foldl F s = F s g := by
  have skip : ∀ (k : List α) (u : β), (∀ h ∈ k, h ∈ l ∧ h ≠ g) → P u → k.foldl F u = u := by
    intro k
    induction k with
    | nil => exact fun _ _ _ => rfl
    | cons h k ih =>
      intro u hk hu
      obtain ⟨hl, hne⟩ := hk h List.mem_cons_self
      rw [List.foldl_cons, hid u h hl hne hu]
      exact ih u (fun x hx => hk x (List.mem_cons_of_mem _ hx)) hu
  obtain ⟨l1, l2, rfl⟩ := List.append_of_mem hg
  obtain ⟨-, h2, h12⟩ := List.nodup_append.mp hn
  rw [List.foldl_append, List.foldl_cons, skip l1 s (fun h hh => ⟨List.mem_append_left _ hh, h12 h hh g List.mem_cons_self⟩) hs]
  exact skip l2 _ (fun h hh => ⟨List.mem_append_right _ (List.mem_cons_of_mem _ hh),
    fun he => (List.nodup_cons.mp h2).1 (he ▸ hh)⟩) hP

/-- R290: the end of the wait of a team barrier changes of another core at most its cache. -/
theorem State.wait_acquireNow (s : State) (g sc : Nat) {h : Nat} (hh : h ≠ g) :
    ((s.acquireNow g sc).endWith g []).core h = { s.core h with
      lsc := (((s.acquireNow g sc).endWith g []).core h).lsc, lscFirst := (((s.acquireNow g sc).endWith g []).core h).lscFirst } := by
  simp only [State.endWith, State.endWait, State.retire, State.modCtx, State.core_modCore, if_neg hh]
  rw [State.acquireNow]
  split
  · rw [State.core_modCore, if_neg hh]
  · exact (cacheFrame_acquireAct s g _).core h

end Sys2Proof.Machine
section
open Sys2Proof Sys2Proof.Machine

/-- Settles O38: what one read of a barrier word finds, and the team records by their keys. -/
theorem barriersAndTeams : Obligations.BarriersAndTeams := by
  intro s g f
  refine ⟨?wait, fun x gen scope stall w b tr u hf hrun hw hb hh hr hgen herr hres => ?poll,
    fun k n h hk1 hk2 hn1 hn2 hw hkey hteam => ?join,
    fun key n => ⟨_, s.find_joinTeam g key n, s.teamKey_joinTeam g key n, rfl, Team.joined_ranks, fun t ht => ?_, fun hnone => ?_⟩,
    ⟨(s.core_leaveTeam g).1, (s.core_leaveTeam g).2, s.mem_leaveTeam g⟩,
    fun p key t ht hg => State.find_arrive ht hg,
    fun key stall b t hf hrun hw ht hcomplete => ?joined,
    fun h => ?leave,
    fun t h hw ht hcomplete hbroken hdone hheld => ?arrives,
    fun gen scope own t ht hgen => ⟨?_, fun hheld => ?_⟩,
    fun p key gen scope stall b t hrun hp hw ht hgen hothers => ?complete,
    fun p key => ?_⟩
  case wait =>
    intro a gen p t u w hc x hb hh hr ends
    refine ⟨fun h hend hres => ?_, fun h hgen herr hres => ?_, fun h herr hres => ?_, fun hgen herr => ⟨fun h => ?_, fun h => ?_⟩⟩
    · rw [exec, execBarWait, barWaitOp_ready false h hc, State.barStep_ends _ hb hh hr hend hres fun h => absurd h Bool.false_ne_true]
      rfl
    · rw [exec, execBarWaitT, barWaitOp_ready true h hc, State.barStep_ends _ hb hh hr (.inl hgen) hres fun _ => herr]
      rfl
    · rw [exec, execBarWaitT, barWaitOp_ready true h hc, State.barStep_error _ hb hh hr herr hres]
    · rw [exec, execBarWait, barWaitOp_ready false h hc, State.barStep_same false _ hb hh hr hgen herr]
    · rw [exec, execBarWaitT, barWaitOp_ready true h hc, State.barStep_same true _ hb hh hr hgen herr]
  case poll =>
    rw [exec, execBarWaitPoll, onCore_runs _ hf hrun, hw]
    simp only [canRun_of_runs hrun, if_true]
    rw [State.barStep_ends 0 hb hh hr (.inl hgen) hres fun _ => herr]
  case joined =>
    rw [exec, execTeamJoinComplete, onCore_runs _ hf hrun, hw]
    simp only [canRun_of_runs hrun, if_true, State.joinStep, ht, hcomplete]
  case leave => rw [exec, execTeamLeave, coreOp_ready _ h]
  case arrives =>
    rw [exec, execTeamBar, coreOp_ready _ h]
    have hheld' : s.releaseHeld g (s.scopeOf g (scopeField f)) = false := hheld
    simp only [hw, ht, hcomplete, hbroken, hdone, hheld', Bool.not_true, Bool.or_self, Bool.false_eq_true, if_false]
    rfl
  case join =>
    rw [exec, execTeamJoin, coreOp_ready _ h]
    have hk : (decide ((w0 [.scalar k, .scalar n]).toNat = 0) || decide (2 ^ 32 ≤ (w0 [.scalar k, .scalar n]).toNat)
        || decide ((w1 [.scalar k, .scalar n]).toNat < 1) || decide (128 < (w1 [.scalar k, .scalar n]).toNat)) = false := by
      simp [w0, w1, Val.word]
      omega
    have hbad : (match (s.part (s.core g).part).teams.find? (fun t => t.key = (w0 [.scalar k, .scalar n]).toNat) with
        | none => decide (64 ≤ (s.part (s.core g).part).teams.length)
        | some t => t.count != (w1 [.scalar k, .scalar n]).toNat || t.complete) = false := by
      have hw0 : w0 [.scalar k, .scalar n] = k := rfl
      have hw1 : w1 [.scalar k, .scalar n] = n := rfl
      rw [hw0, hw1]
      rcases hteam with ⟨hnone, hlen⟩ | ⟨t, ht, hcount, hcomplete⟩
      · rw [hnone]
        exact decide_eq_false (Nat.not_le.mpr hlen)
      · rw [ht]
        simp [hcount, hcomplete]
    rw [hw]
    dsimp only
    rw [if_neg (ne_true_of_eq_false hk), if_neg]
    · rfl
    · refine ne_true_of_eq_false ?_
      rw [hkey]
      exact hbad
  case refine_1 =>
    rw [ht]
    exact ⟨rfl, rfl, rfl⟩
  case refine_2 =>
    rw [hnone]
    exact ⟨rfl, rfl, rfl⟩
  case refine_3 => rw [State.teamBarStep, ht]; exact if_pos hgen
  case refine_4 => rw [State.acquireNow, hheld]; rfl
  case complete =>
    rw [exec, execTeamBarComplete]
    have hstep : s.teamBarStep g key gen scope 0 = (s.acquireNow g scope).endWith g [] := by
      rw [State.teamBarStep, ht]
      exact if_pos hgen
    refine congrArg Host.Outcome.next ((foldl_once (List.mem_range.mpr hrun.user) (List.nodup_range)
      (fun u => ∀ h, h < 128 → h ≠ g → ∀ gen' scope' stall' b',
        (u.core h).wait ≠ some { kind := .teamBar key gen' scope', stall := stall', bound := b' }) ?_ ?_ hothers).trans ?_)
    · intro u h hmem hne hu
      have hu := hu h (List.mem_range.mp hmem) hne
      split
      · split
        · rename_i hwait
          rw [if_neg]
          rintro rfl
          exact hu _ _ _ _ hwait
        · rfl
      · rfl
    · intro h _ hne gen' scope' stall' b'
      simp only [hp, canRun_of_runs hrun, hw, hstep, if_true, decide_true, Bool.and_self]
      rw [s.wait_acquireNow g scope hne]
      exact hothers h ‹_› hne gen' scope' stall' b'
    · simp only [hp, canRun_of_runs hrun, hw, hstep, if_true, decide_true, Bool.and_self]
  case refine_5 =>
    rw [exec]
    rfl

end
end

section
/-! PROOFS. Window entries as parts of the state, and placement: ownership, the dispatchers and the start of a task
(R16, R131 to R136, R160). -/

namespace Sys2Proof.Machine

/-! Window entries. -/

/-- An entry read after one is replaced. -/
theorem State.entry_setEntry (s : State) (p n : Nat) (e : Option Entry) (m : Nat) :
    (s.setEntry p n e).entry p m = if m = n then e else s.entry p m := by
  simp only [State.entry, State.setEntry, State.part_modPart_self]
  exact tget_tput _ _ _ _ _

@[simp] theorem State.entry_setEntry_self (s : State) (p n : Nat) (e : Option Entry) : (s.setEntry p n e).entry p n = e := by
  rw [State.entry_setEntry, if_pos rfl]

/-- A replaced entry changes its partition's window alone. -/
theorem State.part_setEntry (s : State) (p n : Nat) (e : Option Entry) :
    (s.setEntry p n e).part p = { s.part p with window := ((s.setEntry p n e).part p).window } := by
  rw [State.setEntry, State.part_modPart_self]

@[simp] theorem State.core_setEntry (s : State) (p n : Nat) (e : Option Entry) (g : Nat) : (s.setEntry p n e).core g = s.core g :=
  rfl

/-- An entry that is there, changed. -/
theorem State.modEntry_eq {s : State} {p n : Nat} {e : Entry} (f : Entry → Entry) (h : s.entry p n = some e) :
    s.modEntry p n f = s.setEntry p n (some (f e)) := by
  rw [State.modEntry, h]

theorem State.entry_modEntry {s : State} {p n : Nat} {e : Entry} (f : Entry → Entry) (h : s.entry p n = some e) :
    (s.modEntry p n f).entry p n = some (f e) := by
  rw [State.modEntry_eq f h, State.entry_setEntry_self]

@[simp] theorem State.core_modEntry (s : State) (p n : Nat) (f : Entry → Entry) (g : Nat) : (s.modEntry p n f).core g = s.core g := by
  rw [State.modEntry]
  split <;> rfl

@[simp] theorem State.die_modEntry (s : State) (p n : Nat) (f : Entry → Entry) (d : Nat) : (s.modEntry p n f).die d = s.die d := by
  rw [State.modEntry]
  split <;> rfl

@[simp] theorem State.sector_modEntry (s : State) (p n : Nat) (f : Entry → Entry) (g : Nat) :
    (s.modEntry p n f).sector g = s.sector g := by
  rw [State.modEntry]
  split <;> rfl

/-- A changed entry changes its partition's window alone. -/
theorem State.part_modEntry (s : State) (p n : Nat) (f : Entry → Entry) :
    (s.modEntry p n f).part p = { s.part p with window := ((s.modEntry p n f).part p).window } := by
  rw [State.modEntry]
  split
  · exact State.part_setEntry ..
  · rfl

theorem State.modEntry_state (s : State) (p n : Nat) (f : Entry → Entry) :
    s.modEntry p n f = { s with parts := (s.modEntry p n f).parts } := by
  rw [State.modEntry]
  split <;> rfl

/-! The dispatchers. -/

/-- R133: the first partition in the order is served where it can be. -/
theorem execGlobalDispatch_serves {s t : State} {p : Nat} {ps : List Nat} (hs : s.sending = false) (ho : s.serveOrder = p :: ps)
    (ht : s.serve p = some t) :
    execGlobalDispatch s = .next { t with lastPart := tput 0 t.lastPart (s.prio p) ((p + 1) % 16) } := by
  simp only [execGlobalDispatch, hs, ho, State.serveFirst, ht, Bool.false_eq_true, if_false]

/-- R134: what a batch of tasks without teams is. -/
def Entry.batch (e : Entry) (p n d k : Nat) : Batch :=
  { part := p, die := d, tasks := (e.take k).1.map (fun i => { entry := n, uid := e.uid, idx := i, core := none }) }

/-- R133, R134: a stream of tasks without teams sends a batch to the next die that has room. -/
theorem State.serve_tasks {s : State} {p n d : Nat} {e : Entry} (hx : s.xfer = [])
    (he : (s.part p).live.find? (fun x => x.2.hasUnsent) = some (n, e)) (hd : e.dispatches = true) (ht : e.team = 0)
    (hdie : ((List.range 8).map (fun i => ((s.part p).lastDie + 1 + i) % 8)).find? (fun d =>
      (List.range 16).any (fun c => s.ownsCore p (d * 16 + c)) && 1 ≤ s.freeSlots p d) = some d) :
    ∃ t, s.serve p = some t ∧ t.sending = true ∧ (t.part p).lastDie = d
      ∧ t.xfer = [e.batch p n d (min 64 (s.freeSlots p d))] := by
  have hnone : s.xfer.find? (fun x => x.part == p) = none := by rw [hx]; rfl
  have hxfer : ∀ k, ((s.modPart p (fun q => { q with lastDie := d })).modEntry p n (fun e => { e with next := k })).xfer = [] := by
    intro k
    rw [State.modEntry_state]
    exact hx
  have hlast : ∀ k, (((s.modPart p (fun q => { q with lastDie := d })).modEntry p n (fun e => { e with next := k })).part p).lastDie
      = d := by
    intro k
    rw [State.part_modEntry, State.part_modPart_self]
  simp only [State.serve, hnone, he, hd, ht, hdie, Bool.not_true, Bool.false_eq_true, if_false, if_true]
  exact ⟨_, rfl, rfl, hlast _, congrArg (_ :: ·) (hxfer _)⟩

/-! The start of a task. -/

/-- R16, R84, R160: what a core is once it has started a task, besides the caches it keeps. -/
theorem State.core_startTask (s : State) (p g n i : Nat) (e : Entry) :
    let c := (s.startTask p g n i e).core g
    c.cstate = .run ∧ c.part = p ∧ c.ctx = Ctx.reset.enterBlock e.kern ((e.args.drop 3).map (fun w => Slot.ready (.scalar w)))
      ∧ (c.task.map (·.idx)) = some i ∧ (c.task.map (·.count)) = some e.ntask ∧ c.flags = [] ∧ c.mq = [] ∧ c.vq = [] ∧ c.cq = [] := by
  intro c
  have hc : c = (s.startTask p g n i e).core g := rfl
  simp only [State.startTask, State.core_modEntry] at hc
  rw [(cacheFrame_shrinkStore g _ _).core g, State.core_modCore_self] at hc
  rw [hc]
  exact ⟨rfl, rfl, rfl, rfl, rfl, rfl, rfl, rfl, rfl⟩

/-- R160: the accumulators and latches of the sector of a task's core lose what they hold, unless it is frozen. -/
theorem State.sector_startTask {s : State} {p g n i : Nat} {e : Entry} (h : (s.sector g).frozen = false) :
    ((s.startTask p g n i e).sector g).acc0 = [] ∧ ((s.startTask p g n i e).sector g).acc1 = []
      ∧ ((s.startTask p g n i e).sector g).lats = [] := by
  have shrink : ∀ (t : State) (k : Nat), (t.shrinkStore g k).sector g = t.sector g := fun t k => by
    rw [(cacheFrame_shrinkStore g k t).state]
    rfl
  have flush : ∀ (b : Prop) [Decidable b], (if b then s.flushAll (.lsc g) else s).sector g = s.sector g := fun b _ => by
    split
    · rw [(cacheFrame_flushAll s _).state]
      rfl
    · rfl
  simp only [State.startTask, State.sector_modEntry, shrink, State.sector_modCore, flush, h, Bool.false_eq_true, if_false,
    State.sector_setSector_self]
  exact ⟨trivial, trivial, trivial⟩

/-- R136: what the start of a task leaves of its ready queue. -/
theorem State.die_startTask (s : State) (p g n i : Nat) (e : Entry) (d : Nat) :
    ((s.startTask p g n i e).die d).ready = (s.die d).ready := by
  have flush : ∀ (b : Prop) [Decidable b], ((if b then s.flushAll (.lsc g) else s).die d).ready = (s.die d).ready := fun b _ => by
    split
    · rw [(cacheFrame_flushAll s _).die]
    · rfl
  have sector : ∀ (b : Bool) (t : State) (x : Sector), ((if b then t else t.setSector g x).die d) = t.die d := fun b t x => by
    split <;> rfl
  simp only [State.startTask, State.die_modEntry]
  rw [(cacheFrame_shrinkStore g _ _).die, State.die_modCore, sector]
  exact flush _

/-- R134: a transfer that ends hands its tasks to the ready queue of its die. -/
def State.arrived (s : State) (b : Batch) (bs : List Batch) : State :=
  { s with xfer := bs, sending := false }.modDie b.die (fun x =>
    { x with ready := tput [] x.ready b.part (tget [] x.ready b.part ++ b.tasks) })

theorem execBatchArrival_sending {s : State} {b : Batch} {bs : List Batch} (hx : s.xfer = b :: bs) (hs : s.sending = true) :
    execBatchArrival s = .next (s.arrived b bs) := by
  simp only [execBatchArrival, hx, hs, Bool.not_true, Bool.false_eq_true, if_false, State.arrived]

theorem State.ready_arrived (s : State) (b : Batch) (bs : List Batch) :
    tget [] ((s.arrived b bs).die b.die).ready b.part = tget [] (s.die b.die).ready b.part ++ b.tasks := by
  rw [State.arrived, State.die_modDie_self]
  exact tget_tput_self _ _ _ _

/-- R136: a ready queue without its head. -/
def State.popReady (s : State) (d p : Nat) (rs : List Ready) : State :=
  s.modDie d (fun x => { x with ready := tput [] x.ready p rs })

/-- R136: the lowest idle core of the partition starts the head of its ready queue. -/
theorem execTaskStart_starts {s : State} {g p : Nat} {r : Ready} {rs : List Ready} {e : Entry} (hf : s.focus = .core g)
    (hg : g < 128) (hp : (List.range 16).find? (fun p => s.ownsCore p g) = some p) (hr : tget [] (s.die (dieOf g)).ready p = r :: rs)
    (he : s.entry p r.entry = some e) (huid : e.uid = r.uid) (hst : e.st = .issued) (htrapped : e.trapped = [])
    (htaker : r.core = some g
      ∨ (r.core = none ∧ ((List.range 16).map (dieOf g * 16 + ·)).find? (fun h => s.coreFree p h) = some g))
    (hsched : s.scheduled p = true) (htakes : s.takesTask g = true) :
    execTaskStart s = .next ((s.popReady (dieOf g) p rs).startTask p g r.entry r.idx e) := by
  have hlive : (e.uid != r.uid || e.st != .issued || !e.trapped.isEmpty) = false := by
    rw [huid, hst, htrapped]
    simp
  have htake : ∀ o : Option Nat, o = some g → (s.scheduled p && o == some g && s.takesTask g) = true := by
    rintro _ rfl
    simp [hsched, htakes]
  simp only [execTaskStart, hf, isSvc_eq_false hg, Bool.false_eq_true, if_false, hp, hr, he, hlive]
  rw [if_pos (htake _ ?_)]
  · rfl
  · rcases htaker with h | ⟨h, hfree⟩
    · rw [h]
    · rw [h]
      exact hfree

end Sys2Proof.Machine

section
open Sys2Proof Sys2Proof.Machine

/-- Settles O42: what each step of placement does once its conditions hold. -/
theorem placementSteps : Obligations.PlacementSteps := by
  intro s
  refine ⟨fun p d v hp hd => ⟨fun h => ⟨s.setOwn p d v, ?_, ?_, fun e => ?_⟩, fun h => ?_⟩,
    fun p ps hs hx ho => ⟨fun t ht => ?_, fun n e d he hdisp hteam hdie => ?_⟩,
    fun b bs hx => ⟨fun hs => ⟨s.arrived b bs, ?_, rfl, rfl, s.ready_arrived b bs⟩, fun hs => ?_, fun hs p ps c ho hc => ?_⟩,
    fun g p r rs e hf hg hp hr he huid hst htrapped htaker hsched htakes =>
      ⟨(s.popReady (dieOf g) p rs).startTask p g r.entry r.idx e, ?_, ?_⟩⟩
  · rw [exec, execOwnWrite, if_neg (by simp [hp, hd]), if_pos h]
  · exact onlyPart_modPart ..
  · rw [State.setOwn, State.part_modPart_self]
    exact tget_tput _ _ _ _ _
  · rw [exec, execOwnWrite, if_neg (by simp [hp, hd]), if_neg (by simp [h])]
  · rw [exec, execGlobalDispatch_serves hs ho ht]
  · obtain ⟨t, ht, hsend, hlast, hxfer⟩ := State.serve_tasks hx he hdisp hteam hdie
    exact ⟨{ t with lastPart := tput 0 t.lastPart (s.prio p) ((p + 1) % 16) },
      by rw [exec, execGlobalDispatch_serves hs ho ht], hsend, hlast, hxfer⟩
  · rw [exec, execBatchArrival_sending hx hs]
  · rw [exec, execGlobalDispatch, if_pos hs]
  · rw [exec, execGlobalDispatch_serves hs ho (t := { s with xfer := c :: s.xfer.erase c, sending := true })]
    rw [State.serve, hc]
  · rw [exec, execTaskStart_starts hf hg hp hr he huid hst htrapped htaker hsched htakes]
  · obtain ⟨hrun, hpart, hctx, hidx, hcount, hflags, hmq, hvq, hcq⟩ := State.core_startTask (s.popReady (dieOf g) p rs) p g r.entry r.idx e
    refine ⟨?_, hrun, hpart, ?_, ?_, ?_, hidx, hcount, fun n => ?_, hmq, hvq, hcq, fun hfrozen => State.sector_startTask hfrozen⟩
    · rw [State.die_startTask, State.popReady, State.die_modDie_self]
      exact tget_tput_self _ _ _ _
    · rw [hctx]
      rfl
    · rw [hctx]
      rfl
    · rw [hctx]
      rfl
    · rw [Core.flag, hflags]
      rfl

end
end

section
/-! PROOFS. The translator of a die, claimed opcodes, EMULATE routines and `code.inv` (R74, R142 to R150, R154, R156). -/

namespace Sys2Proof.Machine

/-! The translator. -/

/-- A note in the trap queue is no part of what the translator of the die has. -/
theorem State.die_queueNote (s : State) (d : Nat) (i : TrapInfo) (e : Nat) :
    (s.queueNote d i).die e = { s.die e with
      trapq := ((s.queueNote d i).die e).trapq, tqdrop := ((s.queueNote d i).die e).tqdrop } := by
  rw [State.queueNote]
  split
  · rw [State.die_modDie]
    split
    · subst e
      rfl
    · rfl
  · rw [State.svcSignal, State.die_modCore, State.die_modDie]
    split
    · subst e
      rfl
    · rfl

/-- R152: nor is what a slot makes of a translation event. -/
theorem State.die_xlateEvent (s : State) (d : Nat) (b : Block) (event e : Nat) :
    (s.xlateEvent d b event).die e = { s.die e with
      trapq := ((s.xlateEvent d b event).die e).trapq, tqdrop := ((s.xlateEvent d b event).die e).tqdrop } := by
  rw [State.xlateEvent]
  split
  · rfl
  · split
    · rfl
    · exact State.die_queueNote ..

/-- R145: a heap with no block that was pinned at an eviction has nothing to sweep. -/
theorem State.sweepHeap_indexed {s : State} {d : Nat} (h : ∀ x ∈ (s.die d).index, s.indexed d x = true) : s.sweepHeap d = s := by
  have hnone : (s.die d).index.filter (fun x => !s.indexed d x) = [] :=
    List.filter_eq_nil_iff.mpr fun x hx => by simp [h x hx]
  rw [State.sweepHeap, hnone]
  rfl

theorem State.makeRoom_fits {s : State} {d z : Nat} (n : Nat) (h : (s.die d).genUse (s.die d).curGen + z ≤ (s.die d).genBytes) :
    s.makeRoom d z (n + 1) = (true, s) := by
  rw [State.makeRoom, if_pos h]

/-- R143, R145: the one lowered block is installed where the current generation has room for it. -/
theorem execBlockInstall_fits {s : State} {d : Nat} {b : Block} (hf : s.focus = .die d) (hl : (s.die d).lowering = [b])
    (hs : s.xlateStopped d = false) (hi : ∀ x ∈ (s.die d).index, s.indexed d x = true)
    (hfit : (s.die d).genUse (s.die d).curGen + Config.loweredBytes b.words.length ≤ (s.die d).genBytes) :
    ∃ t, execBlockInstall s = .next t ∧ (t.die d).lowering = []
      ∧ (t.die d).index = (s.die d).index
        ++ [{ blk := b, gen := (s.die d).curGen, size := Config.loweredBytes b.words.length, pinned := false }]
      ∧ (t.die d).blocksN = ((s.die d).blocksN + 1) % 2 ^ 32 := by
  have hd : dieOfAgent (.die d) = d := rfl
  have hfind : [b].find? (fun b => b.obj == 0 || !s.xlateStopped d) = some b := by
    rw [List.find?_cons, hs, Bool.not_false, Bool.or_true]
  have hroom : (s.modDie d (fun x => { x with lowering := x.lowering.filter (fun y => y != b) })).makeRoom d
      (Config.loweredBytes b.words.length) 4 = (true, s.modDie d (fun x => { x with lowering := x.lowering.filter (fun y => y != b) })) := by
    refine State.makeRoom_fits 3 ?_
    rw [State.die_modDie_self]
    exact hfit
  simp only [execBlockInstall, hf, hd, State.sweepHeap_indexed hi, hl, hfind, hroom]
  refine ⟨_, rfl, ?_, ?_, ?_⟩
  · rw [State.die_xlateEvent, State.die_modDie_self, State.die_modDie_self, hl]
    simp
  · rw [State.die_xlateEvent, State.die_modDie_self, State.die_modDie_self]
  · rw [State.die_xlateEvent, State.die_modDie_self, State.die_modDie_self]

/-! `code.inv`. -/

/-- R150: `code.inv` in its three forms discards the blocks that its target names. -/
theorem codeInvOp_ready {s : State} {i : Instr} {f : BaseF} {target : List Val → Option (Block → Bool)} {vs : List Val}
    {p : Block → Bool} (h : MayAct s .system (opsOf i) 0 vs) (ht : target vs = some p) :
    codeInvOp i f target s = .next (((s.invDies s.focus (bitsNat f.mod 8 3)).foldl (fun s d => s.discardBlocks d p)
      (s.commit s.focus)).retire s.focus 1 []) := by
  rw [codeInvOp, withOps_ready (kinds := []) 1 _ h, ht]
  rfl

/-! EMULATE routines. -/

/-- Operands that are all there are the values. -/
theorem takeAll_sources {α : Type} (c : Core) (ops : List α) (vs : List Val) (h : ops.length = vs.length) :
    c.takeAll ((ops.map (fun _ => 0)).zip (vs.map Slot.ready)) = .got vs c := by
  rw [List.map_const', h]
  exact c.takeAll_ready vs

/-- R156: a routine whose entry block declares the kinds of its arguments runs in place of an instruction. -/
theorem State.callRoutine_fits {s : State} {g slot len : Nat} {p : Patch} {w : Word} {kinds : List Bool} {args : List Val}
    (h : s.routineKinds (dieOf g) p.routine = some (args.map Val.isVec)) :
    s.callRoutine g slot p w len kinds none (args.map Slot.ready)
      = s.modCore g (fun c => c.enterRoutine slot w len kinds none p.routine (args.map Slot.ready)) := by
  have hkinds : (s.modCore g (fun c => c.enterRoutine slot w len kinds none p.routine (args.map Slot.ready))).routineKinds (dieOf g)
      p.routine = some (args.map Val.isVec) := h
  simp only [State.callRoutine, hkinds, List.map_map]
  rw [if_pos]
  exact beq_iff_eq.mpr rfl

/-- R156: the operands of a routine none of which pops, and the call itself. -/
theorem execEmulateCall_calls {s : State} {g n : Nat} {w : Word} {vs : List Val} {kinds : List Bool} (hf : s.focus = .core g)
    (hrun : s.canRun (.core g) = true) (hemul : (s.core g).emul = none) (hacc : (s.core g).acc = [])
    (hkinds : matchedKinds (((s.core g).ctx.blk.map (·.slots)).getD []) (s.core g).part (s.core g).ctx w = kinds)
    (hok : (routineArgs w).all (fun o => argOk (s.core g).ctx o && (o.1 == .none || !isPop (s.core g).ctx o.2)) = true)
    (hpos : (s.core g).ctx.pos + kinds.length ≤ 65535)
    (hslots : (routineArgs w).map (fun o => if o.1 = .none then Slot.ready (.scalar 0) else s.operand (.core g) (s.core g).ctx o.1 o.2)
      = vs.map Slot.ready) (hcollect : collect (vs.map Slot.ready) = .ok vs)
    (hroutine : s.routineKinds (dieOf g) (s.slotAt (.core g) n).routine = some (false :: false :: (vs.take 3).map Val.isVec)) :
    ∃ chans ports sr, execEmulateCall n w s = .next (((s.setCore g { s.core g with wait := none }).modCore g (fun c =>
        c.enterRoutine n w 1 kinds none (s.slotAt (.core g) n).routine
          ((Val.scalar w :: .scalar (BitVec.ofNat 64 (s.core g).ctx.vpc) :: vs.take 3).map Slot.ready))).modCore g
            (fun x => { x with emul := x.emul.map (fun e => { e with chans := chans, ports := ports, sr := sr }) })) := by
  have hall : (routineArgs w).all (argOk (s.core g).ctx) = true := by
    simp only [List.all_eq_true, Bool.and_eq_true] at hok ⊢
    exact fun o ho => (hok o ho).1
  have hsrc : (routineArgs w).map (fun o => if o.1 != .none && isPop (s.core g).ctx o.2 then (s.core g).ctx.expand o.2 else 0)
      = (routineArgs w).map (fun _ => 0) := by
    refine List.map_congr_left fun o ho => if_neg ?_
    have := (Bool.and_eq_true .. ▸ List.all_eq_true.mp hok o ho).2
    simp only [Bool.or_eq_true, beq_iff_eq, Bool.not_eq_true'] at this
    rcases this with h | h
    · simp [h]
    · simp [h]
  have hzero : ((routineArgs w).map (fun _ => 0)).any (fun x : Nat => x != 0) = false := by simp
  have hfull : (s.core g).ctx.full kinds.length = false := by
    simp [Ctx.full, Nat.not_lt.mpr hpos]
  have hquiet : (s.core g).quiet = true := by simp [Core.quiet, hacc]
  have hplain : (s.core g).emul.isSome = false := by rw [hemul]; rfl
  have hlen : (routineArgs w).length = vs.length := by simpa using congrArg List.length hslots
  have htake := takeAll_sources (s.core g) (routineArgs w) vs hlen
  have hcall := State.callRoutine_fits (s := s.setCore g { s.core g with wait := none }) (g := g) (slot := n) (len := 1) (w := w)
    (kinds := kinds) (p := s.slotAt (.core g) n) (args := .scalar w :: .scalar (BitVec.ofNat 64 (s.core g).ctx.vpc) :: vs.take 3) hroutine
  simp only [execEmulateCall, hf, hrun, hplain, hkinds, hall, hfull, hslots, hsrc, hcollect, hquiet, hzero, htake, Bool.not_true,
    Bool.or_self, Bool.false_eq_true, if_false, Bool.false_and]
  refine ⟨_, _, _, congrArg Host.Outcome.next (congrArg (fun t : State => t.modCore g _) hcall)⟩

end Sys2Proof.Machine

section
open Sys2Proof Sys2Proof.Machine

/-- Settles O43: what the translator and the slots do at a word, step by step. -/
theorem translatorSteps : Obligations.TranslatorSteps := by
  intro s
  refine ⟨fun f hrun => ?_, fun hrun hlook hserves hlow hheld =>
      ⟨(s.codeReads s.focus).modDie (dieOfAgent s.focus) (fun x => { x with lowering := [s.lowerBlock s.focus] }), ?_,
        onlyDie_modDie .., ?_⟩,
    fun d b hf hl hs hi hfit => ?_, fun w hrun hnone => ?_, fun g n w hf hr hemul hclaim hcls => ?_,
    fun g n w vs hf hr hemul hacc => ?_, fun f o v n => ⟨fun h hv hn hn8 hend => ?_, fun h => ?_, fun h => ?_⟩⟩
  · simp only [exec, execTranslationFault, hrun, Bool.not_true, Bool.false_eq_true, if_false]
  · have hlowers : s.lowers s.focus = true := by simp [State.lowers, hrun, hlook, hserves, hlow]
    simp only [exec, execBlockLower, hlowers, hheld, Bool.not_true, Bool.or_self, Bool.false_eq_true, if_false]
  · rw [State.die_modDie_self]
  · rw [exec]
    exact execBlockInstall_fits hf hl hs hi hfit
  · simp only [exec, execClaimedInstruction, hrun, hnone, ite_self, Bool.not_true, Bool.false_eq_true, if_false]
  · have hserv : s.inService (.core g) = false := by simp [State.inService, isSvc_eq_false hr.user, hemul]
    have hpart : s.partOfAgent (.core g) = (s.core g).part := rfl
    have hctx : s.ctxOf (.core g) = (s.core g).ctx := rfl
    simp only [exec, execClaimedInstruction, hf, canRun_of_runs hr, hserv, hpart, hctx, hclaim, isStream, Bool.not_true, Bool.not_false, Bool.true_and, Bool.false_and, Bool.false_or,
      Bool.false_eq_true, if_false]
    exact if_neg fun h => hcls (of_decide_eq_true h)
  · intro slots kinds hok hpos hslots hcollect hroutine
    obtain ⟨chans, ports, sr, hexec⟩ := execEmulateCall_calls hf (canRun_of_runs hr) hemul hacc rfl hok hpos hslots hcollect hroutine
    rw [exec, hexec]
    refine ⟨_, { slot := n, word := w, len := 1, kept := (s.core g).ctx, kinds := kinds, sr := sr, chans := chans, ports := ports,
                 seq := (s.core g).seq, fault := none, wait := none }, rfl, ?_⟩
    rw [State.core_modCore_self, State.core_modCore_self, State.core_setCore_self]
    refine ⟨rfl, rfl, rfl, rfl, rfl, rfl, rfl, ?_⟩
    simp [Core.enterRoutine, Ctx.enterBlock]
  · rw [exec, execCodeInv]
    refine codeInvOp_ready h (if_neg ?_)
    simp [w1, w2, Val.word]
    omega
  · rw [exec, execCodeInvObj]
    exact codeInvOp_ready h rfl
  · rw [exec, execCodeInvAll]
    exact codeInvOp_ready h rfl

end
end

section
/-! PROOFS. The replies of the SPDM responder and to the board manager (R349, R367, R368). -/

namespace Sys2Proof.Machine

/-- The number of two pieces, lowest first. -/
theorem bytesToNat_append (l m : List Byte) : bytesToNat (l ++ m) = bytesToNat l + 256 ^ l.length * bytesToNat m := by
  induction l with
  | nil => simp [bytesToNat]
  | cons b l ih =>
    rw [List.cons_append, bytesToNat, bytesToNat, ih, List.length_cons, Nat.pow_succ, Nat.mul_add, Nat.add_assoc,
      ← Nat.mul_assoc, Nat.mul_comm 256 (256 ^ l.length)]

/-- R368: out of ROM the responder's reply stands, in ROM the die's report does. -/
theorem State.spdmSay_up {s : State} {d : Nat} (h : s.inRom d = false) (m : List Byte) :
    s.spdmSay d m = { s with spdm := s.spdm ++ [m] } := by
  rw [State.spdmSay, h]
  rfl

theorem State.spdmSay_rom {s : State} {d : Nat} (h : s.inRom d = true) (m : List Byte) :
    s.spdmSay d m = { s with spdm := s.spdm ++ [(s.die d).report] } := by
  rw [State.spdmSay, h]
  rfl

theorem State.boardSay_up {s : State} {d : Nat} (h : s.inRom d = false) (m : List Byte) :
    s.boardSay d m = { s with board := s.board ++ [m] } := by
  rw [State.boardSay, h]
  rfl

theorem State.boardSay_rom {s : State} {d : Nat} (h : s.inRom d = true) (m : List Byte) :
    s.boardSay d m = { s with board := s.board ++ [(s.die d).report] } := by
  rw [State.boardSay, h]
  rfl

/-- R367: a request whose reply the spec does not lay out. -/
theorem spdmStep_up {s : State} {d : Nat} (code : Nat) (hf : s.focus = .die d) (h : s.inRom d = false) :
    spdmStep code s = .next { s with fresh := s.fresh + 1, spdm := s.spdm ++ [Config.spdmReply code d s.fresh] } := by
  have h' : ({ s with fresh := s.fresh + 1 } : State).inRom d = false := h
  have hd : dieOfAgent s.focus = d := by rw [hf]; rfl
  rw [spdmStep, hd]
  exact congrArg Host.Outcome.next (State.spdmSay_up h' _)

/-- R368: a reading. -/
theorem readingStep_up {s : State} {d : Nat} (hf : s.focus = .die d) (h : s.inRom d = false) :
    readingStep s = .next { s with fresh := s.fresh + 1, board := s.board ++ [natToBytes 8 (Config.reading d s.fresh).toNat] } := by
  have h' : ({ s with fresh := s.fresh + 1 } : State).inRom d = false := h
  have hd : dieOfAgent s.focus = d := by rw [hf]; rfl
  rw [readingStep, hd]
  exact congrArg Host.Outcome.next (State.boardSay_up h' _)

/-- R349: the record as a number, each count within its field. -/
theorem Die.reliability_toNat {x : Die} (hreplay : x.replay < 2 ^ 26) (hrepfail : x.repfail < 2 ^ 16) (hsramce : x.sramce < 2 ^ 32)
    (huciefail : x.uciefail < 2 ^ 16) (hsramue : x.sramue < 2 ^ 16) (huciertry : x.uciertry < 2 ^ 32) :
    x.reliability.length = 16 ∧ bytesToNat x.reliability = x.replay / 1024 + 2 ^ 16 * x.repfail + 2 ^ 32 * x.sramce
      + 2 ^ 64 * x.uciefail + 2 ^ 80 * x.sramue + 2 ^ 96 * x.uciertry := by
  refine ⟨by simp [Die.reliability], ?_⟩
  rw [Die.reliability, bytesToNat_append, natToBytes_length, bytesToNat_natToBytes, bytesToNat_natToBytes,
    Nat.mod_eq_of_lt (by omega), Nat.mod_eq_of_lt (by omega)]
  omega

/-- R367: the measurements of all dies, in the order of their indices. -/
theorem flatMap_measure (s : State) : (List.range 128).flatMap s.measure
    = (List.range 8).flatMap (fun e => (List.range 16).flatMap (fun n => natToBytes 32 (tget 0 (s.die e).meas n).toNat)) := by
  have hindex : List.range 128 = (List.range 8).flatMap (fun e => (List.range 16).map (fun n => 16 * e + n)) := by decide
  have hread : ∀ e, ∀ n ∈ List.range 16, s.measure (16 * e + n) = natToBytes 32 (tget 0 (s.die e).meas n).toNat := by
    intro e n hn
    have hn := List.mem_range.mp hn
    rw [State.measure, show (16 * e + n) / 16 = e by omega, show (16 * e + n) % 16 = n by omega]
    rfl
  rw [hindex, List.flatMap_assoc]
  refine List.flatMap_congr fun e _ => ?_
  rw [List.flatMap_map]
  exact List.flatMap_congr (hread e)

end Sys2Proof.Machine

section
open Sys2Proof Sys2Proof.Machine

/-- Settles O54: each request by what its reply holds. -/
theorem management : Obligations.Management := by
  intro s d
  have hd : s.focus = .die d → dieOfAgent s.focus = d := fun hf => by rw [hf]; rfl
  refine ⟨fun hf h => ⟨?_, ?_, ?_, ?_, ?_, ?_, ⟨Config.reading d s.fresh, ?_⟩, ⟨Config.reading d s.fresh, ?_⟩, ?_⟩,
    fun idx h => ⟨fun e n he hn hidx => ?_, fun hidx => ?_, fun hidx => ?_, fun code => ?_⟩,
    fun h idx code => ⟨?_, ?_, fun hf => ⟨?_, ?_⟩⟩⟩
  · rw [exec, execGetVersion, hd hf, State.spdmSay_up h]
    rfl
  · rw [exec, execGetCapabilities, spdmStep_up _ hf h]
  · rw [exec, execNegotiateAlgorithms, hd hf, State.spdmSay_up h]
  · rw [exec, execGetDigests, spdmStep_up _ hf h]
  · rw [exec, execGetCertificate, spdmStep_up _ hf h]
  · rw [exec, execChallenge, spdmStep_up _ hf h]
  · rw [exec, execReadTemperature, readingStep_up hf h]
  · rw [exec, execReadPower, readingStep_up hf h]
  · intro x h1 h2 h3 h4 h5 h6
    obtain ⟨hlen, hval⟩ := Die.reliability_toNat h1 h2 h3 h4 h5 h6
    refine ⟨_, ?_, hlen, hval⟩
    rw [exec, execReadReliabilityRecord, hd hf]
    exact congrArg Host.Outcome.next (State.boardSay_up h _)
  · rw [exec, execGetMeasurements, State.spdmSay_up h]
    have hin : 1 ≤ idx.toNat ∧ idx.toNat ≤ 128 := by omega
    rw [if_pos hin, State.measure, show (idx.toNat - 1) / 16 = e by omega, show (idx.toNat - 1) % 16 = n by omega]
    rfl
  · rw [exec, execGetMeasurements, State.spdmSay_up h, hidx, ← flatMap_measure]
    rfl
  · rw [exec, execGetMeasurements, State.spdmSay_up h]
    have hout : ¬ (1 ≤ idx.toNat ∧ idx.toNat ≤ 128) := by
      rcases hidx with rfl | ⟨hgt, -⟩
      · simp
      · omega
    have hall : idx.toNat ≠ 0xFF := by
      rcases hidx with rfl | ⟨-, hne⟩
      · simp
      · exact fun he => hne (BitVec.eq_of_toNat_eq he)
    rw [if_neg hout, if_neg hall]
  · rw [exec, execSpdmUnsupportedRequest, State.spdmSay_up h]
  · rw [exec, execGetMeasurements, State.spdmSay_rom h]
  · rw [exec, execSpdmUnsupportedRequest, State.spdmSay_rom h]
  · rw [exec, execGetVersion, hd hf]
    exact congrArg Host.Outcome.next (State.spdmSay_rom h _)
  · rw [exec, execReadReliabilityRecord, hd hf]
    exact congrArg Host.Outcome.next (State.boardSay_rom h _)

end
end

section
/-! PROOFS. The system calls, each as the one step of the service that answers it (R306, R353, R371, R378). -/

namespace Sys2Proof.Machine

/-- A call that is being made is answered. -/
theorem callStep_called {s : State} {num : Nat} {c : Call} (k : Call → Word × State) (h : s.callOf num = some c) :
    callStep num s k = .next ((k c).2.answer num (k c).1) := by
  rw [callStep, h]

/-- A call whose answer and state are known. -/
theorem callStep_answers {s t : State} {num : Nat} {c : Call} {k : Call → Word × State} {w : Word} (h : s.callOf num = some c)
    (hk : k c = (w, t)) : callStep num s k = .next (t.answer num w) := by
  rw [callStep_called k h, hk]

/-! Call 3: `mem_free`. -/

theorem cacheFrame_writePte (s : State) (pa : Nat) (w : Word) : CacheFrame s (s.writePte pa w) := by
  simp only [State.writePte]
  exact cacheFrame_store ..

theorem cacheFrame_unmap (s : State) (root va n : Nat) : CacheFrame s (s.unmap root va n) := by
  refine CacheFrame.foldl _ (fun s i => ?_) _ _
  split
  · exact cacheFrame_writePte ..
  · exact CacheFrame.rfl

/-- R261: a shootdown leaves no marker in a CQ that holds no command. -/
theorem Core.shoot_cq (c : Core) (range : Option (Nat × Nat)) : (c.shoot range).cq = c.cq := by
  cases range <;> rfl

theorem State.cq_shootCore {s : State} {range : Option (Nat × Nat)} (g : Nat) (h : ∀ y, (s.core y).cq = []) (y : Nat) :
    ((s.shootCore g range).core y).cq = [] := by
  rw [State.shootCore, State.core_modCore]
  split
  · have hg : ((s.core g).shoot range).cq = [] := by rw [Core.shoot_cq, h]
    simp only [hg, List.all_nil, if_true]
  · exact h y

theorem State.cq_shootNow {s : State} (p va n : Nat) (h : ∀ y, (s.core y).cq = []) (y : Nat) :
    ((s.shootNow p va n).core y).cq = [] := by
  have fold : ∀ (l : List Nat) (s : State), (∀ y, (s.core y).cq = []) →
      ∀ y, ((l.foldl (fun s g => s.shootCore g (some (va, n))) s).core y).cq = [] := by
    intro l
    induction l with
    | nil => exact fun s h => h
    | cons g l ih => exact fun s h => ih _ (State.cq_shootCore g h)
  exact fold _ s h y

/-- R261: with no command in any CQ a shootdown is over as it begins. -/
theorem State.shootOver_idle {s : State} (p va n : Nat) (h : ∀ y, (s.core y).cq = []) : s.shootOver p va n = true := by
  rw [State.shootOver, List.all_eq_true]
  intro g _
  rw [Core.marksOf, h]
  rfl

/-! Call 14: `patch_query`. -/

/-- Assumption 23: the word of a die, SEQ below the mask of its valid slots. -/
def State.patchWord (s : State) (d : Nat) : Nat :=
  (s.die d).patchSeq % 2 ^ 32 + (((List.range 32).map (fun n => if (s.patch d n).valid then 2 ^ n else 0)).sum) * 2 ^ 32

/-- The record of the words of the eight dies. -/
def State.patchRecord (s : State) : List Byte := wordsBytes ((List.range 8).map s.patchWord)

theorem State.length_patchRecord (s : State) : s.patchRecord.length = 64 := by
  simp [State.patchRecord, wordsBytes, List.range_succ]

end Sys2Proof.Machine

section
open Sys2Proof Sys2Proof.Machine

/-- Settles O53: each call by the answer its row gives. -/
theorem systemCalls : Obligations.SystemCalls := by
  intro s c
  refine ⟨fun h => ?writeLog, fun plan h => ?memAlloc, fun h => ?memFree, fun plan h => ?viewMap, fun p h => ?endpointOpen,
    fun h => ?endpointClose, fun h => ?ctlRecv, fun h => ?ctlSend, fun h ok t hw => ?topologyQuery, fun h => ?timeQuery,
    fun h => ?setStreamHandler, fun h => ?taskReport, fun h => ?yield, fun h => ?patchQuery, fun h => ?eventPost,
    fun p m x hx => ?messageArrival⟩
  case writeLog =>
    rw [exec, execWriteLog]
    refine ⟨fun hb => ?_, fun hb l t hl => ?_, fun hb t hl => ?_⟩
    · exact callStep_answers h (if_pos hb)
    · exact callStep_answers h (by simp only [Nat.not_lt.mpr hb, if_false, hl])
    · exact callStep_answers h (by simp only [Nat.not_lt.mpr hb, if_false, hl, callFailed])
  case memAlloc =>
    intro n t leaves good
    rw [exec, execMemAlloc]
    refine ⟨fun ⟨ha, hlen, hcap, hb, hclass, hhome, hfree, hleaves⟩ => callStep_answers h ?_, fun hbad => callStep_answers h ?_⟩
    · rw [if_neg ?_, if_pos hleaves]
      rintro (h | h | h | h | ⟨h, h15⟩ | h | h)
      · exact ha h
      · exact Nat.not_lt.mpr hlen h
      · exact Nat.not_lt.mpr h hb
      · exact hclass h
      · exact hhome.elim (Nat.not_le.mpr h) h15
      · exact Nat.not_lt.mpr hcap h
      · rw [hfree] at h
        exact Bool.false_ne_true h
    · by_cases hrefused : c.a = 0 ∨ 2 ^ 48 < c.a.toNat ∨ 64 ≤ c.b.toNat ∨ bitsNat c.b 4 2 = 3 ∨ (7 < bitsNat c.b 0 4 ∧ bitsNat c.b 0 4 ≠ 15)
        ∨ hbmBytes < s.allocated + n ∨ (!s.rangeFree c.part plan.va n) = true
      · exact if_pos hrefused
      · rw [if_neg hrefused, if_neg fun hleaves => hbad ?_]
        · rfl
        · simp only [not_or, not_and, not_lt, not_le, not_not, Bool.not_eq_true', Bool.not_eq_false] at hrefused
          obtain ⟨h1, h2, h3, h4, h5, h6, h7⟩ := hrefused
          exact ⟨h1, h2, h6, h3, h4, by omega, h7, hleaves⟩
  case memFree =>
    rw [exec, execMemFree, h]
    refine ⟨fun hnone => ?_, fun n k hfind => ?_⟩
    · have hfind : (s.part c.part).allocs.find? (fun x => x.1 = c.a.toNat && x.2.2 != 1) = none := by
        refine List.find?_eq_none.mpr fun x hx => ?_
        by_cases hxa : x.1 = c.a.toNat
        · simp [hnone x hx hxa]
        · simp [hxa]
      simp only [hfind, callFailed]
    · intro va t
      simp only [hfind]
      refine ⟨fun hover => if_pos hover, fun hopen => if_neg (ne_true_of_eq_false hopen), fun hk hidle => ?_⟩
      refine State.shootOver_idle _ _ _ ?_
      simp only [t, hk, if_true]
      refine State.cq_shootNow c.part va n fun y => ?_
      rw [(cacheFrame_unmap s _ va n).core]
      exact hidle y
  case viewMap =>
    intro lo n t leaves good
    rw [exec, execViewMap]
    have hinside : (∃ x ∈ (s.part c.part).allocs, x.2.2 = 0 ∧ x.1 ≤ c.a.toNat ∧ c.a.toNat + c.b.toNat ≤ x.1 + x.2.1)
        ↔ (s.part c.part).allocs.any (fun x => x.2.2 = 0 && x.1 ≤ c.a.toNat && c.a.toNat + c.b.toNat ≤ x.1 + x.2.1) = true := by
      simp [and_assoc]
    refine ⟨fun ⟨hb, hin, hfree, hleaves⟩ => callStep_answers h ?_, fun hbad => callStep_answers h ?_⟩
    · refine (if_neg ?_).trans (if_pos hleaves)
      rw [hinside.mp hin, hfree]
      rintro (h | h | h)
      · exact hb h
      · exact Bool.false_ne_true h
      · exact Bool.false_ne_true h
    · by_cases hrefused : c.b = 0
          ∨ (!(s.part c.part).allocs.any (fun x => x.2.2 = 0 && x.1 ≤ c.a.toNat && c.a.toNat + c.b.toNat ≤ x.1 + x.2.1)) = true
          ∨ (!s.rangeFree c.part plan.va n) = true
      · exact if_pos hrefused
      · rw [if_neg hrefused, if_neg fun hleaves => hbad ?_]
        · rfl
        · simp only [not_or, Bool.not_eq_true', Bool.not_eq_false] at hrefused
          obtain ⟨h1, h2, h3⟩ := hrefused
          exact ⟨h1, hinside.mpr h2, h3, hleaves⟩
  case endpointOpen =>
    intro good
    rw [exec, execEndpointOpen]
    have hgood : good ↔ ¬ (2 < c.b.toNat ∨ 2 ^ 64 - 1 ≤ p ∨ s.endpoints.any (fun x => x.handle == p) = true) := by
      simp [good]
    refine ⟨fun hg => callStep_answers h (if_neg (hgood.mp hg)), fun hg => callStep_answers h (if_pos ?_)⟩
    exact not_not.mp fun hn => hg (hgood.mpr hn)
  case endpointClose =>
    rw [exec, execEndpointClose]
    have hmine : ∀ x : Endpoint, (!(x.handle == c.a.toNat && x.part == c.part)) = true ↔ ¬ (x.handle = c.a.toNat ∧ x.part = c.part) := by
      intro x
      simp [imp_iff_not_or]
    refine ⟨{ s with endpoints := s.endpoints.filter (fun x => !(x.handle == c.a.toNat && x.part == c.part)) }, rfl, fun x => ?_,
      callStep_answers h ?_⟩
    · rw [List.mem_filter, hmine]
    · by_cases hany : s.endpoints.any (fun x => x.handle == c.a.toNat && x.part == c.part) = true
      · obtain ⟨x, hx, hxm⟩ := List.any_eq_true.mp hany
        rw [if_pos hany, if_pos (List.length_filter_lt_length_iff_exists.mpr ⟨x, hx, by simp [hxm]⟩)]
      · have hall : s.endpoints.filter (fun x => !(x.handle == c.a.toNat && x.part == c.part)) = s.endpoints :=
          List.filter_eq_self.mpr fun x hx => (hmine x).mpr fun ⟨he, hp⟩ => hany (List.any_eq_true.mpr ⟨x, hx, by simp [he, hp]⟩)
        rw [if_neg hany, hall, if_neg (Nat.lt_irrefl _)]
        rfl
  case ctlRecv =>
    rw [exec, execCtlRecv]
    refine ⟨fun he => ?_, fun m ms t he hm hw => ?_, fun m ms he hm => ?_⟩
    · exact callStep_answers h (by simp only [he])
    · exact callStep_answers h (by simp only [he, hm, hw, Bool.not_true, Bool.false_eq_true, if_false])
    · exact callStep_answers h (by simp only [he, hm, Bool.not_false, if_true, callFailed])
  case ctlSend =>
    rw [exec, execCtlSend]
    refine ⟨fun hb l t hl => ?_, fun hb t hl => ?_, fun hb => ?_⟩
    · exact callStep_answers h (by simp only [Nat.not_lt.mpr hb, if_false, hl])
    · exact callStep_answers h (by simp only [Nat.not_lt.mpr hb, if_false, hl, callFailed])
    · exact callStep_answers h (if_pos hb)
  case topologyQuery =>
    rw [exec, execTopologyQuery]
    refine callStep_answers h ?_
    rw [hw]
    cases ok <;> rfl
  case timeQuery =>
    rw [exec, execTimeQuery]
    exact callStep_answers h rfl
  case setStreamHandler =>
    rw [exec, execSetStreamHandler]
    refine ⟨fun ht => callStep_answers h (if_pos ht), fun ht ha => callStep_answers h ?_, fun ht ha => ?_⟩
    · simp only [ht, ha, Bool.false_eq_true, if_false]
      rfl
    · intro good
      have h0 : c.a.toNat ≠ 0 := fun he => ha (BitVec.eq_of_toNat_eq he)
      have hgood : good ↔ (s.handlerOk c.part c.a.toNat && c.b.toNat % 8 == 0 && c.b.toNat + 128 ≤ 2 ^ 48
          && s.permits (s.ptRoot c.part) Need.both c.b.toNat 128) = true := by
        simp [good, and_assoc]
      refine ⟨fun hg => callStep_answers h ?_, fun hg => callStep_answers h ?_⟩
      · simp only [ht, h0, Bool.false_eq_true, if_false]
        exact if_pos (hgood.mp hg)
      · simp only [ht, h0, Bool.false_eq_true, if_false]
        exact if_neg fun hn => hg (hgood.mpr hn)
  case taskReport =>
    rw [exec, execTaskReport]
    refine ⟨fun hn => callStep_answers h (by simp only [hn, callFailed]), fun n e ok t he hw => callStep_answers h ?_⟩
    simp only [he, hw]
    cases ok <;> rfl
  case yield =>
    rw [exec, execYield]
    exact callStep_answers h rfl
  case patchQuery =>
    rw [exec, execPatchQuery]
    refine ⟨s.patchRecord, s.length_patchRecord, fun ok t hw => callStep_answers h ?_⟩
    change (match s.writeUser c.part c.a.toNat Need.store s.patchRecord with
      | (true, u) => (0, u)
      | (false, u) => (callFailed, u)) = _
    rw [hw]
    cases ok <;> rfl
  case eventPost =>
    rw [exec, execEventPost]
    refine ⟨fun ha => callStep_answers h (if_neg (Nat.not_lt.mpr ha)), fun ha => callStep_answers h (if_pos ha)⟩
  case messageArrival =>
    rw [exec, execEndpointMessageArrival, hx]
    have hmem := List.mem_of_find?_eq_some hx
    have hhandle : x.handle = p := by simpa using List.find?_some hx
    refine ⟨_, _, rfl, List.length_map .., _, List.mem_map.mpr ⟨x, hmem, rfl⟩, ?_⟩
    simp [hhandle]

end
end

section
/-! PROOFS. Stopping tasks, discarding window entries and resetting a stream context (R106, R317, R318, R350). -/

namespace Sys2Proof.Machine

/-! What killing the commands of a core changes. -/

/-- A core of which only flag words and banks may have changed. -/
def Core.SignalFrame (c c' : Core) : Prop :=
  c' = { c with flags := c'.flags, flagTurn := c'.flagTurn, bank0 := c'.bank0, bank1 := c'.bank1 }

theorem Core.SignalFrame.trans {c c' c'' : Core} (h : c.SignalFrame c') (k : c'.SignalFrame c'') : c.SignalFrame c'' := by
  unfold Core.SignalFrame at *
  rw [h] at k
  exact k

theorem Core.SignalFrame.foldl {α : Type} (f : Core → α → Core) (h : ∀ (c : Core) (x : α), c.SignalFrame (f c x)) :
    ∀ (l : List α) (c : Core), c.SignalFrame (l.foldl f c)
  | [], _ => Eq.refl _
  | x :: xs, c => (h c x).trans (Core.SignalFrame.foldl f h xs (f c x))

theorem Core.signalFrame_applySignal (c : Core) (q : Eng) (i : Instr) (e : BitVec 6) : c.SignalFrame (c.applySignal q i (some e)) := by
  unfold Core.applySignal
  split
  · rfl
  · split <;> rfl

theorem Core.signalFrame_setBank (c : Core) (b : Bool) (x : Bank) : c.SignalFrame (c.setBank b x) := by
  cases b <;> rfl

/-- R106: killing the commands of a core empties its queues, ends its accesses and stops its engines; of the rest only flag words
and banks change. -/
theorem Core.killCmds_frame (c : Core) (e : BitVec 6) :
    c.killCmds e = { c with flags := (c.killCmds e).flags, flagTurn := (c.killCmds e).flagTurn, bank0 := (c.killCmds e).bank0,
                            bank1 := (c.killCmds e).bank1, mq := [], vq := [], cq := [], acc := [], stopped := true } := by
  unfold Core.killCmds
  extract_lets c₁ c₂
  have h₁ : c.SignalFrame c₁ := by
    refine Core.SignalFrame.foldl _ (fun c q => Core.SignalFrame.foldl _ (fun c k => ?_) _ _) _ _
    split
    · rfl
    · exact c.signalFrame_applySignal ..
  have h₂ : c₁.SignalFrame c₂ := by
    refine Core.SignalFrame.foldl _ (fun c k => ?_) _ _
    dsimp only
    split
    · split
      · exact c.signalFrame_setBank ..
      · rfl
    · rfl
  have h : c₂ = _ := h₁.trans h₂
  rw [h]

@[simp] theorem Core.mq_killCmds (c : Core) (e : BitVec 6) : (c.killCmds e).mq = [] := congrArg Core.mq (c.killCmds_frame e)
@[simp] theorem Core.vq_killCmds (c : Core) (e : BitVec 6) : (c.killCmds e).vq = [] := congrArg Core.vq (c.killCmds_frame e)
@[simp] theorem Core.cq_killCmds (c : Core) (e : BitVec 6) : (c.killCmds e).cq = [] := congrArg Core.cq (c.killCmds_frame e)
@[simp] theorem Core.acc_killCmds (c : Core) (e : BitVec 6) : (c.killCmds e).acc = [] := congrArg Core.acc (c.killCmds_frame e)
@[simp] theorem Core.part_killCmds (c : Core) (e : BitVec 6) : (c.killCmds e).part = c.part := by
  rw [c.killCmds_frame e]
@[simp] theorem Core.cstate_killCmds (c : Core) (e : BitVec 6) : (c.killCmds e).cstate = c.cstate := by
  rw [c.killCmds_frame e]

/-! What a step of stopping can do to a core. -/

/-- A core that is killed and has nothing left to do. -/
structure Core.Dead (c : Core) : Prop where
  cstate : c.cstate = .killed
  mq : c.mq = []
  vq : c.vq = []
  cq : c.cq = []
  acc : c.acc = []

/-- A core that belongs to the same partition, in the same state or killed, and dead if it was. -/
structure Core.StopStep (c c' : Core) : Prop where
  part : c'.part = c.part
  cstate : c'.cstate = c.cstate ∨ c'.cstate = .killed
  dead : c.Dead → c'.Dead

theorem Core.StopStep.rfl {c : Core} : c.StopStep c := ⟨Eq.refl _, Or.inl (Eq.refl _), id⟩

theorem Core.StopStep.trans {c c' c'' : Core} (h : c.StopStep c') (k : c'.StopStep c'') : c.StopStep c'' where
  part := k.part.trans h.part
  cstate := k.cstate.elim (fun e => h.cstate.imp e.trans e.trans) Or.inr
  dead d := k.dead (h.dead d)

/-- One that keeps partition, state, queues and accesses. -/
theorem Core.StopStep.of_same {c c' : Core} (hp : c'.part = c.part) (hs : c'.cstate = c.cstate) (hm : c.mq = [] → c'.mq = [])
    (hv : c'.vq = c.vq) (hc : c'.cq = c.cq) (ha : c'.acc = c.acc) : c.StopStep c' where
  part := hp
  cstate := .inl hs
  dead d := ⟨hs.trans d.cstate, hm d.mq, hv.trans d.vq, hc.trans d.cq, ha.trans d.acc⟩

/-! The commands of MQ when a gang dissolves (R210). -/

theorem State.length_mq_modCore {s : State} {g h : Nat} {f : Core → Core} (hf : ∀ c, (f c).mq.length = c.mq.length) :
    ((s.modCore g f).core h).mq.length = (s.core h).mq.length := by
  rw [State.core_modCore]
  split
  · subst h
    exact hf _
  · rfl

theorem State.length_mq_foldl {α : Type} {f : State → α → State} {h : Nat}
    (hf : ∀ s x, ((f s x).core h).mq.length = (s.core h).mq.length) :
    ∀ (l : List α) (s : State), ((l.foldl f s).core h).mq.length = (s.core h).mq.length
  | [], _ => rfl
  | x :: l, s => (State.length_mq_foldl hf l (f s x)).trans (hf s x)

theorem State.length_mq_keepBridled (s : State) (d : Nat) (x : Gang) (h : Nat) :
    ((s.keepBridled d x).core h).mq.length = (s.core h).mq.length := by
  simp only [State.keepBridled]
  split
  · rfl
  · exact State.length_mq_foldl (fun s m => State.length_mq_modCore fun c => List.length_map _) _ _

theorem State.core_sealGang (s : State) (d : Nat) (x : Gang) (h : Nat) : (s.sealGang d x).core h = s.core h :=
  List.foldlRecOn (motive := fun t : State => t.core h = s.core h) _ _ rfl fun _ k _ _ => k

/-- R210: dissolving a gang takes no command out of MQ. -/
theorem State.length_mq_dissolveGang (s : State) (g h : Nat) : ((s.dissolveGang g).core h).mq.length = (s.core h).mq.length := by
  simp only [State.dissolveGang]
  split
  · exact State.length_mq_modCore fun _ => rfl
  · refine (State.length_mq_foldl (fun s m => State.length_mq_modCore fun c => ?_) _ _).trans ?_
    · have := Core.viewFrame_review { c with gang := none, gangOff := m != g }
      rw [this]
    · rw [State.core_sealGang, State.length_mq_keepBridled]
      rfl

/-! What a step of stopping can do to the machine. -/

/-- A state as stopping tasks and discarding window entries leave it: teams, windows and buffers of partitions, the tasks sent, the
messages to be delivered, the caches, gangs and trap queues of dies, and what `Core.StopStep` names of the cores. -/
structure StopFrame (s t : State) : Prop where
  state : t = { s with cores := t.cores, sectors := t.sectors, dies := t.dies, parts := t.parts, hbm := t.hbm,
                       hbmMeta := t.hbmMeta, l2 := t.l2, l2sets := t.l2sets, fresh := t.fresh, xfer := t.xfer,
                       outbox := t.outbox }
  core : ∀ g, (s.core g).StopStep (t.core g)
  part : ∀ q, t.part q = { s.part q with teams := (t.part q).teams, window := (t.part q).window, pbs := (t.part q).pbs }
  die : ∀ d, t.die d = { s.die d with gangs := (t.die d).gangs, ready := (t.die d).ready, rdc := (t.die d).rdc,
                                      trapq := (t.die d).trapq }

theorem StopFrame.rfl {s : State} : StopFrame s s := ⟨Eq.refl _, fun _ => .rfl, fun _ => Eq.refl _, fun _ => Eq.refl _⟩

theorem StopFrame.trans {s t u : State} (h : StopFrame s t) (k : StopFrame t u) : StopFrame s u where
  state := by
    have := k.state
    rw [h.state] at this
    exact this
  core g := (h.core g).trans (k.core g)
  part q := by
    have := k.part q
    rw [h.part q] at this
    exact this
  die d := by
    have := k.die d
    rw [h.die d] at this
    exact this

theorem StopFrame.foldl {α : Type} (f : State → α → State) (h : ∀ s x, StopFrame s (f s x)) :
    ∀ (l : List α) (s : State), StopFrame s (l.foldl f s)
  | [], _ => .rfl
  | x :: xs, s => (h s x).trans (StopFrame.foldl f h xs (f s x))

/-- An operation on the tasks sent or the messages to be delivered alone. -/
theorem StopFrame.of_shared {s t : State} (h : t = { s with xfer := t.xfer, outbox := t.outbox }) : StopFrame s t where
  state := by rw [h]
  core g := by
    have hc : t.core g = s.core g := by rw [h]; rfl
    rw [hc]
    exact .rfl
  part q := by
    have hq : t.part q = s.part q := by rw [h]; rfl
    rw [hq]
  die d := by
    have hd : t.die d = s.die d := by rw [h]; rfl
    rw [hd]

/-- An operation on the ready queues of a die alone. -/
theorem StopFrame.modReady (s : State) (d : Nat) (f : Die → Tab (List Ready)) :
    StopFrame s (s.modDie d (fun x => { x with ready := f x })) where
  state := Eq.refl _
  core _ := .rfl
  part _ := Eq.refl _
  die e := by
    rw [State.die_modDie]
    split
    · subst e
      rfl
    · rfl

theorem StopFrame.modCore {s : State} {g : Nat} {f : Core → Core} (h : (s.core g).StopStep (f (s.core g))) :
    StopFrame s (s.modCore g f) where
  state := Eq.refl _
  core x := by
    rw [State.core_modCore]
    split
    · subst x
      exact h
    · exact .rfl
  part _ := Eq.refl _
  die _ := Eq.refl _

theorem StopFrame.modPart {s : State} {p : Nat} {f : Part → Part}
    (h : ∀ q, f q = { q with teams := (f q).teams, window := (f q).window, pbs := (f q).pbs }) : StopFrame s (s.modPart p f) where
  state := Eq.refl _
  core _ := .rfl
  part x := by
    rw [State.part_modPart]
    split
    · subst x
      exact h _
    · rfl
  die _ := Eq.refl _

theorem stopFrame_of_cacheFrame {s t : State} (h : CacheFrame s t) : StopFrame s t where
  state := by
    have := h.state
    rw [this]
  core g := by
    have := h.core g
    rw [this]
    exact .of_same rfl rfl id rfl rfl rfl
  part q := by
    have := h.state
    rw [this]
    rfl
  die d := by
    have := h.die d
    rw [this]

theorem stopFrame_dissolveGang (s : State) (g : Nat) : StopFrame s (s.dissolveGang g) where
  state := by
    have := (s.gangFrame_dissolveGang g).state
    rw [this]
  core h := by
    have frame : (s.dissolveGang g).core h = _ := (s.gangFrame_dissolveGang g).core h
    have len := s.length_mq_dissolveGang g h
    refine .of_same ?_ ?_ (fun e => List.eq_nil_of_length_eq_zero (len.trans (by rw [e]; rfl))) ?_ ?_ ?_ <;> rw [frame]
  part q := by
    have := (s.gangFrame_dissolveGang g).state
    rw [this]
    rfl
  die d := by
    have := (s.gangFrame_dissolveGang g).die d
    rw [this]

theorem stopFrame_leaveTeam (s : State) (g : Nat) : StopFrame s (s.leaveTeam g) := by
  simp only [State.leaveTeam]
  refine ((stopFrame_dissolveGang s g).trans (StopFrame.modPart fun q => rfl)).trans (StopFrame.modCore ?_)
  exact .of_same rfl rfl id rfl rfl rfl

theorem stopFrame_queueRecord (s : State) (d : Nat) (i : TrapInfo) : StopFrame s (s.queueRecord d i) where
  state := rfl
  core g := by
    by_cases h : g = svcOf d
    · subst h
      have hc : (s.queueRecord d i).core (svcOf d) = { s.core (svcOf d) with flags := ((s.queueRecord d i).core (svcOf d)).flags } := by
        simp [State.queueRecord, State.svcSignal, Core.setFlag]
      rw [hc]
      exact .of_same rfl rfl id rfl rfl rfl
    · rw [State.core_queueRecord i h]
      exact .rfl
  part _ := rfl
  die e := by
    simp only [State.queueRecord, State.svcSignal, State.die_modCore, State.die_modDie]
    split
    · subst e
      rfl
    · rfl

/-- R106: a stopped task leaves its core dead. -/
theorem State.core_stopTask (s : State) (g : Nat) (note : Bool) : ((s.stopTask g note).core g).Dead := by
  simp only [State.stopTask, State.core_modCore_self]
  constructor <;> simp

theorem stopFrame_stopTask (s : State) (g : Nat) (note : Bool) : StopFrame s (s.stopTask g note) := by
  have dead := s.core_stopTask g note
  revert dead
  simp only [State.stopTask, State.core_modCore_self]
  intro dead
  have before : StopFrame s (if note && !s.hasRecord g then
      s.queueRecord (dieOf g) (s.mkInfo g { code := cERRBIT, ecode := 6 } (s.core g).ctx.vpc (s.core g).ctx.vpc 0 0) else s) := by
    split
    · exact stopFrame_queueRecord ..
    · exact .rfl
  refine (before.trans (stopFrame_leaveTeam _ g)).trans (StopFrame.modCore ⟨?_, Or.inr rfl, fun _ => dead⟩)
  exact Core.part_killCmds ..

theorem cacheFrame_releaseRuns (s : State) (cores : List Nat) (sc : Nat) (runs : List (Nat × Nat)) :
    CacheFrame s (s.releaseRuns cores sc runs) := by
  have one : ∀ (s : State) (c : CacheId),
      CacheFrame s (((s.cachedSecs c).filter (inRuns runs)).foldl (fun s x => s.writeBack c x) s) :=
    fun s c => CacheFrame.foldl _ (fun s x => cacheFrame_writeBack s c x) _ s
  have sweep : ∀ (s : State) (l : List CacheId) (b : Prop) [Decidable b], CacheFrame s (if b then
      l.foldl (fun s c => ((s.cachedSecs c).filter (inRuns runs)).foldl (fun s x => s.writeBack c x) s) s else s) := by
    intro s l b _
    split
    · exact CacheFrame.foldl _ one _ s
    · exact .rfl
  have h₁ := sweep s (cores.map .lsc) (2 ≤ wideScope sc)
  have h₂ := fun s => sweep s ((List.range 8).map .rdc) (3 ≤ wideScope sc)
  have h₃ := fun s => sweep s [.l2] (4 ≤ wideScope sc)
  simp only [List.foldl_map, List.foldl_cons, List.foldl_nil] at h₁ h₂ h₃
  exact (h₁.trans (h₂ _)).trans (h₃ _)

theorem cacheFrame_acquireRuns (s : State) (p sc : Nat) (runs : List (Nat × Nat)) : CacheFrame s (s.acquireRuns p sc runs) := by
  have one : ∀ (s : State) (c : CacheId),
      CacheFrame s (((s.cachedSecs c).filter (inRuns runs)).foldl (fun s x => s.flushSec c x) s) :=
    fun s c => CacheFrame.foldl _ (fun s x => cacheFrame_flushSec s c x) _ s
  have sweep : ∀ (s : State) (l : List CacheId) (b : Prop) [Decidable b], CacheFrame s (if b then
      l.foldl (fun s c => ((s.cachedSecs c).filter (inRuns runs)).foldl (fun s x => s.flushSec c x) s) s else s) := by
    intro s l b _
    split
    · exact CacheFrame.foldl _ one _ s
    · exact .rfl
  have h₁ := sweep s ((s.partCores p).map .lsc) (2 ≤ wideScope sc)
  have h₂ := fun s => sweep s ((List.range 8).map .rdc) (3 ≤ wideScope sc)
  simp only [List.foldl_map] at h₁ h₂
  exact h₁.trans (h₂ _)

/-! Discarding window entries (R106). -/

/-- The tasks of an entry leave the ready queues. -/
def State.purgeReady (s : State) (p uid : Nat) : State :=
  (List.range 8).foldl (fun s d =>
    if (tget [] (s.die d).ready p).any (fun r => r.uid == uid) then
      s.modDie d (fun x => { x with ready := tput [] x.ready p ((tget [] (s.die d).ready p).filter (fun r => r.uid != uid)) })
    else s) s

theorem State.purge_eq (s : State) (p uid : Nat) :
    s.purge p uid = { s.purgeReady p uid with xfer := (s.purge p uid).xfer } := by
  simp only [State.purge, State.purgeReady]

theorem stopFrame_purgeReady (s : State) (p uid : Nat) : StopFrame s (s.purgeReady p uid) := by
  refine StopFrame.foldl _ (fun s d => ?_) (List.range 8) s
  split
  · exact .modReady s d _
  · exact .rfl

theorem stopFrame_purge (s : State) (p uid : Nat) : StopFrame s (s.purge p uid) := by
  rw [State.purge_eq]
  refine (stopFrame_purgeReady s p uid).trans ?_
  generalize s.purgeReady p uid = t, (s.purge p uid).xfer = x
  exact .of_shared rfl

/-- The message of an entry that has not been delivered is dropped. -/
def State.dropMsg (s : State) (p n : Nat) : State := { s with outbox := s.outbox.filter (fun x => x.1 != p * 128 + n) }

theorem stopFrame_dropMsg (s : State) (p n : Nat) : StopFrame s (s.dropMsg p n) := .of_shared rfl

/-- A partition of which only buffers may have changed. -/
def Part.BufFrame (q q' : Part) : Prop := q' = { q with pbs := q'.pbs }

theorem Part.BufFrame.trans {q q' q'' : Part} (h : q.BufFrame q') (k : q'.BufFrame q'') : q.BufFrame q'' := by
  unfold Part.BufFrame at *
  rw [h] at k
  exact k

theorem Part.BufFrame.foldl {α : Type} (f : Part → α → Part) (h : ∀ (q : Part) (x : α), q.BufFrame (f q x)) :
    ∀ (l : List α) (q : Part), q.BufFrame (l.foldl f q)
  | [], _ => Eq.refl _
  | x :: xs, q => (h q x).trans (Part.BufFrame.foldl f h xs (f q x))

theorem Part.bufFrame_modPb (q : Part) (a : Nat) (f : Pb → Pb) : q.BufFrame (q.modPb a f) := by
  unfold Part.modPb
  split <;> rfl

theorem Part.bufFrame_freePb (q : Part) (a : Nat) : q.BufFrame (q.freePb a) := by
  unfold Part.freePb
  split
  · exact q.bufFrame_modPb ..
  · rfl

theorem Part.bufFrame_settlePb (q : Part) (a : Nat) : q.BufFrame (q.settlePb a) := by
  unfold Part.settlePb
  split
  · split
    · exact q.bufFrame_freePb a
    · rfl
  · rfl

theorem Part.bufFrame_dropRead (q : Part) (a : Nat) : q.BufFrame (q.dropRead a) :=
  (q.bufFrame_modPb ..).trans (Part.bufFrame_settlePb _ _)

theorem Part.bufFrame_dropReads (q : Part) (e : Entry) : q.BufFrame (q.dropReads e) := by
  refine Part.BufFrame.foldl _ (fun q t => ?_) _ _
  split
  · exact q.bufFrame_dropRead _
  · rfl

theorem Part.bufFrame_freeShadow (q : Part) (e : Entry) : q.BufFrame (q.freeShadow e) := by
  refine Part.BufFrame.foldl _ (fun q t => ?_) _ _
  split
  · split
    · split
      · exact q.bufFrame_freePb _
      · rfl
    · rfl
  · rfl

theorem Part.bufFrame_freeAll (q : Part) : q.BufFrame q.freeAll := by
  unfold Part.freeAll
  refine Part.BufFrame.trans (q' := { q with pbs := _ }) rfl (Part.BufFrame.foldl _ (fun q a => q.bufFrame_freePb a) _ _)

/-- R106: the buffers of a discarded entry. -/
def Part.giveBack (q : Part) (e : Entry) : Part :=
  (if e.st == .wait || e.st == .issued then q.dropReads e else q).freeShadow e

theorem Part.bufFrame_giveBack (q : Part) (e : Entry) : q.BufFrame (q.giveBack e) := by
  refine Part.BufFrame.trans (q' := if e.st == .wait || e.st == .issued then q.dropReads e else q) ?_ (Part.bufFrame_freeShadow _ _)
  split
  · exact q.bufFrame_dropReads e
  · rfl

/-- The tasks of an entry are stopped. -/
def State.stopTasks (s : State) (p n : Nat) (e : Entry) (note : Bool) : State :=
  (List.range 128).foldl (fun s g =>
    if (s.core g).holdsTask p && ((s.core g).task.map (fun t => t.entry == n && t.uid == e.uid)).getD false then s.stopTask g note
    else s) s

theorem stopFrame_stopTasks (s : State) (p n : Nat) (e : Entry) (note : Bool) : StopFrame s (s.stopTasks p n e note) := by
  refine StopFrame.foldl _ (fun s g => ?_) _ _
  split
  · exact stopFrame_stopTask s g note
  · exact .rfl

/-- R106: what an entry leaves is discarded, but for the entry itself. -/
def State.discardWork (s : State) (p n : Nat) (e : Entry) (note : Bool) : State :=
  let s := s.stopTasks p n e note
  let s := if e.ran.isEmpty then s else s.releaseRuns e.ran 3 everySector
  let s := s.purge p e.uid
  (s.dropMsg p n).modPart p (fun q => q.giveBack e)

theorem State.discard_some {s : State} {p n : Nat} {e : Entry} (note : Bool) (h : s.entry p n = some e) :
    s.discard p n note = (s.discardWork p n e note).setEntry p n none := by
  unfold State.discard
  rw [h]
  rfl

theorem State.discard_none {s : State} {p n : Nat} (note : Bool) (h : s.entry p n = none) : s.discard p n note = s := by
  unfold State.discard
  rw [h]

theorem stopFrame_discardWork (s : State) (p n : Nat) (e : Entry) (note : Bool) : StopFrame s (s.discardWork p n e note) := by
  have flush : ∀ t : State, StopFrame t (if e.ran.isEmpty then t else t.releaseRuns e.ran 3 everySector) := fun t => by
    split
    · exact .rfl
    · exact stopFrame_of_cacheFrame (cacheFrame_releaseRuns ..)
  have give : ∀ t : State, StopFrame t (t.modPart p (fun q => q.giveBack e)) := fun t => StopFrame.modPart fun q => by
    have h := q.bufFrame_giveBack e
    unfold Part.BufFrame at h
    rw [h]
  exact (((stopFrame_stopTasks s p n e note).trans (flush _)).trans (stopFrame_purge _ p e.uid)).trans
    ((stopFrame_dropMsg _ p n).trans (give _))

theorem stopFrame_discard (s : State) (p n : Nat) (note : Bool) : StopFrame s (s.discard p n note) := by
  cases h : s.entry p n with
  | none =>
    rw [State.discard_none note h]
    exact .rfl
  | some e =>
    rw [State.discard_some note h]
    exact (stopFrame_discardWork s p n e note).trans (StopFrame.modPart fun q => rfl)

theorem stopFrame_discardAll (s : State) (p : Nat) (note : Bool) (ns : List Nat) : StopFrame s (s.discardAll p note ns) :=
  StopFrame.foldl _ (fun s n => stopFrame_discard s p n note) _ s

/-! The entries of a window as they are discarded. -/

theorem StopFrame.entry_eq {s t : State} {p : Nat} (h : (t.part p).window = (s.part p).window) (n : Nat) : t.entry p n = s.entry p n := by
  simp only [State.entry, h]

theorem State.window_stopTask (s : State) (g : Nat) (note : Bool) (p : Nat) :
    ((s.stopTask g note).part p).window = (s.part p).window := by
  have leave : ∀ t : State, ((t.leaveTeam g).part p).window = (t.part p).window := fun t => by
    have hd : (t.dissolveGang g).part p = t.part p := by
      have := (t.gangFrame_dissolveGang g).state
      rw [this]
      rfl
    simp only [State.leaveTeam, State.part_modCore, State.part_modPart]
    split
    · subst p
      rw [hd]
    · rw [hd]
  simp only [State.stopTask, State.part_modCore, leave]
  split <;> rfl

theorem State.window_stopTasks (s : State) (q n : Nat) (e : Entry) (note : Bool) (p : Nat) :
    ((s.stopTasks q n e note).part p).window = (s.part p).window := by
  refine List.foldlRecOn (motive := fun t : State => (t.part p).window = (s.part p).window) _ _ rfl fun t h g _ => ?_
  split
  · exact (State.window_stopTask ..).trans h
  · exact h

theorem State.part_of_cacheFrame {s t : State} (h : CacheFrame s t) (p : Nat) : t.part p = s.part p := by
  have := h.state
  rw [this]
  rfl

theorem State.part_purge (s : State) (p uid q : Nat) : (s.purge p uid).part q = s.part q := by
  have ready : (s.purgeReady p uid).part q = s.part q := by
    refine List.foldlRecOn (motive := fun t : State => t.part q = s.part q) _ _ rfl fun t h d _ => ?_
    split <;> exact h
  rw [State.purge_eq]
  revert ready
  generalize s.purgeReady p uid = t, (s.purge p uid).xfer = x
  exact id

theorem State.window_discardWork (s : State) (q n : Nat) (e : Entry) (note : Bool) (p : Nat) :
    ((s.discardWork q n e note).part p).window = (s.part p).window := by
  have flush : ∀ t : State, (if e.ran.isEmpty then t else t.releaseRuns e.ran 3 everySector).part p = t.part p := fun t => by
    split
    · rfl
    · exact State.part_of_cacheFrame (cacheFrame_releaseRuns ..) p
  have give : ∀ x : Part, (x.giveBack e).window = x.window := fun x => by
    have h : x.giveBack e = _ := x.bufFrame_giveBack e
    rw [h]
  have drop : ∀ t : State, (t.dropMsg q n).part p = t.part p := fun t => rfl
  simp only [State.discardWork, State.part_modPart]
  split
  · subst q
    rw [give, drop, State.part_purge, flush, State.window_stopTasks]
  · rw [drop, State.part_purge, flush, State.window_stopTasks]

/-- R106: a discarded entry is gone and every other one stays. -/
theorem State.entry_discard (s : State) (p n : Nat) (note : Bool) (m : Nat) :
    (s.discard p n note).entry p m = if m = n then none else s.entry p m := by
  cases h : s.entry p n with
  | none =>
    rw [State.discard_none note h]
    split
    · subst m
      exact h
    · rfl
  | some e =>
    rw [State.discard_some note h, State.entry_setEntry, StopFrame.entry_eq (State.window_discardWork ..)]

theorem State.entry_discardAll (s : State) (p : Nat) (note : Bool) (ns : List Nat) (m : Nat) :
    (s.discardAll p note ns).entry p m = if m ∈ ns then none else s.entry p m := by
  have go : ∀ (l : List Nat) (s : State),
      (l.foldl (fun s n => s.discard p n note) s).entry p m = if m ∈ l then none else s.entry p m := by
    intro l
    induction l with
    | nil => exact fun s => rfl
    | cons n l ih =>
      intro s
      rw [List.foldl_cons, ih, State.entry_discard]
      by_cases h : m ∈ l <;> by_cases h' : m = n <;> simp [h, h']
  rw [State.discardAll, go]
  simp only [List.mem_reverse]

/-! HBM as entries that have run nowhere are discarded. -/

theorem State.hbm_stopTask (s : State) (g : Nat) (note : Bool) : (s.stopTask g note).hbm = s.hbm := by
  simp only [State.stopTask, State.modCore_hbm, State.leaveTeam_hbm]
  split <;> rfl

theorem State.hbm_purge (s : State) (p uid : Nat) : (s.purge p uid).hbm = s.hbm := by
  have ready : (s.purgeReady p uid).hbm = s.hbm := by
    refine List.foldlRecOn (motive := fun t : State => t.hbm = s.hbm) _ _ rfl fun t h d _ => ?_
    split <;> exact h
  rw [State.purge_eq]
  revert ready
  generalize s.purgeReady p uid = t, (s.purge p uid).xfer = x
  exact id

theorem State.hbm_discard {s : State} {p n : Nat} (note : Bool) (h : ∀ e, s.entry p n = some e → e.ran = []) :
    (s.discard p n note).hbm = s.hbm := by
  cases hn : s.entry p n with
  | none => rw [State.discard_none note hn]
  | some e =>
    have hr : e.ran.isEmpty = true := by rw [h e hn]; rfl
    have stop : (s.stopTasks p n e note).hbm = s.hbm := by
      refine List.foldlRecOn (motive := fun t : State => t.hbm = s.hbm) _ _ rfl fun t k g _ => ?_
      split
      · exact (State.hbm_stopTask ..).trans k
      · exact k
    have drop : ∀ t : State, (t.dropMsg p n).hbm = t.hbm := fun t => rfl
    rw [State.discard_some note hn, State.setEntry, State.discardWork]
    simp only [hr, if_true, State.modPart_hbm, drop, State.hbm_purge, stop]

theorem State.hbm_discardAll {s : State} {p : Nat} (note : Bool) {ns : List Nat}
    (h : ∀ n ∈ ns, ∀ e, s.entry p n = some e → e.ran = []) : (s.discardAll p note ns).hbm = s.hbm := by
  have go : ∀ (l : List Nat) (s : State), (∀ n ∈ l, ∀ e, s.entry p n = some e → e.ran = []) →
      (l.foldl (fun s n => s.discard p n note) s).hbm = s.hbm := by
    intro l
    induction l with
    | nil => exact fun s _ => rfl
    | cons n l ih =>
      intro s h
      refine (ih _ fun m hm e he => ?_).trans (State.hbm_discard note fun e he => h n List.mem_cons_self e he)
      rw [State.entry_discard] at he
      split at he
      · cases he
      · exact h m (List.mem_cons_of_mem _ hm) e he
  exact go _ s fun n hn => h n (List.mem_reverse.mp hn)

/-! A stream-context reset (R317). -/

/-- Step 2 of a reset, for one core. -/
def State.resetStep (s : State) (p g : Nat) : State :=
  if (s.core g).ofPart p then s.stopTask g false
  else if (s.core g).part = p && (s.core g).cstate == .killed then s.modCore g (fun c => c.killCmds 6)
  else if (s.core g).part = p && (s.core g).loaded then s.modCore g (fun c => { c with loaded := false, task := none })
  else s

/-- Steps 1 and 2 of a reset. -/
def State.resetWork (s : State) (p : Nat) : State :=
  (List.range 128).foldl (fun s g => s.resetStep p g) (s.discardAll p false (((s.part p).live).map (·.1)))

/-- The partition as steps 1 to 3 leave it. -/
def Part.resetStream (q : Part) : Part :=
  { q with wcount := 0, srec := none, srecNew := false, evq := [], teams := [],
           sfe := { Sfe.reset with reqid := q.sfe.reqid, serials := q.sfe.serials } }

theorem State.resetStream_eq (s : State) (p : Nat) :
    s.resetStream p = { (s.resetWork p).modPart p (fun q => q.resetStream) with
                        outbox := ((s.resetWork p).modPart p (fun q => q.resetStream)).outbox.filter (fun x => x.1 / 128 != p) } := by
  simp only [State.resetStream, State.resetWork, State.resetStep, Part.resetStream]

theorem stopFrame_resetStep (s : State) (p g : Nat) : StopFrame s (s.resetStep p g) := by
  unfold State.resetStep
  split
  · exact stopFrame_stopTask s g false
  · split
    case isTrue h =>
      obtain ⟨-, hk⟩ := Bool.and_eq_true_iff.mp h
      refine StopFrame.modCore ⟨Core.part_killCmds _ _, .inl (Core.cstate_killCmds _ _), fun _ => ⟨?_, ?_, ?_, ?_, ?_⟩⟩
      · rw [Core.cstate_killCmds]
        exact eq_of_beq hk
      · exact Core.mq_killCmds _ _
      · exact Core.vq_killCmds _ _
      · exact Core.cq_killCmds _ _
      · exact Core.acc_killCmds _ _
    · split
      · exact StopFrame.modCore (.of_same rfl rfl id rfl rfl rfl)
      · exact .rfl

theorem stopFrame_resetWork (s : State) (p : Nat) : StopFrame s (s.resetWork p) :=
  (stopFrame_discardAll s p false _).trans (StopFrame.foldl _ (fun s g => stopFrame_resetStep s p g) _ _)

/-- A core that holds a context of the partition is dead after its turn. -/
theorem State.resetStep_dead {p : Nat} {s : State} {g : Nat} (hp : (s.core g).part = p) (hi : (s.core g).cstate ≠ .idle) :
    ((s.resetStep p g).core g).Dead := by
  unfold State.resetStep
  split
  case isTrue => exact s.core_stopTask g false
  case isFalse h =>
    have hk : (s.core g).cstate = .killed := by
      by_contra hk
      exact h (by simp [Core.ofPart, hp, hi, hk])
    rw [if_pos (by simp [hp, hk]), State.core_modCore_self]
    exact ⟨(Core.cstate_killCmds _ _).trans hk, Core.mq_killCmds _ _, Core.vq_killCmds _ _, Core.cq_killCmds _ _, Core.acc_killCmds _ _⟩

/-- R317: a reset kills every core that holds a context of its partition. -/
theorem State.resetWork_dead {s : State} {p g : Nat} (hg : g < 128) (h : (s.core g).ofPart p = true) :
    ((s.resetWork p).core g).Dead := by
  obtain ⟨hp, hi⟩ : (s.core g).part = p ∧ (s.core g).cstate ≠ .idle := by
    simp only [Core.ofPart, Bool.and_eq_true, decide_eq_true_eq, bne_iff_ne] at h
    exact ⟨h.1.1, h.1.2⟩
  have go : ∀ (l : List Nat) (t : State), StopFrame s t → g ∈ l → ((l.foldl (fun s g => s.resetStep p g) t).core g).Dead := by
    intro l
    induction l with
    | nil => exact fun t _ h => absurd h List.not_mem_nil
    | cons x l ih =>
      intro t ht hmem
      by_cases hx : g = x
      · subst hx
        have step := (ht.core g)
        refine (StopFrame.foldl _ (fun s g => stopFrame_resetStep s p g) l _).core g |>.dead (State.resetStep_dead (step.part.trans hp) ?_)
        exact step.cstate.elim (fun e => e ▸ hi) (fun e => by rw [e]; decide)
      · exact ih _ (ht.trans (stopFrame_resetStep t p x)) ((List.mem_cons.mp hmem).resolve_left hx)
  exact go _ _ (stopFrame_discardAll s p false _) (List.mem_range.mpr hg)

theorem State.window_resetStep (s : State) (p g q : Nat) : ((s.resetStep p g).part q).window = (s.part q).window := by
  unfold State.resetStep
  split
  · exact State.window_stopTask ..
  · split
    · rfl
    · split <;> rfl

/-- R317: no live entry is left. -/
theorem State.entry_resetWork {s : State} {p n : Nat} {e : Entry} (h : (n, e) ∈ (s.part p).live) : (s.resetWork p).entry p n = none := by
  have fold : ∀ t : State, (((List.range 128).foldl (fun s g => s.resetStep p g) t).part p).window = (t.part p).window := fun t =>
    List.foldlRecOn (motive := fun u : State => (u.part p).window = (t.part p).window) _ _ rfl
      fun u k g _ => (State.window_resetStep ..).trans k
  rw [State.resetWork, StopFrame.entry_eq (fold _), State.entry_discardAll, if_pos (List.mem_map.mpr ⟨_, h, rfl⟩)]

theorem State.hbm_resetStep (s : State) (p g : Nat) : (s.resetStep p g).hbm = s.hbm := by
  unfold State.resetStep
  split
  · exact State.hbm_stopTask ..
  · split
    · rfl
    · split <;> rfl

/-- An entry of a partition's window that is live stands in the window. -/
theorem State.entry_of_live {s : State} {p n : Nat} {e : Entry} (h : (n, e) ∈ (s.part p).live) : s.entry p n = some e := by
  obtain ⟨i, -, hi⟩ := List.mem_filterMap.mp h
  obtain ⟨x, hx, hxe⟩ := Option.map_eq_some_iff.mp hi
  obtain ⟨rfl, rfl⟩ := Prod.mk.inj hxe
  exact hx

theorem State.hbm_resetWork {s : State} {p : Nat} (h : ∀ n e, (n, e) ∈ (s.part p).live → e.ran = []) :
    (s.resetWork p).hbm = s.hbm := by
  refine (List.foldlRecOn (motive := fun u : State => u.hbm = (s.discardAll p false (((s.part p).live).map (·.1))).hbm) _ _ rfl
    fun u k g _ => (State.hbm_resetStep ..).trans k).trans (State.hbm_discardAll false fun n hn e he => ?_)
  obtain ⟨⟨m, e'⟩, hm, rfl⟩ := List.mem_map.mp hn
  have := (State.entry_of_live hm).symm.trans he
  cases this
  exact h _ _ hm

end Sys2Proof.Machine
end

section
/-! PROOFS. The answers of system calls, `exit`, and the records that calls 9 and 12 write (R89, R302, R306, R371, R378, R379). -/

namespace Sys2Proof.Machine

/-! What a core finds does not turn on its result registers. -/

section
variable {s t : State} (ht : t = { s with cores := t.cores }) (hc : ∀ h, t.core h = { s.core h with cres := (t.core h).cres })
include ht hc

theorem State.look_congr (g : Nat) : t.look (.core g) = s.look (.core g) := by
  have hctx : ∀ h, (t.core h).ctx = (s.core h).ctx := fun h => by rw [hc h]
  have hemul : ∀ h, (t.core h).emul = (s.core h).emul := fun h => by rw [hc h]
  have hpart : ∀ h, (t.core h).part = (s.core h).part := fun h => by rw [hc h]
  have hstate : ∀ h, (t.core h).cstate = (s.core h).cstate := fun h => by rw [hc h]
  have hkept : ∀ h, (t.core h).svcKept = (s.core h).svcKept := fun h => by rw [hc h]
  have hwait : ∀ h, (t.core h).wait = (s.core h).wait := fun h => by rw [hc h]
  have hdie : ∀ d, t.die d = s.die d := fun d => by rw [ht]; rfl
  have hparts : ∀ p, t.part p = s.part p := fun p => by rw [ht]; rfl
  have hserv : t.inService (.core g) = s.inService (.core g) := by simp only [State.inService, hemul]
  have hword : ∀ slots w ws cut again tmpl,
      t.lookWord (.core g) slots w ws cut again tmpl = s.lookWord (.core g) slots w ws cut again tmpl := by
    intros
    simp only [State.lookWord, State.ctxOf, State.partOfAgent, hctx, hpart, hserv]
    rfl
  have hblock : ∀ b i, t.lookBlock (.core g) b i = s.lookBlock (.core g) b i := by
    intros
    simp only [State.lookBlock, hword]
  have hfind : t.findBlock (.core g) = s.findBlock (.core g) := by
    simp only [State.findBlock, State.indexed, State.pinnedBlock, State.coreCtxs, State.ctxOf, State.xlateServes, State.codeObj,
      State.partOfAgent, State.xlateStopped, hctx, hemul, hpart, hstate, hkept, hwait, hdie, hparts, hserv]
    rfl
  simp only [State.look, State.ctxOf, hctx, hword, hblock, hfind]

theorem State.atHalt_congr (g : Nat) : t.atHalt g = s.atHalt g := by
  have hctx : (t.core g).ctx = (s.core g).ctx := by rw [hc g]
  simp only [State.atHalt, State.look_congr ht hc g, hctx]

end

/-! RESUME (R302). -/

/-- The result registers of a core are written. -/
def State.setCres (s : State) (g : Nat) (w : Word) : State := s.modCore g (fun c => { c with cres := tput 0 c.cres 0 w })

theorem State.core_setCres (s : State) (g : Nat) (w : Word) (h : Nat) :
    (s.setCres g w).core h = { s.core h with cres := ((s.setCres g w).core h).cres } := by
  rw [State.setCres, State.core_modCore]
  split
  · subst h
    rfl
  · rfl

theorem State.cresN_setCres (s : State) (g : Nat) (w : Word) : ((s.setCres g w).core g).cresN 0 = w := by
  rw [State.setCres, State.core_modCore_self, Core.cresN, tget_tput_self]

theorem State.atHalt_setCres (s : State) (g : Nat) (w : Word) (h : Nat) : (s.setCres g w).atHalt h = s.atHalt h :=
  State.atHalt_congr rfl (s.core_setCres g w) h

/-- What a core is once it has run on from the trap of an instruction, its results given. -/
theorem Core.runOn_complete {c : Core} {pend : TrapPend} (vs : List Val) (hq : pend.queue = none) (hc : c.trap = some pend)
    (hn : c.ctx.tmpl = []) :
    let d := (c.complete pend vs).runOn
    d.cstate = .run ∧ d.trap = none ∧ d.cres = c.cres ∧ d.ctx.vpc = c.ctx.vpc + 8 * pend.len ∧ d.ctx.pos = c.ctx.pos + vs.length
      ∧ d.ctx.vals = (vs.map Slot.ready).reverse ++ c.ctx.vals := by
  intro d
  obtain ⟨info, queue, seq, kinds, len⟩ := pend
  obtain rfl : queue = none := hq
  have hctx : (c.ctx.dropTmpl.push (vs.map .ready)).advance len
      = { c.ctx with vpc := c.ctx.vpc + 8 * len, pos := c.ctx.pos + vs.length,
                     vals := (vs.map Slot.ready).reverse ++ c.ctx.vals } := by
    rw [Ctx.dropTmpl_of_nil hn, Ctx.push_advance_of_tmpl_nil _ _ hn, List.length_map]
  have hd : d = (c.complete ⟨info, none, seq, kinds, len⟩ vs).runOn := rfl
  simp only [Core.complete, hctx, Core.runOn, hc] at hd
  have unstop := fun c : Core => c.unstop_frame
  rw [hd]
  dsimp only
  rw [unstop]
  exact ⟨rfl, rfl, rfl, rfl, rfl, rfl⟩

/-- R302: RESUME of an instruction that is no `halt` is its completion with the values in CRES. -/
theorem State.resumeCore_eq {s : State} {g : Nat} {pend : TrapPend} (ht : (s.core g).trap = some pend)
    (hh : s.atHalt g = false) (hk : pend.kinds.length ≤ 4) :
    s.resumeCore g = s.modCore g (fun c =>
      (c.complete pend ((pend.kinds.zipIdx).map (fun x => s.cresVal g x.2 x.1))).runOn) := by
  have hlen : ¬ 4 < ((pend.kinds.zipIdx).map (fun x => s.cresVal g x.2 x.1)).length := by
    rw [List.length_map, List.length_zipIdx]
    exact Nat.not_lt.mpr hk
  simp only [State.resumeCore, ht, hh, Bool.and_false, Bool.false_eq_true, if_false, if_neg hlen]

/-! The record of task_report (R379). -/

theorem tabWfFrom_mono {t : Tab Bool} {lo : Nat} (h : tabWfFrom false (some lo) t = true) :
    ∃ k, (t.map (fun x : Nat × Bool => 2 ^ x.1)).sum = 2 ^ (lo + 1) * k := by
  induction t generalizing lo with
  | nil => exact ⟨0, rfl⟩
  | cons x t ih =>
    obtain ⟨j, w⟩ := x
    simp only [tabWfFrom, Bool.and_eq_true, decide_eq_true_eq] at h
    obtain ⟨⟨hlt, -⟩, hrest⟩ := h
    obtain ⟨k, hk⟩ := ih hrest
    obtain ⟨e, rfl⟩ := Nat.exists_eq_add_of_lt hlt
    refine ⟨2 ^ e + 2 ^ (e + 1) * k, ?_⟩
    simp only [List.map_cons, List.sum_cons, hk]
    ring

/-- The number whose set bits are the keys of a canonical table has a bit for each key the table holds. -/
theorem testBit_sum_pow {t : Tab Bool} {lo : Option Nat} (h : tabWfFrom false lo t = true) (k : Nat) :
    (t.map (fun x : Nat × Bool => 2 ^ x.1)).sum.testBit k = tget false t k := by
  induction t generalizing lo with
  | nil => simp [tget]
  | cons x t ih =>
    obtain ⟨j, w⟩ := x
    simp only [tabWfFrom, Bool.and_eq_true, decide_eq_true_eq] at h
    obtain ⟨⟨-, hw⟩, hrest⟩ := h
    obtain rfl : w = true := by simpa using hw
    obtain ⟨m, hm⟩ := tabWfFrom_mono hrest
    have hbit := ih hrest
    have hlow : (2 ^ (j + 1) * m).testBit j = false := by
      rw [Nat.testBit_two_pow_mul]
      simp
    have hsum : 2 ^ j + 2 ^ (j + 1) * m = 2 ^ (j + 1) * m ||| 2 ^ j := by
      rw [Nat.add_comm, Nat.two_pow_add_eq_or_of_lt (Nat.pow_lt_pow_right (by omega) (by omega))]
    rw [hm] at hbit
    simp only [List.map_cons, List.sum_cons, hm, hsum, Nat.testBit_or, Nat.testBit_two_pow, hbit, tget]
    by_cases hkj : k = j
    · subst hkj
      simp
    · simp [hkj, Ne.symm hkj]

theorem Entry.length_report (e : Entry) : e.report.length = 8 * ((e.ntask + 63) / 64) + 8 := by
  simp [Entry.report, ceilDiv]

/-- R379: the ECODE stands behind the bitmap. -/
theorem Entry.ecode_report (e : Entry) : bytesToNat (e.report.drop (8 * ((e.ntask + 63) / 64))) = e.ecode.toNat := by
  have hl : (natToBytes (8 * ceilDiv e.ntask 64) ((e.bitmap.map (fun x => 2 ^ x.1)).sum)).length = 8 * ((e.ntask + 63) / 64) := by
    simp [ceilDiv]
  rw [Entry.report, List.drop_left' hl, bytesToNat_natToBytes]
  exact Nat.mod_eq_of_lt (lt_of_lt_of_le e.ecode.isLt (by decide))

/-- R379: the bitmap has a bit for each task. -/
theorem Entry.testBit_report {e : Entry} (h : tabWf false e.bitmap = true) {k : Nat} (hk : k < e.ntask) :
    (bytesToNat e.report).testBit k = tget false e.bitmap k := by
  have hlt : k < 8 * (8 * ceilDiv e.ntask 64) := by simp only [ceilDiv]; omega
  rw [Entry.report, bytesToNat_append, natToBytes_length, bytesToNat_natToBytes]
  have hpow : 256 ^ (8 * ceilDiv e.ntask 64) = 2 ^ (8 * (8 * ceilDiv e.ntask 64)) := by
    rw [show 256 = 2 ^ 8 from rfl, ← Nat.pow_mul]
  rw [hpow, Nat.add_comm, Nat.testBit_two_pow_mul_add _ (Nat.mod_lt _ (Nat.two_pow_pos _)), if_pos hlt, Nat.testBit_mod_two_pow]
  simp only [hlt, decide_true, Bool.true_and]
  exact testBit_sum_pow h k

/-! The record of topology_query (R378). -/

/-- The parts of a list of equal parts. -/
theorem take_drop_flatMap {α : Type} {f : α → List Byte} {k : Nat} (hf : ∀ x, (f x).length = k) :
    ∀ (l : List α) (i : Nat) (x : α), l[i]? = some x → (((l.flatMap f).drop (k * i)).take k) = f x
  | [], _, _, h => by simp at h
  | y :: l, 0, x, h => by
    obtain rfl : y = x := by simpa using h
    rw [List.flatMap_cons, Nat.mul_zero, List.drop_zero, List.take_left' (hf y)]
  | y :: l, i + 1, x, h => by
    have hk : k * (i + 1) = (f y).length + k * i := by rw [hf, Nat.mul_succ, Nat.add_comm]
    rw [List.flatMap_cons, hk, List.drop_append, List.drop_eq_nil_of_le (by omega), List.nil_append]
    simp only [Nat.add_sub_cancel_left]
    exact take_drop_flatMap hf l i x (by simpa using h)

/-- A number made of a bit for each of some dies. -/
theorem testBit_ofDies (f : Nat → Bool) (n : Nat) :
    ((List.range n).map (fun d => if f d then 2 ^ d else 0)).sum < 2 ^ n
      ∧ ∀ d, ((List.range n).map (fun d => if f d then 2 ^ d else 0)).sum.testBit d = (decide (d < n) && f d) := by
  induction n with
  | zero => simp
  | succ n ih =>
    obtain ⟨hlt, hbit⟩ := ih
    have hsum : ((List.range (n + 1)).map (fun d => if f d then 2 ^ d else 0)).sum
        = 2 ^ n * (if f n then 1 else 0) + ((List.range n).map (fun d => if f d then 2 ^ d else 0)).sum := by
      simp only [List.range_succ, List.map_append, List.sum_append, List.map_cons, List.map_nil, List.sum_cons, List.sum_nil]
      cases f n <;> simp [Nat.add_comm]
    rw [hsum]
    constructor
    · rw [Nat.pow_succ]
      cases f n <;> simp <;> omega
    · intro d
      rw [Nat.testBit_two_pow_mul_add _ hlt, hbit]
      split
      case isTrue h => simp [h, Nat.lt_succ_of_lt h]
      case isFalse h =>
        by_cases hd : d = n
        · subst hd
          cases f d <;> simp
        · obtain ⟨k, hk⟩ : ∃ k, d - n = k + 1 := ⟨d - n - 1, by omega⟩
          have : ¬ d < n + 1 := by omega
          rw [hk]
          cases f n <;> simp [this, Nat.testBit_succ]

theorem getLsbD_ofDies (f : Nat → Bool) {d : Nat} (hd : d < 8) :
    (BitVec.ofNat 8 (((List.range 8).map (fun d => if f d then 2 ^ d else 0)).sum)).getLsbD d = f d := by
  rw [BitVec.getLsbD_ofNat, (testBit_ofDies f 8).2]
  simp [hd]

/-- R378: the fields of the record of topology_query. -/
theorem State.topology_fields (s : State) (p : Nat) :
    (s.topology p).length = 64 ∧ (s.topology p).take 8 = [0x53, 0x5A, 0x38, 0x38, 0x30, 0x2D, 0x48, 0x41]
      ∧ ∀ d < 8, bytesToNat (((s.topology p).drop (8 + 2 * d)).take 2) = (s.die d).stepping % 2 ^ 16
        ∧ bytesToNat (((s.topology p).drop (32 + 4 * d)).take 4) = (s.own p d).toNat % 2 ^ 32
        ∧ (((s.topology p)[24]?).map (fun b => b.getLsbD d)) = some (s.die d).admitted := by
  obtain ⟨steps, hs⟩ : ∃ l, (List.range 8).flatMap (fun d => natToBytes 2 (s.die d).stepping) = l := ⟨_, rfl⟩
  obtain ⟨owns, ho⟩ : ∃ l, (List.range 8).flatMap (fun d => natToBytes 4 (s.own p d).toNat) = l := ⟨_, rfl⟩
  obtain ⟨b, hb⟩ : ∃ b, BitVec.ofNat 8 (((List.range 8).map (fun d => if (s.die d).admitted then 2 ^ d else 0)).sum) = b := ⟨_, rfl⟩
  have hsl : steps.length = 16 := by rw [← hs]; simp [List.range_succ]
  have hol : owns.length = 32 := by rw [← ho]; simp [List.range_succ]
  obtain ⟨c, hc⟩ : ∃ c : Byte, (if s.reduced then 1 else 0) = c := ⟨_, rfl⟩
  have ht : s.topology p = partNo ++ (steps ++ ([b, c] ++ (List.replicate 6 0 ++ owns))) := by
    simp only [State.topology, hs, ho, hb, hc, List.append_assoc]
  have hlen : partNo.length = 8 := rfl
  rw [ht]
  refine ⟨by simp [hsl, hol, hlen], List.take_left' hlen, fun d hd => ⟨?_, ?_, ?_⟩⟩
  · have part : (steps.drop (2 * d)).take 2 = natToBytes 2 (s.die d).stepping := by
      rw [← hs]
      exact take_drop_flatMap (fun _ => natToBytes_length ..) _ d d (List.getElem?_range hd)
    have take : ((steps ++ ([b, c] ++ (List.replicate 6 0 ++ owns))).drop (2 * d)).take 2 = (steps.drop (2 * d)).take 2 := by
      rw [List.drop_append_of_le_length (by omega), List.take_append_of_le_length (by simp; omega)]
    rw [← List.drop_drop, List.drop_left' hlen, take, part, bytesToNat_natToBytes]
    rfl
  · have part : (owns.drop (4 * d)).take 4 = natToBytes 4 (s.own p d).toNat := by
      rw [← ho]
      exact take_drop_flatMap (fun _ => natToBytes_length ..) _ d d (List.getElem?_range hd)
    have drop : (partNo ++ (steps ++ ([b, c] ++ (List.replicate 6 0 ++ owns)))).drop 32 = owns := by
      rw [← List.append_assoc, ← List.append_assoc, ← List.append_assoc]
      exact List.drop_left' (by simp [hsl, hlen])
    rw [← List.drop_drop, drop, part, bytesToNat_natToBytes]
    rfl
  · have bit : b.getLsbD d = (s.die d).admitted := hb ▸ getLsbD_ofDies (fun d => (s.die d).admitted) hd
    rw [List.getElem?_append_right (by omega), List.getElem?_append_right (by omega), hlen, hsl]
    exact congrArg some bit

/-! `exit` (R89). -/

theorem State.part_resetStream (s : State) (p : Nat) :
    ((s.resetStream p).part p).wcount = 0 ∧ ((s.resetStream p).part p).sfe.running = false ∧ ((s.resetStream p).part p).srec = none
      ∧ ((s.resetStream p).part p).teams = [] ∧ ((s.resetStream p).part p).pgen = (s.part p).pgen := by
  have hpart : (s.resetStream p).part p = Part.resetStream ((s.resetWork p).part p) := by
    rw [State.resetStream_eq]
    generalize s.resetWork p = t
    exact State.part_modPart_self ..
  have frame := (stopFrame_resetWork s p).part p
  rw [hpart, frame]
  exact ⟨rfl, rfl, rfl, rfl, rfl⟩

theorem State.ctlOut_resetStream (s : State) (p : Nat) : (s.resetStream p).ctlOut = s.ctlOut := by
  have frame := (stopFrame_resetWork s p).state
  rw [State.resetStream_eq]
  revert frame
  generalize s.resetWork p = t
  intro frame
  rw [frame]
  rfl

/-- R317, R350: what the end of a reset makes of its partition. -/
theorem State.part_resetDone (s : State) (p : Nat) :
    (s.resetDone p).part p = { s.part p with pbs := ((s.resetDone p).part p).pbs, rename := [], committed := [], window := [],
                                             pgen := ((s.part p).pgen + 1) % 2 ^ 16, sctl := 2 } := by
  have hp : (s.releaseRuns (List.range 128) 3 everySector).part p = s.part p := State.part_of_cacheFrame (cacheFrame_releaseRuns ..) p
  have hfree : (s.part p).freeAll = _ := (s.part p).bufFrame_freeAll
  simp only [State.resetDone, State.part_modPart_self, hp]
  rw [hfree]

theorem State.ctlOut_resetDone (s : State) (p : Nat) : (s.resetDone p).ctlOut = s.ctlOut := by
  have frame := (cacheFrame_releaseRuns s (List.range 128) 3 everySector).state
  simp only [State.resetDone]
  revert frame
  generalize s.releaseRuns (List.range 128) 3 everySector = t
  intro frame
  rw [frame]
  rfl

/-- R89: the reset with which `exit` ends a stream. -/
theorem State.exit_reset (s : State) (p : Nat) :
    (((s.resetStream p).resetDone p).part p).wcount = 0 ∧ (((s.resetStream p).resetDone p).part p).sfe.running = false
      ∧ (((s.resetStream p).resetDone p).part p).pgen = ((s.part p).pgen + 1) % 2 ^ 16
      ∧ ((s.resetStream p).resetDone p).ctlOut = s.ctlOut := by
  obtain ⟨hw, hr, -, -, hg⟩ := s.part_resetStream p
  have hout := s.ctlOut_resetStream p
  revert hw hr hg hout
  generalize s.resetStream p = t
  intro hw hr hg hout
  rw [State.part_resetDone, State.ctlOut_resetDone, hg]
  exact ⟨hw, hr, rfl, hout⟩

end Sys2Proof.Machine

section
open Sys2Proof Sys2Proof.Machine

/-- Settles O52: an answer is RESUME with the value in CRES, a retirement, or the end of a window entry; `exit` is a reset and its
end; the records are read field by field. -/
theorem callAnswers : Obligations.CallAnswers := by
  unfold Obligations.CallAnswers
  refine ⟨fun s num w => ⟨?_, ?_, ?_⟩, ?_, State.topology_fields,
    fun e => ⟨e.length_report, e.ecode_report, fun h k hk => Entry.testBit_report h hk⟩⟩
  · intro g pend hf ht hq hk hl hn hh
    have ht' : ((s.setCres g w).core g).trap = some pend := by
      rw [State.core_setCres]
      exact ht
    have hn' : ((s.setCres g w).core g).ctx.tmpl = [] := by
      rw [State.core_setCres]
      exact hn
    have hanswer : s.answer num w = (s.setCres g w).modCore g (fun c => (c.complete pend [.scalar w]).runOn) := by
      have hval : (pend.kinds.zipIdx).map (fun x => (s.setCres g w).cresVal g x.2 x.1) = [.scalar w] := by
        rw [hk]
        simp [State.cresVal, State.cresN_setCres]
      rw [← hval, ← State.resumeCore_eq ht' (by rw [State.atHalt_setCres, hh]) (by simp [hk])]
      rw [State.answer, hf]
      rfl
    obtain ⟨hrun, htrap, hcres, hvpc, -, hvals⟩ := Core.runOn_complete [.scalar w] hq ht' hn'
    rw [hanswer]
    dsimp only
    rw [State.core_modCore_self, hrun, htrap, hvpc, hvals, hl, Core.cresN, hcres]
    have hcore := s.core_setCres g w g
    exact ⟨rfl, rfl, s.cresN_setCres g w, by rw [hcore], by rw [hcore]; rfl, rfl⟩
  · intro p n a b hf hw hn t
    have ht : t = (s.modPart p (fun q => { q with sfe := { q.sfe with wait := .none } })).retire (.sfe p) 1 [.scalar w] := by
      show s.answer num w = _
      rw [State.answer, hf]
    have hctx := Ctx.push_advance_of_tmpl_nil ([Val.scalar w].map Slot.ready) 1 hn
    rw [ht]
    refine ⟨?_, ?_, ?_, ?_⟩
    · exact ⟨rfl, fun q hq => by simp [State.retire, State.modCtx, State.part_modPart, hq]⟩
    all_goals simp only [State.retire, State.modCtx, State.part_modPart_self]
    all_goals rw [hctx]
    all_goals rfl
  · intro p n e hf he
    rw [State.answer, hf]
    simp only [he]
    rfl
  · intro s c hc
    rw [exec, execExit, hc]
    dsimp only
    split
    case isTrue h =>
      split
      case isTrue hl => exact ⟨s, rfl, fun _ h => absurd (h.symm.trans hl) Bool.false_ne_true, fun h' => absurd (h'.symm.trans h) Bool.false_ne_true⟩
      case isFalse hl =>
        obtain ⟨hw, hr, hg, hout⟩ := s.exit_reset c.part
        revert hw hr hg hout
        generalize (s.resetStream c.part).resetDone c.part = u
        intro hw hr hg hout
        exact ⟨_, rfl, fun _ _ => ⟨congrArg (· ++ _) hout, hr, hw, hg⟩, fun h' => absurd (h'.symm.trans h) Bool.false_ne_true⟩
    case isFalse h =>
      refine ⟨_, rfl, fun h' => absurd h' h, fun _ => ⟨onlyPart_modPart .., ?_, fun a b hw => ?_⟩⟩
      all_goals simp only [State.part_modPart_self]
      rw [hw]

end
end
section
/-! PROOFS. A stream-context reset as a whole, and `ctx.scrub` (R317, R318, R350). -/

namespace Sys2Proof.Machine

/-! The reset (R317). -/

theorem State.entry_resetStream {s : State} {p n : Nat} {e : Entry} (h : (n, e) ∈ (s.part p).live) :
    (s.resetStream p).entry p n = none := by
  have := State.entry_resetWork h
  revert this
  rw [State.resetStream_eq]
  generalize s.resetWork p = t
  intro this
  refine (congrArg (fun q : Part => tget none q.window n) ?_ : _ = tget none (t.part p).resetStream.window n).trans this
  exact State.part_modPart_self ..

theorem State.hbm_resetStream {s : State} {p : Nat} (h : ∀ n e, (n, e) ∈ (s.part p).live → e.ran = []) :
    (s.resetStream p).hbm = s.hbm := by
  have := State.hbm_resetWork h
  revert this
  rw [State.resetStream_eq]
  generalize s.resetWork p = t
  exact id

theorem State.resetStream_dead {s : State} {p g : Nat} (hg : g < 128) (h : (s.core g).ofPart p = true) :
    ((s.resetStream p).core g).Dead := by
  have := State.resetWork_dead hg h
  revert this
  rw [State.resetStream_eq]
  generalize s.resetWork p = t
  exact id

/-- SCTL with GO set. -/
def State.setGo (s : State) (p : Nat) : State := s.modPart p (fun q => { q with sctl := (s.part p).sctl ||| (1 &&& 1) })

theorem State.part_setGo (s : State) (p q : Nat) : (s.setGo p).part q = { s.part q with sctl := ((s.setGo p).part q).sctl } := by
  rw [State.setGo, State.part_modPart]
  split
  · subst q
    rfl
  · rfl

/-- R317: GO is written, and a reset that was not under way begins. -/
theorem State.writeSctl_go {s : State} {p : Nat} (h : sctlGo (s.part p).sctl = false) :
    s.writeSctl p 1 = some ((s.setGo p).resetStream p) := by
  have h4 : ¬ 4 ≤ (1 : Word).toNat := by decide
  have h0 : (1 : Word).getLsbD 0 = true := by decide
  have h1 : (1 : Word).getLsbD 1 = false := by decide
  simp only [State.writeSctl, if_neg h4, h0, h1, h, State.setGo, Bool.not_false, Bool.and_self, Bool.false_eq_true,
    if_false, if_true]

/-! `ctx.scrub` (R318). -/

/-- What a core is once it has been released, as far as a scrub keeps it. -/
theorem State.core_renameMember (s : State) (p key a b h : Nat) : (s.renameMember p key a b).core h = s.core h := rfl

/-- R300: a released core is idle with no task; the rest of the cores changes as the dissolving of its gang changes it. -/
theorem State.core_releaseCore (s : State) (g h : Nat) :
    (s.releaseCore g).core h = if h = g then
      { (s.dissolveGang g).core g with
        cstate := .idle, task := none, team := none, teamKey := none, mq := [], vq := [], cq := [], acc := [], wait := none,
        trap := none, hold := false, loaded := false, stopped := false, emul := none, pendErr := [] }
    else (s.dissolveGang g).core h := by
  simp only [State.releaseCore, State.core_modCore]
  split <;> split <;> rfl

theorem State.errinj_dissolveGang (s : State) (g h : Nat) : ((s.dissolveGang g).core h).errinj = (s.core h).errinj := by
  have frame : (s.dissolveGang g).core h = _ := (s.gangFrame_dissolveGang g).core h
  rw [frame]

theorem State.errinj_releaseCore (s : State) (g h : Nat) : ((s.releaseCore g).core h).errinj = (s.core h).errinj := by
  rw [State.core_releaseCore, ← s.errinj_dissolveGang g h]
  split
  · subst h
    rfl
  · rfl

/-- The core a scrub begins its last steps with. -/
def State.scrubFrom (s : State) (g : Nat) : State := if (s.core g).cstate == .saved then s.releaseCore g else s

theorem State.ctx_scrubFrom {s : State} {g h : Nat} (hne : h ≠ g) : ((s.scrubFrom g).core h).ctx = (s.core h).ctx := by
  rw [State.scrubFrom]
  split
  · have frame : (s.dissolveGang g).core h = _ := (s.gangFrame_dissolveGang g).core h
    rw [State.core_releaseCore, if_neg hne, frame]
  · rfl

theorem State.errinj_scrubFrom (s : State) (g h : Nat) : ((s.scrubFrom g).core h).errinj = (s.core h).errinj := by
  rw [State.scrubFrom]
  split
  · exact State.errinj_releaseCore ..
  · rfl

/-- R318: what a scrub leaves of a core. -/
theorem State.core_scrubEnd (s : State) (g : Nat) :
    (s.scrubEnd g).core g = (let c := (s.scrubFrom g).core g
      { Core.reset with
        quant := c.quant, part := c.part, srv := c.srv, srm := c.srm, src := c.src, padUnits := c.padUnits,
        lastTime := c.lastTime, errinj := c.errinj, tlb := c.tlb, lsc := c.lsc, sysSecs := c.sysSecs, serials := c.serials,
        seq := c.seq }) := by
  simp only [State.scrubEnd, State.core_modCore_self]
  rfl

theorem State.core_scrubEnd_other {s : State} {g h : Nat} (hne : h ≠ g) : (s.scrubEnd g).core h = (s.scrubFrom g).core h := by
  simp only [State.scrubEnd, State.core_modCore, if_neg hne]
  rfl

theorem State.sector_scrubEnd (s : State) (g : Nat) : ((s.scrubEnd g).sector g).acc0 = [] ∧ ((s.scrubEnd g).sector g).acc1 = [] := by
  simp only [State.scrubEnd, State.sector_modCore, State.sector_setSector_self]
  exact ⟨trivial, trivial⟩

end Sys2Proof.Machine

section
open Sys2Proof Sys2Proof.Machine

/-- Settles O48: the discarded entries are gone, every core of the partition has had its turn, and the scrub leaves the values of
reset. -/
theorem streamResetAndScrub : Obligations.StreamResetAndScrub := by
  unfold Obligations.StreamResetAndScrub
  refine ⟨fun s p hf hp => ⟨fun hgo => ?_, fun hgo hl => ?_⟩, fun s me f n hsvc h => ⟨fun hn hw => ?_, fun hn hw => ?_, ?_⟩⟩
  · rw [exec, execStreamContextReset, hf]
    simp only [State.writeSctl_go hgo, Option.getD_some]
    have hpart := s.part_setGo p p
    have hlive : ((s.setGo p).part p).live = (s.part p).live := by rw [hpart]; rfl
    obtain ⟨hw, hr, hs, ht, -⟩ := (s.setGo p).part_resetStream p
    refine ⟨(s.setGo p).resetStream p, rfl, hw, hr, hs, ht, fun h => State.hbm_resetStream (s := s.setGo p) (hlive ▸ h),
      fun n e h => State.entry_resetStream (hlive ▸ h), fun g hg hof => ?_⟩
    have dead := State.resetStream_dead (s := s.setGo p) hg hof
    exact ⟨dead.cstate, dead.mq, dead.vq, dead.cq, dead.acc⟩
  · rw [exec, execStreamResetDone, hf]
    simp only [hgo, hl, Bool.not_false, Bool.and_self, if_true]
    have hpart := s.part_resetDone p
    refine ⟨s.resetDone p, rfl, fun q hq => ?_, ?_, ?_, ?_, ?_⟩
    · simp only [State.resetDone, State.part_modPart, if_neg hq]
      exact State.part_of_cacheFrame (cacheFrame_releaseRuns ..) q
    all_goals rw [hpart]
  · rw [exec, execCtxScrub, withOps_ready (kinds := []) _ _ h.ready, h.focus]
    simp only [hw, w0]
    exact if_neg (Nat.not_lt.mpr hn)
  · rw [exec, execCtxScrub, withOps_ready (kinds := []) _ _ h.ready, h.focus]
    simp only [hw, w0]
    exact if_pos hn
  · intro g stall b hg hw
    have hme : 128 ≤ me := of_decide_eq_true hsvc
    have hne : me ≠ g := by omega
    have hexec : exec (.ctxScrub f) s = .next ((s.scrubEnd g).endWith me []) := by
      rw [exec, execCtxScrub, withOps_ready (kinds := []) _ _ h.ready, h.focus]
      simp only [hw, if_true]
    have hcore : ((s.scrubEnd g).endWith me []).core g = (s.scrubEnd g).core g := by
      simp [State.endWith, State.endWait, State.retire, State.modCtx, State.core_modCore, Ne.symm hne]
    obtain ⟨h0, h1⟩ := s.sector_scrubEnd g
    refine ⟨(s.scrubEnd g).endWith me [], hexec, ?_⟩
    rw [hcore, State.core_scrubEnd]
    refine ⟨rfl, rfl, rfl, rfl, rfl, rfl, rfl, rfl, rfl, rfl, rfl, rfl, rfl, rfl, rfl, rfl, s.errinj_scrubFrom g g, h0, h1, ?_, ?_⟩
    · simp only [State.endWith, State.endWait, State.retire, State.modCtx, State.core_modCore_self]
    · simp only [State.endWith, State.endWait, State.retire, State.modCtx, State.core_modCore_self, State.ctxOf,
        State.core_scrubEnd_other hne, State.ctx_scrubFrom hne]

end
end

section
/-! PROOFS. Freezing and thawing sectors and contexts (R313, R314, R325, R326, R329). -/

namespace Sys2Proof.Machine

/-! Loops over cores and over sectors. -/

/-- A loop that changes each core of a list once. -/
theorem State.core_foldl_modCore (f : Nat → Core → Core) (h : Nat) : ∀ (l : List Nat) (s : State), l.Nodup →
    (l.foldl (fun t g => t.modCore g (f g)) s).core h = if h ∈ l then f h (s.core h) else s.core h
  | [], _, _ => rfl
  | g :: l, s, hn => by
    obtain ⟨hg, hl⟩ := List.nodup_cons.mp hn
    rw [List.foldl_cons, State.core_foldl_modCore f h l _ hl, State.core_modCore]
    by_cases hh : h = g
    · subst hh
      simp [hg]
    · simp [hh]

theorem State.foldl_modCore_state (f : Nat → Core → Core) (l : List Nat) (s : State) :
    l.foldl (fun t g => t.modCore g (f g)) s = { s with cores := (l.foldl (fun t g => t.modCore g (f g)) s).cores } := by
  refine List.foldlRecOn (motive := fun t : State => t = { s with cores := t.cores }) _ _ rfl fun t ht g _ => ?_
  rw [ht]
  rfl

/-- Sectors are marked as frozen, or as not frozen. -/
def State.markSecs (s : State) (secs : List Nat) (b : Bool) : State :=
  secs.foldl (fun s x => s.setSector x { s.sector x with frozen := b }) s

theorem State.sector_markSecs (b : Bool) (x : Nat) : ∀ (l : List Nat) (s : State),
    (s.markSecs l b).sector x = if x ∈ l then { s.sector x with frozen := b } else s.sector x
  | [], _ => rfl
  | y :: l, s => by
    rw [State.markSecs, List.foldl_cons]
    refine (State.sector_markSecs b x l _).trans ?_
    rw [State.sector_setSector]
    by_cases hx : x = y
    · subst hx
      simp
    · simp [hx]

theorem State.markSecs_state (s : State) (l : List Nat) (b : Bool) : s.markSecs l b = { s with sectors := (s.markSecs l b).sectors } := by
  refine List.foldlRecOn (motive := fun t : State => t = { s with sectors := t.sectors }) _ _ rfl fun t ht x _ => ?_
  rw [ht]
  rfl

@[simp] theorem State.core_markSecs (s : State) (l : List Nat) (b : Bool) (g : Nat) : (s.markSecs l b).core g = s.core g := by
  rw [State.markSecs_state]
  rfl

/-! The cores that drive a set of sectors. -/

theorem State.nodup_driversOf (s : State) (d : Nat) (secs : List Nat) : (s.driversOf d secs).Nodup := by
  refine List.Nodup.filter _ (List.Nodup.map (fun a b h => ?_) List.nodup_range)
  exact Nat.add_left_cancel h

theorem State.lt_of_mem_driversOf {s : State} {d : Nat} {secs : List Nat} {g : Nat} (hd : d < 8) (h : g ∈ s.driversOf d secs) :
    g < 128 := by
  obtain ⟨i, hi, rfl⟩ := List.mem_map.mp (List.mem_of_mem_filter h)
  have := List.mem_range.mp hi
  omega

/-! What of a state the closure of a freeze turns on: nothing of the accesses of cores. -/

section
variable {s u : State} (hu : u = { s with cores := u.cores }) (hc : ∀ h, u.core h = { s.core h with acc := (u.core h).acc })
include hu hc

theorem State.driver_congr : u.driver = s.driver := by
  have hgang : ∀ h, (u.core h).gang = (s.core h).gang := fun h => by rw [hc h]
  have hview : ∀ h, (u.core h).gview = (s.core h).gview := fun h => by rw [hc h]
  have hkey : ∀ h, (u.core h).teamKey = (s.core h).teamKey := fun h => by rw [hc h]
  have hpart : ∀ h, (u.core h).part = (s.core h).part := fun h => by rw [hc h]
  have hown : ∀ p d, u.own p d = s.own p d := fun p d => by rw [hu]; rfl
  have hdriven : ∀ g x, u.driven g x = s.driven g x := fun g x => by
    simp only [State.driven, State.lent, State.gangMates, State.ownsSect, State.ownsCore, hgang, hview, hkey, hpart, hown]
  funext x
  simp only [State.driver, hdriven, State.ownsSect, State.ownsCore, hgang, hown]
  rfl

theorem State.driversOf_congr : u.driversOf = s.driversOf := by
  funext d secs
  simp only [State.driversOf, State.driver_congr hu hc]

theorem State.widen_congr (d : Nat) (p : Nat → Bool) : ∀ (n : Nat) (secs : List Nat), u.widen d p secs n = s.widen d p secs n
  | 0, _ => rfl
  | n + 1, secs => by
    have hsecs : u.gangSecs = s.gangSecs := by rw [hu]; rfl
    have hone : u.widen1 d p secs = s.widen1 d p secs := by
      simp only [State.widen1, hsecs, State.driversOf_congr hu hc, State.driver_congr hu hc]
    simp only [State.widen, hone, State.widen_congr d p n]

theorem State.sliceRun_congr (g : Nat) : u.sliceRun g = s.sliceRun g := by
  have hpart : (u.core g).part = (s.core g).part := by rw [hc g]
  have hquant : (u.core g).quant = (s.core g).quant := by rw [hc g]
  have hs : ∀ p, u.effSlice p = s.effSlice p := fun p => by rw [hu]; rfl
  simp only [State.sliceRun, hpart, hquant, hs]

end

section
variable {s u : State} (hc : ∀ h, u.core h = { s.core h with acc := (u.core h).acc })
include hc

theorem State.freezes_congr (g : Nat) : (u.core g).freezes = (s.core g).freezes := by rw [hc g]; rfl

theorem State.frzPoint_congr (at? : Option Nat) (cur : Option (Nat × Nat)) (left : Nat) :
    u.frzPoint at? cur left = s.frzPoint at? cur left := by
  have hmq : ∀ h, (u.core h).mq = (s.core h).mq := fun h => by rw [hc h]
  simp only [State.frzPoint, hmq]

theorem State.frzCur_congr (cs : List Nat) : u.frzCur cs = s.frzCur cs := by
  have hmq : ∀ h, (u.core h).mq = (s.core h).mq := fun h => by rw [hc h]
  simp only [State.frzCur, hmq]

end

/-! A freeze (R325). -/

/-- What a freeze makes of a core that drives a sector of its set. -/
def Core.frozenBy (fs : List Nat) (g : Nat) (c : Core) : Core := if fs.contains g then c.freeze else { c with iced := true }

theorem State.freezeSet_eq (s : State) (d : Nat) (secs : List Nat) :
    s.freezeSet d secs = ((s.driversOf d secs).filter (fun g => (s.core g).freezes), secs.filter (fun x => !(s.sector x).frozen),
      (s.driversOf d secs).foldl
        (fun t g => t.modCore g (fun c => c.frozenBy ((s.driversOf d secs).filter (fun g => (s.core g).freezes)) g))
        (s.markSecs secs true)) := rfl

theorem Core.freeze_cstate (c : Core) : c.freeze.cstate = .frozen ∧ c.freeze.frozenFrom = c.cstate := ⟨rfl, rfl⟩

theorem Core.freeze_of_emul_none {c : Core} (h : c.emul = none) :
    c.freeze = { c with cstate := .frozen, frozenFrom := c.cstate } := by
  simp only [Core.freeze, Core.abandon, h]

/-- R325: the cores after a freeze. -/
theorem State.core_freezeSet (s : State) (d : Nat) (secs : List Nat) (g : Nat) :
    (s.freezeSet d secs).2.2.core g = if g ∈ s.driversOf d secs then
      (s.core g).frozenBy ((s.driversOf d secs).filter (fun g => (s.core g).freezes)) g else s.core g := by
  rw [State.freezeSet_eq]
  dsimp only
  rw [State.core_foldl_modCore _ g _ _ (s.nodup_driversOf d secs), State.core_markSecs]

theorem State.sector_freezeSet (s : State) (d : Nat) (secs : List Nat) (x : Nat) :
    (s.freezeSet d secs).2.2.sector x = if x ∈ secs then { s.sector x with frozen := true } else s.sector x := by
  rw [State.freezeSet_eq]
  dsimp only
  rw [State.foldl_modCore_state, ← State.sector_markSecs]
  rfl

theorem State.hbm_freezeSet (s : State) (d : Nat) (secs : List Nat) : (s.freezeSet d secs).2.2.hbm = s.hbm := by
  rw [State.freezeSet_eq]
  dsimp only
  rw [State.foldl_modCore_state, State.markSecs_state]

/-- A freeze that is made is one of the widened set. -/
theorem State.frzStep_made {s : State} {me d mask part : Nat} {at? : Option Nat} {cur : Option (Nat × Nat)} {left : Nat}
    {passed : Bool}
    (hslice : ((s.driversOf d (s.widen d (fun _ => true) (maskSecs d mask) 16)).filter (fun g => (s.core g).freezes)).all
      (fun g => s.sliceRun g) = true) (hpoint : s.frzPoint at? cur left = some passed) :
    s.frzStep me d mask part at? cur left
      = (s.freezeSet d (s.widen d (fun _ => true) (maskSecs d mask) 16)).2.2.endWith me
        [.scalar (frzWord (s.freezeSet d (s.widen d (fun _ => true) (maskSecs d mask) 16)).2.1
          (s.freezeSet d (s.widen d (fun _ => true) (maskSecs d mask) 16)).1 passed)] := by
  unfold State.frzStep
  extract_lets secs fs
  rw [show fs.all (fun g => s.sliceRun g) = true from hslice, hpoint]

/-- A freeze whose point has come and all of whose contexts have run for their slices is made. `u` is the state once the accesses of
the service core stand. -/
theorem froze_frzStep {s u : State} {me d mask : Nat} (part : Nat) {at? : Option Nat} {cur : Option (Nat × Nat)} {left : Nat}
    {passed : Bool} (hme : isSvc me = true) (hd : d < 8) (hu : u = { s with cores := u.cores })
    (hc : ∀ h, u.core h = { s.core h with acc := (u.core h).acc }) (hother : ∀ h, h ≠ me → u.core h = s.core h)
    (hslice : ∀ g ∈ (s.driversOf d (s.widen d (fun _ => true) (maskSecs d mask) 16)).filter (fun g => (s.core g).freezes),
      s.sliceRun g = true)
    (hpoint : s.frzPoint at? cur left = some passed) :
    Froze s (u.frzStep me d mask part at? cur left) me (s.widen d (fun _ => true) (maskSecs d mask) 16)
      (s.driversOf d (s.widen d (fun _ => true) (maskSecs d mask) 16))
      ((s.driversOf d (s.widen d (fun _ => true) (maskSecs d mask) 16)).filter (fun g => (s.core g).freezes)) passed := by
  have hme' : 128 ≤ me := of_decide_eq_true hme
  have hsecs := State.widen_congr hu hc d (fun _ => true) 16 (maskSecs d mask)
  obtain ⟨secs, hs⟩ : ∃ l, s.widen d (fun _ => true) (maskSecs d mask) 16 = l := ⟨_, rfl⟩
  rw [hs] at hsecs hslice ⊢
  have hfs : (u.driversOf d secs).filter (fun g => (u.core g).freezes) = (s.driversOf d secs).filter (fun g => (s.core g).freezes) := by
    simp only [State.driversOf_congr hu hc, State.freezes_congr hc]
  obtain ⟨fs, hf⟩ : ∃ l, (s.driversOf d secs).filter (fun g => (s.core g).freezes) = l := ⟨_, rfl⟩
  have hall : fs.all (fun g => u.sliceRun g) = true := by
    simp only [List.all_eq_true, State.sliceRun_congr hu hc]
    exact fun g hg => hslice g (hf ▸ hg)
  have hsector : ∀ x, u.sector x = s.sector x := fun x => by rw [hu]; rfl
  have hnew : secs.filter (fun x => !(u.sector x).frozen) = secs.filter (fun x => !(s.sector x).frozen) := by simp only [hsector]
  have hstep : u.frzStep me d mask part at? cur left
      = (u.freezeSet d secs).2.2.endWith me [.scalar (frzWord (secs.filter (fun x => !(s.sector x).frozen)) fs passed)] := by
    have h1 : (u.freezeSet d secs).1 = fs := hfs.trans hf
    have h2 : (u.freezeSet d secs).2.1 = secs.filter (fun x => !(s.sector x).frozen) := hnew
    rw [State.frzStep_made (by rw [hsecs, hfs, hf]; exact hall) ((State.frzPoint_congr hc ..).trans hpoint), hsecs, h1, h2]
  have hcs : u.driversOf d secs = s.driversOf d secs := by rw [State.driversOf_congr hu hc]
  have hcore : ∀ g, g ≠ me → (u.frzStep me d mask part at? cur left).core g
      = if g ∈ s.driversOf d secs then (s.core g).frozenBy fs g else s.core g := fun g hg => by
    rw [hstep]
    simp only [State.endWith, State.endWait, State.retire, State.modCtx, State.core_modCore, if_neg hg, State.core_freezeSet,
      State.freezes_congr hc, hcs, hf, hother g hg]
  have hdrives : ∀ g ∈ s.driversOf d secs, g ≠ me := fun g hg he => by
    have := State.lt_of_mem_driversOf hd hg
    omega
  have hmem : ∀ g ∈ fs, g ∈ s.driversOf d secs := fun g hg => List.mem_of_mem_filter (hf ▸ hg)
  have hnot : me ∉ s.driversOf d secs := fun h => hdrives me h rfl
  have hmecore : (u.freezeSet d secs).2.2.core me = u.core me := by rw [State.core_freezeSet, hcs, if_neg hnot]
  rw [hf]
  refine ⟨fun x => ?_, fun g hg => ?_, fun g hg he => ?_, fun g hg hn => ?_, fun g hg hn => ?_, ?_, ?_, ?_⟩
  · rw [hstep]
    exact (u.sector_freezeSet d secs x).trans (by rw [hsector])
  · rw [hcore g (hdrives g (hmem g hg)), if_pos (hmem g hg), Core.frozenBy, if_pos (List.contains_iff_mem.mpr hg)]
    exact Core.freeze_cstate _
  · rw [hcore g (hdrives g (hmem g hg)), if_pos (hmem g hg), Core.frozenBy, if_pos (List.contains_iff_mem.mpr hg),
      Core.freeze_of_emul_none he]
  · rw [hcore g (hdrives g hg), if_pos hg, Core.frozenBy, if_neg fun h => hn (List.contains_iff_mem.mp h)]
  · rw [hcore g hn, if_neg hg]
  · have hctx : (u.core me).ctx = (s.core me).ctx := by rw [hc me]
    rw [hstep]
    simp only [State.endWith, State.endWait, State.retire, State.modCtx, State.core_modCore_self, hmecore, hctx]
  · rw [hstep]
    simp only [State.endWith, State.endWait, State.retire, State.modCtx, State.core_modCore_self]
  · rw [hstep]
    refine (u.hbm_freezeSet d secs).trans ?_
    rw [hu]

/-- The accesses of the service core stand, and nothing else changes. -/
theorem froze_commit {s : State} {me d mask : Nat} (part : Nat) {at? : Option Nat} {cur : Option (Nat × Nat)} {left : Nat}
    {passed : Bool} (hme : isSvc me = true) (hd : d < 8)
    (hslice : ∀ g ∈ (s.driversOf d (s.widen d (fun _ => true) (maskSecs d mask) 16)).filter (fun g => (s.core g).freezes),
      s.sliceRun g = true)
    (hpoint : s.frzPoint at? cur left = some passed) :
    Froze s ((s.commit (.core me)).frzStep me d mask part at? cur left) me (s.widen d (fun _ => true) (maskSecs d mask) 16)
      (s.driversOf d (s.widen d (fun _ => true) (maskSecs d mask) 16))
      ((s.driversOf d (s.widen d (fun _ => true) (maskSecs d mask) 16)).filter (fun g => (s.core g).freezes)) passed :=
  froze_frzStep part hme hd (s.commitFirst_state ..) (s.commitFirst_core me _)
    (onlyCore_commitFirst s me _).2 hslice hpoint

end Sys2Proof.Machine

section
open Sys2Proof Sys2Proof.Machine

/-- Settles O49: `scan.frz` and `scan.frz.at`, at once or deferred, are one step of the freeze; `scan.run` is a loop over the
sectors and one over the cores that drive them. -/
theorem scanFreezeAndThaw : Obligations.ScanFreezeAndThaw := by
  unfold Obligations.ScanFreezeAndThaw
  intro s me f hme
  refine ⟨?_, ?_, ?_⟩
  · intro d m secs cs fs hd h1 h2 hown hslice hw
    have hbad : ∀ b : Bool, (decide (7 < d.toNat) || decide (m.toNat = 0) || decide (2 ^ 16 ≤ m.toNat) || b
        || !((maskSecs d.toNat m.toNat).all (fun x => s.ownsSect (bitsNat f.mod 0 4) x))) = b := fun b => by
      have h7 : ¬ 7 < d.toNat := by omega
      have h0 : m.toNat ≠ 0 := by omega
      simp only [hown, h7, h0, Nat.not_le.mpr h2, decide_false, Bool.or_false, Bool.false_or, Bool.not_true]
    refine ⟨fun h => ?_, fun n h hn1 hn2 hcur => ?_⟩
    · refine ⟨_, ?_, froze_commit (bitsNat f.mod 0 4) (at? := none) (cur := s.frzCur cs) (left := frzLimit) hme hd hslice rfl⟩
      rw [exec, execScanFrz, frzOp, withOps_ready (kinds := [false]) _ _ h.ready, h.focus]
      simp only [hw, w0, w1, Bool.false_and]
      exact if_neg (ne_true_of_eq_false (hbad false))
    · refine ⟨_, ?_, froze_commit (bitsNat f.mod 0 4) (at? := some n.toNat) (cur := s.frzCur cs) (left := frzLimit) hme hd hslice ?_⟩
      · rw [exec, execScanFrzAt, frzOp, withOps_ready (kinds := [false]) _ _ h.ready, h.focus]
        have hrange : (decide (n.toNat < 1) || decide (2 ^ 16 < n.toNat)) = false := by
          simp only [Bool.or_eq_false_iff, decide_eq_false_iff_not]
          omega
        simp only [hw, w0, w1, w2, Bool.true_and]
        exact if_neg (ne_true_of_eq_false ((hbad _).trans hrange))
      · simp only [hcur, State.frzPoint]
  · intro d mask part left stall at? cur b passed secs cs fs hd hf ht hw hslice hpoint
    have froze := froze_frzStep (u := s) part hme hd rfl (fun _ => rfl) (fun _ _ => rfl) hslice hpoint
    have hresume : ∀ p : Option Nat → Bool, p at? = true → frzResume s p = s.frzStep me d mask part at? cur left := fun p hp => by
      simp only [frzResume, hf, hw, hp, if_true]
    refine ⟨fun ha => ⟨_, ?_, froze⟩, fun ha => ⟨_, ?_, froze⟩⟩
    · rw [exec, execScanFreezeComplete, hresume]
      rw [ha]
      rfl
    · rw [exec, execScanFreezeDeferred, hresume]
      exact Option.isSome_iff_ne_none.mpr ha
  · intro d m frozen secs ds cs h hd hm
    have hme' : 128 ≤ me := of_decide_eq_true hme
    have hbad : (decide (7 < d.toNat) || decide (2 ^ 16 ≤ m.toNat)) = false := by
      simp only [Bool.or_eq_false_iff, decide_eq_false_iff_not]
      omega
    obtain ⟨t, ht⟩ : ∃ t, ds.foldl (fun s g => s.modCore g (·.thaw)) ((s.commit (.core me)).markSecs secs false) = t := ⟨_, rfl⟩
    have hexec : exec (.scanRun f) s = .next (t.retire (.core me) 1 [.scalar (frzWord secs cs false)]) := by
      rw [exec, execScanRun, withOps_ready (kinds := [false]) _ _ h.ready, h.focus, ← ht]
      exact if_neg (ne_true_of_eq_false hbad)
    have hcore : ∀ g, t.core g = if g ∈ ds then ((s.commit (.core me)).core g).thaw else (s.commit (.core me)).core g := fun g => by
      rw [← ht, State.core_foldl_modCore (fun _ c => c.thaw) g _ _ (s.nodup_driversOf ..), State.core_markSecs]
    have hdrives : ∀ g ∈ ds, g ≠ me := fun g hg he => by
      have := State.lt_of_mem_driversOf hd hg
      omega
    have hother : ∀ g, g ≠ me → (s.commit (.core me)).core g = s.core g := (onlyCore_commitFirst s me _).2
    have hretire : ∀ g, g ≠ me → (t.retire (.core me) 1 [.scalar (frzWord secs cs false)]).core g = t.core g := fun g hg => by
      simp only [State.retire, State.modCtx, State.core_modCore, if_neg hg]
    refine ⟨_, hexec, fun x => ?_, fun g hg => ?_, fun g hg hn => ?_, fun g hg hn => ?_, ?_⟩
    · have hsec : t.sector x = ((s.commit (.core me)).markSecs secs false).sector x := by
        rw [← ht, State.foldl_modCore_state]
        rfl
      have hcommit : (s.commit (.core me)).sector x = s.sector x := by
        show (s.commitFirst me _).sector x = _
        rw [State.commitFirst_state]
        rfl
      exact hsec.trans (by rw [State.sector_markSecs, hcommit])
    · obtain ⟨hmem, hst⟩ := List.mem_filter.mp hg
      have hst' : (s.core g).cstate = .frozen := eq_of_beq hst
      rw [hretire g (hdrives g hmem), hcore, if_pos hmem, hother g (hdrives g hmem)]
      simp only [Core.thaw, hst', beq_self_eq_true, if_true]
    · have hst : ((s.core g).cstate == .frozen) = false := by
        by_contra hne
        exact hn (List.mem_filter.mpr ⟨hg, eq_true_of_ne_false hne⟩)
      rw [hretire g (hdrives g hg), hcore, if_pos hg, hother g (hdrives g hg)]
      simp only [Core.thaw, hst, Bool.false_eq_true, if_false]
    · rw [hretire g hn, hcore, if_neg hg, hother g hn]
    · have hmecore : t.core me = (s.commit (.core me)).core me := by rw [hcore, if_neg fun h => hdrives me h rfl]
      have hctx : ((s.commit (.core me)).core me).ctx = (s.core me).ctx := by
        show ((s.commitFirst me _).core me).ctx = _
        rw [State.commitFirst_core]
      simp only [State.retire, State.modCtx, State.core_modCore_self, hmecore, hctx]

end
end

section
/-! PROOFS. Control of the contexts by the service: RETRY, RESUME, KILL, DRAIN, RELEASE and START (R300 to R302, R312, R314). -/

namespace Sys2Proof.Machine

theorem isSvc_of_lt {g : Nat} (h : g < 128) : isSvc g = false := decide_eq_false (Nat.not_le.mpr h)

/-- A command that the state of the core in focus allows. -/
theorem cctlStep_some {s t : State} {g cmd : Nat} (hf : s.focus = .core g) (hg : g < 128) (h : s.cctl g cmd = some t) :
    cctlStep cmd s = .next t := by
  simp only [cctlStep, hf, isSvc_of_lt hg, h, Bool.false_eq_true, if_false, Option.getD_some]

/-! RETRY (R302). -/

/-- A context that runs on from a trap. -/
theorem Core.runOn_frame (c : Core) :
    c.runOn = { c with mq := c.runOn.mq, vq := c.runOn.vq, cq := c.runOn.cq, tags := c.runOn.tags, cstate := .run, trap := none,
                       wait := if (c.trap.map (·.ofCmd)).getD false then c.wait else none } := by
  have unstop := fun c : Core => c.unstop_frame
  have queue := fun c : Core => c.setQueue_frame
  unfold Core.runOn
  split
  · dsimp only
    rw [unstop, Core.modCmd, queue]
  · dsimp only
    rw [unstop]

/-! KILL (R302). -/

theorem State.modTaskEntry_state (s : State) (g : Nat) (f : Entry → Task → Entry) :
    s.modTaskEntry g f = { s with parts := (s.modTaskEntry g f).parts } := by
  simp only [State.modTaskEntry]
  split
  · rfl
  · split
    · split <;> rfl
    · rfl

/-- The entry of a core's task, changed. -/
theorem State.entry_modTaskEntry {s : State} {g : Nat} {k : Task} {e : Entry} (f : Entry → Task → Entry)
    (hk : (s.core g).task = some k) (he : s.entry (s.core g).part k.entry = some e) (hu : e.uid = k.uid) :
    (s.modTaskEntry g f).entry (s.core g).part k.entry = some (f e k) := by
  simp only [State.modTaskEntry, hk, he, hu, if_true, State.entry_setEntry_self]

theorem State.window_leaveTeam (s : State) (g p : Nat) : ((s.leaveTeam g).part p).window = (s.part p).window := by
  have hd : (s.dissolveGang g).part p = s.part p := by
    have := (s.gangFrame_dissolveGang g).state
    rw [this]
    rfl
  simp only [State.leaveTeam, State.part_modCore, State.part_modPart]
  split
  · subst p
    rw [hd]
  · rw [hd]

/-- What the record of a killed context says (R302). -/
def State.killInfo (s : State) (g : Nat) : TrapInfo :=
  match (s.core g).trap with
  | some t => t.info
  | none => s.mkInfo g { code := cERRBIT, ecode := 6 } (s.core g).ctx.vpc (s.core g).ctx.vpc 0 0

theorem State.killInfo_none {s : State} {g : Nat} (h : (s.core g).trap = none) :
    (s.killInfo g).cause = cERRBIT ∧ (s.killInfo g).ecode = 6 := by
  rw [State.killInfo, h]
  exact ⟨rfl, rfl⟩

theorem State.killCore_eq (s : State) (g : Nat) :
    s.killCore g = ((s.taskTrapped g (s.killInfo g)).leaveTeam g).modCore g (fun c =>
      { c with cstate := .killed, stopped := c.stopped || c.cstate == .frozen, wait := none, trap := none, tags := [],
               emul := none, hold := false, loaded := false }) := rfl

/-- R302: a killed core and the entry of its task. -/
theorem State.core_killCore (s : State) (g : Nat) :
    ((s.killCore g).core g).cstate = .killed ∧ ((s.killCore g).core g).wait = none ∧ ((s.killCore g).core g).tags = []
      ∧ ((s.killCore g).core g).teamKey = none := by
  rw [State.killCore_eq, State.core_modCore_self]
  exact ⟨rfl, rfl, rfl, (State.core_leaveTeam _ g).1⟩

theorem State.entry_killCore {s : State} {g : Nat} {k : Task} {e : Entry} (hk : (s.core g).task = some k)
    (he : s.entry (s.core g).part k.entry = some e) (hu : e.uid = k.uid) :
    (s.killCore g).entry (s.core g).part k.entry
      = some { e with trapped := e.trapped ++ [(k.idx, s.killInfo g)], failed := e.failed ++ [k.idx],
                      out := e.out.filter (· != k.idx) } := by
  rw [State.killCore_eq]
  refine (StopFrame.entry_eq (State.window_leaveTeam (s.taskTrapped g (s.killInfo g)) g _) _).trans ?_
  exact State.entry_modTaskEntry _ hk he hu

/-! DRAIN (R312, R314). -/

/-- No gang of its die has a core as a member. -/
def State.Ungrouped (s : State) (g : Nat) : Prop := ∀ x ∈ (s.die (dieOf g)).gangs, g ∉ x.members

/-- What the steps of a drain leave of the core. -/
structure DrainFrame (g : Nat) (s t : State) : Prop where
  ctx : (t.core g).ctx = (s.core g).ctx
  flags : (t.core g).flags = (s.core g).flags
  acc : (t.core g).acc = (s.core g).acc
  vq : (t.core g).vq = (s.core g).vq
  cq : (t.core g).cq = (s.core g).cq
  emul : (t.core g).emul = (s.core g).emul
  mq : (t.core g).mq.length = (s.core g).mq.length
  alone : s.Ungrouped g → t.Ungrouped g ∧ (t.core g).mq = (s.core g).mq

theorem DrainFrame.trans {g : Nat} {s t u : State} (h : DrainFrame g s t) (k : DrainFrame g t u) : DrainFrame g s u where
  ctx := k.ctx.trans h.ctx
  flags := k.flags.trans h.flags
  acc := k.acc.trans h.acc
  vq := k.vq.trans h.vq
  cq := k.cq.trans h.cq
  emul := k.emul.trans h.emul
  mq := k.mq.trans h.mq
  alone a := ⟨(k.alone (h.alone a).1).1, (k.alone (h.alone a).1).2.trans (h.alone a).2⟩

/-- A step that changes neither dies nor what the frame names of the core. -/
theorem DrainFrame.of_core {g : Nat} {s t : State} (hd : ∀ d, t.die d = s.die d)
    (hc : t.core g = { s.core g with cstate := (t.core g).cstate, wait := (t.core g).wait, late := (t.core g).late,
                                     hold := (t.core g).hold, drainT := (t.core g).drainT, team := (t.core g).team,
                                     teamKey := (t.core g).teamKey }) : DrainFrame g s t := by
  refine ⟨?_, ?_, ?_, ?_, ?_, ?_, ?_, fun a => ⟨fun x hx => ?_, ?_⟩⟩
  case refine_8 => exact a x (hd _ ▸ hx)
  all_goals rw [hc]

theorem DrainFrame.rfl {g : Nat} {s : State} : DrainFrame g s s := .of_core (fun _ => Eq.refl _) (Eq.refl _)

/-- A core in no gang dissolves none. -/
theorem State.dissolveGang_of_ungrouped {s : State} {g : Nat} (h : s.Ungrouped g) :
    s.dissolveGang g = s.modCore g (fun c => { c with gang := none }) := by
  have hnone : (s.die (dieOf g)).gangs.find? (fun x => x.members.contains g) = none :=
    List.find?_eq_none.mpr fun x hx hm => h x hx (List.contains_iff_mem.mp hm)
  simp only [State.dissolveGang, hnone]

theorem drainFrame_dissolveGang (s : State) (g : Nat) : DrainFrame g s (s.dissolveGang g) := by
  have frame : (s.dissolveGang g).core g = _ := (s.gangFrame_dissolveGang g).core g
  refine ⟨?_, ?_, ?_, ?_, ?_, ?_, s.length_mq_dissolveGang g g, fun a => ?_⟩
  case refine_7 =>
    rw [State.dissolveGang_of_ungrouped a, State.core_modCore_self]
    exact ⟨a, Eq.refl _⟩
  all_goals rw [frame]

theorem drainFrame_leaveTeam (s : State) (g : Nat) : DrainFrame g s (s.leaveTeam g) := by
  refine (drainFrame_dissolveGang s g).trans (.of_core (fun d => ?_) ?_)
  · simp only [State.leaveTeam, State.die_modCore, State.die_modPart]
  · simp only [State.leaveTeam, State.core_modCore_self, State.core_modPart]

theorem drainFrame_undoWait (s : State) (g : Nat) (k : WaitKind) : DrainFrame g s (s.undoWait g k) := by
  unfold State.undoWait
  split
  · exact drainFrame_leaveTeam s g
  · exact .of_core (fun _ => rfl) rfl
  · exact .of_core (fun _ => rfl) (by rw [State.core_modCore_self])
  · exact .rfl

/-- R297, R312: the wait of a sequencer that is not satisfied is abandoned. -/
theorem State.dropWait_open {s : State} {g : Nat} (h : ∀ w, (s.core g).wait = some w → s.waitOpen g w.kind = true) :
    DrainFrame g s (s.dropWait g) ∧ ((s.dropWait g).core g).wait = none := by
  cases hw : (s.core g).wait with
  | none =>
    have : s.dropWait g = s := by rw [State.dropWait, hw]
    rw [this]
    exact ⟨.rfl, hw⟩
  | some w =>
    have : s.dropWait g = ((s.undoWait g w.kind).modCore g (fun c => { c with late := (s.core g).late })).endWait g := by
      simp only [State.dropWait, hw, h w hw, if_true]
    rw [this]
    refine ⟨(drainFrame_undoWait s g w.kind).trans (.of_core (fun _ => rfl) ?_), ?_⟩
    · simp only [State.endWait, State.core_modCore_self]
    · simp only [State.endWait, State.core_modCore_self]

theorem State.dropWait_none {s : State} {g : Nat} (h : (s.core g).wait = none) : s.dropWait g = s := by rw [State.dropWait, h]

/-- R312: a drain that takes effect on a context outside any routine and template, its wait not satisfied. -/
theorem State.drainFrame_drainNow {s : State} {g : Nat} (he : (s.core g).emul = none) (hn : (s.core g).ctx.tmpl = [])
    (h : ∀ w, (s.core g).wait = some w → s.waitOpen g w.kind = true) : DrainFrame g s (s.drainNow g) := by
  obtain ⟨frame, hw⟩ := State.dropWait_open h
  have habandon : ((s.dropWait g).core g).abandon = (s.dropWait g).core g := by rw [Core.abandon, frame.emul, he]
  have hcore : ((s.dropWait g).modCore g (·.abandon)).core g = (s.dropWait g).core g := by rw [State.core_modCore_self, habandon]
  have h₁ : DrainFrame g (s.dropWait g) (((s.dropWait g).modCore g (·.abandon)).dropWait g) := by
    rw [State.dropWait_none (s := (s.dropWait g).modCore g (·.abandon)) (by rw [hcore, hw])]
    exact .of_core (fun _ => rfl) (by rw [hcore])
  have h₂ := (frame.trans h₁).trans (drainFrame_dissolveGang _ g)
  have htmpl := h₂.ctx ▸ hn
  refine h₂.trans (.of_core (fun _ => rfl) ?_)
  simp only [State.drainNow, State.core_modCore_self, Ctx.dropTmpl_of_nil htmpl]

theorem State.core_drainNow (s : State) (g : Nat) :
    ((s.drainNow g).core g).cstate = .draining ∧ ((s.drainNow g).core g).wait = none ∧ ((s.drainNow g).core g).hold = false := by
  simp only [State.drainNow, State.core_modCore_self]
  exact ⟨trivial, trivial, trivial⟩

/-! RELEASE (R300). -/

/-- A released core's team and gang are all that changes outside it: no entry does. -/
theorem State.entry_releaseCore (s : State) (g p n : Nat) : (s.releaseCore g).entry p n = s.entry p n := by
  refine StopFrame.entry_eq ?_ n
  have hd : (s.dissolveGang g).part p = s.part p := by
    have := (s.gangFrame_dissolveGang g).state
    rw [this]
    rfl
  have rename : ∀ (t : State) (q k a b : Nat), ((t.renameMember q k a b).part p).window = (t.part p).window := fun t q k a b => by
    simp only [State.renameMember, State.modTeam, State.part_modPart]
    split
    · subst p
      rfl
    · rfl
  simp only [State.releaseCore, State.part_modCore]
  split
  · rw [rename, hd]
  · rw [hd]

/-! The end of a drain (R312). -/

/-- R312: a drain past its allowance freezes the core it is of. -/
theorem State.core_drainFreeze {s : State} {g : Nat} (secs : List Nat) (h : (s.core g).cstate = .draining) :
    let t := (s.freezeSet (dieOf g) secs).2.2.modCore g (fun c => if c.freezes then c.freeze else c)
    (t.core g).cstate = .frozen ∧ (t.core g).frozenFrom = .draining ∧ t.hbm = s.hbm := by
  have hfr : (s.core g).freezes = true := by simp [Core.freezes, h]
  have hcore : (s.freezeSet (dieOf g) secs).2.2.core g = (s.core g).freeze ∨ (s.freezeSet (dieOf g) secs).2.2.core g = s.core g := by
    rw [State.core_freezeSet]
    split
    case isTrue hm =>
      left
      rw [Core.frozenBy, if_pos (List.contains_iff_mem.mpr (List.mem_filter.mpr ⟨hm, hfr⟩))]
    case isFalse => exact .inr rfl
  obtain ⟨hst, hfrom⟩ := (s.core g).freeze_cstate
  intro t
  have ht : t.core g = (s.core g).freeze := by
    show ((s.freezeSet (dieOf g) secs).2.2.modCore g (fun c => if c.freezes then c.freeze else c)).core g = _
    rw [State.core_modCore_self]
    rcases hcore with hc | hc <;> rw [hc]
    · exact if_neg (by simp [Core.freezes, hst])
    · exact if_pos hfr
  rw [ht, hst, hfrom, h]
  exact ⟨rfl, rfl, s.hbm_freezeSet (dieOf g) secs⟩

end Sys2Proof.Machine

section
open Sys2Proof Sys2Proof.Machine

/-- Settles O47: each command of CCTL is one change of the core, besides its gang, its team and the entry of its task. -/
theorem contextControl : Obligations.ContextControl := by
  unfold Obligations.ContextControl
  intro s g hf hg
  refine ⟨fun ht => ⟨?_, ?_, ?_⟩, fun hst => ?_, fun hst => ⟨?_, ?_, ?_⟩, fun hst => ?_, fun hst hsc => ?_, fun hst => ⟨?_, ?_⟩⟩
  · have hexec : exec .cctlRetry s = .next (s.retryCore g) := cctlStep_some hf hg (by simp only [State.cctl, ht])
    have frame := (s.core g).runOn_frame
    refine ⟨s.retryCore g, hexec, onlyCore_modCore .., ?_, ?_, fun hcmd => ?_, ?_, ?_⟩
    all_goals rw [State.retryCore, State.core_modCore_self, frame]
    cases htr : (s.core g).trap with
    | none => rfl
    | some x =>
      rw [htr] at hcmd
      cases hx : x.ofCmd
      · simp [hx]
      · exact absurd (congrArg some hx) hcmd
  · intro pend htr hq hk hn hh hno
    have hexec : exec .cctlResume s = .next (s.resumeCore g) := by
      have hkeep : (decide (pend.info.cause = cSVC) && decide (16 ≤ pend.info.addr) && (s.core g).cstate == .trapped) = false := by
        rcases hno with h | h
        · simp [h]
        · simp [Nat.not_le.mpr h]
      rw [exec, execCctlResume]
      simp only [hf, htr, hkeep, Bool.false_eq_true, if_false]
      exact cctlStep_some hf hg (by simp only [State.cctl, ht])
    have heq := State.resumeCore_eq htr hh hk
    obtain ⟨hrun, htrap, -, hvpc, hpos, hvals⟩ :=
      Core.runOn_complete ((pend.kinds.zipIdx).map (fun x => s.cresVal g x.2 x.1)) hq htr hn
    refine ⟨s.resumeCore g, hexec, heq ▸ onlyCore_modCore .., ?_⟩
    rw [heq, State.core_modCore_self]
    refine ⟨hrun, htrap, hvpc, hpos.trans (by rw [List.length_map, List.length_zipIdx]), hvals.trans ?_⟩
    rw [List.map_map]
    refine congrArg (fun l => List.reverse l ++ _) (List.map_congr_left fun x hx => ?_)
    obtain ⟨-, hlt, -⟩ := List.mem_zipIdx hx
    have h4 : x.2 < 4 := by omega
    simp only [Function.comp_apply, State.cresVal, h4, if_true]
  · intro pend htr hq hk hn hh hc ha
    have htr' : ((s.setCres g (BitVec.allOnes 64)).core g).trap = some pend := by rw [State.core_setCres]; exact htr
    have hst' : ((s.setCres g (BitVec.allOnes 64)).core g).cstate = .trapped := by rw [State.core_setCres]; exact ht
    have hn' : ((s.setCres g (BitVec.allOnes 64)).core g).ctx.tmpl = [] := by rw [State.core_setCres]; exact hn
    have hctx : ((s.setCres g (BitVec.allOnes 64)).core g).ctx.vals = (s.core g).ctx.vals := by rw [State.core_setCres]
    have hexec : exec .cctlResume s = .next ((s.setCres g (BitVec.allOnes 64)).resumeCore g) := by
      have hset : (decide (pend.info.cause = cSVC) && decide (16 ≤ pend.info.addr) && (s.core g).cstate == .trapped) = true := by
        simp [hc, ha, ht]
      rw [exec, execCctlResume]
      simp only [hf, htr, hset, if_true]
      exact cctlStep_some (s := s.setCres g (BitVec.allOnes 64)) hf hg (by simp only [State.cctl, hst'])
    have heq := State.resumeCore_eq htr' (by rw [State.atHalt_setCres, hh]) (by rw [hk]; decide)
    have hval : (pend.kinds.zipIdx).map (fun x => (s.setCres g (BitVec.allOnes 64)).cresVal g x.2 x.1)
        = [.scalar (BitVec.allOnes 64)] := by
      rw [hk]
      simp [State.cresVal, State.cresN_setCres]
    obtain ⟨hrun, -, -, -, -, hvals⟩ := Core.runOn_complete [.scalar (BitVec.allOnes 64)] hq htr' hn'
    refine ⟨_, hexec, ?_⟩
    rw [heq, hval, State.core_modCore_self, hvals, hctx]
    exact ⟨hrun, rfl⟩
  · have hexec : exec .cctlKill s = .next (s.killCore g) := by
      refine cctlStep_some hf hg ?_
      simp only [List.mem_cons, List.not_mem_nil, or_false] at hst
      rcases hst with h | h | h | h | h <;> simp only [State.cctl, h]
    obtain ⟨h1, h2, h3, h4⟩ := s.core_killCore g
    refine ⟨s.killCore g, hexec, h1, h2, h3, h4, s.killCore_hbm g, fun k e hk he hu => ⟨s.killInfo g, State.entry_killCore hk he hu,
      fun x hx => ?_, State.killInfo_none⟩⟩
    rw [State.killInfo, hx]
  · intro hslice he hn hw
    have hexec : exec .cctlDrain s = .next (s.drainNow g) := by
      refine cctlStep_some hf hg ?_
      simp only [List.mem_cons, List.not_mem_nil, or_false] at hst
      rcases hst with h | h <;> simp only [State.cctl, h, State.drainCore, hslice, if_true]
    have frame := State.drainFrame_drainNow he hn hw
    obtain ⟨h1, h2, -⟩ := s.core_drainNow g
    exact ⟨s.drainNow g, hexec, h1, h2, frame.ctx, frame.flags, frame.acc, frame.mq, frame.vq, frame.cq, fun h => (frame.alone h).2⟩
  · intro hslice
    refine cctlStep_some hf hg ?_
    simp only [List.mem_cons, List.not_mem_nil, or_false] at hst
    rcases hst with h | h <;> simp only [State.cctl, h, State.drainCore, hslice, Bool.false_eq_true, if_false]
  · intro hslice hh
    have hcan : ((s.core g).hold && ((s.core g).cstate == .run || (s.core g).cstate == .trapped) && s.sliceRun g) = true := by
      simp only [List.mem_cons, List.not_mem_nil, or_false] at hst
      rcases hst with h | h <;> simp [h, hh, hslice]
    obtain ⟨h1, -, h3⟩ := s.core_drainNow g
    refine ⟨s.drainNow g, ?_, h1, h3⟩
    rw [exec, execPreemptionHoldEnd, hf]
    simp only [isSvc_of_lt hg, hcan, Bool.false_eq_true, if_false, if_true]
  · have hexec : exec .cctlRelease s = .next (s.releaseCore g) := by
      refine cctlStep_some hf hg ?_
      simp only [List.mem_cons, List.not_mem_nil, or_false] at hst
      rcases hst with h | h <;> simp only [State.cctl, h]
    refine ⟨s.releaseCore g, hexec, ?_, ?_, ?_, s.entry_releaseCore g⟩
    all_goals rw [State.core_releaseCore, if_pos rfl]
  · have hexec : exec .cctlStart s = .next (s.modCore g (fun c => { c.runOn with quant := 0, loaded := false })) := by
      refine cctlStep_some hf hg ?_
      simp only [State.cctl, hst, hsc, Bool.false_eq_true, if_false]
    have frame := (s.core g).runOn_frame
    refine ⟨_, hexec, onlyCore_modCore .., ?_, ?_, ?_⟩
    all_goals rw [State.core_modCore_self]
    all_goals rw [frame]
  · intro hacc hcmds hpast
    have hover : (s.core g).drainOver = true := by
      simp only [Core.drainOver, hacc, List.isEmpty_nil, Bool.true_and, List.all_eq_true]
      intro k hk
      cases hs : k.started
      · simp
      · rcases hcmds k hk hs with h | ⟨h, h'⟩ <;> simp [*]
    rw [exec, execDrainEnd, hf]
    simp only [hst, hover, hpast, beq_self_eq_true, Bool.and_self, Bool.not_false, if_true]
  · intro hm hlim ht
    have hpast : s.drainPast g = true := by
      simp only [State.drainPast, hst, hm, if_neg hlim, beq_self_eq_true, Bool.true_and, decide_eq_true_eq]
      exact ht
    have hexec : exec .drainLimitFreeze s = .next ((s.freezeSet (dieOf g) (s.widen (dieOf g) (fun _ => true) [g] 16)).2.2.modCore g
        (fun c => if c.freezes then c.freeze else c)) := by
      rw [exec, execDrainLimitFreeze, hf]
      exact if_pos hpast
    exact ⟨_, hexec, State.core_drainFreeze _ hst⟩

end
end

section
/-! PROOFS. Images of contexts and of patches (R159, R327, R328). -/

namespace Sys2Proof.Machine

/-- R327: a segment of an image has the size the form gives it. -/
theorem State.length_segOut (s : State) (k : Nat) (portable : Bool) (shot n : Nat) :
    (s.segOut k portable shot n).length = segBytes portable n := by
  unfold State.segOut
  extract_lets len
  split
  · split
    · exact natToBytes_length ..
    · rw [List.length_map, List.length_range]
  · split <;> exact natToBytes_length ..

theorem State.length_payload (s : State) (k : Nat) (portable : Bool) (shot : Nat) (w : List Nat) :
    (w.flatMap (s.segOut k portable shot)).length = (w.map (segBytes portable)).sum := by
  simp only [List.length_flatMap, State.length_segOut]

theorem w0_scalar (a : Word) (vs : List Val) : w0 (.scalar a :: vs) = a := rfl
theorem w1_scalar (x : Val) (a : Word) (vs : List Val) : w1 (x :: .scalar a :: vs) = a := rfl
theorem w2_scalar (x y : Val) (a : Word) (vs : List Val) : w2 (x :: y :: .scalar a :: vs) = a := rfl

/-- The conditions of the checks of an image, taken and not taken. -/
theorem not_and_decide {a : Bool} {P : Prop} [Decidable P] (ha : a = false) (hp : P) : (!a && decide P) = true := by simp [ha, hp]

theorem not_not_and_decide {a : Bool} {P : Prop} [Decidable P] (h : a = true ∨ ¬P) : ¬ (!a && decide P) = true := by
  rcases h with h | h <;> simp [h]

/-- R327: `scan.out` whose checks pass writes the payload and then the header. -/
theorem execScanOut_writes {s t u : State} {me : Nat} {f : BaseF} {k a : Word} (hact : MayActOn s me .system (.scanOut f) [.scalar k, .scalar a])
    (hk : k.toNat ≤ 127) (ha : a.toNat % 64 = 0) (hacc : (s.core me).acc = [])
    (hsegs : (segsOf f.mod.toNat).all (s.outOk k.toNat) = true) {portable : Bool} (hp : ((s.core k.toNat).cstate == .saved) = portable)
    {w : List Nat} (hw : (segsOf f.mod.toNat).filter (s.occupied k.toNat portable) = w) {shot : Nat} {x : State}
    (hx : s.shotFor k.toNat portable = (shot, x)) {payload : List Byte} (hpay : w.flatMap (x.segOut k.toNat portable shot) = payload)
    (hheld : s.rangeHeld me a.toNat (64 + payload.length) = false)
    (ht : x.writeAs me (a.toNat + 64) payload = (.ok (), t))
    (hu : t.writeAs me a.toNat (scanHeader (if portable then 0 else (s.die (dieOf k.toNat)).layout)
      (s.die (dieOf k.toNat)).stepping k.toNat (segMask w) portable payload) = (.ok (), u)) :
    exec (.scanOut f) s = .next (u.retire (.core me) 1 [.scalar (BitVec.ofNat 64 (64 + payload.length))]) := by
  have hquiet : (s.core me).quiet = true := by rw [Core.quiet, hacc]; rfl
  rw [exec, execScanOut, withOps_ready (kinds := [false]) _ _ hact.ready, hact.focus]
  simp only [w0_scalar, w1_scalar, hquiet, hsegs, Nat.not_lt.mpr hk, decide_false, Bool.not_true, Bool.or_self, Bool.false_eq_true, if_false, ha, ne_eq,
    not_true_eq_false, hp, hw, hx, hpay, hheld, ht, hu]

/-- The answer of an instruction that reads an image. -/
def State.answerScan (s : State) (me n : Nat) : Out := .next (s.retire (.core me) 1 [.scalar (BitVec.ofNat 64 n)])

/-- R328: what `scan.in` makes of the payload. -/
def State.scanInPayload (u : State) (me k mask : Nat) (h : ScanHead) (payload : List Byte) : Out :=
  if u.scanStatus k h (h.layout == 0) payload ≠ 0 then u.answerScan me (u.scanStatus k h (h.layout == 0) payload)
  else (u.loadScan k mask h (h.layout == 0) (cutSegs (h.layout == 0) (segsOf h.mask) payload)).answerScan me 0

/-- R328: what `scan.in` makes of the header. -/
def State.scanInHead (t : State) (me k a mask : Nat) (h : ScanHead) : Out :=
  if h.magic ≠ scanMagic ∨ 127 < h.core then t.answerScan me 1
  else if !(h.layout == 0) && h.layout ≠ (t.die (dieOf k)).layout then .next (t.trap (.core me) { code := cSCANLAYOUT } [false] 1)
  else if !(h.layout == 0) && h.core ≠ k then t.answerScan me 3
  else if h.slen ≠ slenOf (h.layout == 0) then t.answerScan me 4
  else if (h.layout == 0) && (t.core k).cstate != .idle then t.answerScan me 6
  else if t.rangeHeld me a (64 + ((segsOf h.mask).map (segBytes (h.layout == 0))).sum) then .next t
  else
    match t.readAs me true (a + 64) ((segsOf h.mask).map (segBytes (h.layout == 0))).sum with
    | (.error c, s) => .next (s.trap (.core me) c [false] 1)
    | (.ok payload, u) => u.scanInPayload me k mask h payload

/-- R328: the checks of `scan.in` before the image is read. -/
theorem execScanIn_reads {s t : State} {me : Nat} {f : BaseF} {k a : Word} {hb : List Byte}
    (hact : MayActOn s me .system (.scanIn f) [.scalar k, .scalar a]) (hk : k.toNat ≤ 127) (ha : a.toNat % 64 = 0)
    (hacc : (s.core me).acc = []) (hsegs : (segsOf f.mod.toNat).all (s.inOk k.toNat) = true)
    (hheld : s.rangeHeld me a.toNat 64 = false) (hr : s.readAs me true a.toNat 64 = (.ok hb, t)) :
    exec (.scanIn f) s = t.scanInHead me k.toNat a.toNat f.mod.toNat (scanHead hb) := by
  have hquiet : (s.core me).quiet = true := by rw [Core.quiet, hacc]; rfl
  rw [exec, execScanIn, withOps_ready (kinds := [false]) _ _ hact.ready, hact.focus]
  simp only [w0_scalar, w1_scalar, hquiet, hsegs, Nat.not_lt.mpr hk, decide_false, Bool.not_true, Bool.or_self, Bool.false_eq_true, if_false, ha, ne_eq,
    not_true_eq_false, hheld, hr]
  rfl

/-- R328: a refused payload, by its digest. -/
theorem State.scanStatus_digest {s : State} {k : Nat} {h : ScanHead} {portable : Bool} {payload : List Byte}
    (hd : (Config.sha3 payload).toNat ≠ h.digest) : s.scanStatus k h portable payload = 2 := if_pos hd

/-- R328: a refused payload, by the state its context was in. -/
theorem State.scanStatus_state {s : State} {k : Nat} {h : ScanHead} {portable : Bool} {payload : List Byte} {st : CState}
    (hd : (Config.sha3 payload).toNat = h.digest) (hi : (s.core k).cstate = .idle)
    (hs : s.imgState h portable (cutSegs portable (segsOf h.mask) payload) = some st) (hne : st ≠ .run) :
    s.scanStatus k h portable payload = 5 := by
  have hst : (st != .run) = true := by simp [hne]
  unfold State.scanStatus
  extract_lets segs
  rw [if_neg (not_not.mpr hd), hi, show s.imgState h portable segs = some st from hs]
  simp only [beq_self_eq_true, Option.map_some, hst, Option.getD_some, Bool.and_self, if_true]

/-! `patch.ld` (R159). -/

/-- The answer of `patch.ld` to an image it refuses. -/
def State.answerPatch (t : State) (g n : Nat) : Out :=
  .next ((t.modDie (dieOf g) (fun x => { x with patched := true })).retire (.core g) 1 [.scalar (BitVec.ofNat 64 n)])

/-- The lowering of what is no service code is dropped. -/
def State.dropLowering (u : State) (d : Nat) : State :=
  u.modDie d (fun x => { x with lowering := x.lowering.filter (fun b => b.obj == 0) })

/-- R159: what `patch.ld` makes of the rest of an image. -/
def State.patchLdRest (u : State) (g ebase : Nat) (h : ImgHead) (img : List Byte) : Out :=
  if u.imgStatus (dieOf g) ebase h img ≠ 0 then u.answerPatch g (u.imgStatus (dieOf g) ebase h img)
  else .next ((u.dropLowering (dieOf g)).patchLdStep g img ebase)

/-- R159: what `patch.ld` makes of the header of an image. -/
def State.patchLdHead (t : State) (g a len ebase : Nat) (hb : List Byte) : Out :=
  if !(imgHead hb len).ok then t.answerPatch g 1
  else
    match t.readAs g false (a + 64) (len - 64) with
    | (.error c, s) => .next (s.trap (.core g) c [false] 1)
    | (.ok rest, u) => u.patchLdRest g ebase (imgHead hb len) (hb ++ rest)

section
variable {s : State} {g : Nat} {f : BaseF} {a len ebase : Word}
  (hact : MayActOn s g .system (.patchLd f) [.scalar a, .scalar len, .scalar ebase]) (hw : (s.core g).wait = none)
  (hacc : (s.core g).acc = []) (ha : a.toNat % 8 = 0) (hheld : s.rangeHeld g a.toNat (min len.toNat (2 ^ 24)) = false)
include hact hw hacc ha hheld

theorem execPatchLd_length (hl : 2 ^ 24 < len.toNat ∨ len.toNat < 64 + 2420) : exec (.patchLd f) s = s.answerPatch g 1 := by
  have hquiet : (s.core g).quiet = true := by rw [Core.quiet, hacc]; rfl
  have hlen : (decide (2 ^ 24 < len.toNat) || decide (len.toNat < 64 + sigBytes)) = true := by
    rw [Bool.or_eq_true, decide_eq_true_eq, decide_eq_true_eq]
    exact hl
  rw [exec, execPatchLd, withOps_ready (kinds := [false]) _ _ hact.ready, hact.focus]
  simp only [w0_scalar, w1_scalar, w2_scalar, hw, hquiet, hheld, Bool.not_true, Bool.or_self, Bool.false_eq_true, if_false, ha, ne_eq, not_true_eq_false]
  exact if_pos hlen

theorem execPatchLd_reads {t : State} {hb : List Byte} (h1 : len.toNat ≤ 2 ^ 24) (h2 : 64 + 2420 ≤ len.toNat)
    (hr : s.readAs g false a.toNat 64 = (.ok hb, t)) :
    exec (.patchLd f) s = t.patchLdHead g a.toNat len.toNat ebase.toNat hb := by
  have hquiet : (s.core g).quiet = true := by rw [Core.quiet, hacc]; rfl
  have hlen : (decide (2 ^ 24 < len.toNat) || decide (len.toNat < 64 + sigBytes)) = false :=
    Bool.or_eq_false_iff.mpr ⟨decide_eq_false (Nat.not_lt.mpr h1), decide_eq_false (Nat.not_lt.mpr h2)⟩
  rw [exec, execPatchLd, withOps_ready (kinds := [false]) _ _ hact.ready, hact.focus]
  simp only [w0_scalar, w1_scalar, w2_scalar, hw, hquiet, hheld, Bool.not_true, Bool.or_self, Bool.false_eq_true, if_false, ha, ne_eq, not_true_eq_false]
  refine (if_neg (ne_true_of_eq_false hlen)).trans ?_
  rw [hr]
  rfl

end

end Sys2Proof.Machine

section
open Sys2Proof Sys2Proof.Machine

/-- Settles O50: each check in its order, and what the last of them lets through. -/
theorem imagesOfContextsAndPatches : Obligations.ImagesOfContextsAndPatches := by
  unfold Obligations.ImagesOfContextsAndPatches
  refine ⟨fun s me f k a hk ha hacc => ⟨?_, ?_⟩, ?_⟩
  · intro portable w x payload head hact hsegs hheld
    have hlen : payload.length = (w.map (segBytes portable)).sum := State.length_payload ..
    refine ⟨hlen, fun t u ht hu => ?_⟩
    rw [execScanOut_writes hact hk ha hacc hsegs rfl rfl rfl rfl hheld ht hu]
    exact congrArg (fun n => Host.Outcome.next (u.retire (.core me) 1 [.scalar (BitVec.ofNat 64 (64 + n))])) hlen
  · intro hact hsegs hheld hb t hr h portable answer
    have hexec := execScanIn_reads hact hk ha hacc hsegs hheld hr
    rw [hexec, State.scanInHead]
    refine ⟨fun h1 => if_pos h1, fun hm hc => ?_⟩
    have h1 : ¬ (h.magic ≠ scanMagic ∨ 127 < h.core) := by
      rintro (h1 | h1)
      · exact h1 hm
      · omega
    rw [if_neg h1]
    refine ⟨fun hp hl => if_pos (not_and_decide hp hl), fun hl => ?_⟩
    rw [if_neg (not_not_and_decide (hl.imp_right not_not.mpr))]
    refine ⟨fun hp hl => if_pos (not_and_decide hp hl), fun hl => ?_⟩
    rw [if_neg (not_not_and_decide (hl.imp_right not_not.mpr))]
    refine ⟨fun h4 => if_pos h4, fun h4 => ?_⟩
    rw [if_neg (not_not.mpr h4)]
    refine ⟨fun hp hi => if_pos ?_, fun hi hheld' payload u hpay => ?_⟩
    · exact Bool.and_eq_true_iff.mpr ⟨hp, bne_iff_ne.mpr hi⟩
    have h5 : ¬ ((h.layout == 0) && (t.core k.toNat).cstate != .idle) = true := fun h5 => by
      obtain ⟨hp, hne⟩ := Bool.and_eq_true_iff.mp h5
      exact hi.elim (fun e => Bool.false_ne_true (e.symm.trans hp)) (bne_iff_ne.mp hne)
    rw [if_neg h5, if_neg (ne_true_of_eq_false hheld'), hpay]
    dsimp only
    rw [State.scanInPayload]
    refine ⟨fun hd => ?_, fun st hd hi hs hne => ?_, fun h0 => if_neg (not_not.mpr h0)⟩
    · rw [State.scanStatus_digest hd]
      rfl
    · rw [State.scanStatus_state hd hi hs hne]
      rfl
  · intro s g f a len ebase hact hw hacc ha hheld answer
    refine ⟨fun hl => execPatchLd_length hact hw hacc ha hheld hl, fun h1 h2 hb t hr => ?_⟩
    rw [execPatchLd_reads hact hw hacc ha hheld h1 h2 hr, State.patchLdHead]
    refine ⟨fun h => if_pos (by rw [h]; rfl), fun h => ?_⟩
    intro rest u hrest st ready
    rw [if_neg (by rw [h]; exact Bool.false_ne_true), hrest]
    dsimp only
    rw [State.patchLdRest]
    refine ⟨fun hst => if_pos hst, fun hst hl => ?_, fun hst hl => ?_⟩
    · refine (if_neg (not_not.mpr hst)).trans (congrArg Host.Outcome.next ?_)
      exact if_pos hl
    · refine (if_neg (not_not.mpr hst)).trans (congrArg Host.Outcome.next ?_)
      exact if_neg (ne_true_of_eq_false hl)

end
end

section
/-! PROOFS. Control registers (R303, R304). -/

namespace Sys2Proof.Machine

/-! A register that is read and written reads as it was last written. -/

theorem State.readDieReg_written {s t : State} {d i : Nat} {v : Word} (hi : i ∈ [2, 3, 4, 5, 0x21, 0x22, 0x31])
    (h : s.writeDieReg d i v = some t) : t.readDieReg d i = some (v, t) := by
  simp only [List.mem_cons, List.not_mem_nil, or_false] at hi
  rcases hi with rfl | rfl | rfl | rfl | rfl | rfl | rfl
  all_goals
    obtain rfl := Option.some.inj h
    simp [State.readDieReg]

theorem State.readCoreReg_written {s t : State} {g i : Nat} {v : Word} (hi : i ∈ [2, 3, 4, 5]) (h : s.writeCoreReg g i v = some t) :
    t.readCoreReg g i = some v := by
  simp only [List.mem_cons, List.not_mem_nil, or_false] at hi
  rcases hi with rfl | rfl | rfl | rfl
  all_goals
    obtain rfl := Option.some.inj h
    simp [State.readCoreReg, Core.cresN]

theorem State.readPartReg_written {s t : State} {d p i : Nat} {v : Word} (hi : i ∈ [1, 2, 3]) (h : s.writePartReg d p i v = some t) :
    t.readPartReg d p i = some (v, t) := by
  simp only [List.mem_cons, List.not_mem_nil, or_false] at hi
  rcases hi with rfl | rfl | rfl
  · obtain rfl := Option.some.inj h
    simp [State.readPartReg]
  · obtain ⟨-, h⟩ := Option.ite_none_right_eq_some.mp h
    obtain rfl := Option.some.inj h
    simp [State.readPartReg]
  · obtain ⟨-, h⟩ := Option.ite_none_right_eq_some.mp h
    obtain rfl := Option.some.inj h
    simp [State.readPartReg]

/-! A read-only register is not written. -/

theorem State.writeDieReg_readOnly {s : State} {d i : Nat} (v : Word) (hi : i ∈ [1, 8, 9] ∨ 0x10 ≤ i ∧ i ≤ 0x17) :
    s.writeDieReg d i v = none := by
  rcases hi with hi | ⟨h1, h2⟩
  · simp only [List.mem_cons, List.not_mem_nil, or_false] at hi
    rcases hi with rfl | rfl | rfl <;> rfl
  · interval_cases i <;> rfl

theorem State.writeCoreReg_readOnly {s : State} {g i : Nat} (v : Word) (hi : i = 1 ∨ 0x100 ≤ i) : s.writeCoreReg g i v = none := by
  unfold State.writeCoreReg
  split
  · omega
  · omega
  · refine if_neg ?_
    simp only [Bool.and_eq_true, decide_eq_true_eq]
    omega

theorem State.writePartReg_readOnly {s : State} {d p i : Nat} (v : Word) (hi : i ∈ [5, 6, 7, 8, 9]) :
    s.writePartReg d p i v = none := by
  simp only [List.mem_cons, List.not_mem_nil, or_false] at hi
  rcases hi with rfl | rfl | rfl | rfl | rfl <;> rfl

/-! Which register a number names. -/

section
variable {s : State} {here : Nat} {n : Word} {x : CsrNum} (hx : csrNum here n = some x)
include hx

theorem State.csrRead_die (hg : x.group = 0) : s.csrRead here n = s.readDieReg x.die x.index := by
  simp only [State.csrRead, hx, hg, if_true]

theorem State.csrWrite_die (v : Word) (hg : x.group = 0) : s.csrWrite here n v = s.writeDieReg x.die x.index v := by
  simp only [State.csrWrite, hx, hg, if_true]

theorem State.csrRead_core (h1 : 1 ≤ x.group) (h2 : x.group ≤ 0x10) :
    s.csrRead here n = (s.readCoreReg (x.die * 16 + (x.group - 1)) x.index).map (fun w => (w, s)) := by
  simp only [State.csrRead, hx, if_neg (Nat.ne_of_gt h1), if_pos h2]

theorem State.csrWrite_core (v : Word) (h1 : 1 ≤ x.group) (h2 : x.group ≤ 0x10) :
    s.csrWrite here n v = s.writeCoreReg (x.die * 16 + (x.group - 1)) x.index v := by
  simp only [State.csrWrite, hx, if_neg (Nat.ne_of_gt h1), if_pos h2]

theorem State.csrWrite_patch (v : Word) (hg : x.group = 0x20) : s.csrWrite here n v = none := by
  have h0 : x.group ≠ 0 := by omega
  have h1 : ¬ x.group ≤ 0x10 := by omega
  have h2 : ¬ (decide (0x40 ≤ x.group) && decide (x.group ≤ 0x4F)) = true := by
    simp only [Bool.and_eq_true, decide_eq_true_eq]
    omega
  simp only [State.csrWrite, hx, if_neg h0, if_neg h1, if_neg h2]

theorem State.csrRead_part (h1 : 0x40 ≤ x.group) (h2 : x.group ≤ 0x4F) :
    s.csrRead here n = s.readPartReg x.die (x.group - 0x40) x.index := by
  have h0 : x.group ≠ 0 := by omega
  have h10 : ¬ x.group ≤ 0x10 := by omega
  have h20 : x.group ≠ 0x20 := by omega
  have hr : (decide (0x40 ≤ x.group) && decide (x.group ≤ 0x4F)) = true := by
    simp only [Bool.and_eq_true, decide_eq_true_eq]
    omega
  simp only [State.csrRead, hx, if_neg h0, if_neg h10, if_neg h20, if_pos hr]

theorem State.csrWrite_part (v : Word) (h1 : 0x40 ≤ x.group) (h2 : x.group ≤ 0x4F) :
    s.csrWrite here n v = s.writePartReg x.die (x.group - 0x40) x.index v := by
  have h0 : x.group ≠ 0 := by omega
  have h10 : ¬ x.group ≤ 0x10 := by omega
  have hr : (decide (0x40 ≤ x.group) && decide (x.group ≤ 0x4F)) = true := by
    simp only [Bool.and_eq_true, decide_eq_true_eq]
    omega
  simp only [State.csrWrite, hx, if_neg h0, if_neg h10, if_pos hr]

end

/-- A number that names no register is neither read nor written. -/
theorem State.csr_none {s : State} {here : Nat} {n : Word} (v : Word) (h : csrNum here n = none) :
    s.csrRead here n = none ∧ s.csrWrite here n v = none := by
  simp only [State.csrRead, State.csrWrite, h, and_self]

/-- R303: a number with nonzero high bits, or of no die in a group that has a unit for each die, names none. -/
theorem csrNum_none {here : Nat} {n : Word}
    (h : bitsNat n 24 40 ≠ 0 ∨ 8 ≤ bitsNat n 20 4 ∧ bitsNat n 20 4 < 15
      ∧ ¬(0x40 ≤ bitsNat n 12 8 ∧ bitsNat n 12 8 ≤ 0x4F ∧ bitsNat n 0 12 < 0x10)) : csrNum here n = none := by
  refine if_pos ?_
  rw [Bool.or_eq_true]
  rcases h with h | ⟨h8, h15, hany⟩
  · exact .inl (bne_iff_ne.mpr h)
  · right
    simp only [if_neg (Nat.ne_of_lt h15), Bool.and_eq_true, decide_eq_true_eq, Bool.not_eq_true', Bool.and_eq_false_iff,
      decide_eq_false_iff_not]
    omega

/-- R303: what a number names. -/
theorem csrNum_some {here : Nat} {n : Word} (hb : bitsNat n 24 40 = 0) (hh : here < 8)
    (h : bitsNat n 20 4 < 8 ∨ bitsNat n 20 4 = 15
      ∨ 0x40 ≤ bitsNat n 12 8 ∧ bitsNat n 12 8 ≤ 0x4F ∧ bitsNat n 0 12 < 0x10) :
    csrNum here n = some { die := if bitsNat n 20 4 = 15 then here else bitsNat n 20 4, group := bitsNat n 12 8,
                           index := bitsNat n 0 12 } := by
  refine if_neg ?_
  simp only [hb, bne_self_eq_false, Bool.false_or, Bool.and_eq_true, decide_eq_true_eq, Bool.not_eq_true', Bool.and_eq_false_iff,
    decide_eq_false_iff_not]
  split <;> omega

end Sys2Proof.Machine

section
open Sys2Proof Sys2Proof.Machine

/-- Settles O45: the group of a number decides which unit's registers it names, and each unit's registers read back. -/
theorem controlRegisters : Obligations.ControlRegisters := by
  unfold Obligations.ControlRegisters
  refine ⟨fun s f n v => ⟨fun h => ⟨fun w t hr => ?_, fun hr => ?_⟩, fun h => ⟨fun t hw => ?_, fun hw => ?_⟩⟩,
    fun s here n v => ⟨fun x hx => ⟨fun hrw t hw => ?_, fun hro => ?_⟩, fun hn => State.csr_none v hn, ?_⟩⟩
  · rw [exec, execCsrR, withOps_ready (kinds := [false]) _ _ h]
    simp only [w0_scalar, hr]
  · rw [exec, execCsrR, withOps_ready (kinds := [false]) _ _ h]
    simp only [w0_scalar, hr]
  · rw [exec, execCsrW, withOps_ready (kinds := []) _ _ h]
    simp only [w0_scalar, w1_scalar, hw]
  · rw [exec, execCsrW, withOps_ready (kinds := []) _ _ h]
    simp only [w0_scalar, w1_scalar, hw]
  · rcases hrw with ⟨hg, hi⟩ | ⟨h1, h2, hi⟩ | ⟨h1, h2, hi⟩
    · rw [State.csrWrite_die hx v hg] at hw
      exact ⟨t, (State.csrRead_die hx hg).trans (State.readDieReg_written hi hw)⟩
    · rw [State.csrWrite_core hx v h1 h2] at hw
      exact ⟨t, (State.csrRead_core hx h1 h2).trans (congrArg (Option.map _) (State.readCoreReg_written hi hw))⟩
    · rw [State.csrWrite_part hx v h1 h2] at hw
      exact ⟨t, (State.csrRead_part hx h1 h2).trans (State.readPartReg_written hi hw)⟩
  · rcases hro with ⟨hg, hi⟩ | ⟨h1, h2, hi⟩ | hg | ⟨h1, h2, hi⟩
    · exact (State.csrWrite_die hx v hg).trans (State.writeDieReg_readOnly v hi)
    · exact (State.csrWrite_core hx v h1 h2).trans (State.writeCoreReg_readOnly v hi)
    · exact State.csrWrite_patch hx v hg
    · exact (State.csrWrite_part hx v h1 h2).trans (State.writePartReg_readOnly v hi)
  · intro die group index anyDie
    exact ⟨fun h => State.csr_none v (csrNum_none h), fun hb hh h => csrNum_some hb hh h⟩

end
end

section
/-! PROOFS. The units behind the control registers: the trap queue, the event log, shootdowns, key slots, error injection, the
scheduling of partitions and page walks (R259, R261, R299, R311, R315, R316, R357, R369, R377). -/

namespace Sys2Proof.Machine

/-! The service's writes to a partition's memory, and the handler (R354). -/

theorem cacheFrame_writeVirt (root : Nat) (part : Option Nat) (need : Need) : ∀ (bs : List Byte) (s : State) (va : Nat),
    CacheFrame s (s.writeVirt root part need va bs).2
  | [], _, _ => CacheFrame.rfl
  | b :: bs, s, va => by
    unfold State.writeVirt
    split
    · exact CacheFrame.rfl
    · split
      · exact CacheFrame.rfl
      · exact (cacheFrame_store ..).trans (cacheFrame_writeVirt root part need bs _ _)

/-- R89: what the end of its stream makes of a partition, its entries discarded. -/
def Part.endStream (q : Part) : Part :=
  { q with rename := q.committed, wcount := 0, srec := none, srecNew := false,
           sfe := { q.sfe with running := false, wait := .none, handler := none, hmode := none } }

/-- R89: the partition of a stream that has ended. -/
theorem State.part_endStream (s : State) (p : Nat) (w : Word) :
    (s.endStream p w).part p = { s.part p with
      teams := ((s.endStream p w).part p).teams, window := ((s.endStream p w).part p).window, pbs := ((s.endStream p w).part p).pbs,
      rename := (s.part p).committed, wcount := 0, srec := none, srecNew := false,
      sfe := { (s.part p).sfe with running := false, wait := .none, handler := none, hmode := none } } := by
  have hpart : (s.endStream p w).part p = ((s.discardAll p false ((s.part p).live.map (·.1))).part p).endStream := by
    simp only [State.endStream]
    generalize s.discardAll p false ((s.part p).live.map (·.1)) = t
    exact t.part_modPart_self p (fun q => q.endStream)
  have frame := (stopFrame_discardAll s p false ((s.part p).live.map (·.1))).part p
  rw [hpart, frame]
  rfl

theorem State.psched_enterHandler (s : State) (p typ : Nat) (bytes : List Byte) (entry : Option Nat) (kind : Nat) :
    ((s.enterHandler p typ bytes entry kind).part p).psched = (s.part p).psched := by
  unfold State.enterHandler
  split
  · rfl
  · split
    · rw [State.part_endStream]
    · rw [State.part_modPart_self]
      show (((s.writeVirt (s.ptRoot p) (some p) Need.store _ bytes).2).part p).psched = _
      rw [State.part_of_cacheFrame (cacheFrame_writeVirt ..)]

/-! The event log (R315, R316). -/

theorem Part.psched_takeEvent (q : Part) (e : Event) : (q.takeEvent e).psched = q.psched := by
  unfold Part.takeEvent
  split
  · rfl
  · split <;> rfl

theorem State.psched_deliverLog (s : State) (p : Nat) : ((s.deliverLog p).part p).psched = (s.part p).psched := by
  have take : ∀ (t : State) (e : Event), ((t.modPart p (fun q => q.takeEvent e)).part p).psched = (t.part p).psched := fun t e => by
    rw [State.part_modPart_self, Part.psched_takeEvent]
  refine List.foldlRecOn (motive := fun t : State => (t.part p).psched = (s.part p).psched) _ _ ?_ fun t h e _ => ?_
  · rw [State.part_modPart_self]
  · dsimp only
    split
    · split
      · rw [State.psched_enterHandler, State.part_modPart_self]
        exact h
      · exact (take t e).trans h
    · exact (take t e).trans h

/-- The event that arises in a partition. -/
def State.event (s : State) (p typ : Nat) (data : Word) : Event :=
  { typ := typ, data := data, gen := (s.part p).pgen, time := (s.die (hostDie p)).gtc % 2 ^ 40 }

/-- R315: an event of a partition that is not scheduled. -/
theorem State.postEvent_unscheduled {s : State} {p : Nat} (typ : Nat) (data : Word) (h : s.scheduled p = false) :
    s.postEvent p typ data = s.modPart p (fun q =>
      if 256 ≤ q.evlog.length then { q with evdrop := min (q.evdrop + 1) (2 ^ 32 - 1) }
      else { q with evlog := q.evlog ++ [s.event p typ data] }) := by
  simp only [State.postEvent, h, Bool.false_eq_true, if_false]
  rfl

/-! Registers of a die (R144, R261, R369, R377). -/

theorem State.die_xlateEvents (event e d : Nat) : ∀ (l : List Block) (s : State),
    (s.xlateEvents d event l).die e = { s.die e with
      trapq := ((s.xlateEvents d event l).die e).trapq, tqdrop := ((s.xlateEvents d event l).die e).tqdrop }
  | [], _ => rfl
  | b :: l, s => by
    have h := State.die_xlateEvents event e d l (s.xlateEvent d b event)
    rw [State.xlateEvents, List.foldl_cons]
    rw [State.die_xlateEvent s d b event e] at h
    exact h

theorem State.xheap_discardBlocks (s : State) (d : Nat) (p : Block → Bool) : ((s.discardBlocks d p).die d).xheap = (s.die d).xheap := by
  rw [State.discardBlocks, State.die_xlateEvents, State.die_modDie_self]

/-- R144: XHEAP holds what was written. -/
theorem State.xheap_writeXheap {s t : State} {d : Nat} {v : Word} (h : s.writeXheap d v = some t) : (t.die d).xheap = v := by
  obtain ⟨-, h⟩ := Option.ite_none_left_eq_some.mp h
  obtain rfl := Option.some.inj h
  split
  · rw [State.die_modDie_self]
  · rw [State.xheap_discardBlocks, State.die_modDie_self]

theorem State.spin_writeSpin {s t : State} {d : Nat} {v : Word} (h : s.writeSpin d v = some t) : (t.die d).spin = v := by
  obtain ⟨-, h⟩ := Option.ite_none_left_eq_some.mp h
  obtain rfl := Option.some.inj h
  rw [State.die_modDie_self]

/-- A register write that is taken, as a step. -/
theorem regStep_some {s t : State} {r : Option State} (h : r = some t) : regStep s r = .next t := by rw [h]; rfl

/-- BUSY of KEYCTL is set by an operation and cleared by its end. -/
theorem keyBusy_set (v : Word) : keyBusy ((v &&& 0x1FF) ||| (1 <<< 63)) = true := by
  simp [keyBusy]

theorem keyBusy_clear (v : Word) : keyBusy (v &&& 0x1FF) = false := by
  simp [keyBusy]

/-- R369: a key slot after a load or a clear. -/
theorem State.keySlot_setKey (s : State) (k : Nat) (mat : Option (List Byte)) :
    (s.setKey k mat).keySlot k = { loaded := mat.isSome, gen := (s.keyGen k + 1) % 256, mat := mat.getD [] } := by
  simp only [State.setKey]
  split <;> exact tget_tput_self ..

/-- R369: the fields of the word of KEYCTL that an operation is asked for with. -/
theorem keyWord_fields (k : BitVec 7) {op : Nat} (h : op < 4) :
    let v : Word := BitVec.ofNat 64 (k.toNat * 4 + op)
    bitsNat v 0 2 = op ∧ bitsNat v 2 7 = k.toNat ∧ bitsNat v 24 39 = 0 ∧ bitsNat v 9 7 = 0 := by
  intro v
  have hk := k.isLt
  have hv : v.toNat = k.toNat * 4 + op := by
    show (k.toNat * 4 + op) % 2 ^ 64 = _
    omega
  simp only [bitsNat, hv, Nat.shiftRight_eq_div_pow]
  omega

/-- R369: a key slot is loaded or cleared, and the operation is under way. -/
def State.keyOp (s : State) (d k : Nat) (mat : Option (List Byte)) (v : Word) : State :=
  (s.setKey k mat).modDie d (fun x => { x with keyctl := (v &&& 0x1FF) ||| (1 <<< 63) })

theorem State.keyOp_effect (s : State) (d k : Nat) (mat : Option (List Byte)) (v : Word) :
    keyBusy ((s.keyOp d k mat v).die d).keyctl = true ∧ ((s.keyOp d k mat v).keySlot k).loaded = mat.isSome
      ∧ (s.keyOp d k mat v).keyGen k = (s.keyGen k + 1) % 256 := by
  have hslot : (s.keyOp d k mat v).keySlot k = _ := s.keySlot_setKey k mat
  refine ⟨?_, by rw [hslot], by rw [State.keyGen, hslot]⟩
  rw [State.keyOp, State.die_modDie_self]
  exact keyBusy_set v

/-- R369: what KEY_LOAD and KEY_CLEAR write to KEYCTL. -/
theorem State.writeKeyctl_op {s : State} {d : Nat} (k : BitVec 7) (hb : keyBusy (s.die d).keyctl = false) :
    s.writeKeyctl d (BitVec.ofNat 64 (k.toNat * 4 + 1))
        = some (s.keyOp d k.toNat (some (s.physSector (bitsNat (s.die d).keysrc 6 46 * 64))) (BitVec.ofNat 64 (k.toNat * 4 + 1)))
      ∧ s.writeKeyctl d (BitVec.ofNat 64 (k.toNat * 4 + 2)) = some (s.keyOp d k.toNat none (BitVec.ofNat 64 (k.toNat * 4 + 2))) := by
  obtain ⟨h1, h2, h3, h4⟩ := keyWord_fields k (op := 1) (by decide)
  obtain ⟨g1, g2, g3, g4⟩ := keyWord_fields k (op := 2) (by decide)
  constructor
  · simp only [State.writeKeyctl, hb, h1, h2, h3, h4]
    rfl
  · simp only [State.writeKeyctl, hb, g1, g2, g3, g4]
    rfl

/-! Shootdowns (R261). -/

/-- A marker alone in its queue completes: the range is dropped once more. -/
theorem State.settleMark_alone {s : State} {g : Nat} {k : Cmd} {lo n : Word} (hq : (s.core g).cq = [k])
    (ho : k.ops = [.ready (.scalar lo), .ready (.scalar n)]) :
    s.settleMark g k.seq = s.modCore g (fun c =>
      { c.shoot (some (lo.toNat, n.toNat)) with cq := c.cq.filter (fun x => x.seq != k.seq) }) := by
  simp [State.settleMark, hq, ho]

/-! Page walks (R259, R260). -/

theorem State.hbm_pageWalk (s : State) (g va : Nat) : (s.pageWalk g va).hbm = s.hbm := by
  simp only [State.pageWalk]
  split
  · rfl
  · split
    · exact State.keepLeaf_hbm ..
    · rfl

/-- A core that has forgotten an address holds no translation of it. -/
theorem State.forgetLeaf_none (s : State) (g va : Nat) :
    ((s.forgetLeaf g va).core g).tlb.any (fun e => va / 2 ^ e.bits == e.vpn) = false := by
  rw [State.forgetLeaf, State.core_modCore_self, List.any_eq_false]
  intro e he hm
  have := (List.mem_filter.mp he).2
  exact bne_iff_ne.mp this (eq_of_beq hm)

/-- R260: a leaf that passes R259 for a load fills the TLB. -/
theorem State.pageWalk_keeps {s : State} {g va : Nat} {pte : Word} {bits : Nat}
    (hw : (s.forgetLeaf g va).walk ((s.forgetLeaf g va).rootOf g) va = .ok (pte, bits))
    (hp : permCheck pte { Need.load with user := !isSvc g } va = none) :
    ∃ l, l ∈ ((s.pageWalk g va).core g).tlb ∧ l.pte = pte ∧ l.bits = bits ∧ l.vpn = va / 2 ^ bits := by
  have hpass : (permCheck pte { Need.load with user := Need.load.user && !isSvc g } va).isNone = true :=
    Option.isNone_iff_eq_none.mpr hp
  have heq : s.pageWalk g va = (s.forgetLeaf g va).keepLeaf g va pte bits := by
    simp only [State.pageWalk, hw, hpass, Bool.true_or, if_true]
  refine ⟨{ vpn := va / 2 ^ bits, bits := bits, pte := pte }, ?_, rfl, rfl, rfl⟩
  rw [heq, State.keepLeaf, if_neg (ne_true_of_eq_false (s.forgetLeaf_none g va)), State.core_modCore_self]
  exact List.mem_cons_self

/-! Notes (R299, R311). -/

theorem State.part_queueNote (s : State) (d : Nat) (i : TrapInfo) (p : Nat) : (s.queueNote d i).part p = s.part p := by
  rw [State.queueNote]
  split <;> rfl

theorem State.trapq_queueNote {s : State} {d : Nat} (i : TrapInfo) (h : ((s.die d).trapq.filter (·.note)).length < 16) :
    ((s.queueNote d i).die d).trapq = (s.die d).trapq ++ [{ i with note := true }] := by
  rw [State.queueNote, if_neg (Nat.not_le.mpr h), State.svcSignal, State.die_modCore, State.die_modDie_self]

end Sys2Proof.Machine

section
open Sys2Proof Sys2Proof.Machine

/-- Settles O46: each step is the write or the read it stands for, and each of these has its lemma. -/
theorem unitSteps : Obligations.UnitSteps := by
  unfold Obligations.UnitSteps
  refine ⟨fun s => ⟨?_, ?_, ?_, ?_, ?_, ?_, ?_, ?_, ?_, ?_, ?_⟩, fun s p typ w hs => ?_, fun q e he => if_pos he⟩
  · intro d v hd
    refine ⟨fun t ht => ⟨?_, State.xheap_writeXheap ht⟩, fun t ht => ⟨?_, State.spin_writeSpin ht⟩, fun hv t ht => ?_⟩
    · rw [exec, execXheapWrite, if_neg (Nat.not_le.mpr hd), regStep_some ht]
    · rw [exec, execSpinWrite, if_neg (Nat.not_le.mpr hd), regStep_some ht]
    · rw [exec, execShootdown, if_neg (by simp [hv, hd]), regStep_some ht]
  · intro d k hd hb
    obtain ⟨h1, h2⟩ := State.writeKeyctl_op (s := s) (d := d) k hb
    obtain ⟨hb1, hl1, hg1⟩ := s.keyOp_effect d k.toNat (some (s.physSector (bitsNat (s.die d).keysrc 6 46 * 64)))
      (BitVec.ofNat 64 (k.toNat * 4 + 1))
    obtain ⟨hb2, hl2, hg2⟩ := s.keyOp_effect d k.toNat none (BitVec.ofNat 64 (k.toNat * 4 + 2))
    refine ⟨_, _, ?_, ?_, hb1, hb2, hl1, hl2, hg1, hg2⟩
    · rw [exec, execKeyLoad, if_neg (Nat.not_le.mpr hd), regStep_some h1]
    · rw [exec, execKeyClear, if_neg (Nat.not_le.mpr hd), regStep_some h2]
  · intro d hf
    have hd : dieOfAgent s.focus = d := by rw [hf]; rfl
    refine ⟨_, by rw [exec, execKeyOperationEnd, hd], ?_, onlyDie_modDie ..⟩
    rw [State.die_modDie_self]
    exact keyBusy_clear _
  · intro d g seq k lo n hf hl hq hs ho
    subst hs
    have hd : dieOfAgent s.focus = d := by rw [hf]; rfl
    obtain ⟨t, ht⟩ : ∃ t, s.modCore g (fun c =>
        { c.shoot (some (lo.toNat, n.toNat)) with cq := c.cq.filter (fun x => x.seq != k.seq) }) = t := ⟨_, rfl⟩
    have hcore : t.core g = { (s.core g).shoot (some (lo.toNat, n.toNat)) with cq := [] } := by
      rw [← ht, State.core_modCore_self, hq]
      simp
    have hcq : (t.core g).cq = [] := by rw [hcore]
    have hdie : t.die d = s.die d := by rw [← ht]; rfl
    have hexec : exec .shootdownComplete s = .next (t.modDie d (fun x => { x with shootLeft := [], shoot := x.shoot &&& 0x1F })) := by
      rw [exec, execShootdownComplete]
      simp only [hd, hl, List.foldl_cons, List.foldl_nil, State.settleMark_alone hq ho, ht, hdie, List.filter_cons, List.filter_nil,
        hcq, List.any_nil, Bool.false_eq_true, if_false, List.isEmpty_nil, if_true]
    refine ⟨_, hexec, ?_, ?_, hcore⟩
    · rw [State.die_modDie_self]
    · rw [State.die_modDie_self, hdie]
  · intro g v t hg h
    obtain ⟨-, heq⟩ := Option.ite_none_left_eq_some.mp h
    obtain rfl := Option.some.inj heq
    refine ⟨by rw [State.core_modCore_self], fun hv => ?_, fun hv => ?_⟩
    · rw [exec, execErrinjArm, if_neg (by simp [hv, hg]), regStep_some h]
    · rw [exec, execErrinjCancel, if_neg (by rw [hv]; simp [hg]), regStep_some h]
  · intro p v t hp h
    refine ⟨?_, fun hv => ?_, fun hv => ?_⟩
    · obtain ⟨-, heq⟩ := Option.ite_none_left_eq_some.mp h
      obtain rfl := Option.some.inj heq
      split
      · rw [State.psched_deliverLog, State.part_modPart_self]
      · rw [State.part_modPart_self]
    · rw [exec, execPartitionSchedule, if_neg (by simp [hv, hp]), regStep_some h]
    · rw [exec, execPartitionDeschedule, if_neg (by rw [hv]; simp [hp]), regStep_some h]
  · intro p hf hp hs hsl hle hq hn
    have hcond : ((s.part p).psched.getLsbD 0 && bitsNat (s.part p).psched 40 24 != 0 && decide (s.effSlice p ≤ (s.part p).sliceT))
        = true := by simp [hs, hsl, hle]
    have hexec : exec .sliceExpiry s = .next ((s.modPart p (fun q => { q with sliceT := 0 })).queueNote (hostDie p)
        { TrapInfo.zero with part := p }) := by
      have hq' : (s.modPart p (fun q => { q with sliceT := 0 })).sliceQueued p = false := hq
      rw [exec, execSliceExpiry, hf]
      simp only [hcond, hq', if_true, Bool.false_eq_true, if_false]
    refine ⟨_, hexec, ?_, _, State.trapq_queueNote (s := s.modPart p (fun q => { q with sliceT := 0 })) _ hn, rfl, rfl, rfl⟩
    rw [State.part_queueNote, State.part_modPart_self]
  · intro d r rs hf hq
    have hd : dieOfAgent s.focus = d := by rw [hf]; rfl
    refine ⟨s.modDie d (fun x => { x with trapq := rs, tqbuf := r.words.map (BitVec.ofNat 64) }), ?_, onlyDie_modDie .., ?_, ?_⟩
    · rw [exec, execTqpop, hd, State.popTrap, hq]
    · rw [State.die_modDie_self]
    · rw [State.die_modDie_self]
  · intro p e es hf hl
    refine ⟨s.modPart p (fun q => { q with evlog := es, evbuf := wordsOfBytes e.bytes }), ?_, onlyPart_modPart .., ?_, ?_⟩
    · rw [exec, execEvpop, hf]
      simp only [State.popEvent, hl]
    · rw [State.part_modPart_self]
    · rw [State.part_modPart_self]
  · intro p typ w hp h2 h5
    rw [exec, execEventDelivery, if_pos (by simp [hp, h2, h5])]
  · intro g va hg hva
    refine ⟨?_, s.hbm_pageWalk g va.toNat, fun pte bits hw hp => State.pageWalk_keeps hw hp⟩
    rw [exec, execPageWalk]
    exact if_pos (Bool.and_eq_true_iff.mpr ⟨decide_eq_true hg, decide_eq_true hva⟩)
  · refine ⟨s.event p typ w, rfl, rfl, rfl, ?_⟩
    rw [State.postEvent_unscheduled typ w hs]
    refine ⟨onlyPart_modPart .., fun h => ?_, fun h => ?_⟩
    · rw [State.part_modPart_self, if_neg (Nat.not_le.mpr h)]
    · rw [State.part_modPart_self, if_pos h]
      exact ⟨rfl, rfl⟩

end
end

section
/-! PROOFS. The reference clock, boot and admission (R360 to R362, R364, R365). -/

namespace Sys2Proof.Machine

/-! An event to every partition (R315, R361). -/

/-- An event reaches its partition alone. -/
theorem State.part_postEvent_other {s : State} {p q : Nat} (typ : Nat) (w : Word) (h : p ≠ q) :
    (s.postEvent q typ w).part p = s.part p := by
  simp only [State.postEvent]
  split <;> rw [State.part_modPart, if_neg h]

theorem State.postEvent_state (s : State) (p typ : Nat) (w : Word) :
    s.postEvent p typ w = { s with parts := (s.postEvent p typ w).parts } := by
  simp only [State.postEvent]
  split <;> rfl

/-- R315: what an event makes of its partition. -/
theorem State.part_postEvent (s : State) (p typ : Nat) (w : Word) :
    (s.postEvent p typ w).part p = if s.scheduled p then (s.part p).takeEvent (s.event p typ w)
      else if 256 ≤ (s.part p).evlog.length then { s.part p with evdrop := min ((s.part p).evdrop + 1) (2 ^ 32 - 1) }
      else { s.part p with evlog := (s.part p).evlog ++ [s.event p typ w] } := by
  simp only [State.postEvent]
  split
  · rw [State.part_modPart_self]
    rfl
  · rw [State.part_modPart_self]
    rfl

/-- It turns on the partition itself and on the time. -/
theorem State.part_postEvent_congr {s t : State} {p : Nat} (typ : Nat) (w : Word) (hp : t.part p = s.part p)
    (hd : t.die (hostDie p) = s.die (hostDie p)) : (t.postEvent p typ w).part p = (s.postEvent p typ w).part p := by
  simp only [State.part_postEvent, State.scheduled, State.event, hp, hd]
  rfl

theorem State.part_foldl_postEvent (typ : Nat) (w : Word) (p : Nat) : ∀ (l : List Nat) (s : State), l.Nodup →
    (l.foldl (fun s q => s.postEvent q typ w) s).part p = if p ∈ l then (s.postEvent p typ w).part p else s.part p
  | [], _, _ => rfl
  | q :: l, s, hn => by
    obtain ⟨hq, hl⟩ := List.nodup_cons.mp hn
    have hdie : ∀ d, (s.postEvent q typ w).die d = s.die d := fun d => by rw [State.postEvent_state]; rfl
    rw [List.foldl_cons, State.part_foldl_postEvent typ w p l _ hl]
    by_cases hp : p = q
    · subst hp
      simp [hq]
    · rw [State.part_postEvent_congr typ w (State.part_postEvent_other typ w hp) (hdie _), State.part_postEvent_other typ w hp]
      simp [hp]

/-- R361: a change of the reference is told to every partition. -/
theorem State.refEvent_told (s : State) (b : Bool) (w : Word) {p : Nat} (hp : p < 16) :
    ∃ e : Event, e.typ = 4 ∧ e.data = w ∧ e.gen = (s.part p).pgen
      ∧ (s.scheduled p = true → (({ s with holdover := b } : State).refEvent w).part p = (s.part p).takeEvent e)
      ∧ (s.scheduled p = false → (s.part p).evlog.length < 256 →
        ((({ s with holdover := b } : State).refEvent w).part p).evlog = (s.part p).evlog ++ [e]) := by
  refine ⟨s.event p 4 w, rfl, rfl, rfl, fun hs => ?_, fun hs hl => ?_⟩
  · rw [State.refEvent, State.part_foldl_postEvent 4 w p _ _ List.nodup_range, if_pos (List.mem_range.mpr hp), State.part_postEvent]
    exact if_pos hs
  · rw [State.refEvent, State.part_foldl_postEvent 4 w p _ _ List.nodup_range, if_pos (List.mem_range.mpr hp), State.part_postEvent]
    rw [show ({ s with holdover := b } : State).scheduled p = false from hs, if_neg Bool.false_ne_true]
    rw [if_neg (show ¬ 256 ≤ (({ s with holdover := b } : State).part p).evlog.length from Nat.not_le.mpr hl)]
    rfl

theorem State.holdover_refEvent (s : State) (w : Word) : (s.refEvent w).holdover = s.holdover := by
  refine List.foldlRecOn (motive := fun t : State => t.holdover = s.holdover) _ _ rfl fun t h p _ => ?_
  rw [State.postEvent_state]
  exact h

/-! Corrections of a GTC (R362). -/

theorem Die.gtc_le_dueGtc (x : Die) : x.gtc ≤ x.dueGtc ∧ x.dueGtc ≤ x.gtc + 1 := by
  unfold Die.dueGtc
  split <;> omega

/-- R362: what a correction does to the die in focus. -/
inductive Die.Corrected (s : State) (x : Die) : Die → Prop
  | kept : Die.Corrected s x x
  | gained : x.slewAt + 64 ≤ x.gtc → (∀ k < 8, x.gtc + 2 ≤ (s.die k).dueGtc + 16) → (s.holdover = true → x.gtc < (s.die 0).gtc) →
      Die.Corrected s x { x with gtc := x.gtc + 1, slewAt := x.gtc + 1 }
  | held : x.slewAt + 64 ≤ x.gtc → (∀ k < 8, (s.die k).dueGtc ≤ x.gtc + 16) → (s.holdover = true → (s.die 0).gtc < x.gtc) →
      Die.Corrected s x { x with slow := true, slewAt := x.gtc }

theorem execGtcCorrection_corrected {s : State} {d : Nat} (hd : d < 8) (hf : s.focus = .die d) :
    ∃ t, execGtcCorrection s = .next t ∧ (∀ e, e ≠ d → t.die e = s.die e) ∧ Die.Corrected s (s.die d) (t.die d) := by
  have all : ∀ (f : Nat → Bool), (List.range 8).all f = true → ∀ k < 8, f k = true := fun f h k hk =>
    List.all_eq_true.mp h k (List.mem_range.mpr hk)
  have other : ∀ (t : State) (f : Die → Die), (∀ e, t.die e = s.die e) → ∀ e, e ≠ d → (t.modDie d f).die e = s.die e :=
    fun t f ht e he => by rw [State.die_modDie, if_neg he, ht]
  unfold execGtcCorrection
  rw [hf]
  dsimp only
  rw [if_neg (Nat.not_le.mpr hd)]
  obtain ⟨w, t, hft⟩ : ∃ w t, s.freeValue = (w, t) := ⟨_, _, rfl⟩
  rw [hft]
  have ht : ∀ e, t.die e = s.die e := fun e => by
    obtain ⟨-, rfl⟩ := Prod.mk.inj hft
    rfl
  dsimp only
  obtain ⟨gains, hgains⟩ : ∃ b, (if s.holdover = true then decide ((s.die d).gtc < (s.die 0).gtc) else w.getLsbD 0) = b := ⟨_, rfl⟩
  obtain ⟨loses, hloses⟩ : ∃ b, (if s.holdover = true then decide ((s.die 0).gtc < (s.die d).gtc) else w.getLsbD 1) = b := ⟨_, rfl⟩
  rw [hgains, hloses]
  split
  case isTrue => exact ⟨t, rfl, fun e _ => ht e, by rw [ht]; exact .kept⟩
  case isFalse hslow =>
    have hslew : (s.die d).slewAt + 64 ≤ (s.die d).gtc := by
      by_contra h
      exact hslow (Bool.or_eq_true_iff.mpr (.inr (decide_eq_true (Nat.not_le.mp h))))
    split
    case isTrue h =>
      obtain ⟨hg, hall⟩ := Bool.and_eq_true_iff.mp h
      refine ⟨_, rfl, other t _ ht, ?_⟩
      rw [State.die_modDie_self, ht]
      refine .gained hslew (fun k hk => of_decide_eq_true (all _ hall k hk)) fun hh => ?_
      rw [hg, if_pos hh] at hgains
      exact of_decide_eq_true hgains
    case isFalse =>
      split
      case isTrue h =>
        obtain ⟨hl, hall⟩ := Bool.and_eq_true_iff.mp h
        obtain ⟨-, hl⟩ := Bool.and_eq_true_iff.mp hl
        refine ⟨_, rfl, other t _ ht, ?_⟩
        rw [State.die_modDie_self, ht]
        refine .held hslew (fun k hk => of_decide_eq_true (all _ hall k hk)) fun hh => ?_
        rw [hl, if_pos hh] at hloses
        exact of_decide_eq_true hloses
      case isFalse => exact ⟨t, rfl, fun e _ => ht e, by rw [ht]; exact .kept⟩

/-! The boot of a die (R364). -/

theorem State.die_extend (s : State) (d n : Nat) (dg : BitVec 256) :
    (s.extend d n dg).die d = { s.die d with
      meas := tput 0 (s.die d).meas n (Config.sha3 (digestBytes (tget 0 (s.die d).meas n) ++ digestBytes dg)) } := by
  rw [State.extend, State.die_modDie_self]

theorem State.die_setKey (s : State) (k : Nat) (mat : Option (List Byte)) (e : Nat) : (s.setKey k mat).die e = s.die e := by
  simp only [State.setKey]
  split <;> rfl

theorem State.die_loadK0 (s : State) (e : Nat) : s.loadK0.die e = s.die e := by
  unfold State.loadK0
  split
  · rfl
  · exact State.die_setKey ..

/-- R364: a die as its boot begins. -/
def State.bootBegin (s : State) (d : Nat) (b : BootInfo) : State :=
  s.modDie d (fun x =>
    { Die.reset with booted := true, svcCore := lowestPass b.passed, gtc := x.gtc, slewAt := x.slewAt, slow := x.slow })

/-- R364: what a die measures into its registers before its image runs. -/
def State.bootMeasured (s : State) (d : Nat) (b : BootInfo) : State :=
  ((((s.bootBegin d b).extend d 0 ((s.bootBegin d b).romDigest d b)).extend d 1 b.imageDigest).extend d 2 b.configDigest)

/-- R364, R365: the boot of a die whose cores pass and whose image verifies. -/
theorem execColdReset_boots {s : State} {d : Nat} {b : BootInfo} (hd : d < 8) (hb : (s.die d).booted = false) (hp : allPass b = true)
    (hs : signedOk b = true) :
    execColdReset d b s = .next (if d = 0 then
      (((s.bootMeasured d b).loadK0).modDie d (fun x => { x with admitted := d == 0 })).trainPort 0 400
      else ((s.bootMeasured d b).loadK0).modDie d (fun x => { x with admitted := d == 0 })) := by
  simp only [execColdReset, if_neg (Nat.not_le.mpr hd), hb, hp, hs, Bool.false_eq_true, if_false, Bool.not_true]
  rfl

/-- The state of a die that stays in ROM. -/
theorem State.stayInRom_die (s : State) (d : Nat) (b : BootInfo) :
    ((s.stayInRom d b).die d).romOnly = true ∧ ((s.stayInRom d b).die d).admitted = (s.die d).admitted
      ∧ ((s.stayInRom d b).die d).booted = (s.die d).booted ∧ ((s.stayInRom d b).die d).gtc = (s.die d).gtc
      ∧ (s.stayInRom d b).board = s.board ++ [((s.stayInRom d b).die d).report] := by
  have hdie : (s.stayInRom d b).die d = { s.die d with
      romOnly := true, report := BitVec.ofNat 8 d :: natToBytes 3 b.passed.toNat } :=
    s.die_modDie_self d (fun x => { x with romOnly := true, report := BitVec.ofNat 8 d :: natToBytes 3 b.passed.toNat })
  rw [hdie]
  exact ⟨rfl, rfl, rfl, rfl, rfl⟩

/-- R364: the boot of a die that fails a check. -/
theorem execColdReset_fails {s : State} {d : Nat} {b : BootInfo} (hd : d < 8) (hb : (s.die d).booted = false)
    (h : allPass b = false ∨ signedOk b = false) :
    ∃ t : State, execColdReset d b s = .next (t.stayInRom d b) ∧ (t.die d).booted = true ∧ (t.die d).gtc = (s.die d).gtc
      ∧ (t.die d).admitted = false ∧ t.board = s.board := by
  have hbegin : (s.bootBegin d b).die d = { Die.reset with
      booted := true, svcCore := lowestPass b.passed, gtc := (s.die d).gtc, slewAt := (s.die d).slewAt, slow := (s.die d).slow } :=
    s.die_modDie_self d _
  cases hp : allPass b with
  | false =>
    refine ⟨s.bootBegin d b, ?_, ?_⟩
    · simp only [execColdReset, if_neg (Nat.not_le.mpr hd), hb, hp, Bool.false_eq_true, if_false, Bool.not_false, if_true]
      rfl
    · rw [hbegin]
      exact ⟨rfl, rfl, rfl, rfl⟩
  | true =>
    have hs : signedOk b = false := h.resolve_left (by rw [hp]; decide)
    refine ⟨(s.bootBegin d b).extend d 0 ((s.bootBegin d b).romDigest d b), ?_, ?_⟩
    · simp only [execColdReset, if_neg (Nat.not_le.mpr hd), hb, hp, hs, Bool.false_eq_true, if_false, Bool.not_true, Bool.not_false,
        if_true]
      rfl
    · rw [State.die_extend, hbegin]
      exact ⟨rfl, rfl, rfl, rfl⟩

/-- R364: a die once its registers are measured. -/
theorem State.die_bootMeasured (s : State) (d : Nat) (b : BootInfo) :
    ((s.bootMeasured d b).die d).booted = true ∧ ((s.bootMeasured d b).die d).gtc = (s.die d).gtc
      ∧ ((s.bootMeasured d b).die d).romOnly = false ∧ ((s.bootMeasured d b).die d).svcCore = lowestPass b.passed
      ∧ tget 0 ((s.bootMeasured d b).die d).meas 0
        = Config.sha3 (digestBytes 0 ++ digestBytes (Config.sha3 (partNo ++ natToBytes 2 0x00A0 ++ b.rom)))
      ∧ tget 0 ((s.bootMeasured d b).die d).meas 1 = Config.sha3 (digestBytes 0 ++ digestBytes b.imageDigest)
      ∧ tget 0 ((s.bootMeasured d b).die d).meas 2 = Config.sha3 (digestBytes 0 ++ digestBytes b.configDigest)
      ∧ ∀ n, 3 ≤ n → tget 0 ((s.bootMeasured d b).die d).meas n = 0 := by
  have hbegin : (s.bootBegin d b).die d = { Die.reset with
      booted := true, svcCore := lowestPass b.passed, gtc := (s.die d).gtc, slewAt := (s.die d).slewAt, slow := (s.die d).slow } :=
    s.die_modDie_self d _
  have hrom : (s.bootBegin d b).romDigest d b = Config.sha3 (partNo ++ natToBytes 2 0x00A0 ++ b.rom) := by
    rw [State.romDigest, hbegin]
    rfl
  have hmeas : tget 0 ((s.bootBegin d b).die d).meas = fun _ => 0 := by rw [hbegin]; rfl
  have hdie : (s.bootMeasured d b).die d = { (s.bootBegin d b).die d with meas := ((s.bootMeasured d b).die d).meas } := by
    simp only [State.bootMeasured, State.die_extend]
  have hm : ((s.bootMeasured d b).die d).meas = tput 0 (tput 0 (tput 0 ((s.bootBegin d b).die d).meas 0
      (Config.sha3 (digestBytes 0 ++ digestBytes (Config.sha3 (partNo ++ natToBytes 2 0x00A0 ++ b.rom)))))
      1 (Config.sha3 (digestBytes 0 ++ digestBytes b.imageDigest)))
      2 (Config.sha3 (digestBytes 0 ++ digestBytes b.configDigest)) := by
    simp only [State.bootMeasured, State.die_extend, hrom, tget_tput, hmeas]
    rfl
  rw [hm, hdie, hbegin]
  refine ⟨rfl, rfl, rfl, rfl, ?_, ?_, ?_, fun n hn => ?_⟩
  case refine_1 => simp [tget_tput]
  case refine_2 => simp [tget_tput]
  case refine_3 => simp
  rw [hbegin] at hmeas
  have hmeas : tget 0 (Die.reset).meas n = 0 := congrFun hmeas n
  simp only [tget_tput]
  have h0 : n ≠ 0 := by omega
  have h1 : n ≠ 1 := by omega
  have h2 : n ≠ 2 := by omega
  simp only [if_neg h0, if_neg h1, if_neg h2, hmeas]

/-! Ports (R365). -/

theorem State.rate_trainPort (s : State) (n rate m : Nat) :
    (tget UePort.reset (s.trainPort n rate).ports m).rate = if m = n then rate else (tget UePort.reset s.ports m).rate := by
  simp only [State.trainPort, tget_tput]
  split <;> rfl

/-- R365: every port of a list trains. -/
theorem State.trainPorts (rate : Nat) : ∀ (l : List Nat) (s : State),
    l.foldl (fun s n => s.trainPort n rate) s = { s with ports := (l.foldl (fun s n => s.trainPort n rate) s).ports }
      ∧ ∀ m, (tget UePort.reset (l.foldl (fun s n => s.trainPort n rate) s).ports m).rate
        = if m ∈ l then rate else (tget UePort.reset s.ports m).rate
  | [], _ => ⟨rfl, fun _ => rfl⟩
  | n :: l, s => by
    obtain ⟨hs, hr⟩ := State.trainPorts rate l (s.trainPort n rate)
    rw [List.foldl_cons]
    refine ⟨hs, fun m => ?_⟩
    rw [hr, State.rate_trainPort]
    by_cases hm : m = n <;> simp [hm]

end Sys2Proof.Machine

section
open Sys2Proof Sys2Proof.Machine

/-- Settles O55: an event of the reference reaches each partition once; a correction is kept, gained or held; the boot is followed
check by check. -/
theorem clocksAndBoot : Obligations.ClocksAndBoot := by
  unfold Obligations.ClocksAndBoot
  refine ⟨fun s => ?_, ?_, ?_, ?_, ?_⟩
  · intro told
    refine ⟨fun h => ⟨({ s with holdover := true } : State).refEvent 1, ?_, State.holdover_refEvent .., fun p hp =>
        s.refEvent_told true 1 hp⟩, fun h => ⟨({ s with holdover := false } : State).refEvent 0, ?_, State.holdover_refEvent ..,
        fun p hp => s.refEvent_told false 0 hp⟩, fun d hd hf => ?_, rfl⟩
    · rw [exec, execRefclkLoss, h]
      rfl
    · rw [exec, execRefclkReturn, h]
      rfl
    · obtain ⟨t, ht, hother, hc⟩ := execGtcCorrection_corrected hd hf
      refine ⟨t, ht, hother, ?_⟩
      have due := fun k => (s.die k).gtc_le_dueGtc
      generalize t.die d = y at hc
      cases hc with
      | kept => exact ⟨.inl rfl, .inl rfl, fun _ => ⟨fun h => absurd rfl h, fun h => absurd rfl h⟩⟩
      | gained hslew hall hh =>
        refine ⟨.inr ⟨rfl, hslew, fun k hk => ?_⟩, .inl rfl, fun h => ⟨fun _ => hh h, fun h => absurd rfl h⟩⟩
        have := hall k hk
        have := due k
        show (s.die d).gtc + 1 ≤ _
        omega
      | held hslew hall hh =>
        refine ⟨.inl rfl, .inr ⟨rfl, hslew, fun k hk => ?_⟩, fun h => ⟨fun h => absurd rfl h, fun _ => hh h⟩⟩
        have := hall k hk
        have := due k
        omega
  · intro s d b hd hb
    by_cases hgood : allPass b = true ∧ signedOk b = true
    · obtain ⟨hp, hs⟩ := hgood
      have hpassed : b.passed = BitVec.allOnes 17 := eq_of_beq hp
      obtain ⟨h1, h2, h3, h4, h5, h6, h7, h8⟩ := s.die_bootMeasured d b
      obtain ⟨u, hu⟩ : ∃ u, ((s.bootMeasured d b).loadK0).modDie d (fun x => { x with admitted := d == 0 }) = u := ⟨_, rfl⟩
      have hdie : u.die d = { (s.bootMeasured d b).die d with admitted := d == 0 } := by
        rw [← hu, State.die_modDie_self, State.die_loadK0]
      have hexec := execColdReset_boots hd hb hp hs
      rw [hu] at hexec
      obtain ⟨t, ht⟩ : ∃ t, (if d = 0 then u.trainPort 0 400 else u) = t := ⟨_, rfl⟩
      have htdie : t.die d = u.die d := by
        rw [← ht]
        split <;> rfl
      refine ⟨t, by rw [exec, hexec, ht], ?_⟩
      rw [htdie, hdie]
      refine ⟨h1, h2, fun _ _ => ⟨h3, rfl, ?_, h5, h6, h7, h8, fun hz => ?_⟩, fun h => ?_⟩
      · refine h4.trans ?_
        rw [hpassed]
        decide
      · rw [← ht, if_pos hz, State.rate_trainPort, if_pos rfl]
      · rcases h with h | h
        · exact absurd hpassed h
        · exact absurd (h.symm.trans hs) Bool.false_ne_true
    · have hbad : allPass b = false ∨ signedOk b = false := by
        cases hp : allPass b
        · exact .inl rfl
        · cases hs : signedOk b
          · exact .inr rfl
          · exact absurd ⟨hp, hs⟩ hgood
      obtain ⟨t, ht, hbt, hg, ha, hboard⟩ := execColdReset_fails hd hb hbad
      obtain ⟨h1, h2, h3, h4, h5⟩ := t.stayInRom_die d b
      refine ⟨t.stayInRom d b, by rw [exec, ht], h3.trans hbt, h4.trans hg, fun hp hs => ?_, fun _ =>
        ⟨h1, h2.trans ha, h5.trans (by rw [hboard])⟩⟩
      exact absurd ⟨beq_iff_eq.mpr hp, hs⟩ hgood
  · intro s d hf hd hb hr hw hk
    have hall : (List.range d).all (fun k => (s.die k).admitted || (k != 0 && (s.die k).romOnly)) = true := by
      refine List.all_eq_true.mpr fun k hkm => ?_
      rcases hk k (List.mem_range.mp hkm) with h | ⟨h0, h⟩ <;> simp [*]
    rw [exec, execDieAdmission, hf]
    refine if_pos ?_
    rw [hall, hb, hr, hw]
    simp [hd]
  · intro s d hf hd ha
    rw [exec, execDieAdmission, hf]
    refine if_neg fun h => ?_
    have := List.all_eq_true.mp (Bool.and_eq_true_iff.mp h).2 0 (List.mem_range.mpr hd)
    simp [ha] at this
  · intro s
    obtain ⟨hs, hr⟩ := State.trainPorts 1600 (List.range 16) { s with reduced := false }
    refine ⟨_, by rw [exec, execCalibrationEnd], hs, fun n hn => ?_⟩
    rw [hr, if_pos (List.mem_range.mpr hn)]

end
end
section
/-! PROOFS. The warm reset of one die (R351, R352). -/

namespace Sys2Proof.Machine

/-! The write-back (R351). -/

/-- A sector as it is once its dirty bytes are written back. -/
def CSec.clean (x : CSec) : CSec := { x with dirty := 0 }

theorem CSec.clean_of_dirty_zero {x : CSec} (h : x.dirty = 0) : x.clean = x := by
  rw [CSec.clean, ← h]

theorem CSec.map_clean_clean (o : Option CSec) : (o.map CSec.clean).map CSec.clean = o.map CSec.clean := by
  cases o <;> rfl

theorem State.cached_l2_hbmWrite (s : State) (sec : Nat) (mask : BitVec 128) (data : BitVec 512) (poison : BitVec 8) (e : BitVec 6)
    (key gen k : Nat) : (s.hbmWrite sec mask data poison e key gen).cached .l2 k = s.cached .l2 k := by
  unfold State.hbmWrite
  split <;> rfl

/-- R256: an L2 that writes a sector back holds it clean, and every other sector as before. -/
theorem State.cached_writeBack_l2 (s : State) (k sec : Nat) :
    (s.writeBack .l2 k).cached .l2 sec = if sec = k then (s.cached .l2 sec).map CSec.clean else s.cached .l2 sec := by
  cases hx : s.cached .l2 k with
  | none =>
    simp only [State.writeBack, hx]
    split
    case isTrue h => rw [h, hx]; rfl
    case isFalse => rfl
  | some x =>
    by_cases hd : x.dirty = 0
    · simp only [State.writeBack, hx, hd, if_true]
      split
      case isTrue h => rw [h, hx, Option.map_some, CSec.clean_of_dirty_zero hd]
      case isFalse => rfl
    · have hback : s.writeBack .l2 k
          = (s.setCached .l2 k (some x.clean)).hbmWrite k x.dirty x.data x.poison x.ecode x.key x.gen := by
        simp only [State.writeBack, hx, hd, if_false, State.stays, Bool.false_eq_true, State.pushDown, nextStore]
        rfl
      rw [hback, State.cached_l2_hbmWrite, State.cached_setCached]
      split
      case isTrue h => rw [h, hx]; rfl
      case isFalse => rfl

theorem State.cached_foldl_writeBack_l2 (sec : Nat) : ∀ (l : List Nat) (s : State),
    (l.foldl (fun s k => s.writeBack .l2 k) s).cached .l2 sec
      = if sec ∈ l then (s.cached .l2 sec).map CSec.clean else s.cached .l2 sec
  | [], _ => rfl
  | k :: l, s => by
    rw [List.foldl_cons, State.cached_foldl_writeBack_l2 sec l, State.cached_writeBack_l2]
    by_cases hk : sec = k
    · subst k
      by_cases hl : sec ∈ l <;> simp [hl, CSec.map_clean_clean, -Option.map_map]
    · by_cases hl : sec ∈ l <;> simp [hk, hl]

/-- A sector of an L2 is one of those it lists. -/
theorem State.mem_cachedSecs_l2 {s : State} {sec : Nat} {x : CSec} (h : s.cached .l2 sec = some x) : sec ∈ s.cachedSecs .l2 := by
  change tget none s.l2 sec = some x at h
  change sec ∈ s.l2.map (·.1)
  generalize s.l2 = l at h
  induction l with
  | nil => exact absurd h (by simp [tget])
  | cons a l ih =>
    obtain ⟨j, w⟩ := a
    rw [tget] at h
    split at h
    case isTrue he => exact he ▸ List.mem_cons_self
    case isFalse => exact List.mem_cons_of_mem _ (ih h)

/-- The other dies' RDCs write back what is homed on a die. -/
def State.warmRdcs (s : State) (d : Nat) : State :=
  ((List.range 8).filter (· != d)).foldl (fun s k =>
    ((s.cachedSecs (.rdc k)).filter (fun x => ((s.cached (.rdc k) x).map (·.home)) == some d)).foldl
      (fun s x => s.writeBack (.rdc k) x) s) s

theorem State.warmWriteBack_eq (s : State) (d : Nat) :
    s.warmWriteBack d = (((s.warmRdcs d).cachedSecs .l2).filter
      (fun x => (((s.warmRdcs d).cached .l2 x).map (·.home)) == some d)).foldl (fun s x => s.writeBack .l2 x) (s.warmRdcs d) := by
  simp only [State.warmWriteBack, State.warmRdcs]

/-- R351: after the write-back the L2 holds nothing dirty that is homed on the die. -/
theorem State.clean_warmWriteBack {s : State} {d sec : Nat} {x : CSec} (h : (s.warmWriteBack d).cached .l2 sec = some x)
    (hh : x.home = d) : x.dirty = 0 := by
  rw [State.warmWriteBack_eq, State.cached_foldl_writeBack_l2] at h
  split at h
  case isTrue =>
    obtain ⟨y, -, rfl⟩ := Option.map_eq_some_iff.mp h
    rfl
  case isFalse hn =>
    refine absurd (List.mem_filter.mpr ⟨State.mem_cachedSecs_l2 h, ?_⟩) hn
    simp [h, hh]

theorem cacheFrame_writeBacks (c : CacheId) (l : List Nat) (s : State) : CacheFrame s (l.foldl (fun s x => s.writeBack c x) s) :=
  CacheFrame.foldl _ (fun s x => cacheFrame_writeBack s c x) _ _

theorem cacheFrame_warmWriteBack (s : State) (d : Nat) : CacheFrame s (s.warmWriteBack d) := by
  rw [State.warmWriteBack_eq]
  exact (CacheFrame.foldl _ (fun s k => cacheFrame_writeBacks ..) _ _).trans (cacheFrame_writeBacks ..)

theorem cacheFrame_warmPushOut (s : State) (d : Nat) : CacheFrame s (s.warmPushOut d) := by
  simp only [State.warmPushOut]
  exact (CacheFrame.foldl _ (fun s k => cacheFrame_writeBacks ..) _ _).trans (cacheFrame_writeBacks ..)

/-! The logic reset (R352). -/

/-- What the phases of a logic reset keep of the machine: a killed context is killed, and of dies only gangs, ready queues, RDC
and trap queues change. -/
structure ResetFrame (s t : State) : Prop where
  killed : ∀ g, (s.core g).cstate = .killed → (t.core g).cstate = .killed
  die : ∀ e, t.die e = { s.die e with gangs := (t.die e).gangs, ready := (t.die e).ready, rdc := (t.die e).rdc,
                                      trapq := (t.die e).trapq }
  keys : t.keys = s.keys

theorem ResetFrame.rfl {s : State} : ResetFrame s s := ⟨fun _ => id, fun _ => Eq.refl _, Eq.refl _⟩

theorem ResetFrame.trans {s t u : State} (h : ResetFrame s t) (k : ResetFrame t u) : ResetFrame s u where
  killed g e := k.killed g (h.killed g e)
  die e := by
    have := k.die e
    rw [h.die e] at this
    exact this
  keys := k.keys.trans h.keys

theorem ResetFrame.foldl {α : Type} (f : State → α → State) (h : ∀ s x, ResetFrame s (f s x)) :
    ∀ (l : List α) (s : State), ResetFrame s (l.foldl f s)
  | [], _ => .rfl
  | x :: xs, s => (h s x).trans (ResetFrame.foldl f h xs (f s x))

theorem resetFrame_of_stopFrame {s t : State} (h : StopFrame s t) : ResetFrame s t where
  killed g e := (h.core g).cstate.elim (fun k => k.trans e) id
  die := h.die
  keys := by
    have := h.state
    rw [this]

theorem resetFrame_of_cacheFrame {s t : State} (h : CacheFrame s t) : ResetFrame s t :=
  resetFrame_of_stopFrame (stopFrame_of_cacheFrame h)

/-- An operation on a core that leaves a killed context killed. -/
theorem ResetFrame.modCore {s : State} {g : Nat} {f : Core → Core}
    (h : (s.core g).cstate = .killed → (f (s.core g)).cstate = .killed) : ResetFrame s (s.modCore g f) where
  killed x e := by
    rw [State.core_modCore]
    split
    · subst x
      exact h e
    · exact e
  die _ := Eq.refl _
  keys := Eq.refl _

theorem resetFrame_taskTrapped (s : State) (g : Nat) (i : TrapInfo) : ResetFrame s (s.taskTrapped g i) := by
  rw [State.taskTrapped, State.modTaskEntry_state]
  exact ⟨fun _ => id, fun _ => Eq.refl _, Eq.refl _⟩

theorem resetFrame_killCore (s : State) (g : Nat) : ResetFrame s (s.killCore g) := by
  rw [State.killCore_eq]
  exact ((resetFrame_taskTrapped ..).trans (resetFrame_of_stopFrame (stopFrame_leaveTeam ..))).trans (.modCore fun _ => rfl)

/-- R302: a kill changes neither state nor a loaded context of another core. -/
theorem State.core_killCore_other {s : State} {g h : Nat} (hne : h ≠ g) :
    ((s.killCore g).core h).cstate = (s.core h).cstate ∧ ((s.killCore g).core h).loaded = (s.core h).loaded := by
  have hgang : ((s.taskTrapped g (s.killInfo g)).dissolveGang g).core h = _ :=
    (State.gangFrame_dissolveGang (s.taskTrapped g (s.killInfo g)) g).core h
  have hcore : (s.taskTrapped g (s.killInfo g)).core h = s.core h := by
    rw [State.taskTrapped, State.modTaskEntry_state]
    rfl
  rw [State.killCore_eq, State.core_modCore, if_neg hne]
  simp only [State.leaveTeam, State.core_modCore, State.core_modPart, if_neg hne]
  rw [hgang, hcore]
  exact ⟨rfl, rfl⟩

/-- The core of a reset core (R352). -/
def Core.afterReset (c : Core) : Core :=
  { Core.reset with
    cstate := if c.cstate == .killed then .killed else .idle, part := c.part, serials := c.serials, seq := c.seq }

theorem State.resetCore_eq (s : State) (g : Nat) :
    s.resetCore g = ((if (s.core g).hasContext then s.killCore g else s).setSector g Sector.reset).modCore g Core.afterReset := rfl

theorem Core.cstate_afterReset {c : Core} (h : c.cstate = .killed) : c.afterReset.cstate = .killed := by
  simp [Core.afterReset, h]

theorem resetFrame_resetCore (s : State) (g : Nat) : ResetFrame s (s.resetCore g) := by
  rw [State.resetCore_eq]
  have hkill : ResetFrame s (if (s.core g).hasContext then s.killCore g else s) := by
    split
    · exact resetFrame_killCore s g
    · exact .rfl
  refine (hkill.trans ?_).trans (.modCore Core.cstate_afterReset)
  exact ⟨fun _ => id, fun _ => rfl, rfl⟩

/-- A context that is to be killed by the reset of its die, or has been. -/
def Core.Doomed (c : Core) : Prop := c.hasContext = true ∨ c.cstate = .killed

theorem State.resetCore_killed {s : State} {g : Nat} (h : (s.core g).Doomed) : ((s.resetCore g).core g).cstate = .killed := by
  rw [State.resetCore_eq, State.core_modCore_self]
  refine Core.cstate_afterReset ?_
  rw [State.core_setSector]
  split
  case isTrue => exact (State.core_killCore s g).1
  case isFalse hc => exact h.resolve_left hc

theorem State.resetCore_doomed {s : State} {g h : Nat} (hne : h ≠ g) (hd : (s.core h).Doomed) : ((s.resetCore g).core h).Doomed := by
  have hcore : (s.resetCore g).core h = (if (s.core g).hasContext then s.killCore g else s).core h := by
    rw [State.resetCore_eq, State.core_modCore, if_neg hne, State.core_setSector]
  rw [hcore]
  split
  · obtain ⟨hs, hl⟩ := State.core_killCore_other (s := s) hne
    rw [Core.Doomed, Core.hasContext, hs, hl]
    exact hd
  · exact hd

/-- R352: every context of the cores of a list is killed. -/
theorem State.foldl_resetCore_killed {g : Nat} : ∀ (l : List Nat) (s : State), g ∈ l → (s.core g).Doomed →
    ((l.foldl (fun s g => s.resetCore g) s).core g).cstate = .killed
  | k :: l, s, hm, hd => by
    rw [List.foldl_cons]
    by_cases hk : g = k
    · subst k
      exact (ResetFrame.foldl _ resetFrame_resetCore l _).killed g (State.resetCore_killed hd)
    · exact State.foldl_resetCore_killed l _ (List.mem_of_ne_of_mem hk hm) (State.resetCore_doomed hk hd)

theorem resetFrame_resetDone (s : State) (p : Nat) : ResetFrame s (s.resetDone p) := by
  have frame := resetFrame_of_cacheFrame (cacheFrame_releaseRuns s (List.range 128) 3 everySector)
  rw [State.resetDone]
  refine frame.trans ?_
  generalize s.releaseRuns (List.range 128) 3 everySector = t
  exact ⟨fun _ => id, fun _ => rfl, rfl⟩

theorem resetFrame_resetStream (s : State) (p : Nat) : ResetFrame s (s.resetStream p) := by
  rw [State.resetStream_eq]
  refine (resetFrame_of_stopFrame (stopFrame_resetWork s p)).trans ?_
  generalize s.resetWork p = t
  exact ⟨fun _ => id, fun _ => rfl, rfl⟩

theorem resetFrame_resetStreams (l : List Nat) (s : State) :
    ResetFrame s (l.foldl (fun s p => (s.resetStream p).resetDone p) s) :=
  ResetFrame.foldl _ (fun s p => (resetFrame_resetStream s p).trans (resetFrame_resetDone _ p)) _ _

/-- The machine before the contexts of a die are killed: what its caches hold for other dies is out. -/
def State.pushedOut (s : State) (d : Nat) : State := { s.warmPushOut d with warmParts := s.partsOn d }

theorem State.pushedOut_frame (s : State) (d : Nat) : ResetFrame s (s.pushedOut d)
    ∧ ∀ g, ((s.pushedOut d).core g).hasContext = (s.core g).hasContext := by
  have hpush := cacheFrame_warmPushOut s d
  unfold State.pushedOut
  generalize s.warmPushOut d = t at hpush
  refine ⟨(resetFrame_of_cacheFrame hpush).trans ⟨fun _ => id, fun _ => rfl, rfl⟩, fun g => ?_⟩
  have hcore : ({ t with warmParts := s.partsOn d } : State).core g = _ := hpush.core g
  rw [hcore]
  rfl

/-- The user cores of a die. -/
def userCores (d : Nat) : List Nat := (List.range 16).map (d * 16 + ·)

theorem mem_userCores {g d : Nat} (hg : g < 128) (hd : dieOf g = d) : g ∈ userCores d := by
  rw [dieOf, if_pos hg] at hd
  exact List.mem_map.mpr ⟨g % 16, List.mem_range.mpr (Nat.mod_lt _ (by decide)), by omega⟩

/-- The machine once the contexts of a die are killed, and the streams hosted there reset. -/
def State.contextsReset (s : State) (d : Nat) : State :=
  [d, d + 8].foldl (fun s p => (s.resetStream p).resetDone p)
    ((userCores d).foldl (fun s g => s.resetCore g) (s.pushedOut d))

theorem State.contextsReset_frame (s : State) (d : Nat) : ResetFrame s (s.contextsReset d)
    ∧ ∀ g, g < 128 → dieOf g = d → (s.core g).hasContext = true → ((s.contextsReset d).core g).cstate = .killed := by
  obtain ⟨hframe, hcontext⟩ := s.pushedOut_frame d
  have hcores := ResetFrame.foldl _ resetFrame_resetCore (userCores d) (s.pushedOut d)
  have hkilled := fun g hg => State.foldl_resetCore_killed (g := g) (userCores d) (s.pushedOut d) hg
  unfold State.contextsReset
  generalize (userCores d).foldl (fun s g => s.resetCore g) (s.pushedOut d) = t at hcores hkilled
  have hstreams := resetFrame_resetStreams [d, d + 8] t
  exact ⟨(hframe.trans hcores).trans hstreams, fun g hg hd hc =>
    hstreams.killed g (hkilled g (mem_userCores hg hd) (.inl ((hcontext g).trans hc)))⟩

/-- A die whose logic has been reset (R352). -/
def Die.afterReset (x : Die) : Die :=
  { Die.reset with
    gtc := x.gtc, slewAt := x.slewAt, slow := x.slow, meas := x.meas, stepping := x.stepping, layout := x.layout, booted := true,
    patchSeq := x.patchSeq, replay := x.replay, repfail := x.repfail, sramce := x.sramce, uciefail := x.uciefail,
    sramue := x.sramue, uciertry := x.uciertry, ready := x.ready, holdStop := true }

/-- The L2 of a die and its service core after the reset. -/
def State.l2Reset (s : State) (d : Nat) : State :=
  { s.modCore (svcOf d) (fun c => { Core.reset with serials := c.serials, seq := c.seq }) with
    l2 := s.l2.filter (fun x => (x.2.map (·.home)) != some d), l2sets := s.l2sets.filter (fun x => x.1 / (16 * 2048) != d) }

theorem State.core_l2Reset {s : State} {d g : Nat} (h : g ≠ svcOf d) : (s.l2Reset d).core g = s.core g :=
  (s.core_modCore (svcOf d) (fun c => { Core.reset with serials := c.serials, seq := c.seq }) g).trans (if_neg h)

/-- What the logic reset of a die leaves. -/
structure LogicReset (s t : State) (d : Nat) : Prop where
  warm : t.warm = some (d, 3)
  killed : ∀ g, g < 128 → dieOf g = d → (s.core g).hasContext = true → (t.core g).cstate = .killed
  die : ∃ gangs ready rdc trapq,
    t.die d = ({ s.die d with gangs := gangs, ready := ready, rdc := rdc, trapq := trapq } : Die).afterReset
  keys : t.keys = s.keys

/-- R352: the logic reset of a die. -/
theorem State.logicReset_reset (s : State) (d : Nat) : LogicReset s (s.logicReset d) d := by
  have heq : s.logicReset d
      = (({ (s.contextsReset d).warmWriteBack d with warm := some (d, 3) } : State).l2Reset d).modDie d Die.afterReset := by
    simp only [State.logicReset, State.contextsReset, userCores, State.pushedOut, State.l2Reset]
    rfl
  obtain ⟨hframe, hkilled⟩ := s.contextsReset_frame d
  have hback := resetFrame_of_cacheFrame (cacheFrame_warmWriteBack (s.contextsReset d) d)
  have hall := hframe.trans hback
  rw [heq]
  generalize (s.contextsReset d).warmWriteBack d = t at hback hall
  refine ⟨rfl, fun g hg hd hc => ?_, ?_, hall.keys⟩
  · have hne : g ≠ svcOf d := by rw [svcOf]; omega
    have hcore : (({ t with warm := some (d, 3) } : State).l2Reset d).core g = t.core g :=
      State.core_l2Reset hne
    rw [State.core_modDie, hcore]
    exact hback.killed g (hkilled g hg hd hc)
  · exact ⟨(t.die d).gangs, (t.die d).ready, (t.die d).rdc, (t.die d).trapq,
      (State.die_modDie_self ..).trans (congrArg Die.afterReset (hall.die d))⟩

/-! The beginning and the end of a warm reset (R351). -/

theorem State.die_startWarm (s : State) (d : Nat) : ((s.startWarm d).die d).holdStop = true := by
  have hdie : (s.startWarm d).die d = { s.die d with holdStop := true } :=
    s.die_modDie_self d (fun x => { x with holdStop := true })
  rw [hdie]

/-- The die as its ROM boots it again. -/
def State.readmitted (s : State) (d : Nat) (b : BootInfo) : State :=
  ((s.modDie d (fun x => { x with svcCore := lowestPass b.passed })).extend d 1 b.imageDigest).modDie d
    (fun x => { x with admitted := true, holdStop := false })

theorem State.die_readmitted (s : State) (d : Nat) (b : BootInfo) :
    (s.readmitted d b).die d = { s.die d with
      svcCore := lowestPass b.passed, admitted := true, holdStop := false,
      meas := tput 0 (s.die d).meas 1 (Config.sha3 (digestBytes (tget 0 (s.die d).meas 1) ++ digestBytes b.imageDigest)) } := by
  rw [State.readmitted, State.die_modDie_self, State.die_extend, State.die_modDie_self]

/-- The end of a warm reset: one that waits begins. -/
def State.nextWarm (s : State) : Out :=
  match s.warmQueue with
  | [] => .next s
  | k :: ks => .next ({ s with warmQueue := ks }.startWarm k)

theorem State.nextWarm_nil {s : State} (h : s.warmQueue = []) : s.nextWarm = .next s := by rw [State.nextWarm, h]

/-- Events change partitions alone. -/
theorem State.foldl_postEvent_state (typ : Nat) (w : Word) : ∀ (l : List Nat) (s : State),
    l.foldl (fun s p => s.postEvent p typ w) s = { s with parts := (l.foldl (fun s p => s.postEvent p typ w) s).parts }
  | [], _ => rfl
  | p :: l, s => by
    have h := State.foldl_postEvent_state typ w l (s.postEvent p typ w)
    rw [List.foldl_cons]
    revert h
    generalize l.foldl (fun s p => s.postEvent p typ w) (s.postEvent p typ w) = u
    intro h
    rw [State.postEvent_state] at h
    exact h

end Sys2Proof.Machine

section
open Sys2Proof Sys2Proof.Machine

/-- Settles O57: phase by phase; the write-back cleans what the L2 holds for the die, and the logic reset kills its contexts one
after another. -/
theorem warmReset : Obligations.WarmReset := by
  unfold Obligations.WarmReset
  intro s d hd
  refine ⟨fun hf hr => ?_, fun hf hr => ⟨fun hw => ?_, fun hw => ?_⟩, fun hw => ?_, fun hw hl => ?_, fun b hw hq hp hs => ?_⟩
  · rw [exec, execWarmReset, hf]
    simp only [Nat.not_le.mpr hd, if_false, hr, if_true]
    rw [State.boardSay_rom hr, hf]
  · refine ⟨s.startWarm d, ?_, rfl, ?_, fun g hg => ?_⟩
    · rw [exec, execWarmReset, hf]
      simp only [Nat.not_le.mpr hd, if_false, hr, hw, Option.isSome_none, Bool.false_eq_true]
    · exact s.die_startWarm d
    · have hstop : ((s.startWarm d).die (dieOf g)).holdStop = true := by
        rw [hg]
        exact s.die_startWarm d
      simp [State.canRun, hstop]
  · rw [exec, execWarmReset, hf]
    simp only [Nat.not_le.mpr hd, if_false, hr, Option.isSome_iff_ne_none.mpr hw, if_true, Bool.false_eq_true]
  · refine ⟨{ s.warmWriteBack d with warm := some (d, 2) }, ?_, rfl, fun sec x hx hh => ?_⟩
    · rw [exec, execWarmResetWriteBack, hw]
      rfl
    · exact State.clean_warmWriteBack (d := d) hx hh
  · obtain ⟨hwarm, hkilled, ⟨gangs, ready, rdc, trapq, hdie⟩, hkeys⟩ := s.logicReset_reset d
    refine ⟨s.logicReset d, ?_, hwarm, hkilled, ?_⟩
    · rw [exec, execWarmResetLogicReset, hw]
      simp only [hl, Bool.false_eq_true, if_false]
    · rw [hdie]
      exact ⟨rfl, rfl, rfl, rfl, rfl, rfl, rfl, rfl, rfl, rfl, rfl, rfl, hkeys⟩
  · have hallPass : allPass b = true := beq_iff_eq.mpr hp
    have hframe := State.foldl_postEvent_state 5 (BitVec.ofNat 64 d) s.warmParts
      { s.readmitted d b with edges := s.edges.filter (fun x => x.1 != d && x.2 != d) }
    have hexec : exec (.warmResetReadmit b) s = .next { s.warmParts.foldl (fun s p => s.postEvent p 5 (BitVec.ofNat 64 d))
        { s.readmitted d b with edges := s.edges.filter (fun x => x.1 != d && x.2 != d) } with warm := none, warmParts := [] } := by
      rw [exec, execWarmResetReadmit, hw]
      simp only [hallPass, signedOk, hs, Bool.and_self, if_true]
      refine Eq.trans ?_ (State.nextWarm_nil ?_)
      · rfl
      · rw [hframe]
        exact hq
    refine ⟨_, hexec, rfl, ?_⟩
    revert hframe
    generalize s.warmParts.foldl _ _ = t
    intro hframe
    have hdie : ({ t with warm := none, warmParts := [] } : State).die d = (s.readmitted d b).die d := by rw [hframe]; rfl
    rw [hdie, State.die_readmitted]
    refine ⟨rfl, rfl, tget_tput_self .., fun x hx => ?_⟩
    rw [hframe] at hx
    simpa using (List.mem_filter.mp hx).2

end
end

section
/-! PROOFS. Gangs form (R208), and launch records are taken or refused (R370). -/

namespace Sys2Proof.Machine

/-! A gang forms (R208). -/

/-- R208: the members of a range that are ready to form a gang: all of them, or none. -/
def State.gangReady (s : State) (d row west width : Nat) : List Nat :=
  let range := (List.range width).map (fun i => coreAt d row (west + i))
  let p := (s.core (coreAt d row west)).part
  let members := range.filter (fun y => !s.lent p y || s.gangMember (coreAt d row west) y west width)
  if members.all (fun y => (s.core y).part == p && (s.core y).teamKey == (s.core (coreAt d row west)).teamKey
      && (s.core y).enginesRun && (s.core y).gangHead == some (west, width)
      && ((s.core y).mq.head?.map (fun k => k.started && !k.stopped && (s.core y).sigOpen .m k)).getD false) then members
  else []

/-- R208: the `mm.gang` of a member completes, and the member is in the gang. -/
def State.joinGang (west width : Nat) (s : State) (y : Nat) : State :=
  match (s.core y).mq with
  | k :: _ => (s.finishCmd y .m k none []).modCore y (fun c => { c with gang := some (west, width), gangOff := false })
  | [] => s

/-- The gang is entered in its die, and its members join. -/
def State.formGang (s : State) (d : Nat) (x : Gang) : State :=
  x.members.foldl (State.joinGang x.west x.width) (s.modDie d (fun k => { k with gangs := k.gangs ++ [x] }))

/-- The ranges a gang can have (R207). -/
def gangRanges : List (Nat × Nat) := [(0, 2), (1, 2), (2, 2), (0, 4)]

theorem execGangFormed_eq (s : State) (d row : Nat) : execGangFormed d row s =
    match gangRanges.find? (fun x => !(s.gangReady d row x.1 x.2).isEmpty) with
    | none => .next s
    | some (west, width) =>
      .next (s.formGang d { row := row, west := west, width := width, members := s.gangReady d row west width }) := by
  rfl

/-- A member that is ready stands in the range, with its `mm.gang` of that range at the head of MQ. -/
theorem State.mem_gangReady {s : State} {d row west width y : Nat} (h : y ∈ s.gangReady d row west width) :
    (∃ i < width, y = coreAt d row (west + i)) ∧ (s.core y).gangHead = some (west, width) := by
  simp only [State.gangReady] at h
  split at h
  case isFalse => exact absurd h List.not_mem_nil
  case isTrue hall =>
    obtain ⟨hr, -⟩ := List.mem_filter.mp h
    obtain ⟨i, hi, rfl⟩ := List.mem_map.mp hr
    have hy := List.all_eq_true.mp hall _ h
    simp only [Bool.and_eq_true, beq_iff_eq] at hy
    obtain ⟨⟨-, hhead⟩, -⟩ := hy
    exact ⟨⟨i, List.mem_range.mp hi, rfl⟩, hhead⟩

/-- A range within a row of four. -/
theorem gangRanges_fit {x : Nat × Nat} (h : x ∈ gangRanges) : x.1 + x.2 ≤ 4 := by
  revert x
  decide

/-- R208: where the row's `mm.gang`s name one range, no other is ready. -/
theorem State.find_gangReady {s : State} {d row west width : Nat} (hx : (west, width) ∈ gangRanges)
    (hone : ∀ i < 4, ∀ x, (s.core (coreAt d row i)).gangHead = some x → x = (west, width))
    (hne : s.gangReady d row west width ≠ []) :
    gangRanges.find? (fun x => !(s.gangReady d row x.1 x.2).isEmpty) = some (west, width) := by
  have honly : ∀ x ∈ gangRanges, s.gangReady d row x.1 x.2 ≠ [] → x = (west, width) := by
    intro x hm hr
    obtain ⟨y, hy⟩ := List.exists_mem_of_ne_nil _ hr
    obtain ⟨⟨i, hi, rfl⟩, hhead⟩ := State.mem_gangReady hy
    have hfit := gangRanges_fit hm
    exact hone (x.1 + i) (by omega) _ hhead
  cases hf : gangRanges.find? (fun x => !(s.gangReady d row x.1 x.2).isEmpty) with
  | none => exact absurd (List.find?_eq_none.mp hf _ hx) (by simpa using hne)
  | some x =>
    have hr := List.find?_some hf
    exact congrArg some (honly x (List.mem_of_find?_eq_some hf) (by simpa using hr))

/-- Another core is as it was. -/
theorem State.core_joinGang_other {s : State} {west width y h : Nat} (hne : h ≠ y) :
    (s.joinGang west width y).core h = s.core h := by
  unfold State.joinGang
  split
  · rw [State.core_modCore, if_neg hne, State.finishCmd, State.core_modCore, if_neg hne]
  · rfl

theorem State.gang_joinGang {s : State} {west width y : Nat} (h : (s.core y).mq ≠ []) :
    ((s.joinGang west width y).core y).gang = some (west, width) := by
  unfold State.joinGang
  split
  · rw [State.core_modCore_self]
  case h_2 hm => exact absurd hm h

theorem State.die_joinGang (s : State) (west width y e : Nat) : (s.joinGang west width y).die e = s.die e := by
  unfold State.joinGang
  split <;> rfl

theorem State.die_foldl_joinGang (west width e : Nat) (l : List Nat) (s : State) :
    (l.foldl (State.joinGang west width) s).die e = s.die e :=
  List.foldlRecOn (motive := fun t : State => t.die e = s.die e) _ _ rfl fun t h _ _ => (t.die_joinGang ..).trans h

/-- R208: each member of a list is in the gang once all have joined. -/
theorem State.gang_foldl_joinGang (west width : Nat) {y : Nat} : ∀ (l : List Nat) (s : State),
    (s.core y).gang = some (west, width) ∨ y ∈ l → (∀ z ∈ l, (s.core z).mq ≠ []) → l.Nodup →
    ((l.foldl (State.joinGang west width) s).core y).gang = some (west, width)
  | [], _, hy, _, _ => hy.resolve_right List.not_mem_nil
  | z :: l, s, hy, hm, hn => by
    obtain ⟨hz, hl⟩ := List.nodup_cons.mp hn
    rw [List.foldl_cons]
    refine State.gang_foldl_joinGang west width l _ ?_ (fun x hx => ?_) hl
    · by_cases he : y = z
      · subst he
        exact .inl (State.gang_joinGang (hm y List.mem_cons_self))
      · rw [State.core_joinGang_other he]
        exact hy.imp_right (List.mem_of_ne_of_mem he)
    · rw [State.core_joinGang_other (ne_of_mem_of_not_mem hx hz)]
      exact hm x (List.mem_cons_of_mem _ hx)

/-! A launch record (R370). -/

/-- R370: a refusal answers with a status and leaves the partitions. -/
theorem State.refuseLaunch_answers (s : State) (reqid : Word) :
    ∃ w, w ≠ 0 ∧ (s.refuseLaunch reqid).ctlOut = s.ctlOut ++ [exitReport reqid w] ∧ ∀ q, (s.refuseLaunch reqid).part q = s.part q := by
  refine ⟨if s.freeValue.1 = 0 then 1 else s.freeValue.1, ?_, rfl, fun _ => rfl⟩
  split
  · decide
  case isFalse h => exact h

/-- R88: the stream context an accepted launch leaves. -/
theorem Part.startStream_started (q : Part) (o : Obj) (reqid : Word) (args : List Word) :
    (q.startStream o reqid args).sfe.running = true ∧ (q.startStream o reqid args).sfe.ctx.vpc = o.entry
      ∧ (q.startStream o reqid args).sfe.ctx.rets = []
      ∧ (q.startStream o reqid args).sfe.ctx.vals = (args.map (fun w => Slot.ready (.scalar w))).reverse
      ∧ (q.startStream o reqid args).wcount = 0 ∧ (q.startStream o reqid args).sfe.reqid = reqid :=
  ⟨rfl, rfl, rfl, rfl, rfl, rfl⟩

end Sys2Proof.Machine

section
open Sys2Proof Sys2Proof.Machine

/-- Settles O51: the one range that is ready is formed, its members joining in turn; a record is refused by the first check that
fails, or starts its stream. -/
theorem gangsAndLaunches : Obligations.GangsAndLaunches := by
  unfold Obligations.GangsAndLaunches
  refine ⟨?_, ?_⟩
  · intro s d row west width range p members hd hrow hx hmem hready hone
    have hmembers : s.gangReady d row west width = members := if_pos (List.all_eq_true.mpr fun y hy => by
      obtain ⟨hp, ht, hr, hh, k, hk, hst, hsp, ho⟩ := hready y hy
      simp only [hr, hh, hk, ht, hst, hsp, ho, Option.map_some, Option.getD_some, beq_self_eq_true, Bool.and_true, Bool.not_false]
      exact beq_iff_eq.mpr hp)
    have hexec : exec (.gangFormed d row) s
        = .next (s.formGang d { row := row, west := west, width := width, members := members }) := by
      rw [exec, execGangFormed_eq, State.find_gangReady hx hone (hmembers.symm ▸ hmem)]
      simp only [hmembers]
    refine ⟨_, hexec, ?_, fun y hy => ?_⟩
    · rw [State.formGang, State.die_foldl_joinGang, State.die_modDie_self]
    · refine State.gang_foldl_joinGang west width members _ (.inr hy) (fun z hz => ?_) ?_
      · obtain ⟨-, -, -, -, k, hk, -⟩ := hready z hz
        rw [State.core_modDie]
        exact fun h => by simp [h] at hk
      · refine List.Nodup.filter _ (List.Nodup.map ?_ List.nodup_range)
        intro i j hij
        simp only [coreAt] at hij
        omega
  · intro s msg plan x
    have hport : s.ctlPort ≠ none → s.ctlPort.isNone = false := fun h => by simpa using Option.isSome_iff_ne_none.mpr h
    refine ⟨fun hc => ?_, fun hc hbad => ?_, fun l hc hlen hok hrun hown habs hlink hsize hplan hplaced hapart => ?_⟩
    · rw [exec, execLaunchRecord, hc]
      rfl
    · obtain ⟨w, hw, hout, hpart⟩ := s.refuseLaunch_answers x.reqid
      refine ⟨s.refuseLaunch x.reqid, w, ?_, hw, hout, hpart⟩
      have hbad : (msg.length < 128 || !x.ok || (s.part x.part).sfe.running || s.coresOwned x.part = 0 || s.needsAbsent x.part) = true := by
        rcases hbad with h | h | h | h | h <;> simp [h]
      exact (if_neg (ne_true_of_eq_false (hport hc))).trans (if_pos hbad)
    · have hgood : (msg.length < 128 || !x.ok || (s.part x.part).sfe.running || s.coresOwned x.part = 0 || s.needsAbsent x.part) = false := by
        simp [hok, hrun, hown, habs, Nat.not_lt.mpr hlen]
      let t := s.writePtes plan.ptes
      let size := (l.pieces.map (fun y => (y.sect.pages plan.bias).2)).sum
      have hloads : (hbmBytes < s.allocated - ((s.part x.part).obj.map (·.bytes)).getD 0 + size || !s.planOk x.part plan l.pieces
          || !(l.pieces.all (fun y => t.placed x.part plan.bias y.sect)) || !t.codeApart x.part plan.bias l.pieces) = false := by
        simp only [t, size, hplan, hplaced, hapart, Nat.not_lt.mpr hsize, decide_false, Bool.not_true, Bool.or_self]
      have hexec : exec (.launchRecord msg plan) s
          = .next (((t.place x.part plan.bias l.pieces).extend (hostDie x.part) 4 (BitVec.ofNat 256 (x.field 256 256))).modPart x.part
            (fun q => q.startStream { l.obj with bytes := size } x.reqid x.args)) := by
        refine ((if_neg (ne_true_of_eq_false (hport hc))).trans (if_neg (ne_true_of_eq_false hgood))).trans ?_
        rw [hlink]
        exact if_neg (ne_true_of_eq_false hloads)
      refine ⟨_, hexec, ?_⟩
      rw [State.part_modPart_self]
      exact Part.startStream_started ..

end
end

section
/-! PROOFS. Stream instructions enter the window (R90, R92, R98, R104, R109). -/

namespace Sys2Proof.Machine

/-! What a rename changes besides the window: caches, and buffers. -/

theorem cacheFrame_l2Forget (s : State) (home sec : Nat) : CacheFrame s (s.l2Forget home sec) := by
  unfold State.l2Forget
  split <;> exact .of_shared rfl

theorem cacheFrame_dropNear (s : State) (sec : Nat) : CacheFrame s (s.dropNear sec) := by
  have hcores : CacheFrame s ((List.range 136).foldl (fun s g =>
      if (trange (s.core g).lsc sec 64).isEmpty then s else s.modCore g (fun c => { c with lsc := tclear c.lsc sec 64 })) s) := by
    refine CacheFrame.foldl _ (fun s g => ?_) _ _
    split
    · exact .rfl
    · refine ⟨rfl, fun h => ?_, fun _ => rfl⟩
      rw [State.core_modCore]
      split
      · subst h
        rfl
      · rfl
  rw [State.dropNear]
  refine hcores.trans (CacheFrame.foldl _ (fun s d => ?_) _ _)
  split
  · exact .rfl
  · refine ⟨rfl, fun _ => rfl, fun e => ?_⟩
    rw [State.die_modDie]
    split
    · subst e
      rfl
    · rfl

theorem cacheFrame_clearPage (s : State) (pa key : Nat) : CacheFrame s (s.clearPage pa key) := by
  have near := cacheFrame_dropNear s (pa / 64)
  simp only [State.clearPage]
  generalize s.dropNear (pa / 64) = t at near
  refine (near.trans (u := { t with
    l2 := tclear t.l2 (pa / 64) 64, hbm := tclear t.hbm (pa / 64 * 64) 4096, hbmMeta := _ }) (.of_shared rfl)).trans
    (CacheFrame.foldl _ (fun s x => ?_) _ _)
  split
  · exact cacheFrame_l2Forget ..
  · exact .rfl

theorem cacheFrame_overPages (p lo n : Nat) {k : State → Path → State} (hk : ∀ s x, CacheFrame s (k s x)) (s : State) :
    CacheFrame s (s.overPages p lo n k) := by
  refine CacheFrame.foldl _ (fun s i => ?_) (List.range (n / 4096)) s
  split
  · exact hk ..
  · exact .rfl

theorem cacheFrame_zeroVirt (s : State) (p lo n : Nat) : CacheFrame s (s.zeroVirt p lo n) :=
  cacheFrame_overPages p lo n (fun s _ => cacheFrame_clearPage s ..) s

theorem cacheFrame_freshVirt (s : State) (p lo n : Nat) : CacheFrame s (s.freshVirt p lo n) :=
  cacheFrame_overPages p lo n (fun s _ => cacheFrame_dropNear s _) s

theorem cacheFrame_template32 (s : State) (p : Nat) (w : Word) : CacheFrame s (s.template32 p w).2 := by
  simp only [State.template32]
  split
  · exact .rfl
  split
  · exact .rfl
  next x _ =>
    have h := cacheFrame_readPath s (some p) x 32 [.l2]
    revert h
    generalize s.readPath (some p) x 32 [.l2] = r
    intro h
    split
    case h_1 => exact h
    case h_2 => split <;> exact h

/-- R114: planning an instruction reads at most a template. -/
theorem cacheFrame_planOf (s : State) (p : Nat) (i : Instr) (vals : List Word) : CacheFrame s (s.planOf p i vals).2 := by
  cases i
  case tNew f =>
    have h := cacheFrame_template32 s p ((vals[0]?).getD 0)
    revert h
    simp only [State.planOf]
    generalize s.template32 p ((vals[0]?).getD 0) = r
    intro h
    split
    · exact .rfl
    split
    · exact h
    · split <;> exact h
  case tView f =>
    have h := cacheFrame_template32 s p ((vals[0]?).getD 0)
    revert h
    simp only [State.planOf]
    generalize s.template32 p ((vals[0]?).getD 0) = r
    intro h
    split
    · exact .rfl
    split
    · exact h
    · split <;> exact h
  case tFree f =>
    simp only [State.planOf]
    split <;> exact .rfl
  case tMap | tSend | tRecv | tSignalAdd | tSignalStore | tWaitEq | tWaitNe | tWaitGe =>
    simp only [State.planOf]
    split <;> exact .rfl
  all_goals exact .rfl

/-- R96: drawing buffers changes buffers alone. -/
theorem stopFrame_drawPbs (p : Nat) (ballast : Bool) : ∀ (l : List (Nat × Nat)) (s t : State) (as : List Nat),
    s.drawPbs p ballast l = some (as, t) → StopFrame s t ∧ (t.part p).window = (s.part p).window
  | [], s, t, as, h => by
    cases h
    exact ⟨.rfl, rfl⟩
  | (home, cls) :: l, s, t, as, h => by
    simp only [State.drawPbs] at h
    split at h
    case h_1 => cases h
    case h_2 a u hu =>
      split at h
      case h_1 => cases h
      case h_2 bs v hv =>
        cases h
        obtain ⟨hframe, hwindow⟩ := stopFrame_drawPbs p ballast l u t bs hv
        have hone : StopFrame s u ∧ (u.part p).window = (s.part p).window := by
          simp only [State.drawPb] at hu
          split at hu
          case h_1 =>
            cases hu
            have hdraw : StopFrame s s.freeValue.2 := ⟨rfl, fun _ => .rfl, fun _ => rfl, fun _ => rfl⟩
            have hbuf := fun q : Part => q.bufFrame_modPb a (fun x => { x with st := .shadow, reads := 0, ballast := false })
            refine ⟨hdraw.trans (.modPart fun q => ?_), ?_⟩
            · rw [hbuf q]
            · rw [State.part_modPart_self, hbuf]
              rfl
          case h_2 => cases hu
        exact ⟨hone.1.trans hframe, hwindow.trans hone.2⟩

/-- R98: a fresh buffer is cleared, or what the caches hold of it is dropped. -/
def State.readyBuffers (s : State) (p : Nat) (ts : List ETensor) : State :=
  ts.foldl (fun s t => match t.mode, t.dstPb with
    | 1, some a => s.zeroVirt p a (pbBytes ((t.after.map (·.cls)).getD 0))
    | 3, some a => s.freshVirt p a (pbBytes ((t.after.map (·.cls)).getD 0))
    | _, _ => s) s

theorem cacheFrame_readyBuffers (s : State) (p : Nat) (ts : List ETensor) : CacheFrame s (s.readyBuffers p ts) := by
  refine CacheFrame.foldl _ (fun s t => ?_) ts s
  split
  · exact cacheFrame_zeroVirt ..
  · exact cacheFrame_freshVirt ..
  · exact .rfl

/-- R97: the buffers an entry reads have one reader more. -/
def Part.takeReads (q : Part) (ts : List ETensor) : Part :=
  ts.foldl (fun q t => match t.srcPb with
    | some a => q.modPb a (fun b => { b with reads := b.reads + 1 })
    | none => q) q

theorem Part.bufFrame_takeReads (q : Part) (ts : List ETensor) : q.BufFrame (q.takeReads ts) := by
  refine Part.BufFrame.foldl _ (fun q t => ?_) ts q
  split
  · exact q.bufFrame_modPb ..
  · rfl

/-- R96: a buffer given to a tensor leaves the name of the tensor. -/
theorem map_lt_bindFresh : ∀ (ts : List ETensor) (as : List Nat), (bindFresh ts as).map (·.lt) = ts.map (·.lt)
  | [], _ => rfl
  | t :: ts, as => by
    unfold bindFresh
    split
    · split
      · rw [List.map_cons, map_lt_bindFresh ts, List.map_cons]
      · rw [List.map_cons, map_lt_bindFresh ts, List.map_cons]
    · rw [List.map_cons, map_lt_bindFresh ts, List.map_cons]

/-- R92: the entry of an instruction, as it enters the window. -/
def Plan.entry (pl : Plan) (i : Instr) (vals : List Word) (snap : Ctx) (dest uid : Nat) (ts : List ETensor) : Entry :=
  { st := .wait, instr := i, uid := uid, spc := snap.vpc, len := lenOf i, dest := dest, args := vals, tens := ts,
    regions := (regionsOf ts).1, unbounded := (regionsOf ts).2, rel := relOf (baseOf i), acq := acqOf (baseOf i), visible := pl.visible,
    ntask := pl.ntask, team := pl.team, gang := pl.gang, kern := pl.kern, early := pl.early, bitmap := [], trapped := [],
    failed := [], redone := [], next := 0, out := [], trigs := [], issueFault := pl.fault, ecode := 0, cause := 0, stall := 0,
    ckpt := !pl.fresh.isEmpty && pl.fault.isNone, snap := snap, ran := [], prog := 0, buf := [], got := false }

/-- R92, R99: the window with an entry more, and the names it binds. -/
def Part.addEntry (q : Part) (n : Nat) (e : Entry) (ts : List ETensor) : Part :=
  { q with
    window := tput none q.window n (some e), wcount := q.wcount + 1, uids := q.uids + 1, rename := applyTensors q.rename ts }

/-- The tensors of an entry, with the buffers drawn for them. -/
def Plan.bound (pl : Plan) (as : List Nat) : List ETensor := if pl.fault.isSome then [] else bindFresh pl.tens as

theorem State.renameIn_eq (s : State) (p : Nat) (i : Instr) (vals : List Word) (snap : Ctx) (dest : Nat) :
    s.renameIn p i vals snap dest =
      let pl := (s.planOf p i vals).1
      let s := (s.planOf p i vals).2
      let q := s.part p
      if !pl.fresh.isEmpty && pl.fault.isNone && 32 ≤ ((q.live).filter (·.2.ckpt)).length then .stall 1
      else if 128 ≤ q.wcount then .stall 2
      else
        match (if pl.fault.isSome then some ([], s) else s.drawPbs p (q.wcount == 0) pl.fresh) with
        | none => if q.wcount = 0 then .noBuffers else .stall 3
        | some (as, v) =>
          .entered ((v.readyBuffers p (pl.bound as)).modPart p (fun x => (x.takeReads (pl.bound as)).addEntry
            ((q.whead + q.wcount) % 128) (pl.entry i vals snap dest q.uids (pl.bound as)) (pl.bound as))) := by
  rfl

/-- What the rename of an instruction leaves in its partition: one entry more, with the instruction and what it asks for. -/
structure Renamed (s t : State) (p : Nat) (i : Instr) (vals : List Word) (pl : Plan) : Prop where
  wcount : (t.part p).wcount = (s.part p).wcount + 1
  sfe : (t.part p).sfe = (s.part p).sfe
  entry : ∃ e, t.entry p (((s.part p).whead + (s.part p).wcount) % 128) = some e ∧ e.st = .wait ∧ e.instr = i
    ∧ e.spc = (s.part p).sfe.ctx.vpc ∧ e.args = vals ∧ e.issueFault = pl.fault ∧ e.visible = pl.visible ∧ e.ntask = pl.ntask
    ∧ (pl.fault = none → e.tens.map (·.lt) = pl.tens.map (·.lt))

/-- R92, R96, R104: an instruction that finds a window entry, and where it draws buffers a checkpoint and the buffers, is renamed
into the window. -/
theorem State.renameIn_enters {s : State} {p : Nat} (i : Instr) (vals : List Word) (dest : Nat)
    (hroom : (s.part p).wcount < 128)
    (hdraw : (s.planOf p i vals).1.fault = none → (s.planOf p i vals).1.fresh ≠ [] →
      ((s.part p).live.filter (·.2.ckpt)).length < 32
        ∧ ((s.planOf p i vals).2.drawPbs p ((s.part p).wcount == 0) (s.planOf p i vals).1.fresh).isSome = true) :
    ∃ t, s.renameIn p i vals (s.part p).sfe.ctx dest = .entered t ∧ Renamed s t p i vals (s.planOf p i vals).1 := by
  have hplan := cacheFrame_planOf s p i vals
  rw [State.renameIn_eq]
  generalize s.planOf p i vals = r at *
  obtain ⟨pl, u⟩ := r
  have hpart : u.part p = s.part p := State.part_of_cacheFrame hplan p
  have hckpt : (!pl.fresh.isEmpty && pl.fault.isNone && decide (32 ≤ ((s.part p).live.filter (·.2.ckpt)).length)) = false := by
    by_cases hf : pl.fault = none
    · by_cases hn : pl.fresh = []
      · simp [hn]
      · simp [Nat.not_le.mpr (hdraw hf hn).1]
    · simp [Option.isNone_eq_false_iff.mpr (Option.isSome_iff_ne_none.mpr hf)]
  obtain ⟨as, v, hdrawn, hframe, hwindow⟩ : ∃ as v, (if pl.fault.isSome then some ([], u)
      else u.drawPbs p ((s.part p).wcount == 0) pl.fresh) = some (as, v) ∧ StopFrame u v
      ∧ (v.part p).window = (u.part p).window := by
    by_cases hf : pl.fault = none
    · have hsome : (u.drawPbs p ((s.part p).wcount == 0) pl.fresh).isSome = true := by
        by_cases hn : pl.fresh = []
        · rw [hn]; rfl
        · exact (hdraw hf hn).2
      obtain ⟨⟨as, v⟩, hv⟩ := Option.isSome_iff_exists.mp hsome
      obtain ⟨h₁, h₂⟩ := stopFrame_drawPbs p _ _ _ _ _ hv
      exact ⟨as, v, by rw [hf]; exact hv, h₁, h₂⟩
    · exact ⟨[], u, if_pos (Option.isSome_iff_ne_none.mpr hf), .rfl, rfl⟩
  refine ⟨(v.readyBuffers p (pl.bound as)).modPart p (fun x => (x.takeReads (pl.bound as)).addEntry
    (((s.part p).whead + (s.part p).wcount) % 128) (pl.entry i vals (s.part p).sfe.ctx dest (s.part p).uids (pl.bound as))
    (pl.bound as)), ?_, ?_⟩
  · dsimp only
    rw [hpart, if_neg (ne_true_of_eq_false hckpt), if_neg (Nat.not_le.mpr hroom), hdrawn]
  · have hready := State.part_of_cacheFrame (cacheFrame_readyBuffers v p (pl.bound as)) p
    have hreads : (v.part p).takeReads (pl.bound as) = _ := (v.part p).bufFrame_takeReads (pl.bound as)
    have hv := hframe.part p
    refine ⟨?_, ?_, pl.entry i vals (s.part p).sfe.ctx dest (s.part p).uids (pl.bound as), ?_, rfl, rfl, rfl, rfl, rfl, rfl, rfl,
      fun hf => ?_⟩
    · rw [State.part_modPart_self, hready, hreads, hv, hpart]
      rfl
    · rw [State.part_modPart_self, hready, hreads, hv, hpart]
      rfl
    · rw [State.entry, State.part_modPart_self]
      exact tget_tput_self ..
    · refine Eq.trans ?_ (map_lt_bindFresh pl.tens as)
      exact congrArg _ (if_neg (by rw [hf]; decide))

end Sys2Proof.Machine

section
open Sys2Proof Sys2Proof.Machine

/-- Settles O40: a stream instruction runs the rename, which finds room, or stalls. -/
theorem streamInstructionsEnter : Obligations.StreamInstructionsEnter := by
  unfold Obligations.StreamInstructionsEnter
  intro s p i vs hi hwf hf hact hm pl
  have hexec : exec i s = match s.renameIn p i (vs.map Val.word) (s.part p).sfe.ctx (s.part p).sfe.serials with
      | .stall _ => .next s
      | .noBuffers => .next (s.modPart p (fun q => { q with sfe := { q.sfe with wait := .trap 3 cWAITBOUND 0 (s.part p).sfe.ctx.vpc 0 } }))
      | .entered t => .next (t.modPart p (fun q => { q with sfe := q.sfe.pastEntry i (lenOf i) })) := by
    rw [exec_of_isStreamOp hi, streamOp, withOps_ready (lenOf i) _ hact, hf]
    simp only [hm, Option.isSome_none, Bool.false_eq_true, if_false] <;> rfl
  refine ⟨fun hroom hdraw => ?_, fun t ht => ?_, fun n hn => ?_⟩
  · obtain ⟨t, ht, hcount, hsfe, e, he, hst, hinstr, hspc, hargs, hfault, hvis, hn, htens⟩ :=
      State.renameIn_enters i (vs.map Val.word) (s.part p).sfe.serials hroom hdraw
    refine ⟨t.modPart p (fun q => { q with sfe := q.sfe.pastEntry i (lenOf i) }), e, ?_, ?_, ?_, ?_, hst, hinstr, hspc, hargs, hfault,
      hvis, hn, htens⟩
    · rw [hexec, ht]
    · rw [State.part_modPart_self]
      exact hcount
    · rw [State.part_modPart_self, hsfe]
    · rw [State.entry, State.part_modPart_self]
      exact he
  · rw [hexec, ht]
  · rw [hexec, hn]

end
end

section
/-! PROOFS. Errors of stores and links (R346 to R348). -/

namespace Sys2Proof.Machine

/-! Words of queues (R347). -/

/-- A poisoned word of a queue of a core, and its count. -/
theorem State.spoilQueue_some {s : State} {g : Nat} {w : SramWord} {c : Core} (h : (s.core g).spoilQueue w = some c) (hg : g < 136) :
    ((s.spoilQueue g w).core g) = c
      ∧ ((s.spoilQueue g w).die (dieOf g)).sramue = min ((s.die (dieOf g)).sramue + 1) (2 ^ 16 - 1) := by
  have hw : s.spoilQueue g w = (s.setCore g c).countSramue (dieOf g) := by
    simp only [State.spoilQueue, h, hg, if_true]
  rw [hw]
  refine ⟨State.core_setCore_self .., ?_⟩
  rw [State.countSramue, State.die_modDie_self]
  rfl

/-- The command at a place of a queue, after a change to the commands of its number. -/
theorem Core.getElem?_queue_modCmd {c : Core} {q : Eng} {i : Nat} {k : Cmd} (f : Cmd → Cmd) (h : (c.queue q)[i]? = some k) :
    ((c.modCmd q k.seq f).queue q)[i]? = some (f k) := by
  rw [Core.modCmd, Core.queue_setQueue, List.getElem?_map, h, Option.map_some, if_pos rfl]

/-- R346, R347: an HBM sector that an uncorrectable error has met. -/
def HMeta.spoil (m : HMeta) : HMeta := { m with poison := true, ecode := if m.poison && m.ecode == 8 then 8 else 1 }

theorem HMeta.ecode_spoil {m : HMeta} (h : m.poison = false ∨ m.ecode ≠ 8) : m.spoil.ecode = 1 := by
  have hno : (m.poison && m.ecode == 8) = false := by
    rcases h with h | h
    · rw [h, Bool.false_and]
    · rw [beq_eq_false_iff_ne.mpr h, Bool.and_false]
  exact if_neg (ne_true_of_eq_false hno)

theorem HMeta.spoil_of_eight {m : HMeta} (hp : m.poison = true) (h8 : m.ecode = 8) : m.spoil = m := by
  have hyes : (m.poison && m.ecode == 8) = true := by rw [hp, beq_iff_eq.mpr h8, Bool.and_self]
  rw [HMeta.spoil, hyes, if_pos rfl, ← hp, ← h8]

theorem State.hmeta_spoil (s : State) (sec k : Nat) :
    ({ s with hbmMeta := tput HMeta.reset s.hbmMeta sec (s.hmeta sec).spoil } : State).hmeta k
      = if k = sec then (s.hmeta sec).spoil else s.hmeta k := tget_tput _ _ _ _ _

/-! Requests a link loses (R347). -/

/-- What stays on a die uses no link. -/
theorem usesEdge_self (d : Nat) (x : Nat × Nat) : usesEdge d d x = false := by simp [usesEdge]

theorem State.onLink_home {s : State} {g j : Nat} {x : Acc} (via : Nat × Nat) (h : x.pad = true ∨ x.path.home = dieOf g) :
    s.onLink g j x via = false := by
  rcases h with h | h
  · simp [State.onLink, h]
  · simp [State.onLink, h, usesEdge_self]

/-- Where nothing of a core crosses a link, the link loses none of its requests. -/
theorem State.loseRequest_none {s : State} {g : Nat} (via : Nat × Nat) (hg : g < 128)
    (hacc : ∀ x ∈ (s.core g).acc, x.pad = true ∨ x.path.home = dieOf g) (hcq : ∀ k ∈ (s.core g).cq, k.started = false)
    (hw : (s.core g).wait = none) (hdrain : (s.core g).drainRunning = none) (hlook : s.look (.core g) ≠ .absent) :
    s.loseRequest g via = none := by
  have hnoacc : ((s.core g).acc.zipIdx).find? (fun x => s.onLink g x.2 x.1 via) = none := List.find?_eq_none.mpr fun x hx => by
    rw [State.onLink_home via (hacc x.1 (List.fst_mem_of_mem_zipIdx hx))]
    decide
  have hnocopy : (s.core g).cq.find? (fun k => s.copyOnLink g k via && (s.core g).sigOpen .c k) = none :=
    List.find?_eq_none.mpr fun k hk => by simp [State.copyOnLink, hcq k hk]
  have hnoscale : s.scaleOnLink g via = none := by rw [State.scaleOnLink, hdrain]
  have hnoimage : s.imageOnLink g via = none := by simp [State.imageOnLink, isSvc_of_lt hg]
  have hnocode : s.loseCode (.core g) via = none := by simp [State.loseCode, State.lowers, hlook]
  simp only [State.loseRequest, hnoacc, hw, hnocopy, hnoscale, hnoimage, hnocode]

/-- R296: the report of a trap of an instruction, where no access is left. -/
theorem State.report_emptied {s : State} {g : Nat} (i : TrapInfo) {p : TrapPend} (cres : List Word) (hg : g < 128)
    (hp : p.queue = none) (ha : (s.core g).acc = []) :
    ((s.report g i p cres).core g).cstate = .trapped ∧ ((s.report g i p cres).core g).acc = []
      ∧ ((s.report g i p cres).die (dieOf g)).trapq = (s.die (dieOf g)).trapq ++ [i]
      ∧ (s.report g i p cres).edges = s.edges := by
  have hcmd : p.ofCmd = false := by simp [TrapPend.ofCmd, hp]
  have hne : g ≠ svcOf (dieOf g) := by simp only [svcOf]; omega
  have hcommit : s.commitAll g = s := by rw [State.commitAll, ha]; rfl
  have hframe := State.gangFrame_dissolveGang (s.queueRecord (dieOf g) i) g
  have hcore : ((s.queueRecord (dieOf g) i).dissolveGang g).core g = _ := hframe.core g
  simp only [State.report, hcmd, Bool.false_eq_true, if_false, hcommit, State.core_modCore_self, State.die_modCore]
  refine ⟨trivial, ?_, ?_, ?_⟩
  · rw [hcore, State.core_queueRecord i hne]
    exact ha
  · have hdie := hframe.die (dieOf g)
    rw [hdie]
    exact State.trapq_queueRecord ..
  · have hstate := hframe.state
    change ((s.queueRecord (dieOf g) i).dissolveGang g).edges = _
    rw [hstate]
    rfl

/-- Inside a template too the record is that of the trap, and no command's. -/
theorem Ctx.pend_record (c : Ctx) (i : TrapInfo) (kinds : List Bool) (len : Nat) :
    (c.pend i kinds len).info = i ∧ (c.pend i kinds len).queue = none := by
  unfold Ctx.pend
  split <;> exact ⟨rfl, rfl⟩

/-- R75, R296: a trap of the oldest access of a user core in its own text, that no patch slot acts on. -/
theorem State.accTrap_reported {s : State} {g : Nat} {x : Acc} {c : Cause} (kinds : List Bool) (hg : g < 128)
    (he : (s.core g).emul = none) (hc : c.code ≠ cTRANSLATE)
    (hp : s.patchFor (dieOf g) (s.core g).part 1 (faultKey x.snap.vpc c.code 0) = none) :
    ∃ r : TrapInfo, ((s.accTrap g 0 x c kinds).core g).cstate = .trapped ∧ ((s.accTrap g 0 x c kinds).core g).acc = []
      ∧ ((s.accTrap g 0 x c kinds).die (dieOf g)).trapq = (s.die (dieOf g)).trapq ++ [r] ∧ r.cause = c.code ∧ r.ecode = c.ecode
      ∧ r.addr = c.addr ∧ r.vpc = x.snap.vpc ∧ (s.accTrap g 0 x c kinds).hbm = s.hbm
      ∧ (s.accTrap g 0 x c kinds).edges = s.edges := by
  let t := s.modCore g (fun k => { k with ctx := x.snap, acc := [], wait := none })
  have hcore : t.core g = { s.core g with ctx := x.snap, acc := [], wait := none } := s.core_modCore_self g _
  let i := t.mkInfo g c x.snap.vpc x.snap.vpc 0 0
  obtain ⟨hinfo, hqueue⟩ := (t.core g).ctx.pend_record i kinds 1
  have hsub : i.sub = 0 := if_neg hc
  have hpart : i.part = (s.core g).part := by
    change (t.core g).part = _
    rw [hcore]
  have htrap : s.accTrap g 0 x c kinds = t.report g i ((t.core g).ctx.pend i kinds 1) [] := by
    rw [State.accTrap_zero]
    have hemul : (t.core g).emul = none := by rw [hcore]; exact he
    have hvpc : (t.core g).ctx.vpc = x.snap.vpc := by rw [hcore]
    refine Eq.trans (b := t.trapMatched g ((t.core g).ctx.pend i kinds 1) []) ?_ ?_
    · change t.trapAt (.core g) c kinds 1 [] 0 0 = _
      simp only [State.trapAt, isSvc_of_lt hg, Bool.false_eq_true, if_false, hemul, hvpc, i]
    · refine (State.trapMatched_unmatched [] (.inr ?_)).trans (by rw [hinfo])
      rw [hinfo, hpart, hsub]
      exact hp
  obtain ⟨hst, hacc, hq, hedges⟩ := State.report_emptied i (p := (t.core g).ctx.pend i kinds 1) [] hg hqueue (by rw [hcore])
  rw [htrap]
  refine ⟨i, hst, hacc, hq, rfl, rfl, rfl, rfl, ?_, hedges⟩
  rw [State.report_hbm]
  exact State.modCore_hbm ..

/-- A link that starts to retrain, and its count. -/
def State.cut (s : State) (d e : Nat) : State :=
  { s with edges := s.edges ++ [edge d e] }.modDie d (fun x => { x with uciefail := satAdd 0xFFFF x.uciefail })

/-- R347: a failure on a link that is up: what is lost of a core, or of a stream. -/
theorem execUcieFlitFailure_cut {s : State} {d e : Nat} (g : Nat) (hd : d < 8) (he : e < 8) (hadj : adjacentDies d e = true)
    (hin : edge d e ∉ s.edges) {t : State}
    (ht : (if g < 136 then (if (s.core g).cstate == .frozen || (s.core g).iced then none else s.loseRequest g (edge d e))
      else if g < 152 then s.loseEntry (g - 136) (edge d e) else none).getD s = t) (hedges : t.edges = s.edges) :
    execUcieFlitFailure d e g s = .next (t.cut d e) := by
  have hgo : (decide (8 ≤ d) || decide (8 ≤ e) || !adjacentDies d e || s.edges.contains (edge d e)) = false := by
    simp [Nat.not_le.mpr hd, Nat.not_le.mpr he, hadj, hin]
  refine (if_neg (ne_true_of_eq_false hgo)).trans ?_
  rw [State.cut, hedges]
  subst ht
  rfl

theorem State.core_cut (s : State) (d e g : Nat) : (s.cut d e).core g = s.core g := rfl

theorem State.entry_cut (s : State) (d e p n : Nat) : (s.cut d e).entry p n = s.entry p n := rfl

theorem State.edges_cut (s : State) (d e : Nat) : (s.cut d e).edges = s.edges ++ [edge d e] := rfl

theorem State.uciefail_cut (s : State) (d e : Nat) :
    ((s.cut d e).die d).uciefail = min ((s.die d).uciefail + 1) (2 ^ 16 - 1) := by
  rw [State.cut, State.die_modDie_self]
  rfl

theorem State.trapq_cut (s : State) (d e k : Nat) : ((s.cut d e).die k).trapq = (s.die k).trapq := by
  rw [State.cut, State.die_modDie]
  split
  · subst k
    rfl
  · rfl

/-- R92: an entry that faults keeps its place, with its cause. -/
theorem State.entry_toFault {s : State} {p n : Nat} {e : Entry} (cause : Nat) (ecode : BitVec 6) (h : s.entry p n = some e) :
    (s.toFault p n e cause ecode).entry p n = some { e with st := .fault, cause := cause, ecode := ecode } := by
  simp only [State.toFault]
  refine State.entry_modEntry _ ?_
  have hreads : ((s.purge p e.uid).part p).dropReads e = _ := ((s.purge p e.uid).part p).bufFrame_dropReads e
  rw [State.entry, State.part_modPart_self, hreads, State.part_purge]
  exact h

theorem State.edges_toFault (s : State) (p n : Nat) (e : Entry) (cause : Nat) (ecode : BitVec 6) :
    (s.toFault p n e cause ecode).edges = s.edges := by
  have hpurge : (s.purge p e.uid).edges = s.edges := by
    have h := (stopFrame_purge s p e.uid).state
    rw [h]
  simp only [State.toFault]
  revert hpurge
  generalize s.purge p e.uid = t
  intro hpurge
  rw [State.modEntry_state]
  exact hpurge

end Sys2Proof.Machine

section
open Sys2Proof Sys2Proof.Machine

/-- Settles O56: each event at the word, the link or the command it names. -/
theorem errors : Obligations.Errors := by
  unfold Obligations.Errors
  intro s d
  refine ⟨fun hf => ?_, fun g sec k hg hk hpad => ?_, fun g sec k x hk hx => ?_, fun g q i k hg hk hst => ?_, fun g i x hg hx hop => ?_,
    fun g c i k v hg hv hk => ?_, fun sec => ?_, fun e hd he hadj hin => ⟨?_, ?_, ?_⟩, fun e hd he hadj g => ?_, fun e => ?_,
    fun g q m n k hk hn => ?_⟩
  case refine_1 =>
    rw [exec, exec, execSramCorrectedError, execUcieFlitRetry, hf]
    exact ⟨rfl, rfl⟩
  case refine_2 =>
    refine ⟨(s.modCore g (fun c => { c with padP := tput none c.padP (8 * sec + k) (some 1) })).countSramue (dieOf g), ?_, ?_, ?_, ?_⟩
    · simp only [exec, execSramUncorrectedError, hg, hk, hpad, decide_true, Bool.and_self, if_true]
    · rw [State.countSramue, State.core_modDie, State.core_modCore_self]
      exact tget_tput_self ..
    · intro a
      rw [State.countSramue, State.core_modDie, State.core_modCore_self]
      rfl
    · rw [State.countSramue, State.die_modDie_self]
      rfl
  case refine_3 =>
    refine ⟨(s.setCached (.lsc g) sec (some (x.spoil k))).countSramue (dieOf g), ?_, fun h => ?_, fun h hp => ?_⟩
    · simp only [exec, execSramUncorrectedError, State.spoilCache, hx, hk, if_true]
    · refine ((s.cached_setCached (.lsc g) sec (some (x.spoil k)) sec).trans (if_pos rfl)).trans ?_
      have hno : (x.poison != 0 && x.ecode == 8) = false := by
        rcases h with h | h
        · rw [beq_eq_false_iff_ne.mpr h, Bool.and_false]
        · rw [bne_eq_false_iff_eq.mpr h, Bool.false_and]
      rw [CSec.spoil, hno, if_neg Bool.false_ne_true]
    · refine ((s.cached_setCached (.lsc g) sec (some (x.spoil k)) sec).trans (if_pos rfl)).trans ?_
      have hyes : (x.poison != 0 && x.ecode == 8) = true := by rw [bne_iff_ne.mpr hp, beq_iff_eq.mpr h, Bool.and_self]
      rw [CSec.spoil, hyes, if_pos rfl]
  case refine_4 =>
    have hspoil : (s.core g).spoilQueue (.cmd g q i) = some ((s.core g).modCmd q k.seq (fun k => { k with bad := some 1 })) := by
      simp only [Core.spoilQueue, hk, hst, Bool.false_eq_true, if_false]
    obtain ⟨hcore, hdie⟩ := State.spoilQueue_some hspoil hg
    refine ⟨s.spoilQueue g (.cmd g q i), rfl, ?_, hdie⟩
    rw [hcore]
    exact Core.getElem?_queue_modCmd _ hk
  case refine_5 =>
    have hspoil : (s.core g).spoilQueue (.acc g i)
        = some { s.core g with acc := (s.core g).acc.modify i (fun x => { x with bad := some 1 }) } := by
      simp only [Core.spoilQueue, hx, Bool.or_eq_true, if_pos hop]
    obtain ⟨hcore, hdie⟩ := State.spoilQueue_some hspoil hg
    refine ⟨s.spoilQueue g (.acc g i), rfl, ?_, hdie⟩
    rw [hcore]
    simp [hx]
  case refine_6 =>
    have hspoil : (s.core g).spoilQueue (.chan g c i k) = some ((s.core g).setChan c { (s.core g).chan c with
        spoilt := tput 0 ((s.core g).chan c).spoilt i (tget 0 ((s.core g).chan c).spoilt i ||| BitVec.ofNat 64 (2 ^ k)) }) := by
      simp only [Core.spoilQueue, hv, hk, if_true]
    obtain ⟨hcore, hdie⟩ := State.spoilQueue_some hspoil hg
    refine ⟨s.spoilQueue g (.chan g c i k), rfl, ?_, ?_, hdie⟩
    · rw [hcore, Core.chan, Core.setChan, tget_tput_self]
    · rw [hcore, Core.chan, Core.setChan, tget_tput_self]
      exact tget_tput_self ..
  case refine_7 =>
    refine ⟨{ s with hbmMeta := tput HMeta.reset s.hbmMeta sec (s.hmeta sec).spoil }, rfl, rfl, ?_⟩
    refine ⟨?_, fun h => ?_, fun hp h8 => ?_, fun k hk => (s.hmeta_spoil sec k).trans (if_neg hk)⟩
    · rw [State.hmeta_spoil, if_pos rfl]
      rfl
    · rw [State.hmeta_spoil, if_pos rfl]
      exact HMeta.ecode_spoil h
    · rw [State.hmeta_spoil, if_pos rfl]
      exact HMeta.spoil_of_eight hp h8
  case refine_8 =>
    intro g hg hacc hcq hw hdrain hlook
    have hlose := State.loseRequest_none (edge d e) hg hacc hcq hw hdrain hlook
    refine ⟨s.cut d e, execUcieFlitFailure_cut g hd he hadj hin ?_ rfl, rfl, s.uciefail_cut d e, rfl⟩
    rw [if_pos (Nat.lt_trans hg (by decide)), hlose, ite_self, Option.getD_none]
  case refine_9 =>
    intro g x bits sx hi hg hrun hemul hacc hpad hiced huses hop hstage hcom hcross hpatch
    obtain ⟨r, hst, hnone, hq, hcause, hecode, haddr, hvpc, hhbm, hedges⟩ :=
      State.accTrap_reported (c := (x.poisonCause 2).1) (x.poisonCause 2).2 hg hemul
        (show cPOISON ≠ cTRANSLATE by decide) hpatch
    have hon : s.onLink g 0 x (edge d e) = true := by
      simp only [State.onLink, hpad, huses, hop, hstage, hcross, hacc, List.take_zero, mayPass_nil, Bool.not_false, Bool.and_self]
    have hlose : s.loseRequest g (edge d e) = some (s.accTrap g 0 x (x.poisonCause 2).1 (x.poisonCause 2).2) := by
      have htakes : s.takesTrap g = true := by simp [State.takesTrap, hrun]
      have hfind : ((s.core g).acc.zipIdx).find? (fun x => s.onLink g x.2 x.1 (edge d e)) = some (x, 0) := by
        rw [hacc, List.zipIdx_singleton, List.find?_singleton, if_pos hon]
      simp only [State.loseRequest, hfind, hcom, htakes, State.mustTrap_zero, Bool.not_true, Bool.or_self, Bool.false_eq_true, if_false]
    refine ⟨(s.accTrap g 0 x (x.poisonCause 2).1 (x.poisonCause 2).2).cut d e, r,
      execUcieFlitFailure_cut g hd he hadj hin ?_ hedges, ?_, hst, hnone, ?_, hcause, hecode, haddr, hvpc, hhbm⟩
    · simp only [Nat.lt_trans hg (by decide : 128 < 136), if_true, hrun, hiced, hlose, Option.getD_some]
      rfl
    · rw [State.edges_cut, hedges]
    · rw [State.trapq_cut]
      exact hq
  case refine_10 =>
    intro p n en hp hlive hst hfault ⟨f, hinstr⟩ ⟨pte, bits, hwalk, huses⟩
    have hentry : s.entry p n = some en := State.entry_of_live (by rw [hlive]; exact List.mem_singleton_self _)
    have hlose : s.loseEntry p (edge d e) = some (s.toFault p n en cERRBIT 2) := by
      simp only [State.loseEntry, hlive, List.find?_singleton, hst, hfault, hinstr, hwalk, huses]
      rfl
    refine ⟨(s.toFault p n en cERRBIT 2).cut d e, execUcieFlitFailure_cut (136 + p) hd he hadj hin ?_ (State.edges_toFault ..), ?_, ?_⟩
    · rw [if_neg (by omega), if_pos (by omega), Nat.add_sub_cancel_left, hlose, Option.getD_some]
    · rw [State.edges_cut, State.edges_toFault]
    · rw [State.entry_cut]
      exact State.entry_toFault cERRBIT 2 hentry
  case refine_11 => simp [exec, execUcieFlitFailure, hadj]
  case refine_12 =>
    refine ⟨_, rfl, ?_, fun x hx => ?_⟩
    · simp
    · simp [hx]
  case refine_13 =>
    have hpos : n ≠ 0 := Nat.ne_of_gt hn
    let t := s.modDie (dieOf g) (fun x => { x with replay := min (x.replay + min n 2) (0xFFFF * 1024 + 1023) })
    have ht : t.die (dieOf g) = { s.die (dieOf g) with replay := min ((s.die (dieOf g)).replay + min n 2) (0xFFFF * 1024 + 1023) } :=
      s.die_modDie_self _ _
    by_cases h3 : n < 3
    · refine ⟨t, rfl, rfl, ?_, fun _ => ⟨?_, ?_⟩, fun h => absurd h (Nat.not_le.mpr h3)⟩
      · rw [ht]
        rfl
      · simp only [exec, execTimingReplay, hk, if_neg hpos, if_pos h3, t]
      · rw [ht]
    · refine ⟨t.modDie (dieOf g) (fun x => { x with repfail := satAdd 0xFFFF x.repfail }), rfl, rfl, ?_,
        fun h => absurd h h3, fun _ => ⟨?_, ?_⟩⟩
      · rw [State.die_modDie_self, ht]
        rfl
      · simp only [exec, execTimingReplay, hk, if_neg hpos, if_neg h3, t]
      · rw [State.die_modDie_self, ht]
        rfl

end
end

section
/-! PROOFS. Engine commands start, complete and are killed (R184 to R186, R209, R264). -/

namespace Sys2Proof.Machine

/-! A queue examines the command at its head (R184). -/

section
variable {s : State} {g : Nat} {q : Eng} {k : Cmd} {f : EngF}

theorem State.queueRuns_of_runs (hr : Runs s g) (he : (s.core g).enginesRun = true) (hsvc : (s.core g).svcCmd = none) (q : Eng) :
    s.queueRuns g q = true := by
  simp only [State.queueRuns, he, hr.up, hr.run, hsvc]
  rfl

/-- Whether the head is a command of a gang that has dissolved (R210). -/
def Core.orphan (c : Core) (k : Cmd) : Bool :=
  c.gangOff && (match k.instr with
    | .mm _ => true
    | .mmDrain _ => true
    | .mmDrainQ0 _ => true
    | _ => false)

/-- Whether the head is an `mm` of a gang (R209). -/
def Core.ganged (c : Core) (k : Cmd) : Bool :=
  match k.instr with
  | .mm _ => c.gang.isSome
  | _ => false

/-- Whether the head is an `mm.gang` that can form no gang (R208). -/
def State.gangRefused (s : State) (g : Nat) (k : Cmd) : Bool :=
  match gangArgs k with
  | some (w, n) => s.gangBad g w n
  | none => false

/-- R184: the head of MQ or CQ once it is its turn, by what its wait finds. -/
theorem State.engineStart_turn (hq : q ≠ .v) (hruns : s.queueRuns g q = true) (hfroz : s.frozenSect g q = false)
    (hnext : (s.core g).nextCmd q = some k) (hfields : engFields k.instr = some f) (hturn : (s.core g).turnsOpen q k f = true) :
    s.engineStart g q =
      match (s.core g).cmdWait f with
      | .err => s.cmdSkip g q k f
      | .no => s
      | .ok =>
        if (s.core g).orphan k then (s.modCore g (fun c => { c with gangOff := false })).trapCmd g q k { code := cTEAM } 0 0
        else if s.gangRefused g k then s.trapCmd g q k { code := cTEAM } 0 0
        else if (s.core g).ganged k then s.gangStart g k f
        else s.cmdBegin g q k f := by
  cases q
  case v => exact absurd rfl hq
  all_goals
    simp only [State.engineStart, hruns, hfroz, hnext, hfields, hturn, Bool.not_true, Bool.or_self, Bool.false_eq_true, if_false]
    rfl

theorem Core.cmdWait_ok {c : Core} (h : f.wn = 0 ∨ (flagErr (c.flag f.wf.toNat) = false ∧ f.wn.toNat ≤ flagCount (c.flag f.wf.toNat))) :
    c.cmdWait f = .ok := by
  unfold Core.cmdWait
  split
  · rfl
  case isFalse hn =>
    obtain ⟨he, hc⟩ := h.resolve_left hn
    simp only [flagWait, he, hc, Bool.false_eq_true, if_false, if_true]

theorem Core.cmdWait_err {c : Core} (hn : f.wn ≠ 0) (he : flagErr (c.flag f.wf.toNat) = true) : c.cmdWait f = .err := by
  simp only [Core.cmdWait, if_neg hn, flagWait, he, if_true]

/-- Only an `mm.gang` names a range of a gang. -/
theorem mmGang_of_gangArgs {w n : Nat} (h : gangArgs k = some (w, n)) : ∃ e, k.instr = .mmGang e := by
  unfold gangArgs at h
  split at h
  case h_1 hi _ => exact ⟨_, hi⟩
  case h_2 => cases h

/-- A command of CQ is in no gang. -/
theorem Core.free_of_copy {c : Core} (h : takesTag k.instr = true ∨ isInv k.instr = true) :
    c.orphan k = false ∧ s.gangRefused g k = false ∧ c.ganged k = false := by
  unfold Core.orphan State.gangRefused Core.ganged gangArgs
  cases hi : k.instr
  case cp | cpQ2 | cpQ3 | cpFill | cpGather | tlbInv | tlbInvAll => exact ⟨Bool.and_false _, rfl, rfl⟩
  all_goals
    rw [hi] at h
    exact (h.elim Bool.false_ne_true Bool.false_ne_true).elim

end

/-! What the start of a command leaves (R184). -/

/-- A queue whose commands keep number, instruction and poison, and stay started. -/
def SameCmds (l l' : List Cmd) : Prop :=
  ∃ h : Cmd → Cmd, l' = l.map h ∧ ∀ x, (h x).seq = x.seq ∧ (h x).instr = x.instr ∧ (h x).bad = x.bad
    ∧ (x.started = true → (h x).started = true)

theorem SameCmds.rfl {l : List Cmd} : SameCmds l l := ⟨id, (List.map_id _).symm, fun _ => ⟨Eq.refl _, Eq.refl _, Eq.refl _, id⟩⟩

theorem SameCmds.of_eq {l l' : List Cmd} (h : l' = l) : SameCmds l l' := h ▸ .rfl

theorem SameCmds.trans {l l' l'' : List Cmd} : SameCmds l l' → SameCmds l' l'' → SameCmds l l'' := by
  rintro ⟨h, rfl, hh⟩ ⟨k, rfl, hk⟩
  refine ⟨k ∘ h, List.map_map .., fun x => ?_⟩
  obtain ⟨h₁, h₂, h₃, h₄⟩ := hh x
  obtain ⟨k₁, k₂, k₃, k₄⟩ := hk (h x)
  exact ⟨k₁.trans h₁, k₂.trans h₂, k₃.trans h₃, fun e => k₄ (h₄ e)⟩

/-- A change to the commands of a number. -/
theorem sameCmds_mod {l : List Cmd} {n : Nat} {f : Cmd → Cmd} (h : ∀ x, (f x).seq = x.seq ∧ (f x).instr = x.instr ∧ (f x).bad = x.bad
    ∧ (x.started = true → (f x).started = true)) : SameCmds l (l.map (fun x => if x.seq = n then f x else x)) := by
  refine ⟨_, Eq.refl _, fun x => ?_⟩
  split
  · exact h x
  · exact ⟨rfl, rfl, rfl, id⟩

theorem State.core_dropLats (s : State) (secs : List Nat) (g : Nat) : (s.dropLats secs).core g = s.core g :=
  List.foldlRecOn (motive := fun t : State => t.core g = s.core g) _ _ rfl fun _ h _ _ => h

theorem State.die_dropLats (s : State) (secs : List Nat) (d : Nat) : (s.dropLats secs).die d = s.die d :=
  List.foldlRecOn (motive := fun t : State => t.die d = s.die d) _ _ rfl fun _ h _ _ => h

/-- What beginning a command keeps of its core: flag words, an armed injection, and the commands of its queue. -/
structure Core.Begun (q : Eng) (c c' : Core) : Prop where
  flags : c'.flags = c.flags
  errinj : c'.errinj = c.errinj
  queue : SameCmds (c.queue q) (c'.queue q)

theorem Core.Begun.rfl {q : Eng} {c : Core} : Core.Begun q c c := ⟨Eq.refl _, Eq.refl _, .rfl⟩

theorem Core.begun_setBank (q : Eng) (c : Core) (b : Bool) (x : Bank) : Core.Begun q c (c.setBank b x) := by
  cases b <;> cases q <;> exact ⟨rfl, rfl, .rfl⟩

theorem Core.begun_cBegin (c : Core) (k : Cmd) : Core.Begun .c c (c.cBegin k) := by
  have htag : ∀ o : Option Nat, Core.Begun .c c (match o with
      | some t => c.setTag t { c.tag t with st := .active }
      | none => c) := fun o => by cases o <;> exact ⟨rfl, rfl, .rfl⟩
  unfold Core.cBegin
  extract_lets c₁ c₂
  have h₁ : Core.Begun .c c c₁ := htag k.tag
  have h₂ : Core.Begun .c c c₂ := ⟨h₁.flags, h₁.errinj, h₁.queue.trans (sameCmds_mod fun x => ⟨rfl, rfl, rfl, id⟩)⟩
  split
  · exact ⟨h₂.flags, h₂.errinj, h₂.queue⟩
  · exact h₂

theorem State.begun_mmBegin (s : State) (g : Nat) (q : Eng) (secs : List Nat) (x : Mm) :
    Core.Begun q (s.core g) ((s.mmBegin g secs x).core g) := by
  have hzero : ∀ t : State, (if x.zero then secs.foldl (fun s y => s.setSector y ((s.sector y).setAcc x.bank [])) t else t).core g
      = t.core g := fun t => by
    split
    · exact List.foldlRecOn (motive := fun u : State => u.core g = t.core g) _ _ rfl fun _ h _ _ => h
    · rfl
  simp only [State.mmBegin, State.core_modCore_self, hzero, State.core_dropLats]
  exact Core.begun_setBank ..

/-- Beginning a command other than `mm.gang.off`. -/
theorem State.begun_cmdOpen (s : State) (g : Nat) (q : Eng) {k : Cmd} (h : ∀ e, k.instr ≠ .mmGangOff e) :
    Core.Begun q (s.core g) ((s.cmdOpen g q k).core g) := by
  unfold State.cmdOpen
  split
  case h_1 => exact State.begun_mmBegin ..
  case h_2 f hf => exact absurd hf (h f)
  case h_3 =>
    cases q
    case c => simpa using Core.begun_cBegin (s.core g) k
    all_goals exact .rfl

/-- The core of a command that starts, before it begins: the count is taken, and the command has started. -/
def Core.started (c : Core) (g : Nat) (q : Eng) (k : Cmd) (f : EngF) : Core :=
  let c := if f.wn = 0 then c else c.setFlagAt f.wf.toNat (engTurn q + 4) (flagSub (c.flag f.wf.toNat) f.wn.toNat)
  c.modCmd q k.seq (fun k =>
    { k with started := true, stall := 0, gang := if q == .m then c.gang else none,
             secs := if q == .m then k.startSecs g c.gang else [] })

theorem State.cmdStart_eq (s : State) (g : Nat) (q : Eng) (k : Cmd) (f : EngF) :
    s.cmdStart g q k f = (s.modCore g (fun c => c.started g q k f)).cmdOpen g q k := rfl

theorem Core.queue_modCmd (c : Core) (q : Eng) (n : Nat) (f : Cmd → Cmd) :
    (c.modCmd q n f).queue q = (c.queue q).map (fun k => if k.seq = n then f k else k) := by
  rw [Core.modCmd, Core.queue_setQueue]

/-- The core of a command once it has started: each command keeps what `SameCmds` names, those of its number have started, and its
wait has taken its count. -/
theorem Core.started_started (c : Core) (g : Nat) (q : Eng) (k : Cmd) (f : EngF) :
    SameCmds (c.queue q) ((c.started g q k f).queue q) ∧ (∀ x ∈ (c.started g q k f).queue q, x.seq = k.seq → x.started = true)
      ∧ (c.started g q k f).errinj = c.errinj ∧ (f.wn = 0 → (c.started g q k f).flags = c.flags)
      ∧ (f.wn ≠ 0 → (c.started g q k f).flag f.wf.toNat = flagSub (c.flag f.wf.toNat) f.wn.toNat) := by
  unfold Core.started
  extract_lets c₁
  have hqueue : c₁.queue q = c.queue q := by
    unfold c₁
    split
    · rfl
    · cases q <;> rfl
  have herr : c₁.errinj = c.errinj := by
    unfold c₁
    split <;> rfl
  have hflags : ∀ h : Cmd → Cmd, (c₁.modCmd q k.seq h).flags = c₁.flags ∧ (c₁.modCmd q k.seq h).errinj = c₁.errinj := fun h => by
    cases q <;> exact ⟨rfl, rfl⟩
  refine ⟨?_, fun x hx hs => ?_, ?_, fun hn => ?_, fun hn => ?_⟩
  · rw [Core.queue_modCmd, hqueue]
    exact sameCmds_mod fun x => ⟨rfl, rfl, rfl, fun _ => rfl⟩
  · rw [Core.queue_modCmd] at hx
    obtain ⟨y, hy, rfl⟩ := List.mem_map.mp hx
    by_cases hy : y.seq = k.seq
    · rw [if_pos hy]
    · rw [if_neg hy] at hs
      exact absurd hs hy
  · rw [(hflags _).2, herr]
  · rw [(hflags _).1]
    unfold c₁
    rw [if_pos hn]
  · rw [Core.flag, (hflags _).1]
    unfold c₁
    rw [if_neg hn]
    exact tget_tput_self ..

/-- R184, R357: a command whose entry is sound starts where no injection is armed for it. -/
theorem State.cmdBegin_starts {s : State} {g : Nat} {q : Eng} {k : Cmd} (f : EngF) (hinj : (s.core g).injection k.instr = none)
    (hbad : k.bad = none) (hone : ∀ x ∈ (s.core g).queue q, x.seq = k.seq → x = k) (hno : ∀ e, k.instr ≠ .mmGangOff e) :
    s.cmdBegin g q k f = s.cmdStart g q k f
      ∧ (∀ x ∈ ((s.cmdStart g q k f).core g).queue q, x.seq = k.seq → x.started = true)
      ∧ (f.wn ≠ 0 → ((s.cmdStart g q k f).core g).flag f.wf.toNat = flagSub ((s.core g).flag f.wf.toNat) f.wn.toNat)
      ∧ (f.wn = 0 → ((s.cmdStart g q k f).core g).flags = (s.core g).flags) := by
  obtain ⟨hsame, hst, herr, hflags, hflag⟩ := (s.core g).started_started g q k f
  have hbegun := State.begun_cmdOpen (s.modCore g (fun c => c.started g q k f)) g q hno
  rw [State.core_modCore_self] at hbegun
  obtain ⟨hf, he, hq⟩ := hbegun
  have hall := hsame.trans hq
  rw [← State.cmdStart_eq] at *
  obtain ⟨h, hmap, hh⟩ := hq
  refine ⟨?_, fun y hy hs => ?_, fun hn => ?_, fun hn => hf.trans (hflags hn)⟩
  · have hsound : ∀ y ∈ ((s.cmdStart g q k f).core g).queue q, y.seq = k.seq →
        (s.cmdStart g q k f).inject g q y = s.cmdStart g q k f := fun y hy hs => by
      obtain ⟨h', hmap', hh'⟩ := hall
      rw [hmap'] at hy
      obtain ⟨x, hx, rfl⟩ := List.mem_map.mp hy
      obtain ⟨hseq, hinstr, hbad', -⟩ := hh' x
      have hxk : x = k := hone x hx (hseq.symm.trans hs)
      have hno : ((s.cmdStart g q k f).core g).injection (h' x).instr = none := by
        rw [hinstr, hxk, Core.injection, he, herr]
        exact hinj
      have hb : (h' x).bad = none := by rw [hbad', hxk, hbad]
      rw [State.inject, hno, hb]
    unfold State.cmdBegin State.injectAt
    split
    case h_1 y hfind =>
      split
      · rfl
      · exact hsound y (List.mem_of_find?_eq_some hfind) (by simpa using List.find?_some hfind)
    case h_2 => rfl
  · rw [hmap] at hy
    obtain ⟨x, hx, rfl⟩ := List.mem_map.mp hy
    obtain ⟨hseq, -, -, hstay⟩ := hh x
    exact hstay (hst x hx (hseq.symm.trans hs))
  · rw [Core.flag, hf]
    exact hflag hn

/-! A command completes or is killed (R185, R186). -/

/-- What completing a command makes of its core. -/
def Core.finish (c : Core) (q : Eng) (k : Cmd) (err : Option (BitVec 6)) (outs : List Val) : Core :=
  let c := c.applySignal q k.instr err
  let c := match err, engFields k.instr with
    | some e, some f =>
      if f.sn = 0 && !k.skipped && e != 4 then { c with pendErr := c.pendErr ++ [(k.seq, k.vpc, e)] } else c
    | _, _ => c
  let c := c.modTag k (fun t => { t with st := .done, err := err.isSome, ecode := err.getD 0 })
  ((c.deliverAll k.dest outs).modCmd q k.seq (fun k => { k with started := true, done := true })).popDone q

theorem State.finishCmd_eq (s : State) (g : Nat) (q : Eng) (k : Cmd) (err : Option (BitVec 6)) (outs : List Val) :
    s.finishCmd g q k err outs = s.modCore g (fun c => c.finish q k err outs) := rfl

/-- The signal, the error kept for a report, and the tag of a command that is killed (R185, R186, R264). -/
def Core.failed (c : Core) (q : Eng) (k : Cmd) (e : BitVec 6) (f : EngF) : Core :=
  let c := c.applySignal q k.instr (some e)
  let c := if f.sn = 0 && !k.skipped && e != 4 then { c with pendErr := c.pendErr ++ [(k.seq, k.vpc, e)] } else c
  c.modTag k (fun t => { t with st := .done, err := true, ecode := e })

theorem Core.finish_failed {c : Core} {q : Eng} {k : Cmd} {f : EngF} (e : BitVec 6) (h : engFields k.instr = some f) :
    c.finish q k (some e) []
      = ((c.failed q k e f).modCmd q k.seq (fun k => { k with started := true, done := true })).popDone q := by
  simp only [Core.finish, h, Core.failed, Core.deliverAll, Option.isSome_some, Option.getD_some]

/-- Completed commands leave a queue; the rest of the core stays. -/
theorem Core.completed_frame (c : Core) (q : Eng) (n : Nat) :
    (c.modCmd q n (fun k => { k with started := true, done := true })).popDone q
      = c.setQueue q (((c.queue q).map (fun k => if k.seq = n then { k with started := true, done := true } else k)).dropWhile (·.done)) := by
  cases q <;> rfl

theorem Core.done_of_completed {c : Core} {q : Eng} {n : Nat} {x : Cmd}
    (h : x ∈ ((c.modCmd q n (fun k => { k with started := true, done := true })).popDone q).queue q) (hs : x.seq = n) : x.done = true := by
  rw [Core.completed_frame, Core.queue_setQueue] at h
  obtain ⟨y, -, rfl⟩ := List.mem_map.mp ((List.dropWhile_sublist _).subset h)
  by_cases hy : y.seq = n
  · rw [if_pos hy]
  · rw [if_neg hy] at hs
    exact absurd hs hy

theorem Core.setQueue_keeps (c : Core) (q : Eng) (l : List Cmd) : (c.setQueue q l).flags = c.flags ∧ (c.setQueue q l).pendErr = c.pendErr
    ∧ (c.setQueue q l).tags = c.tags ∧ (c.setQueue q l).bank0 = c.bank0 ∧ (c.setQueue q l).bank1 = c.bank1 := by
  cases q <;> exact ⟨rfl, rfl, rfl, rfl, rfl⟩

/-- Whether the error of a killed command is kept for a report (R186): it has no flag to show it. -/
def Cmd.keepsErr (k : Cmd) (e : BitVec 6) (f : EngF) : Bool := f.sn = 0 && !k.skipped && e != 4

theorem Core.modTag_frame (c : Core) (k : Cmd) (f : Tag → Tag) : c.modTag k f = { c with tags := (c.modTag k f).tags } := by
  unfold Core.modTag
  split
  · split <;> rfl
  · rfl

theorem Core.tags_modTag_congr {c c' : Core} {k : Cmd} {f : Tag → Tag} (h : c.tags = c'.tags) :
    (c.modTag k f).tags = (c'.modTag k f).tags := by
  cases hk : k.tag with
  | none => simp only [Core.modTag, hk, h]
  | some i =>
    have ht : c.tag i = c'.tag i := by rw [Core.tag, h, Core.tag]
    simp only [Core.modTag, hk, ht]
    split
    · exact h
    · simp only [Core.setTag, h]

theorem Core.tag_modTag {c : Core} {k : Cmd} {i : Nat} (f : Tag → Tag) (hk : k.tag = some i) (hs : (c.tag i).st ≠ .free) :
    (c.modTag k f).tag i = f (c.tag i) := by
  simp only [Core.modTag, hk, beq_eq_false_iff_ne.mpr hs, Bool.false_eq_true, if_false]
  exact tget_tput_self ..

theorem Core.applySignal_frame (c : Core) (q : Eng) (i : Instr) (e : Option (BitVec 6)) :
    c.applySignal q i e = { c with flags := (c.applySignal q i e).flags, flagTurn := (c.applySignal q i e).flagTurn } := by
  unfold Core.applySignal
  split
  · rfl
  · split
    · rfl
    · split <;> rfl

theorem Core.failed_frame (c : Core) (q : Eng) (k : Cmd) (e : BitVec 6) (f : EngF) :
    c.failed q k e f = { c with
      flags := (c.applySignal q k.instr (some e)).flags, flagTurn := (c.applySignal q k.instr (some e)).flagTurn,
      pendErr := if k.keepsErr e f then c.pendErr ++ [(k.seq, k.vpc, e)] else c.pendErr,
      tags := (c.modTag k (fun t => { t with st := .done, err := true, ecode := e })).tags } := by
  have hsignal := c.applySignal_frame q k.instr (some e)
  unfold Core.failed
  extract_lets c₁ c₂
  have h₂ : c₂ = { c with
      flags := (c.applySignal q k.instr (some e)).flags, flagTurn := (c.applySignal q k.instr (some e)).flagTurn,
      pendErr := if k.keepsErr e f then c.pendErr ++ [(k.seq, k.vpc, e)] else c.pendErr } := by
    unfold c₂ c₁ Cmd.keepsErr
    rw [hsignal]
    split <;> rfl
  rw [Core.modTag_frame, Core.tags_modTag_congr (c := c₂) (c' := c) (by rw [h₂]), h₂]

/-- R185, R186, R264: the core of a killed command: its signal flag is in error, or the error is kept for a report; its tag is
done with the error. -/
structure Core.Killed (c c' : Core) (q : Eng) (k : Cmd) (f : EngF) (e : BitVec 6) : Prop where
  signal : f.sn ≠ 0 → c'.flag f.sf.toNat = flagSetErr (c.flag f.sf.toNat) e.toNat ∧ c'.pendErr = c.pendErr
  kept : f.sn = 0 → c'.flags = c.flags ∧ (k.skipped = false → e ≠ 4 → c'.pendErr = c.pendErr ++ [(k.seq, k.vpc, e)])
  tag : ∀ i, k.tag = some i → (c.tag i).st ≠ .free → (c'.tag i).st = .done ∧ (c'.tag i).err = true ∧ (c'.tag i).ecode = e
  done : ∀ x ∈ c'.queue q, x.seq = k.seq → x.done = true
  banks : c'.bank0 = c.bank0 ∧ c'.bank1 = c.bank1

theorem Core.finish_killed (c : Core) (q : Eng) {k : Cmd} {f : EngF} (e : BitVec 6) (h : engFields k.instr = some f) :
    c.Killed (c.finish q k (some e) []) q k f e := by
  have hfailed := c.failed_frame q k e f
  have hdone := fun x => Core.done_of_completed (c := c.failed q k e f) (q := q) (n := k.seq) (x := x)
  rw [Core.finish_failed e h]
  obtain ⟨hflags, hpend, htags, hbank0, hbank1⟩ := (c.failed q k e f).setQueue_keeps q
    ((((c.failed q k e f).queue q).map (fun x => if x.seq = k.seq then { x with started := true, done := true } else x)).dropWhile
      (·.done))
  rw [← Core.completed_frame] at hflags hpend htags hbank0 hbank1
  replace hflags := hflags.trans (show (c.failed q k e f).flags = (c.applySignal q k.instr (some e)).flags by rw [hfailed])
  replace hpend := hpend.trans (show (c.failed q k e f).pendErr
    = if k.keepsErr e f then c.pendErr ++ [(k.seq, k.vpc, e)] else c.pendErr by rw [hfailed])
  replace htags := htags.trans (show (c.failed q k e f).tags
    = (c.modTag k (fun t => { t with st := .done, err := true, ecode := e })).tags by rw [hfailed])
  replace hbank0 := hbank0.trans (show (c.failed q k e f).bank0 = c.bank0 by rw [hfailed])
  replace hbank1 := hbank1.trans (show (c.failed q k e f).bank1 = c.bank1 by rw [hfailed])
  refine ⟨fun hn => ⟨?_, ?_⟩, fun hn => ⟨?_, fun hk he => ?_⟩, fun i hi hst => ?_, hdone, hbank0, hbank1⟩
  · rw [Core.flag, hflags]
    simp only [Core.applySignal, h, if_neg hn]
    exact tget_tput_self ..
  · rw [hpend]
    have hno : k.keepsErr e f = false := by rw [Cmd.keepsErr, decide_eq_false hn]; rfl
    exact if_neg (ne_true_of_eq_false hno)
  · rw [hflags]
    simp only [Core.applySignal, h, if_pos hn]
  · rw [hpend]
    have hyes : k.keepsErr e f = true := by rw [Cmd.keepsErr, decide_eq_true hn, hk, bne_iff_ne.mpr he]; rfl
    exact if_pos hyes
  · rw [Core.tag, htags, ← Core.tag, Core.tag_modTag _ hi hst]
    exact ⟨rfl, rfl, rfl⟩

/-- R186, R199: an `mm` in no gang that is killed spoils its bank. -/
theorem State.lockKill_alone {s : State} {g : Nat} {k : Cmd} {x : Mm} (e : BitVec 6) (hg : k.gang = none)
    (hr : (s.core g).mmRunning = some (k, x)) : s.lockKill g k e = s.mmKill g k x.bank e := by
  simp only [State.lockKill, State.lockCores, hg, List.foldl_cons, List.foldl_nil, hr]

theorem State.mmKill_killed (s : State) (g : Nat) {k : Cmd} (b : Bool) {f : EngF} (e : BitVec 6) (h : engFields k.instr = some f) (hn : f.sn ≠ 0) :
    ((s.mmKill g k b e).core g).flag f.sf.toNat = flagSetErr ((s.core g).flag f.sf.toNat) e.toNat
      ∧ (((s.mmKill g k b e).core g).bank b).poison = true := by
  let c := (s.core g).setBank b { (s.core g).bank b with poison := true }
  have hcore : (s.mmKill g k b e).core g = c.finish .m k (some e) [] := by
    rw [State.mmKill, State.finishCmd_eq, State.core_modCore_self, State.core_dropLats, State.core_modCore_self]
  have hkilled := c.finish_killed .m e h
  rw [hcore]
  refine ⟨?_, ?_⟩
  · rw [(hkilled.signal hn).1]
    unfold c
    cases b <;> rfl
  · obtain ⟨h0, h1⟩ := hkilled.banks
    unfold Core.bank
    rw [h0, h1]
    unfold c
    cases b <;> rfl

/-- R186, R226: the vector entry that executes is killed. -/
theorem State.cmdKill_v {s : State} {g n : Nat} {k : Cmd} (e : BitVec 6) (h : (s.core g).vq[n]? = some k) :
    ((s.cmdKill g .v k e).core g).vqErr = some ((s.core g).vqErr.getD e)
      ∧ ((s.cmdKill g .v k e).core g).vq[n]?
        = some { k with started := true, killed := true, out := (kindsOf k.instr).map (fun v => .poisoned v e) } := by
  simp only [State.cmdKill, State.core_modCore_self]
  exact ⟨trivial, Core.getElem?_queue_modCmd (q := .v)
    (fun k => { k with started := true, killed := true, out := (kindsOf k.instr).map (fun v => .poisoned v e) }) h⟩

end Sys2Proof.Machine
end

section
/-! PROOFS. Traps of engine commands, and waits that pass their bounds (R268, R296, R309, R310). -/

namespace Sys2Proof.Machine

/-! The report of a trap. -/

/-- What the report of a trap leaves: the core has trapped, its wait over where no command trapped, and the record stands last. -/
structure Recorded (s t : State) (g : Nat) (i : TrapInfo) (p : TrapPend) : Prop where
  cstate : (t.core g).cstate = .trapped
  wait : (t.core g).wait = if p.ofCmd then (s.core g).wait else none
  queued : (t.die (dieOf g)).trapq = (s.die (dieOf g)).trapq ++ [i]
  tags : (t.core g).tags = (s.core g).tags
  cq : (t.core g).cq = (s.core g).cq

theorem State.report_recorded (s : State) {g : Nat} (i : TrapInfo) (p : TrapPend) (cres : List Word) (hg : g < 128) :
    Recorded s (s.report g i p cres) g i p := by
  have hne : g ≠ svcOf (dieOf g) := by simp only [svcOf]; omega
  obtain ⟨u, hu⟩ : ∃ u, (if p.ofCmd then s else s.commitAll g) = u := ⟨_, rfl⟩
  have hucore : u.core g = { s.core g with acc := (u.core g).acc } := by
    rw [← hu]
    split
    · rfl
    · exact s.commitFirst_core g _ g
  have hudie : u.die (dieOf g) = s.die (dieOf g) := by
    rw [← hu]
    split
    · rfl
    · rw [State.commitAll, State.commitFirst_state]
      rfl
  have hframe := State.gangFrame_dissolveGang (u.queueRecord (dieOf g) i) g
  have hcore : ((u.queueRecord (dieOf g) i).dissolveGang g).core g = _ := hframe.core g
  have hdie := hframe.die (dieOf g)
  simp only [State.report, hu]
  refine ⟨?_, ?_, ?_, ?_, ?_⟩
  · rw [State.core_modCore_self]
  · rw [State.core_modCore_self, hcore, State.core_queueRecord i hne, hucore]
  · rw [State.die_modCore, hdie]
    refine (State.trapq_queueRecord ..).trans ?_
    rw [hudie]
  · rw [State.core_modCore_self, hcore, State.core_queueRecord i hne, hucore]
  · rw [State.core_modCore_self, hcore, State.core_queueRecord i hne, hucore]

/-! The trap of a command (R296). -/

/-- What the trap of a command of a user core leaves. -/
structure CmdTrapped (s t : State) (g : Nat) (k : Cmd) (c : Cause) (res qpos : Nat) (r : TrapInfo) : Prop where
  cstate : (t.core g).cstate = .trapped
  queued : (t.die (dieOf g)).trapq = (s.die (dieOf g)).trapq ++ [r]
  cause : r.cause = c.code
  ecode : r.ecode = c.ecode
  addr : r.addr = c.addr
  vpc : r.vpc = k.vpc
  npc : r.npc = (s.core g).ctx.vpc
  res : r.res = res
  qpos : r.qpos = qpos
  core : r.core = g
  tags : (t.core g).tags = (s.core g).tags

/-- A command that stops stays where it is: besides its mark nothing changes. -/
theorem Core.setQueue_ctx (c : Core) (q : Eng) (l : List Cmd) : (c.setQueue q l).ctx = c.ctx ∧ (c.setQueue q l).cstate = c.cstate
    ∧ (c.setQueue q l).emul = c.emul ∧ (c.setQueue q l).part = c.part ∧ (c.setQueue q l).tags = c.tags := by
  cases q <;> exact ⟨rfl, rfl, rfl, rfl, rfl⟩

theorem State.stopCmd_keeps (s : State) (g : Nat) (q : Eng) (k : Cmd) :
    (((s.stopCmd g q k).core g).ctx = (s.core g).ctx ∧ ((s.stopCmd g q k).core g).cstate = (s.core g).cstate
      ∧ ((s.stopCmd g q k).core g).emul = (s.core g).emul ∧ ((s.stopCmd g q k).core g).part = (s.core g).part
      ∧ ((s.stopCmd g q k).core g).tags = (s.core g).tags) ∧ ∀ d, (s.stopCmd g q k).die d = s.die d := by
  unfold State.stopCmd
  split
  · exact ⟨⟨rfl, rfl, rfl, rfl, rfl⟩, fun _ => rfl⟩
  · rw [State.core_modCore_self]
    exact ⟨Core.setQueue_ctx .., fun _ => rfl⟩

theorem Core.abandon_none {c : Core} (h : c.emul = none) : c.abandon = c := by rw [Core.abandon, h]

/-- R296: the trap of a command of a user core in its own text, that no patch slot acts on. -/
theorem State.trapCmd_trapped {s : State} {g : Nat} (q : Eng) {k : Cmd} {c : Cause} (res qpos : Nat) (hg : g < 128)
    (hrun : (s.core g).cstate = .run) (hemul : (s.core g).emul = none)
    (hp : s.patchFor (dieOf g) (s.core g).part 1 (faultKey k.vpc c.code (if c.code = cTRANSLATE then c.sub else 0)) = none) :
    ∃ r, CmdTrapped s (s.trapCmd g q k c res qpos) g k c res qpos r
      ∧ ((s.trapCmd g q k c res qpos).core g).cq = ((s.stopCmd g q k).core g).cq := by
  obtain ⟨⟨hctx, hst, hem, hpart, htags⟩, hdie⟩ := s.stopCmd_keeps g q k
  let t := (s.stopCmd g q k).modCore g (·.abandon)
  have htcore : t.core g = (s.stopCmd g q k).core g :=
    (State.core_modCore_self ..).trans (Core.abandon_none (hem.trans hemul))
  let i := t.mkInfo g c k.vpc (t.core g).ctx.vpc res qpos
  let p : TrapPend := { info := i, queue := some q, cmdSeq := k.seq, kinds := k.kinds, len := 0 }
  have hipart : i.part = (s.core g).part := by
    change (t.core g).part = _
    rw [htcore, hpart]
  have hnone : s.trapCmd g q k c res qpos = t.report g i p [] := by
    have hgo : (((s.stopCmd g q k).core g).cstate != .run && ((s.stopCmd g q k).core g).cstate != .draining) = false := by
      rw [hst, hrun]
      rfl
    have hem' : ((s.stopCmd g q k).core g).emul = none := hem.trans hemul
    refine Eq.trans (b := t.trapMatched g p []) ?_ (State.trapMatched_unmatched [] (.inr ?_))
    · simp only [State.trapCmd, isSvc_of_lt hg, hgo, hem', Option.filter_none, Bool.false_eq_true, if_false, p, i, t]
    · change slotFor (t.die (dieOf g)).patches i.part 1 _ = none
      rw [hipart]
      change slotFor ((s.stopCmd g q k).die (dieOf g)).patches _ 1 _ = none
      rw [hdie]
      exact hp
  have hr := t.report_recorded i p [] hg
  have hnpc : (t.core g).ctx.vpc = (s.core g).ctx.vpc := by rw [htcore, hctx]
  rw [hnone]
  refine ⟨i, ⟨hr.cstate, hr.queued.trans ?_, rfl, rfl, rfl, rfl, hnpc, rfl, rfl, rfl, hr.tags.trans ?_⟩, hr.cq.trans ?_⟩
  · change ((s.stopCmd g q k).die (dieOf g)).trapq ++ [i] = _
    rw [hdie]
  · rw [htcore, htags]
  · rw [htcore]

/-! A copy that faults (R268). -/

/-- The core of a copy that stops at a fault: its command is stopped, and its tag says so. -/
def Core.stopCopy (c : Core) (k : Cmd) : Core :=
  (c.modCmd .c k.seq (fun k => { k with stopped := true })).modTag k (fun t => { t with st := .stopped })

theorem State.copyStop_eq (s : State) (g : Nat) (k : Cmd) (c : Cause) :
    s.copyStop g k c = (s.modCore g (fun x => x.stopCopy k)).trapCmd g .c k c 0 0 := rfl

/-- A fault of the translation leaves the state (R260). -/
theorem State.translate_fault {s : State} {g va : Nat} {n : Need} {c : Cause} (h : (s.translate g va n).1 = .error c) :
    (s.translate g va n).2 = s := by
  revert h
  unfold State.translate
  split
  · split
    · intro h
      cases h
    · exact fun _ => rfl
  · split
    · exact fun _ => rfl
    · split
      · exact fun _ => rfl
      · intro h
        cases h

/-- So does one of a translation that a copy took ahead (R261). -/
theorem State.copyTranslate_fault {s : State} {g va : Nat} {k : Cmd} {n : Need} {c : Cause}
    (h : (s.copyTranslate g k va n).1 = .error c) : s.copyTranslate g k va n = (.error c, s) := by
  refine Prod.ext h ?_
  revert h
  unfold State.copyTranslate
  split
  · exact State.translate_fault
  · exact fun _ => rfl

/-- R268: a copy whose next read or write faults. -/
theorem State.copyElem_fault {s : State} {g va : Nat} {k : Cmd} {c : Cause}
    (h : (∃ f, k.instr = .cp f) ∧ tget none k.bBuf 0 = none ∧ (Desc.of ((k.desc[1]?).getD 0)).space = 0
          ∧ va = ((Desc.of ((k.desc[1]?).getD 0)).place k.prog).1 ∧ (s.copyTranslate g k va Need.load).1 = .error c
        ∨ (∃ f, k.instr = .cpFill f) ∧ (Desc.of ((k.desc[0]?).getD 0)).space = 0
          ∧ va = ((Desc.of ((k.desc[0]?).getD 0)).place k.prog).1 ∧ (s.copyTranslate g k va Need.store).1 = .error c
          ∧ (s.core g).writeAhead k 0 va (elemBytes (Desc.of ((k.desc[0]?).getD 0)).fmt) = false) :
    s.copyElem g k = s.copyStop g k c := by
  rcases h with ⟨⟨f, hi⟩, hbuf, hspace, rfl, herr⟩ | ⟨⟨f, hi⟩, hspace, rfl, herr, hahead⟩
  · simp only [State.copyElem, hi, hbuf, State.copyRead, State.readElem, hspace, State.copyTranslate_fault herr]
    rfl
  · simp only [State.copyElem, hi, State.copyWrite, State.writeElem, hspace, hahead, State.copyTranslate_fault herr]
    rfl

theorem Core.cq_modTag (c : Core) (k : Cmd) (f : Tag → Tag) : (c.modTag k f).cq = c.cq := by
  rw [Core.modTag_frame]

/-- R268: the core of a stopped copy. -/
theorem Core.stopCopy_stopped (c : Core) (k : Cmd) :
    (∀ x ∈ (c.stopCopy k).cq, x.seq = k.seq → x.stopped = true)
      ∧ (∀ i, k.tag = some i → (c.tag i).st ≠ .free → ((c.stopCopy k).tag i).st = .stopped)
      ∧ (∀ x ∈ c.cq, ∃ y ∈ (c.stopCopy k).cq, y.seq = x.seq)
      ∧ (c.stopCopy k).ctx = c.ctx ∧ (c.stopCopy k).cstate = c.cstate ∧ (c.stopCopy k).emul = c.emul ∧ (c.stopCopy k).part = c.part := by
  have hcq : (c.stopCopy k).cq = c.cq.map (fun x => if x.seq = k.seq then { x with stopped := true } else x) := Core.cq_modTag ..
  refine ⟨fun x hx hs => ?_, fun i hi hst => ?_, fun x hx => ?_, ?_⟩
  · rw [hcq] at hx
    obtain ⟨y, -, rfl⟩ := List.mem_map.mp hx
    by_cases hy : y.seq = k.seq
    · rw [if_pos hy]
    · rw [if_neg hy] at hs
      exact absurd hs hy
  · exact congrArg Tag.st (Core.tag_modTag (c := c.modCmd .c k.seq (fun k => { k with stopped := true }))
      (fun t => { t with st := .stopped }) hi hst)
  · rw [hcq]
    refine ⟨_, List.mem_map_of_mem hx, ?_⟩
    split <;> rfl
  · rw [Core.stopCopy, Core.modTag_frame]
    exact ⟨rfl, rfl, rfl, rfl⟩

/-- R268: a copy that faults stops, and traps at its command. -/
theorem State.copyStop_trapped {s : State} {g : Nat} {k : Cmd} {c : Cause} (hg : g < 128) (hrun : (s.core g).cstate = .run)
    (hemul : (s.core g).emul = none)
    (hp : s.patchFor (dieOf g) (s.core g).part 1 (faultKey k.vpc c.code (if c.code = cTRANSLATE then c.sub else 0)) = none) :
    ∃ r, (∃ u, CmdTrapped u (s.copyStop g k c) g k c 0 0 r ∧ (u.core g).ctx = (s.core g).ctx ∧ ∀ d, u.die d = s.die d)
      ∧ (∀ x ∈ ((s.copyStop g k c).core g).cq, x.seq = k.seq → x.stopped = true)
      ∧ (∀ i, k.tag = some i → ((s.core g).tag i).st ≠ .free → (((s.copyStop g k c).core g).tag i).st = .stopped)
      ∧ ∀ x ∈ (s.core g).cq, ∃ y ∈ ((s.copyStop g k c).core g).cq, y.seq = x.seq := by
  let u := s.modCore g (fun x => x.stopCopy k)
  have hu : u.core g = (s.core g).stopCopy k := State.core_modCore_self ..
  obtain ⟨hstop, htag, hkeep, hctx, hst, hem, hpart⟩ := (s.core g).stopCopy_stopped k
  obtain ⟨r, htrapped, hcq⟩ := State.trapCmd_trapped (s := u) .c (c := c) (k := k) 0 0 hg (by rw [hu, hst, hrun]) (by rw [hu, hem, hemul])
    (by rw [hu, hpart]; exact hp)
  rw [State.copyStop_eq]
  have hcq' : ((u.stopCmd g .c k).core g).cq
      = (u.core g).cq.map (fun y => if y.seq = k.seq then { y with stopped := y.stopped || y.started } else y) := by
    rw [State.stopCmd, if_neg (by decide), State.core_modCore_self]
    rfl
  have hall := hcq.trans hcq'
  rw [hu] at hall
  refine ⟨r, ⟨u, htrapped, by rw [hu, hctx], fun _ => rfl⟩, fun x hx hs => ?_, fun i hi hf => ?_, fun x hx => ?_⟩
  · rw [hall] at hx
    obtain ⟨y, hy, rfl⟩ := List.mem_map.mp hx
    by_cases hn : y.seq = k.seq
    · rw [if_pos hn]
      exact Bool.or_eq_true_iff.mpr (.inl (hstop y hy hn))
    · rw [if_neg hn] at hs
      exact absurd hs hn
  · rw [Core.tag, htrapped.tags, hu]
    exact htag i hi hf
  · obtain ⟨y, hy, hs⟩ := hkeep x hx
    rw [hall]
    refine ⟨_, List.mem_map_of_mem hy, ?_⟩
    rw [← hs]
    split <;> rfl

/-! Waits that pass their bounds (R309). -/

/-- R296: the trap of an instruction of a user core in its own text, that no patch slot acts on. -/
theorem State.trapAt_recorded {s : State} {g : Nat} {c : Cause} (kinds : List Bool) (len res qpos : Nat) (hg : g < 128)
    (hemul : (s.core g).emul = none) (hc : c.code ≠ cTRANSLATE)
    (hp : s.patchFor (dieOf g) (s.core g).part 1 (faultKey (s.core g).ctx.vpc c.code 0) = none) :
    ∃ r : TrapInfo, ((s.trapAt (.core g) c kinds len [] res qpos).core g).cstate = .trapped
      ∧ ((s.trapAt (.core g) c kinds len [] res qpos).core g).wait = none
      ∧ ((s.trapAt (.core g) c kinds len [] res qpos).die (dieOf g)).trapq = (s.die (dieOf g)).trapq ++ [r]
      ∧ r.cause = c.code ∧ r.vpc = (s.core g).ctx.vpc ∧ r.res = res ∧ r.qpos = qpos ∧ r.core = g := by
  let i := s.mkInfo g c (s.core g).ctx.vpc (s.core g).ctx.vpc res qpos
  obtain ⟨hinfo, hqueue⟩ := (s.core g).ctx.pend_record i kinds len
  have hsub : i.sub = 0 := if_neg hc
  have htrap : s.trapAt (.core g) c kinds len [] res qpos = s.report g i ((s.core g).ctx.pend i kinds len) [] := by
    refine Eq.trans (b := s.trapMatched g ((s.core g).ctx.pend i kinds len) []) ?_ ?_
    · simp only [State.trapAt, isSvc_of_lt hg, Bool.false_eq_true, if_false, hemul, i]
    · refine (State.trapMatched_unmatched [] (.inr ?_)).trans (by rw [hinfo])
      rw [hinfo, hsub]
      exact hp
  have hr := s.report_recorded i ((s.core g).ctx.pend i kinds len) [] hg
  rw [htrap]
  refine ⟨i, hr.cstate, hr.wait.trans ?_, hr.queued, rfl, rfl, rfl, rfl, rfl⟩
  rw [TrapPend.ofCmd, hqueue]
  rfl

/-- What withdrawing a wait leaves of the core and of the dies. -/
structure Undone (s t : State) (g : Nat) : Prop where
  ctx : (t.core g).ctx = (s.core g).ctx
  emul : (t.core g).emul = (s.core g).emul
  part : (t.core g).part = (s.core g).part
  die : ∀ d, t.die d = { s.die d with gangs := (t.die d).gangs }

theorem State.undone_leaveTeam (s : State) (g : Nat) : Undone s (s.leaveTeam g) g := by
  have hframe := State.gangFrame_dissolveGang s g
  have hcore : (s.dissolveGang g).core g = _ := hframe.core g
  refine ⟨?_, ?_, ?_, hframe.die⟩
  all_goals
    simp only [State.leaveTeam, State.core_modCore_self, State.core_modPart]
    rw [hcore]

/-- R309: what a bound that passes undoes. -/
theorem State.undone_wait (s : State) (g : Nat) (k : WaitKind) : Undone s ((s.undoWait g k).endWait g) g := by
  have hundo : Undone s (s.undoWait g k) g := by
    cases k
    case teamJoin => exact s.undone_leaveTeam g
    case sleep =>
      refine ⟨?_, ?_, ?_, fun _ => rfl⟩
      all_goals exact (congrArg _ (State.core_modCore_self ..)).trans rfl
    all_goals exact ⟨rfl, rfl, rfl, fun _ => rfl⟩
  have hcore : ((s.undoWait g k).endWait g).core g = { (s.undoWait g k).core g with wait := none } := State.core_modCore_self ..
  exact ⟨by rw [hcore]; exact hundo.ctx, by rw [hcore]; exact hundo.emul, by rw [hcore]; exact hundo.part, hundo.die⟩

/-- R309: the wait of a sequencer that passes its bound. -/
theorem State.expireSeq_expires {s : State} {g : Nat} {w : Wait} {b : Nat} (hrun : s.canRun (.core g) = true)
    (hw : (s.core g).wait = some w) (hb : w.bound = some b) (hlt : b < w.stall) (hopen : s.waitOpen g w.kind = true) :
    s.expireSeq g = ((s.undoWait g w.kind).endWait g).trapAt (.core g) { code := cWAITBOUND } (s.curShape g).1 (s.curShape g).2 []
      ((s.core g).waitRes w.kind) ((s.core g).waitQpos w.kind) := by
  simp only [State.expireSeq, hw, hb, hrun, hlt, hopen, decide_true, Bool.and_self, if_true]

/-- R309: the wait of a queue that passes its bound. -/
theorem State.expireHead_expires {s : State} {g : Nat} {q : Eng} {k : Cmd} {res b : Nat} (hrun : (s.core g).cstate = .run)
    (h : (s.headWaits g q).find? (fun x => 2 ^ x.2.2 < x.1.waited x.2.1) = some (k, res, b)) :
    s.expireHead g q = (s.modCore g (fun c =>
      c.modCmd q k.seq (fun k => { k with stall := 0, stopped := k.started && engFields k.instr != none }))).trapCmd g q k
        { code := cWAITBOUND } res ((s.core g).headQpos res) := by
  simp only [State.expireHead, h, hrun, beq_self_eq_true, Bool.true_or, if_true]

/-! `chan.cfg` (R224). -/

/-- R224: a `chan.cfg` at the head of VQ finds its channel empty and its older users done. -/
theorem State.vAdvance_chanCfg {s : State} {g : Nat} {k : Cmd} {ks : List Cmd} {f : BaseF} (hvq : (s.core g).vq = k :: ks)
    (hst : k.started = false) (hi : k.instr = .chanCfg f) (hempty : ((s.core g).chan (bitsNat f.mod 22 2)).ents = [])
    (hold : ∀ x ∈ (s.core g).cmds, k.seq ≤ x.seq) :
    s.vAdvance g = s.modCore g (fun _ => ((s.core g).setChan (bitsNat f.mod 22 2)
      { cfg := some { snk := f.ty.toNat, mod := f.mod }, ents := [], held := none, popped := 0, spoilt := [] }).modCmd .v k.seq
        (fun k => { k with started := true, out := [] })) := by
  have hhead : (s.core g).vHead = some (k, true) := Core.vHead_head hvq hst
  have hnone : (s.core g).cmds.any (fun x => x.seq < k.seq && !x.done && usesChan x (bitsNat f.mod 22 2)) = false :=
    List.any_eq_false.mpr fun x hx => by simp [Nat.not_lt.mpr (hold x hx)]
  have hstep : (s.core g).vStep k true = .done ((s.core g).setChan (bitsNat f.mod 22 2)
      { cfg := some { snk := f.ty.toNat, mod := f.mod }, ents := [], held := none, popped := 0, spoilt := [] }) [] := by
    simp only [Core.vStep, hi, Core.chanCfgStep, hempty, hnone, List.isEmpty_nil, Bool.not_true, Bool.or_self, Bool.false_eq_true,
      if_false]
  simp only [State.vAdvance, hhead, hstep]

end Sys2Proof.Machine

section
open Sys2Proof Sys2Proof.Machine

/-- Settles O44: what the head of a queue does by its instruction and its wait; what completing, killing, stopping and expiring
make of a command. -/
theorem engineSteps : Obligations.EngineSteps := by
  unfold Obligations.EngineSteps
  intro s g hr he hsvc
  have hruns := State.queueRuns_of_runs hr he hsvc
  have hcan := canRun_of_runs hr
  refine ⟨fun q k f hq hfroz hnext hfields hwait hturn => ?starts, fun q k f hq hfroz hnext hfields hn herr hturn => ?skips,
    fun q n k hk hfin hsig => ?completes, fun q n k e hk hsig hecode => ?kills, fun q k stall b hf hw hheld hroom => ?pushes,
    fun k ks f hf hvq hst hi hempty hold hks => ?configures, fun n k hk hstop => ?faults, fun w b hw hb hlt hopen => ?expires,
    fun q k res b hfind => ?headExpires⟩
  case starts =>
    intro matrix
    have hstart := State.engineStart_turn hq (hruns q) hfroz hnext hfields hturn
    rw [Core.cmdWait_ok hwait] at hstart
    have hplain : (s.core g).orphan k = false → s.gangRefused g k = false → (s.core g).ganged k = false →
        exec (.engineCommandStart g q) s = .next (s.cmdBegin g q k f) := fun ho hb hg => by
      rw [exec, execEngineCommandStart, hstart]
      simp only [ho, hb, hg, Bool.false_eq_true, if_false]
    have hnogang : matrix → s.gangRefused g k = false := by
      rintro ⟨e, h | h | h⟩ <;> simp [State.gangRefused, gangArgs, h]
    refine ⟨fun h => ?copies, fun hm hoff hgang => ?alone, fun hm hoff => ?orphans, fun hm hoff hgang => ?gangs, fun w n hargs => ?forms,
      fun hm => ?leaves, fun hinj hbad hone hno => ?begun⟩
    case copies =>
      obtain ⟨ho, hb, hg⟩ := Core.free_of_copy (s := s) (g := g) (c := s.core g) h
      exact hplain ho hb hg
    case alone =>
      refine hplain (by rw [Core.orphan, hoff, Bool.false_and]) (hnogang hm) ?_
      obtain ⟨e, h | h | h⟩ := hm
      · rw [Core.ganged, h, hgang.resolve_right fun hno => hno e h]
        rfl
      · rw [Core.ganged, h]
      · rw [Core.ganged, h]
    case orphans =>
      have ho : (s.core g).orphan k = true := by
        obtain ⟨e, h | h | h⟩ := hm <;> rw [Core.orphan, hoff, h] <;> rfl
      rw [exec, execEngineCommandStart, hstart, ho]
      rfl
    case gangs =>
      obtain ⟨e, h⟩ := hm
      have ho : (s.core g).orphan k = false := by rw [Core.orphan, hoff, Bool.false_and]
      have hg : (s.core g).ganged k = true := by
        rw [Core.ganged, h]
        exact Option.isSome_iff_ne_none.mpr hgang
      rw [exec, execEngineCommandStart, hstart, ho, hnogang ⟨e, .inl h⟩, hg]
      rfl
    case forms =>
      have hb : s.gangRefused g k = s.gangBad g w n := by rw [State.gangRefused, hargs]
      obtain ⟨e, hi⟩ := mmGang_of_gangArgs hargs
      have ho : (s.core g).orphan k = false := by rw [Core.orphan, hi, Bool.and_false]
      refine ⟨fun hgood => hplain ho (hb.trans hgood) (by rw [Core.ganged, hi]), fun hbad => ?_⟩
      rw [exec, execEngineCommandStart, hstart, ho, hb, hbad]
      rfl
    case leaves =>
      obtain ⟨e, h⟩ := hm
      exact hplain (by rw [Core.orphan, h, Bool.and_false]) (by rw [State.gangRefused, gangArgs, h]) (by rw [Core.ganged, h])
    case begun =>
      obtain ⟨heq, hst, hflag, hflags⟩ := State.cmdBegin_starts f hinj hbad hone hno
      intro t
      refine ⟨heq, ?_, ?_, ?_⟩
      · rw [show t = s.cmdStart g q k f from heq]
        exact hst
      · rw [show t = s.cmdStart g q k f from heq]
        exact hflag
      · rw [show t = s.cmdStart g q k f from heq]
        exact hflags
  case skips =>
    have hstart := State.engineStart_turn hq (hruns q) hfroz hnext hfields hturn
    rw [Core.cmdWait_err hn herr] at hstart
    exact congrArg Host.Outcome.next hstart
  case completes =>
    simp only [exec, execCommandComplete, hk, he, hr.up, hsig, hfin, Bool.not_false, Bool.and_self, if_true]
  case kills =>
    have hcodes : (e == 1 || e == 2 || e == 3 || e == 8) = true := by
      rcases hecode with rfl | rfl | rfl | rfl <;> rfl
    have hne : e ≠ 4 := by
      rcases hecode with rfl | rfl | rfl | rfl <;> decide
    have hexec : (k.started && !k.done && q != .v
        || q == .v && ((s.core g).vHead.map (·.1.seq)) == some k.seq && s.vExecutes g) = true →
        exec (.commandKill g q n e) s = .next (s.cmdKill g q k e) := fun h => by
      simp only [exec, execCommandKill, hk, he, hsig, hcodes, h, Bool.and_self, if_true]
    refine ⟨fun hq hst hdone => ?_, fun hq hhead hexecutes => ?_, fun f hq hst hdone hf hskip => ?_, fun f hq hi hst hdone hgang hn hmm => ?_⟩
    · exact hexec (by rw [hst, hdone, bne_iff_ne.mpr hq]; rfl)
    · subst hq
      obtain ⟨herr, hvq⟩ := State.cmdKill_v e hk
      exact ⟨s.cmdKill g .v k e, hexec (by rw [hhead, hexecutes]; simp), herr, hvq⟩
    · subst hq
      have hcore : (s.cmdKill g .c k e).core g = (s.core g).finish .c k (some e) [] := State.core_modCore_self ..
      obtain ⟨hsignal, hkept, htag, hfin, -⟩ := (s.core g).finish_killed .c e hf
      refine ⟨s.cmdKill g .c k e, hexec (by rw [hst, hdone]; rfl), ?_⟩
      rw [hcore]
      exact ⟨hsignal, fun h0 => ⟨(hkept h0).2 hskip hne, (hkept h0).1⟩, htag, hfin⟩
    · subst hq
      have hkill : s.cmdKill g .m k e = s.mmKill g k (mmOf f k.desc).bank e := by
        rw [← State.lockKill_alone e hgang hmm]
        simp only [State.cmdKill, hi]
      refine ⟨s.cmdKill g .m k e, hexec (by rw [hst, hdone]; rfl), ?_⟩
      rw [hkill]
      exact s.mmKill_killed g (mmOf f k.desc).bank e (by rw [hi]; rfl) hn
  case pushes =>
    have hpush : exec .queuePush s = if q == .m then
        (if (asksSects k.instr g (s.driven g (s.core g).gview)).all (fun y => s.ownsSect (s.core g).part y) then
          .next (s.pushNow g q { k with secs := s.driven g (s.core g).gview })
        else .next (s.endTrap g { code := cPROT, noData := true } (kindsOf k.instr)))
        else .next (s.pushNow g q k) := by
      simp only [exec, execQueuePush, hf, hw, hcan, hheld, hroom, Bool.not_false, Bool.and_self, if_true]
    rw [hpush]
    refine ⟨fun hq => by rw [beq_eq_false_iff_ne.mpr hq, if_neg Bool.false_ne_true], fun hq => ?_⟩
    subst hq
    exact ⟨fun h => if_pos (List.all_eq_true.mpr h), fun h => if_neg fun h' => h (List.all_eq_true.mp h')⟩
  case configures =>
    refine ⟨s.vAdvance g, ?_, ?_⟩
    · rw [exec, execChanCfgPerform, hf]
      simp only [Core.vHead_head hvq hst, hi, hruns .v, if_true]
    · rw [State.vAdvance_chanCfg hvq hst hi hempty hold, State.core_modCore_self]
      have hchan : ∀ c : Core, (c.modCmd .v k.seq (fun k => { k with started := true, out := [] })).chans = c.chans := fun _ => rfl
      simp only [Core.chan, hchan, Core.setChan, tget_tput_self, and_self]
  case faults =>
    refine ⟨fun k' hfind hst => ?_, fun va c hst hdone hcop hsig hemul hp hfault => ?_⟩
    · simp only [exec, execCopyFault, hk, hfind, hst, hstop, Bool.not_false, Bool.and_self, if_true]
    · have hadv : s.engineAdvance g .c n = s.copyStop g k c := by
        rw [← State.copyElem_fault hfault]
        simp only [State.engineAdvance, Core.queue, hk, he, hr.up, hst, hdone, hstop, hsig, hcop, Bool.not_true,
          Bool.or_self, Bool.false_eq_true, if_false]
      obtain ⟨r, ⟨u, hu, huctx, hudie⟩, hstopped, htag, hkeep⟩ := State.copyStop_trapped hr.user hr.run hemul hp
      obtain ⟨y, hy, hys⟩ := hkeep k (List.mem_of_getElem? hk)
      have hfind : (((s.copyStop g k c).core g).cq).find? (fun x => x.seq = k.seq) ≠ none := fun h =>
        List.find?_eq_none.mp h y hy (by simpa using hys)
      obtain ⟨z, hz⟩ := Option.ne_none_iff_exists'.mp hfind
      have hzst : z.stopped = true := hstopped z (List.mem_of_find?_eq_some hz) (by simpa using List.find?_some hz)
      refine ⟨s.copyStop g k c, r, ?_, hu.cstate, ?_, hu.cause, hu.ecode, hu.addr, hu.vpc, ?_, hu.core, htag, hstopped⟩
      · simp only [exec, execCopyFault, hk, hadv, hz, hzst, hstop, Bool.not_false, Bool.and_self, if_true]
      · rw [hu.queued, hudie]
      · rw [hu.npc, huctx]
  case expires =>
    have hexp := State.expireSeq_expires hcan hw hb hlt hopen
    have hexec : exec (.waitBoundExpiry g .seq) s = .next (s.expireSeq g) := rfl
    rw [hexec, hexp]
    refine ⟨rfl, fun hemul hp => ?_⟩
    have hu := s.undone_wait g w.kind
    obtain ⟨r, hst, hnone, hq, hcause, hvpc, hres, hqpos, hcore⟩ := State.trapAt_recorded (s := (s.undoWait g w.kind).endWait g)
      (c := { code := cWAITBOUND }) (s.curShape g).1 (s.curShape g).2 ((s.core g).waitRes w.kind) ((s.core g).waitQpos w.kind) hr.user
      (hu.emul.trans hemul) (by decide) (by
        rw [hu.part, hu.ctx, State.patchFor, hu.die]
        exact hp)
    have hdie : (((s.undoWait g w.kind).endWait g).die (dieOf g)).trapq = (s.die (dieOf g)).trapq := by rw [hu.die]
    exact ⟨_, r, rfl, hst, hnone, hq.trans (by rw [hdie]), hcause, hvpc.trans (by rw [hu.ctx]), hres, hqpos, hcore⟩
  case headExpires =>
    have hexp := State.expireHead_expires hr.run hfind
    have hexec : exec (.waitBoundExpiry g (.head q)) s = .next (s.expireHead g q) := rfl
    rw [hexec, hexp]
    refine ⟨rfl, fun hemul hp => ?_⟩
    let u := s.modCore g (fun c =>
      c.modCmd q k.seq (fun k => { k with stall := 0, stopped := k.started && engFields k.instr != none }))
    have hu : u.core g = (s.core g).modCmd q k.seq
      (fun k => { k with stall := 0, stopped := k.started && engFields k.instr != none }) := State.core_modCore_self ..
    obtain ⟨hctx, hst, hem, hpart, -⟩ := (s.core g).setQueue_ctx q (((s.core g).queue q).map fun x => if x.seq = k.seq then
      { x with stall := 0, stopped := x.started && engFields x.instr != none } else x)
    obtain ⟨r, htrap, -⟩ := State.trapCmd_trapped (s := u) q (k := k) (c := { code := cWAITBOUND }) res ((s.core g).headQpos res) hr.user
      (by rw [hu]; exact hst.trans hr.run) (by rw [hu]; exact hem.trans hemul) (by
        rw [hu]
        refine Eq.trans ?_ hp
        rw [Core.modCmd, hpart]
        rfl)
    refine ⟨_, r, rfl, htrap.cstate, htrap.queued, htrap.cause, htrap.vpc, htrap.npc.trans ?_, htrap.res, htrap.qpos, htrap.core⟩
    rw [hu]
    exact congrArg Ctx.vpc hctx

end
end

section
/-! PROOFS. Entries of a window issue, complete, fault, wait past their bound and retire (R92, R93, R103, R106, R128 to R130). -/

namespace Sys2Proof.Machine

/-! An entry issues (R93, R103, R120). -/

theorem State.entry_of_cacheFrame {s t : State} (h : CacheFrame s t) (p n : Nat) : t.entry p n = s.entry p n := by
  rw [State.entry, State.part_of_cacheFrame h, State.entry]

theorem cacheFrame_entryRelease (s : State) (p : Nat) (e : Entry) : CacheFrame s (s.entryRelease p e) := by
  unfold State.entryRelease
  split
  · exact .rfl
  · split <;> exact cacheFrame_releaseRuns ..

theorem cacheFrame_entryAcquire (s : State) (p : Nat) (e : Entry) : CacheFrame s (s.entryAcquire p e) := by
  unfold State.entryAcquire
  split
  · exact .rfl
  · exact cacheFrame_acquireRuns ..

/-- The caches of an entry that issues: its release where it acts on the whole partition, and its acquire. -/
def State.issueScopes (s : State) (p : Nat) (e : Entry) : State :=
  let t := if wholeScope e.instr then s.entryRelease p e else s
  if isTWait e.instr then t else t.entryAcquire p e

theorem cacheFrame_issueScopes (s : State) (p : Nat) (e : Entry) : CacheFrame s (s.issueScopes p e) := by
  have hrel : CacheFrame s (if wholeScope e.instr then s.entryRelease p e else s) := by
    split
    · exact cacheFrame_entryRelease ..
    · exact .rfl
  rw [State.issueScopes]
  split
  · exact hrel
  · exact hrel.trans (cacheFrame_entryAcquire ..)

/-- R93: the oldest entry that may issue does. -/
theorem State.issue_issues {s : State} {p n : Nat} {e : Entry} (he : s.entry p n = some e) (hi : s.issuable p n e = true)
    (hup : (s.die (hostDie p)).holdStop = false) (hw : wholeScope e.instr = true → s.entryWaits e = false)
    (hold : ∀ x ∈ ((s.part p).live).takeWhile (fun x => x.1 != n), s.issuable p x.1 x.2 = false) :
    s.issue p n = (s.issueScopes p e).modEntry p n (fun e => { e with st := .issued }) := by
  have hwaits : (wholeScope e.instr && s.entryWaits e) = false := by
    cases hs : wholeScope e.instr
    · rfl
    · rw [hw hs]
      rfl
  have hnone : (((s.part p).live).takeWhile (fun x => x.1 != n)).any (fun x => s.issuable p x.1 x.2) = false :=
    List.any_eq_false.mpr fun x hx => ne_true_of_eq_false (hold x hx)
  simp only [State.issue, he, hup, hi, hwaits, hnone, Bool.not_true, Bool.or_self, Bool.false_eq_true, if_false, State.issueScopes]

/-! The work of an entry is done (R92, R103). -/

/-- What the scopes of an entry leave in the caches as it is done: its release, its acquire, and the line of a signal. -/
def State.doneScopes (s : State) (p : Nat) (e : Entry) : State :=
  let s := if wholeScope e.instr then s else s.entryRelease p e
  let s := if isTWait e.instr then s.entryAcquire p e else s
  match e.instr with
  | .tSignalAdd _ => if e.rel = 4 then s.releaseRuns [] 4 (s.physRuns p (((e.args[0]?).getD 0).toNat / 128 * 128) 128) else s
  | .tSignalStore _ => if e.rel = 4 then s.releaseRuns [] 4 (s.physRuns p (((e.args[0]?).getD 0).toNat / 128 * 128) 128) else s
  | _ => s

theorem cacheFrame_doneScopes (s : State) (p : Nat) (e : Entry) : CacheFrame s (s.doneScopes p e) := by
  have h₁ : CacheFrame s (if wholeScope e.instr then s else s.entryRelease p e) := by
    split
    · exact .rfl
    · exact cacheFrame_entryRelease ..
  have h₂ : ∀ t, CacheFrame t (if isTWait e.instr then t.entryAcquire p e else t) := fun t => by
    split
    · exact cacheFrame_entryAcquire ..
    · exact .rfl
  have h₃ : ∀ t, CacheFrame t
      (if e.rel = 4 then t.releaseRuns [] 4 (t.physRuns p (((e.args[0]?).getD 0).toNat / 128 * 128) 128) else t) := fun t => by
    split
    · exact cacheFrame_releaseRuns ..
    · exact .rfl
  rw [State.doneScopes]
  split
  · exact (h₁.trans (h₂ _)).trans (h₃ _)
  · exact (h₁.trans (h₂ _)).trans (h₃ _)
  · exact h₁.trans (h₂ _)

theorem State.toDone_eq (s : State) (p n : Nat) (e : Entry) :
    s.toDone p n e = ((s.doneScopes p e).modPart p (fun q => q.dropReads e)).modEntry p n (fun e => { e with st := .done }) := rfl

theorem State.entry_dropReads (s : State) (p n : Nat) (e : Entry) :
    (s.modPart p (fun q => q.dropReads e)).entry p n = s.entry p n := by
  have hreads : (s.part p).dropReads e = _ := (s.part p).bufFrame_dropReads e
  rw [State.entry, State.part_modPart_self, hreads, State.entry]

/-- R92: an entry whose work is done keeps its place. -/
theorem State.entry_toDone {s : State} {p n : Nat} {e e' : Entry} (h : s.entry p n = some e') :
    (s.toDone p n e).entry p n = some { e' with st := .done } := by
  rw [State.toDone_eq]
  refine State.entry_modEntry _ ?_
  rw [State.entry_dropReads, State.entry_of_cacheFrame (cacheFrame_doneScopes s p e)]
  exact h

/-- What is to be delivered, and what has been, stays. -/
theorem State.toDone_outbox (s : State) (p n : Nat) (e : Entry) :
    (s.toDone p n e).outbox = s.outbox ∧ (s.toDone p n e).sent = s.sent := by
  have hframe := (cacheFrame_doneScopes s p e).state
  rw [State.toDone_eq, State.modEntry_state]
  change (s.doneScopes p e).outbox = _ ∧ (s.doneScopes p e).sent = _
  rw [hframe]
  exact ⟨rfl, rfl⟩

theorem State.purge_outbox (s : State) (p uid : Nat) : (s.purge p uid).outbox = s.outbox ∧ (s.purge p uid).sent = s.sent := by
  have ready : (s.purgeReady p uid).outbox = s.outbox ∧ (s.purgeReady p uid).sent = s.sent := by
    refine List.foldlRecOn (motive := fun t : State => t.outbox = s.outbox ∧ t.sent = s.sent) _ _ ⟨rfl, rfl⟩ fun t h d _ => ?_
    split <;> exact h
  rw [State.purge_eq]
  revert ready
  generalize s.purgeReady p uid = t, (s.purge p uid).xfer = x
  exact id

theorem State.toFault_outbox (s : State) (p n : Nat) (e : Entry) (cause : Nat) (ecode : BitVec 6) :
    (s.toFault p n e cause ecode).outbox = s.outbox ∧ (s.toFault p n e cause ecode).sent = s.sent := by
  have hpurge := s.purge_outbox p e.uid
  revert hpurge
  simp only [State.toFault]
  generalize s.purge p e.uid = t
  intro hpurge
  rw [State.modEntry_state]
  exact hpurge

/-- R92: an issued entry that waits for nothing goes on by what its work answers. -/
theorem State.entryDone_works {s : State} {p n : Nat} {e : Entry} (he : s.entry p n = some e) (hst : e.st = .issued)
    (hup : (s.die (hostDie p)).holdStop = false) (hlate : isTWait e.instr = true → e.late = false)
    (hheld : s.entryHeld p e = false) (hwaits : s.entryWaits e = false) :
    s.entryDone p n = match s.work p e with
      | .done t => (match t.entry p n with
          | some e => t.toDone p n e
          | none => t)
      | _ => s := by
  have hl : (isTWait e.instr && e.late) = false := by
    cases hi : isTWait e.instr
    · rfl
    · rw [hlate hi]
      rfl
  simp only [State.entryDone, he, hst, hup, hl, hheld, hwaits]
  rfl

theorem State.entryDone_done {s t : State} {p n : Nat} {e e' : Entry} (he : s.entry p n = some e) (hst : e.st = .issued)
    (hup : (s.die (hostDie p)).holdStop = false) (hlate : isTWait e.instr = true → e.late = false)
    (hheld : s.entryHeld p e = false) (hwaits : s.entryWaits e = false) (hw : s.work p e = .done t) (ht : t.entry p n = some e') :
    s.entryDone p n = t.toDone p n e' := by
  rw [State.entryDone_works he hst hup hlate hheld hwaits, hw]
  simp only [ht]

/-- R112: the instructions that have no work of their own are done at once. -/
theorem State.work_at_once {s : State} {p : Nat} {e : Entry}
    (h : ∃ f, e.instr = .tNew f ∨ e.instr = .tFree f ∨ e.instr = .tView f ∨ e.instr = .tFence f ∨ e.instr = .tSync f)
    (hf : e.issueFault = none) : s.work p e = .done s := by
  obtain ⟨f, h | h | h | h | h⟩ := h <;> simp only [State.work, hf, h]

/-- R130: a `t.wait` that reads its word satisfied is done. -/
theorem State.work_tWait {s t : State} {p w : Nat} {e : Entry} {x : Path} (hi : isTWait e.instr = true) (hf : e.issueFault = none)
    (hx : s.streamPath p ((e.args[0]?).getD 0).toInt 8 Need.load = .ok x) (hr : s.readPath (some p) x 8 [.l2] = (.ok w, t))
    (hw : tWaitHolds e.instr w ((e.args[1]?).getD 0).toNat = true) : s.work p e = .done t := by
  cases hinstr : e.instr
  case tWaitEq | tWaitNe | tWaitGe =>
    rw [hinstr] at hi hw
    simp only [State.work, hf, hinstr, hi, hx, hr, hw, if_true]
  all_goals
    rw [hinstr] at hi
    exact absurd hi Bool.false_ne_true

/-! A wait past its bound (R129, R130). -/

theorem Entry.late_of_passed {e : Entry} {b : Nat} (hb : windowBound e.instr = some b) (hlt : 2 ^ b < e.stall) (hg : e.got = false) :
    e.late = true := by
  simp only [Entry.late, hg, hb, Option.map_some, Option.getD_some, hlt, decide_true, Bool.not_false, Bool.and_self]

theorem Entry.not_late {e : Entry} {b : Nat} (hb : windowBound e.instr = some b) (h : e.stall ≤ 2 ^ b ∨ e.got = true) :
    e.late = false := by
  rcases h with h | h
  · simp only [Entry.late, hb, Option.map_some, Option.getD_some, Nat.not_lt.mpr h, decide_false, Bool.and_false]
  · simp only [Entry.late, h, Bool.not_true, Bool.false_and]

/-- R129: nothing satisfies a wait past its bound. -/
theorem State.entryDone_late {s : State} {p n : Nat} {e : Entry} (he : s.entry p n = some e) (hi : isTWait e.instr = true)
    (hl : e.late = true) : s.entryDone p n = s := by
  simp only [State.entryDone, he, hi, hl, Bool.and_self, Bool.or_true, Bool.true_or, if_true]

theorem State.takeMsg_late {s : State} {p n : Nat} {e : Entry} (d : Desc) (hl : e.late = true) : s.takeMsg p n e d = s := by
  simp only [State.takeMsg, hl, if_true]

/-! The oldest entry retires (R106). -/

/-- A partition whose oldest entry has retired. -/
def Part.retired (q : Part) (n : Nat) (e : Entry) : Part :=
  let q := q.publish e
  { q with
    window := tput none q.window n none, whead := (n + 1) % 128, wcount := q.wcount - 1,
    sfe := if isTSync e.instr && q.sfe.wait == .sync then { q.sfe with wait := .none } else q.sfe }

theorem State.retireEntry_retires {s : State} {p n : Nat} {e : Entry} (hh : (s.part p).live.head? = some (n, e)) (hst : e.st = .done)
    (hno : ∀ f, e.instr ≠ .tSvc f) : s.retireEntry p = s.modPart p (fun q => q.retired n e) := by
  obtain ⟨xs, hlive⟩ := List.head?_eq_some_iff.mp hh
  simp only [State.retireEntry, hlive, hst]
  rw [if_neg (by decide)]
  cases hi : e.instr
  case tSvc f => exact absurd hi (hno f)
  all_goals
    simp only [Part.retired, hi]

/-- A partition of which only buffers and the committed names may have changed. -/
def Part.PubFrame (q q' : Part) : Prop := q' = { q with pbs := q'.pbs, committed := q'.committed }

theorem Part.PubFrame.trans {q q' q'' : Part} (h : q.PubFrame q') (k : q'.PubFrame q'') : q.PubFrame q'' := by
  unfold Part.PubFrame at *
  rw [h] at k
  exact k

theorem Part.pubFrame_of_bufFrame {q q' : Part} (h : q.BufFrame q') : q.PubFrame q' := by
  unfold Part.BufFrame at h
  unfold Part.PubFrame
  rw [h]

theorem Part.pubFrame_foldl {α : Type} (f : Part → α → Part) (h : ∀ q x, Part.PubFrame q (f q x)) : ∀ (l : List α) (q : Part),
    q.PubFrame (l.foldl f q)
  | [], _ => rfl
  | x :: l, q => (h q x).trans (Part.pubFrame_foldl f h l (f q x))

/-- R100, R116: publishing changes buffers and the committed names alone. -/
theorem Part.pubFrame_publish (q : Part) (e : Entry) : q.PubFrame (q.publish e) := by
  refine Part.pubFrame_foldl _ (fun q t => ?_) _ _
  split
  case isFalse => rfl
  case isTrue =>
    have hbuf : ∀ (q : Part) (o : Option Nat), q.PubFrame (match o with
        | some a => q.modPb a (fun b => { b with st := .mapped })
        | none => q) := fun q o => by
      split
      · exact Part.pubFrame_of_bufFrame (q.bufFrame_modPb ..)
      · rfl
    have hcom : q.PubFrame { q with committed := tput none q.committed t.lt t.after } := rfl
    have hboth := hcom.trans (hbuf _ t.dstPb)
    dsimp only
    split
    · split
      · exact hboth
      · exact hboth.trans (Part.pubFrame_of_bufFrame ((Part.bufFrame_modPb ..).trans (Part.bufFrame_settlePb ..)))
    · exact hboth

/-- R106: the window once its oldest entry has retired. -/
theorem State.part_retired (s : State) (p n : Nat) (e : Entry) :
    ((s.modPart p (fun q => q.retired n e)).part p).wcount = (s.part p).wcount - 1
      ∧ (s.modPart p (fun q => q.retired n e)).entry p n = none
      ∧ ((s.modPart p (fun q => q.retired n e)).part p).committed = ((s.part p).publish e).committed := by
  have hframe : (s.part p).publish e = _ := (s.part p).pubFrame_publish e
  rw [State.entry, State.part_modPart_self]
  refine ⟨?_, tget_tput_self .., rfl⟩
  change ((s.part p).publish e).wcount - 1 = _
  rw [hframe]

end Sys2Proof.Machine
end

section
/-! PROOFS. A stream ends, traps, and is taken on (R89, R106, R108). -/

namespace Sys2Proof.Machine

/-! The stream trap (R106). -/

theorem Part.takeEvent_frame (q : Part) (e : Event) :
    q.takeEvent e = { q with evstale := (q.takeEvent e).evstale, evq := (q.takeEvent e).evq, evsvc := (q.takeEvent e).evsvc } := by
  unfold Part.takeEvent
  split
  · rfl
  · split <;> rfl

/-- R315: an event changes the events of its partition. -/
theorem State.part_postEvent_frame (s : State) (p typ : Nat) (w : Word) :
    (s.postEvent p typ w).part p = { s.part p with
      evstale := ((s.postEvent p typ w).part p).evstale, evq := ((s.postEvent p typ w).part p).evq,
      evsvc := ((s.postEvent p typ w).part p).evsvc, evlog := ((s.postEvent p typ w).part p).evlog,
      evdrop := ((s.postEvent p typ w).part p).evdrop } := by
  rw [State.part_postEvent]
  split
  · rw [Part.takeEvent_frame]
  · split <;> rfl

/-- R106: a stream trap that no handler takes: the record waits, and the front end is held. -/
theorem State.part_takeStreamTrap {s : State} {p : Nat} (r : StreamRec) (entry : Option Nat) (h : (s.part p).sfe.handler = none) :
    (s.takeStreamTrap p r entry).part p = { s.part p with
      srec := some r, srecNew := true, sfe := { (s.part p).sfe with wait := .held },
      evstale := ((s.takeStreamTrap p r entry).part p).evstale, evq := ((s.takeStreamTrap p r entry).part p).evq,
      evsvc := ((s.takeStreamTrap p r entry).part p).evsvc, evlog := ((s.takeStreamTrap p r entry).part p).evlog,
      evdrop := ((s.takeStreamTrap p r entry).part p).evdrop } := by
  let t := s.modPart p (fun q => { q with srec := some r, srecNew := true, sfe := { q.sfe with wait := .held } })
  have ht : t.part p = { s.part p with srec := some r, srecNew := true, sfe := { (s.part p).sfe with wait := .held } } :=
    s.part_modPart_self p _
  have hnone : (t.part p).sfe.handler = none := by rw [ht]; exact h
  have hpost : s.takeStreamTrap p r entry = t.freeValue.2.postEvent p 1 t.freeValue.1 := by
    have hno : (t.scheduled p && (t.part p).sfe.handler.isSome) = false := by rw [hnone, Option.isSome_none, Bool.and_false]
    exact if_neg (ne_true_of_eq_false hno)
  have hframe := t.freeValue.2.part_postEvent_frame p 1 t.freeValue.1
  rw [hpost, hframe, show t.freeValue.2.part p = t.part p from rfl, ht]

/-- A fold whose step answers something answers something of a list that is not empty. -/
theorem foldl_ne_none {α β : Type} {f : Option β → α → Option β} (hf : ∀ b x, f b x ≠ none) :
    ∀ (l : List α) (b : Option β), (l ≠ [] ∨ b ≠ none) → l.foldl f b ≠ none
  | [], _, h => h.resolve_left (fun h => h rfl)
  | x :: l, b, _ => foldl_ne_none hf l (f b x) (.inr (hf b x))

/-- R106: the record of an entry tells by its KIND whether a task trapped. -/
theorem State.faultRecord_says (s : State) (p n : Nat) (e : Entry) :
    (s.faultRecord p n e).spc = e.spc ∧ (s.faultRecord p n e).entry = n ∧ (s.faultRecord p n e).ntask = e.ntask
      ∧ (s.faultRecord p n e).ndone = e.bitmap.length ∧ (s.faultRecord p n e).nfault = e.trapped.length
      ∧ (e.trapped = [] → (s.faultRecord p n e).kind = 1 ∧ (s.faultRecord p n e).cause = e.cause)
      ∧ (e.trapped ≠ [] → (s.faultRecord p n e).kind = 0) := by
  unfold State.faultRecord
  extract_lets gtc base
  split
  case h_1 i t hfold =>
    refine ⟨rfl, rfl, rfl, rfl, rfl, fun h => ?_, fun _ => rfl⟩
    rw [h] at hfold
    cases hfold
  case h_2 hfold =>
    refine ⟨rfl, rfl, rfl, rfl, rfl, fun _ => ⟨rfl, rfl⟩, fun h => ?_⟩
    refine absurd hfold (foldl_ne_none (fun b x => ?_) _ _ (.inl h))
    cases b
    · exact Option.some_ne_none _
    · dsimp only
      split <;> exact Option.some_ne_none _

/-- The window of a stream trap: the younger entries are discarded, and the oldest one is held. -/
def State.trapWindow (s : State) (p n : Nat) (e : Entry) (ns : List Nat) : State :=
  ((s.discardAll p true ns).modPart p (fun q =>
    { q with rename := q.committed, wcount := 1, sfe := { q.sfe with ctx := e.snap, wait := .held } })).modEntry p n
      (fun e => { e with st := .held })

theorem State.part_trapWindow {s : State} {p n : Nat} {e : Entry} {ns : List Nat} (he : s.entry p n = some e) (hn : n ∉ ns) :
    ((s.trapWindow p n e ns).part p).wcount = 1 ∧ ((s.trapWindow p n e ns).part p).rename = (s.part p).committed
      ∧ ((s.trapWindow p n e ns).part p).sfe = { (s.part p).sfe with ctx := e.snap, wait := .held }
      ∧ (s.trapWindow p n e ns).entry p n = some { e with st := .held }
      ∧ ∀ m ∈ ns, (s.trapWindow p n e ns).entry p m = none := by
  have hentry := s.entry_discardAll p true ns
  have hframe := (stopFrame_discardAll s p true ns).part p
  unfold State.trapWindow
  generalize s.discardAll p true ns = t at hentry hframe
  let u := t.modPart p (fun q => { q with rename := q.committed, wcount := 1, sfe := { q.sfe with ctx := e.snap, wait := .held } })
  have hu : u.part p = { t.part p with
      rename := (t.part p).committed, wcount := 1, sfe := { (t.part p).sfe with ctx := e.snap, wait := .held } } :=
    t.part_modPart_self p _
  have huentry : ∀ m, u.entry p m = t.entry p m := fun m => StopFrame.entry_eq (by rw [hu]) m
  have hun : u.entry p n = some e := (huentry n).trans ((hentry n).trans ((if_neg hn).trans he))
  have hpart : (u.modEntry p n (fun e => { e with st := .held })).part p = _ := u.part_modEntry p n (fun e => { e with st := .held })
  refine ⟨?_, ?_, ?_, State.entry_modEntry _ hun, fun m hm => ?_⟩
  · rw [hpart, hu]
  · rw [hpart, hu, hframe]
  · rw [hpart, hu, hframe]
  · have hne : m ≠ n := fun h => hn (h ▸ hm)
    rw [State.modEntry_eq _ hun, State.entry_setEntry, if_neg hne, huentry, hentry, if_pos hm]

/-- R106: the stream trap of the oldest entry. -/
theorem State.streamTrap_entry {s : State} {p n : Nat} {e : Entry} {younger : List (Nat × Entry)}
    (hlive : (s.part p).live = (n, e) :: younger) (hst : e.st = .fault) (hm : (s.part p).sfe.hmode = none)
    (hl : younger = [] ∨ s.linksHold = false) :
    ∃ r, s.streamTrap p = (s.trapWindow p n e (younger.map (·.1))).takeStreamTrap p r (some n)
      ∧ ∃ u, r = State.faultRecord u p n e := by
  have hno : (younger.length != 0 && s.linksHold) = false := by
    rcases hl with h | h
    · rw [h]
      rfl
    · rw [h, Bool.and_false]
  refine ⟨State.faultRecord ((s.discardAll p true (younger.map (·.1))).modPart p (fun q =>
    { q with rename := q.committed, wcount := 1, sfe := { q.sfe with ctx := e.snap, wait := .held } })) p n e, ?_, _, rfl⟩
  simp only [State.streamTrap, hlive, hst, hm, hno, Option.isNone_none, beq_self_eq_true, Bool.not_false, Bool.and_self, if_true,
    State.trapWindow]

/-- The record of a trap of a scalar instruction, with no entry (R106, R107). -/
def State.scalarRecord (s : State) (p kind cause sub spc : Nat) : StreamRec :=
  { spc := spc, cause := cause, sub := sub, kind := kind, entry := 0, ftask := 0, nfault := 0, ndone := 0, ntask := 0,
    gtc := (s.die (hostDie p)).gtc, info := none }

/-! A stream is taken on (R108). -/

/-- A renamed instruction leaves the head of the window and the record. -/
theorem State.part_of_entered {s t : State} {p : Nat} {i : Instr} {vals : List Word} {snap : Ctx} {dest : Nat}
    (h : s.renameIn p i vals snap dest = .entered t) :
    (t.part p).whead = (s.part p).whead ∧ (t.part p).srec = (s.part p).srec := by
  have hplan := State.part_of_cacheFrame (cacheFrame_planOf s p i vals) p
  rw [State.renameIn_eq] at h
  generalize s.planOf p i vals = r at h hplan
  obtain ⟨pl, u⟩ := r
  dsimp only at h hplan
  split at h
  · cases h
  split at h
  · cases h
  split at h
  · split at h <;> cases h
  case h_2 as v hdraw =>
    cases h
    have hframe : StopFrame u v := by
      split at hdraw
      · cases hdraw
        exact .rfl
      · exact (stopFrame_drawPbs p _ _ _ _ _ hdraw).1
    have hready := State.part_of_cacheFrame (cacheFrame_readyBuffers v p (pl.bound as)) p
    have hreads : (v.part p).takeReads (pl.bound as) = _ := (v.part p).bufFrame_takeReads (pl.bound as)
    have hv := hframe.part p
    rw [State.part_modPart_self, hready, hreads, hv, hplan]
    exact ⟨rfl, rfl⟩

theorem State.part_backTo (s : State) (p : Nat) (c : Ctx) : (s.backTo p c).part p = { s.part p with
    srec := none, srecNew := false, sfe := { (s.part p).sfe with ctx := c, wait := .none, hmode := none } } :=
  s.part_modPart_self p _

/-- R108: Restart renames the instruction at the same entry, the record gone. -/
theorem State.part_restartEntry (s : State) (p n : Nat) (e : Entry) :
    ((s.restartEntry p n e).part p).srec = none ∧ ((s.restartEntry p n e).part p).whead = n := by
  let t := ((s.discard p n false).backTo p e.snap).modPart p (fun q => { q with whead := n, wcount := 0 })
  have ht : (t.part p).srec = none ∧ (t.part p).whead = n := by
    rw [State.part_modPart_self, State.part_backTo]
    exact ⟨rfl, rfl⟩
  have heq : s.restartEntry p n e = match t.renameIn p e.instr e.args e.snap (t.part p).sfe.serials with
      | .entered u => u.modPart p (fun q => { q with sfe := q.sfe.pastEntry e.instr e.len })
      | _ => t.modPart p (fun q => { q with sfe := { q.sfe with wait := .trap 3 cWAITBOUND 0 e.spc 0 } }) := rfl
  rw [heq]
  split
  case h_1 u hu =>
    obtain ⟨hhead, hrec⟩ := State.part_of_entered hu
    rw [State.part_modPart_self]
    exact ⟨hrec.trans ht.1, hhead.trans ht.2⟩
  case h_2 =>
    rw [State.part_modPart_self]
    exact ht

theorem Sfe.pastEntry_wait (x : Sfe) (i : Instr) (len : Nat) : (x.pastEntry i len).wait ≠ .held := by
  rw [Sfe.pastEntry]
  dsimp only
  split <;> decide

/-- R108: Complete dispatches the tasks absent from the bitmap again, the record gone. -/
theorem State.part_completeEntry {s : State} {p n : Nat} {e : Entry} (he : s.entry p n = some e) :
    ((s.completeEntry p n e).part p).srec = none ∧ ((s.completeEntry p n e).part p).sfe.wait ≠ .held
      ∧ ∃ x, (s.completeEntry p n e).entry p n = some x ∧ x.st = .wait ∧ x.bitmap = e.bitmap ∧ x.trapped = [] ∧ x.next = 0
        ∧ x.issueFault = none := by
  let ts := e.tens.map (fun t =>
    if isSrcMode t.mode || t.mode == 2 then
      match tget none (s.part p).committed t.lt with
      | some x => { t with desc := x.desc, srcPb := if x.view then none else some x.pb, before := some x }
      | none => t
    else t)
  let again (e : Entry) : Entry :=
    { e with st := .wait, tens := ts, trapped := [], redone := [], next := 0, out := [], trigs := e.bitmap, issueFault := none,
             cause := 0, ecode := 0 }
  let u := (s.backTo p e.snap).modPart p (fun q => { q.takeReads ts with rename := applyTensors (q.takeReads ts).rename ts })
  have heq : s.completeEntry p n e
      = (u.modEntry p n again).modPart p (fun q => { q with sfe := q.sfe.pastEntry e.instr e.len }) := rfl
  have hreads : ((s.backTo p e.snap).part p).takeReads ts = _ := ((s.backTo p e.snap).part p).bufFrame_takeReads ts
  have hu : (u.part p).srec = none ∧ (u.part p).window = (s.part p).window := by
    rw [State.part_modPart_self, hreads, State.part_backTo]
    exact ⟨rfl, rfl⟩
  have hentry : u.entry p n = some e := (StopFrame.entry_eq hu.2 n).trans he
  have hmod := u.part_modEntry p n again
  rw [heq, State.part_modPart_self]
  refine ⟨?_, Sfe.pastEntry_wait ((u.modEntry p n again).part p).sfe e.instr e.len, again e, ?_, rfl, rfl, rfl, rfl, rfl⟩
  · change ((u.modEntry p n again).part p).srec = none
    rw [hmod]
    exact hu.1
  · refine Eq.trans ?_ (State.entry_modEntry again hentry)
    exact StopFrame.entry_eq (by rw [State.part_modPart_self]) n

/-- R108: the service takes a held stream on. -/
theorem State.takeOn_held {s : State} {p n : Nat} {e : Entry} {r : StreamRec} (hr : (s.part p).srec = some r)
    (hh : (s.part p).heldEntry = some (n, e)) (choice : Nat) :
    s.takeOn p choice = if choice = 1 && canComplete r e then s.completeEntry p n e
      else if choice = 2 then s.restartEntry p n e else s.endStream p badExit := by
  simp only [State.takeOn, hr, hh]

/-- R108: Kill ends the stream. -/
theorem State.takeOn_kill {s : State} {p : Nat} (h : (s.part p).srec.isSome = true) : s.takeOn p 0 = s.endStream p badExit := by
  obtain ⟨r, hr⟩ := Option.isSome_iff_exists.mp h
  simp only [State.takeOn, hr]
  split
  · rfl
  · rfl

theorem State.entry_of_held {s : State} {p n : Nat} {e : Entry} (h : (s.part p).heldEntry = some (n, e)) : s.entry p n = some e := by
  unfold Part.heldEntry at h
  split at h
  case h_1 m x xs hlive =>
    split at h
    · cases h
      exact State.entry_of_live (by rw [hlive]; exact List.mem_cons_self)
    · cases h
  case h_2 => cases h

/-- R89: what the end of a stream reports. -/
theorem State.ctlOut_endStream (s : State) (p : Nat) (w : Word) :
    (s.endStream p w).ctlOut = s.ctlOut ++ [exitReport (s.part p).sfe.reqid w] := by
  have hframe := (stopFrame_discardAll s p false ((s.part p).live.map (·.1))).state
  simp only [State.endStream]
  revert hframe
  generalize s.discardAll p false ((s.part p).live.map (·.1)) = t
  intro hframe
  rw [hframe]
  rfl

theorem onEntry_of {s : State} {p n : Nat} (h : s.focus = .entry p n) (k : Nat → Nat → State) : onEntry s k = .next (k p n) := by
  rw [onEntry, h]

theorem onStream_of {s : State} {p : Nat} (h : s.focus = .sfe p ∨ ∃ n, s.focus = .entry p n) (k : Nat → State) :
    onStream s k = .next (k p) := by
  rcases h with h | ⟨n, h⟩ <;> rw [onStream, h]

/-! The steps of an entry (R104, R105, R129). -/

section
variable {s : State} {p n : Nat} {e : Entry}

theorem exec_entryIssue (hf : s.focus = .entry p n) (he : s.entry p n = some e) (hi : s.issuable p n e = true)
    (hup : (s.die (hostDie p)).holdStop = false) (hw : wholeScope e.instr = true → s.entryWaits e = false)
    (hold : ∀ x ∈ ((s.part p).live).takeWhile (fun x => x.1 != n), s.issuable p x.1 x.2 = false) :
    let t := if wholeScope e.instr then s.entryRelease p e else s
    let u := (if isTWait e.instr then t else t.entryAcquire p e).modEntry p n (fun e => { e with st := .issued })
    exec .entryIssue s = .next u ∧ u.entry p n = some { e with st := .issued } := by
  refine ⟨?_, ?_⟩
  · rw [exec, execEntryIssue, onEntry_of hf]
    exact congrArg Host.Outcome.next (State.issue_issues he hi hup hw hold)
  · exact State.entry_modEntry _ ((State.entry_of_cacheFrame (cacheFrame_issueScopes s p e) p n).trans he)

theorem exec_entryDone (hf : s.focus = .entry p n) : exec .entryDone s = .next (s.entryDone p n) := by
  rw [exec, execEntryDone, onEntry_of hf]

theorem exec_tWaitPoll (hf : s.focus = .entry p n) (he : s.entry p n = some e) (hi : isTWait e.instr = true) :
    exec .tWaitPoll s = .next (s.entryDone p n) := by
  rw [exec, execTWaitPoll, onEntry_of hf]
  simp only [he, hi, if_true]

theorem exec_windowWaitBoundPassed (hf : s.focus = .entry p n) : exec .windowWaitBoundPassed s = .next (s.entryExpire p n) := by
  rw [exec, execWindowWaitBoundPassed, onEntry_of hf]

theorem exec_entryFault (hf : s.focus = .entry p n) : exec .entryFault s = .next (s.entryFault p n) := by
  rw [exec, execEntryFault, onEntry_of hf]

/-- R114: an entry that waits with a failed check goes to FAULT. -/
theorem State.entryFault_waits (he : s.entry p n = some e) (hst : e.st = .wait) {c : Nat} {ec : BitVec 6}
    (hc : e.issueFault = some (c, ec)) :
    s.entryFault p n = s.toFault p n e c ec := by
  rw [State.entryFault]
  simp only [he]
  rw [if_pos (beq_iff_eq.mpr hst), hc]

/-- R105: an entry whose work cannot be done goes to FAULT. -/
theorem State.entryFault_works (he : s.entry p n = some e) (hst : e.st = .issued) (hup : (s.die (hostDie p)).holdStop = false)
    (hheld : s.entryHeld p e = false) {t : State} {c : Nat} {ec : BitVec 6} (hwork : s.work p e = .fault t c ec) :
    s.entryFault p n = t.toFault p n e c ec := by
  have hnot : (e.st == EState.wait) = false := by
    rw [hst]
    rfl
  have hon : (e.st == EState.issued && !(s.die (hostDie p)).holdStop && !s.entryHeld p e) = true := by
    rw [hst, hup, hheld]
    rfl
  rw [State.entryFault]
  simp only [he]
  rw [if_neg (ne_true_of_eq_false hnot), if_pos hon, hwork]

/-- R129: past its bound a wait faults. -/
theorem State.entryExpire_late (he : s.entry p n = some e) (hst : e.st = .issued) (hlate : e.late = true) :
    s.entryExpire p n = s.toFault p n e cWAITBOUND 0 := by
  have hon : (e.st == EState.issued && e.late) = true := by
    rw [hst, hlate]
    rfl
  rw [State.entryExpire]
  simp only [he]
  rw [if_pos hon]

theorem State.entryExpire_not_late (he : s.entry p n = some e) (hlate : e.late = false) : s.entryExpire p n = s := by
  have hoff : (e.st == EState.issued && e.late) = false := by rw [hlate, Bool.and_false]
  rw [State.entryExpire]
  simp only [he]
  rw [if_neg (ne_true_of_eq_false hoff)]

theorem exec_windowWaitBoundPassed_late (hf : s.focus = .entry p n) (he : s.entry p n = some e) (hst : e.st = .issued) {b : Nat}
    (hb : windowBound e.instr = some b) (hlt : 2 ^ b < e.stall) (hgot : e.got = false) :
    (∃ t, exec .windowWaitBoundPassed s = .next t ∧ t.entry p n = some { e with st := .fault, cause := cWAITBOUND, ecode := 0 })
      ∧ (∀ d, s.takeMsg p n e d = s)
      ∧ (isTWait e.instr = true → exec .entryDone s = .next s ∧ exec .tWaitPoll s = .next s) := by
  have hlate := Entry.late_of_passed hb hlt hgot
  refine ⟨⟨_, (exec_windowWaitBoundPassed hf).trans (congrArg Host.Outcome.next (State.entryExpire_late he hst hlate)),
    State.entry_toFault _ _ he⟩, fun d => State.takeMsg_late d hlate, fun hi => ?_⟩
  rw [exec_entryDone hf, exec_tWaitPoll hf he hi, State.entryDone_late he hi hlate]
  exact ⟨rfl, rfl⟩

/-- R127: what the delivery service does with the `t.send` of an entry. -/
theorem execSendDeliveryComplete_of (he : s.entry p n = some e) (hst : e.st = .issued) {h : Nat} {m : List Byte}
    (hout : s.outbox.find? (fun x => x.1 = p * 128 + n) = some (p * 128 + n, h, m)) (ok : Bool) :
    exec (.sendDeliveryComplete p n ok) s = if ok
      then .next ({ s with outbox := s.outbox.filter (fun x => x.1 != p * 128 + n), sent := s.sent ++ [(h, m)] }.toDone p n e)
      else .next ({ s with outbox := s.outbox.filter (fun x => x.1 != p * 128 + n) }.toFault p n e cERRBIT 7) := by
  rw [exec, execSendDeliveryComplete]
  simp only [he, hout, hst, beq_self_eq_true, if_true]

theorem exec_sendDeliveryComplete (he : s.entry p n = some e) (hst : e.st = .issued) {h : Nat} {m : List Byte}
    (hout : s.outbox.find? (fun x => x.1 = p * 128 + n) = some (p * 128 + n, h, m)) :
    let rest := s.outbox.filter (fun x => x.1 != p * 128 + n)
    (∃ t, exec (.sendDeliveryComplete p n true) s = .next t ∧ t.outbox = rest ∧ t.sent = s.sent ++ [(h, m)]
        ∧ t.entry p n = some { e with st := .done })
      ∧ (∃ t, exec (.sendDeliveryComplete p n false) s = .next t ∧ t.outbox = rest ∧ t.sent = s.sent
        ∧ t.entry p n = some { e with st := .fault, cause := cERRBIT, ecode := 7 }) := by
  intro rest
  have hok := execSendDeliveryComplete_of he hst hout true
  have hlost := execSendDeliveryComplete_of he hst hout false
  rw [if_pos rfl] at hok
  rw [if_neg Bool.false_ne_true] at hlost
  exact ⟨⟨_, hok, (State.toDone_outbox _ p n e).1, (State.toDone_outbox _ p n e).2, State.entry_toDone he⟩,
    ⟨_, hlost, (State.toFault_outbox _ p n e _ _).1, (State.toFault_outbox _ p n e _ _).2, State.entry_toFault _ _ he⟩⟩

end

/-! The steps of a stream (R89, R106, R108). -/

section
variable {s : State} {p : Nat}

theorem exec_streamTrap (hf : s.focus = .sfe p) : exec .streamTrap s = .next (s.streamTrap p) := by
  rw [exec, execStreamTrap, onStream_of (.inl hf)]

/-- R89: a stream whose window is empty ends. -/
theorem exec_streamEnd (hf : s.focus = .sfe p) {w : Word} (hw : (s.part p).sfe.wait = .endStream w) (hempty : s.windowEmpty p = true) :
    exec .streamEnd s = .next (s.endStream p w) ∧ ((s.endStream p w).part p).sfe.running = false
      ∧ ((s.endStream p w).part p).srec = none ∧ (s.endStream p w).ctlOut = s.ctlOut ++ [exitReport (s.part p).sfe.reqid w] := by
  refine ⟨?_, ?_, ?_, s.ctlOut_endStream p w⟩
  · rw [exec, execStreamEnd, onStream_of (.inl hf)]
    simp only [hw, hempty, if_true]
  · rw [State.part_endStream]
  · rw [State.part_endStream]

theorem exec_streamTrap_entry (hf : s.focus = .sfe p) {n : Nat} {e : Entry} {younger : List (Nat × Entry)}
    (hlive : (s.part p).live = (n, e) :: younger) (hst : e.st = .fault) (hm : (s.part p).sfe.hmode = none)
    (hh : (s.part p).sfe.handler = none) (hl : younger = [] ∨ s.linksHold = false) (hne : ∀ x ∈ younger, x.1 ≠ n) :
    ∃ t r, exec .streamTrap s = .next t ∧ (t.part p).srec = some r ∧ r.spc = e.spc ∧ r.entry = n ∧ r.ntask = e.ntask
      ∧ r.ndone = e.bitmap.length ∧ r.nfault = e.trapped.length
      ∧ (e.trapped = [] → r.kind = 1 ∧ r.cause = e.cause) ∧ (e.trapped ≠ [] → r.kind = 0)
      ∧ (t.part p).sfe.wait = .held ∧ (t.part p).sfe.ctx = e.snap ∧ t.entry p n = some { e with st := .held }
      ∧ (t.part p).wcount = 1 ∧ (t.part p).rename = (s.part p).committed ∧ ∀ x ∈ younger, t.entry p x.1 = none := by
  have he : s.entry p n = some e := State.entry_of_live (by rw [hlive]; exact List.mem_cons_self)
  have hn : n ∉ younger.map (·.1) := fun h => by
    obtain ⟨x, hx, hxn⟩ := List.mem_map.mp h
    exact hne x hx hxn
  obtain ⟨r, htrap, u, hr⟩ := State.streamTrap_entry hlive hst hm hl
  obtain ⟨hcount, hrename, hsfe, hentry, hgone⟩ := State.part_trapWindow he hn
  have hexec : exec .streamTrap s = .next ((s.trapWindow p n e (younger.map (·.1))).takeStreamTrap p r (some n)) := by
    rw [exec_streamTrap hf, htrap]
  generalize s.trapWindow p n e (younger.map (·.1)) = v at hcount hrename hsfe hentry hgone hexec
  have hnone : (v.part p).sfe.handler = none := by rw [hsfe]; exact hh
  have hpart := State.part_takeStreamTrap r (some n) hnone
  obtain ⟨hspc, hnum, hntask, hndone, hnfault, hentryTrap, htaskTrap⟩ := u.faultRecord_says p n e
  rw [← hr] at hspc hnum hntask hndone hnfault hentryTrap htaskTrap
  have hwin : ∀ m, (v.takeStreamTrap p r (some n)).entry p m = v.entry p m := fun m => StopFrame.entry_eq (by rw [hpart]) m
  refine ⟨v.takeStreamTrap p r (some n), r, hexec, ?_, hspc, hnum, hntask, hndone, hnfault, hentryTrap, htaskTrap, ?_, ?_,
    (hwin n).trans hentry, ?_, ?_, fun x hx => (hwin x.1).trans (hgone _ (List.mem_map_of_mem hx))⟩
  · rw [hpart]
  · rw [hpart]
  · rw [hpart, hsfe]
  · rw [hpart, hcount]
  · rw [hpart, hrename]

/-- R107: a scalar instruction of the stream traps with no entry. -/
theorem exec_streamTrap_scalar (hf : s.focus = .sfe p) {kind c sub spc : Nat} {ec : BitVec 6} (hlive : (s.part p).live = [])
    (hw : (s.part p).sfe.wait = .trap kind c sub spc ec) (hh : (s.part p).sfe.handler = none) :
    ∃ t r, exec .streamTrap s = .next t ∧ (t.part p).srec = some r ∧ r.spc = spc ∧ r.cause = c ∧ r.sub = sub ∧ r.kind = kind
      ∧ (t.part p).sfe.wait = .held := by
  have hpart := State.part_takeStreamTrap (s.scalarRecord p kind c sub spc) none hh
  have htrap : s.streamTrap p = s.takeStreamTrap p (s.scalarRecord p kind c sub spc) none := by
    simp only [State.streamTrap, hlive, hw, State.scalarRecord]
  refine ⟨s.takeStreamTrap p (s.scalarRecord p kind c sub spc) none, s.scalarRecord p kind c sub spc, ?_, ?_, rfl, rfl, rfl, rfl, ?_⟩
  · rw [exec_streamTrap hf, htrap]
  · rw [hpart]
  · rw [hpart]

/-- R108: the service takes on a stream held at a trap. -/
theorem exec_streamTakeOn (hf : s.focus = .sfe p) (hheld : (s.part p).trapHeld = true) :
    exec .streamComplete s = .next (s.takeOn p 1) ∧ exec .streamRestart s = .next (s.takeOn p 2)
      ∧ exec .streamKill s = .next (s.endStream p badExit) := by
  have hsome : (s.part p).srec.isSome = true := by
    simp only [Part.trapHeld, Bool.and_eq_true] at hheld
    exact hheld.1.1
  refine ⟨?_, ?_, ?_⟩
  · rw [exec, execStreamComplete, onStream_of (.inl hf)]
    simp only [hheld, if_true]
  · rw [exec, execStreamRestart, onStream_of (.inl hf)]
    simp only [hheld, if_true]
  · rw [exec, execStreamKill, onStream_of (.inl hf)]
    simp only [hheld, if_true, State.takeOn_kill hsome]

theorem State.takeOn_complete {r : StreamRec} {n : Nat} {e : Entry} (hr : (s.part p).srec = some r)
    (hh : (s.part p).heldEntry = some (n, e)) :
    s.takeOn p 1 = if canComplete r e then s.completeEntry p n e else s.endStream p badExit := by
  rw [State.takeOn_held hr hh]
  cases canComplete r e <;> rfl

theorem State.takeOn_restart {r : StreamRec} {n : Nat} {e : Entry} (hr : (s.part p).srec = some r)
    (hh : (s.part p).heldEntry = some (n, e)) : s.takeOn p 2 = s.restartEntry p n e := by
  rw [State.takeOn_held hr hh]
  rfl

end

end Sys2Proof.Machine

section
open Sys2Proof Sys2Proof.Machine

/-- Settles O41: each step of an entry keeps its place in the window; a stream trap holds the oldest entry, and Complete and Restart
take it on. -/
theorem windowAndStreamSteps : Obligations.WindowAndStreamSteps := by
  unfold Obligations.WindowAndStreamSteps
  refine ⟨fun s p n e hf he => ⟨exec_entryIssue hf he, fun hst hup hlate hheld hwaits => ⟨fun t e' hwork ht => ?_, fun hi hno => ?_,
    fun x w t hi hno hx hr ht hwait => ?_⟩, State.entry_toDone he, fun hst c ec hc => ⟨_, ?_, State.entry_toFault c ec he⟩,
    fun hst hup hheld t c ec hwork => ?_, ?_, fun hst b => exec_windowWaitBoundPassed_late hf he hst, fun b hb h => ?_,
    fun hst h m => exec_sendDeliveryComplete he hst, fun hh hst t ht hno => ?_⟩,
    fun s p hf => ⟨fun w => exec_streamEnd hf, exec_streamTrap hf, fun n e younger => exec_streamTrap_entry hf,
      fun kind c sub spc ec => exec_streamTrap_scalar hf, fun hheld => ?_⟩⟩
  · have hdone := State.entryDone_done he hst hup hlate hheld hwaits hwork ht
    exact ⟨(exec_entryDone hf).trans (congrArg Host.Outcome.next hdone),
      fun hi => (exec_tWaitPoll hf he hi).trans (congrArg Host.Outcome.next hdone)⟩
  · rw [exec_entryDone hf, State.entryDone_done he hst hup hlate hheld hwaits (State.work_at_once hi hno) he]
  · rw [exec_tWaitPoll hf he hi, State.entryDone_done he hst hup hlate hheld hwaits (State.work_tWait hi hno hx hr hwait) ht]
  · rw [exec_entryFault hf, State.entryFault_waits he hst hc]
  · rw [exec_entryFault hf, State.entryFault_works he hst hup hheld hwork]
  · rw [exec, execEntryRetire, onStream_of (.inr ⟨n, hf⟩)]
  · rw [exec_windowWaitBoundPassed hf, State.entryExpire_not_late he (Entry.not_late hb h)]
  · rw [← ht, State.retireEntry_retires hh hst hno]
    exact s.part_retired p n e
  · obtain ⟨hcomplete, hrestart, hkill⟩ := exec_streamTakeOn hf hheld
    refine ⟨hcomplete, hrestart, hkill, fun r n e hr he => ⟨fun hc => ⟨?_, State.part_completeEntry (State.entry_of_held he)⟩,
      fun hc => ?_, ?_, s.part_restartEntry p n e⟩⟩
    · rw [hcomplete, State.takeOn_complete hr he, if_pos hc]
    · rw [hcomplete, State.takeOn_complete hr he, if_neg (ne_true_of_eq_false hc)]
    · rw [hrestart, State.takeOn_restart hr he]

end
end

section
/-! PROOFS. Memory stays canonical: caches, accesses, exceptions and waits (R253, R262). -/

namespace Sys2Proof.Machine

/-- An outcome whose next state, where it has one, has its memory in canonical form. -/
def OutWf (o : Out) : Prop := ∀ t, o = .next t → Memory.wf t.hbm = true

@[simp] theorem outWf_next (t : State) : OutWf (.next t) ↔ Memory.wf t.hbm = true :=
  ⟨fun h => h t rfl, fun h u hu => by cases hu; exact h⟩
@[simp] theorem outWf_fault (f : Fault) : OutWf (.fault f) := nofun
@[simp] theorem outWf_refused (r : Refusal) : OutWf (.refused r) := nofun

/-- A loop whose body keeps the form keeps it. -/
theorem foldl_wf {α : Type} {f : State → α → State} (hf : ∀ s x, Memory.wf s.hbm = true → Memory.wf (f s x).hbm = true) :
    ∀ (l : List α) (s : State), Memory.wf s.hbm = true → Memory.wf (l.foldl f s).hbm = true
  | [], _, h => h
  | x :: xs, s, h => foldl_wf hf xs (f s x) (hf s x h)

/-- What is done only under a condition keeps the form. -/
theorem cond_wf {c : Prop} [Decidable c] {s t : State} (h : Memory.wf s.hbm = true)
    (ht : Memory.wf s.hbm = true → Memory.wf t.hbm = true) : Memory.wf (if c then t else s).hbm = true := by
  split
  · exact ht h
  · exact h

theorem wf_of_snd {α : Type} {r : α × State} {a : α} {t : State} (he : r = (a, t)) (h : Memory.wf r.2.hbm = true) :
    Memory.wf t.hbm = true := by
  rw [he] at h
  exact h

/-! The operations of memory keep the form (Laws/Memory), said for `simp`. -/

@[simp] theorem State.hbmWrite_wf (s : State) (sec : Nat) (mask : BitVec 128) (data : BitVec 512) (poison : BitVec 8)
    (ecode : BitVec 6) (key gen : Nat) (h : Memory.wf s.hbm = true) :
    Memory.wf (s.hbmWrite sec mask data poison ecode key gen).hbm = true :=
  (keeps_hbmWrite ..).keep h
@[simp] theorem State.putBytes_wf (s : State) (c : Option CacheId) (sec : Nat) (mask : BitVec 128) (data : BitVec 512)
    (poison : BitVec 8) (ecode : BitVec 6) (key gen : Nat) (home owner : Nat) (h : Memory.wf s.hbm = true) :
    Memory.wf (s.putBytes c sec mask data poison ecode key gen home owner).hbm = true :=
  (keeps_putBytes ..).keep h
@[simp] theorem State.l2Evict_wf (s : State) (sec : Nat) (h : Memory.wf s.hbm = true) : Memory.wf (s.l2Evict sec).hbm = true :=
  (keeps_l2Evict ..).keep h
@[simp] theorem State.l2Request_wf (s : State) (part : Option Nat) (home sec : Nat) (h : Memory.wf s.hbm = true) :
    Memory.wf (s.l2Request part home sec).2.hbm = true :=
  (keeps_l2Request ..).keep h
@[simp] theorem State.l2Touch_wf (s : State) (part : Option Nat) (home sec : Nat) (h : Memory.wf s.hbm = true) :
    Memory.wf (s.l2Touch part home sec).hbm = true :=
  (keeps_l2Touch ..).keep h
@[simp] theorem State.pushDown_wf (s : State) (c : CacheId) (sec : Nat) (x : CSec) (k : Nat) (h : Memory.wf s.hbm = true) :
    Memory.wf (s.pushDown c sec x k).hbm = true :=
  (keeps_pushDown ..).keep h
@[simp] theorem State.dropOther_wf (s : State) (c : CacheId) (sec key gen : Nat) (h : Memory.wf s.hbm = true) :
    Memory.wf (s.dropOther c sec key gen).hbm = true :=
  (keeps_dropOther ..).keep h
@[simp] theorem State.writeBack_wf (s : State) (c : CacheId) (sec : Nat) (h : Memory.wf s.hbm = true) :
    Memory.wf (s.writeBack c sec).hbm = true :=
  (keeps_writeBack ..).keep h
@[simp] theorem State.flushSec_wf (s : State) (c : CacheId) (sec : Nat) (h : Memory.wf s.hbm = true) :
    Memory.wf (s.flushSec c sec).hbm = true :=
  (keeps_flushSec ..).keep h
@[simp] theorem State.writeBackAll_wf (s : State) (c : CacheId) (h : Memory.wf s.hbm = true) :
    Memory.wf (s.writeBackAll c).hbm = true :=
  (keeps_writeBackAll ..).keep h
@[simp] theorem State.flushAll_wf (s : State) (c : CacheId) (h : Memory.wf s.hbm = true) : Memory.wf (s.flushAll c).hbm = true :=
  (keeps_flushAll ..).keep h
@[simp] theorem State.evictLine_wf (s : State) (c : CacheId) (lines : List Nat) (h : Memory.wf s.hbm = true) :
    Memory.wf (s.evictLine c lines).2.hbm = true :=
  (keeps_evictLine ..).keep h
@[simp] theorem State.claimLine_wf (s : State) (part : Option Nat) (c : CacheId) (home sec : Nat) (h : Memory.wf s.hbm = true) :
    Memory.wf (s.claimLine part c home sec).2.hbm = true :=
  (keeps_claimLine ..).keep h
@[simp] theorem State.fetch_wf (s : State) (part : Option Nat) (sec key : Nat) (home : Nat) (need : BitVec 128)
    (l : List CacheId) (h : Memory.wf s.hbm = true) : Memory.wf (s.fetch part sec key home need l).2.hbm = true :=
  (keeps_fetch ..).keep h
@[simp] theorem State.store_wf (s : State) (part : Option Nat) (sec key : Nat) (home : Nat) (mask : BitVec 128)
    (data : BitVec 512) (l : List CacheId) (h : Memory.wf s.hbm = true) :
    Memory.wf (s.store part sec key home mask data l).hbm = true :=
  (keeps_store ..).keep h
@[simp] theorem State.storeHeld_wf (s : State) (sec key : Nat) (home : Nat) (mask : BitVec 128) (data : BitVec 512)
    (l : List CacheId) (h : Memory.wf s.hbm = true) : Memory.wf (s.storeHeld sec key home mask data l).hbm = true :=
  (keeps_storeHeld ..).keep h
@[simp] theorem State.readPath_wf (s : State) (part : Option Nat) (p : Path) (len : Nat) (cs : List CacheId)
    (h : Memory.wf s.hbm = true) : Memory.wf (s.readPath part p len cs).2.hbm = true :=
  (keeps_readPath ..).keep h
@[simp] theorem State.writePath_wf (s : State) (part : Option Nat) (p : Path) (len v : Nat) (cs : List CacheId)
    (h : Memory.wf s.hbm = true) : Memory.wf (s.writePath part p len v cs).hbm = true :=
  (keeps_writePath ..).keep h
@[simp] theorem State.writeHeld_wf (s : State) (p : Path) (len v : Nat) (cs : List CacheId) (h : Memory.wf s.hbm = true) :
    Memory.wf (s.writeHeld p len v cs).hbm = true :=
  (keeps_writeHeld ..).keep h
@[simp] theorem State.writeNibble_wf (s : State) (part : Option Nat) (p : Path) (hi : Bool) (v : Nat) (cs : List CacheId)
    (h : Memory.wf s.hbm = true) : Memory.wf (s.writeNibble part p hi v cs).hbm = true :=
  (keeps_writeNibble ..).keep h
@[simp] theorem State.readHome_wf (s : State) (part : Option Nat) (p : Path) (len : Nat) (h : Memory.wf s.hbm = true) :
    Memory.wf (s.readHome part p len).2.hbm = true :=
  (keeps_readHome ..).keep h
@[simp] theorem State.readVirt_wf (s : State) (root : Nat) (part : Option Nat) (need : Need) (va k : Nat)
    (h : Memory.wf s.hbm = true) : Memory.wf (s.readVirt root part need va k).2.hbm = true :=
  (keeps_readVirt ..).keep h
@[simp] theorem State.writeVirt_wf (s : State) (root : Nat) (part : Option Nat) (need : Need) (va : Nat) (l : List Byte)
    (h : Memory.wf s.hbm = true) : Memory.wf (s.writeVirt root part need va l).2.hbm = true :=
  (keeps_writeVirt ..).keep h
@[simp] theorem State.clearPage_wf (s : State) (pa key : Nat) (h : Memory.wf s.hbm = true) :
    Memory.wf (s.clearPage pa key).hbm = true :=
  (keeps_clearPage ..).keep h
@[simp] theorem State.zeroVirt_wf (s : State) (p lo n : Nat) (h : Memory.wf s.hbm = true) :
    Memory.wf (s.zeroVirt p lo n).hbm = true :=
  (keeps_zeroVirt ..).keep h

/-! What Machine/Access defines. -/

@[simp] theorem State.setEntry_hbm (s : State) (p n : Nat) (e : Option Entry) : (s.setEntry p n e).hbm = s.hbm := rfl

@[simp] theorem State.trainPort_hbm (s : State) (n rate : Nat) : (s.trainPort n rate).hbm = s.hbm := rfl

@[simp] theorem State.countRetry_hbm (s : State) (n k : Nat) : (s.countRetry n k).hbm = s.hbm := rfl

@[simp] theorem State.freeValue_hbm (s : State) : (s.freeValue).2.hbm = s.hbm := rfl

/-! What Machine/Mem defines. -/

@[simp] theorem State.dropClean_hbm (s : State) (c : CacheId) (sec : Nat) : (s.dropClean c sec).hbm = s.hbm := by
  simp only [State.dropClean]
  (repeat' split) <;> simp

@[simp] theorem State.lineRoom_wf (s : State) (c : CacheId) (sec : Nat) (h : Memory.wf s.hbm = true) :
    Memory.wf (s.lineRoom c sec).2.hbm = true := by
  unfold State.lineRoom
  split <;> simp [h]

@[simp] theorem State.spoilAt_hbm (s : State) (sec : Nat) (w : BitVec 8) (e : BitVec 6) (l : List CacheId) :
    (s.spoilAt sec w e l).hbm = s.hbm := by
  induction l with
  | nil =>
    simp only [State.spoilAt]
    split <;> rfl
  | cons c cs ih =>
    unfold State.spoilAt
    split
    · exact State.setCached_hbm ..
    · exact ih

@[simp] theorem State.beforeNoAlloc_wf (s : State) (g : Nat) (p : Path) (h : Memory.wf s.hbm = true) :
    Memory.wf (s.beforeNoAlloc g p).hbm = true := by
  unfold State.beforeNoAlloc
  split <;> simp [h]

/-! What Machine/Order defines. -/

@[simp] theorem State.beforeAcc_wf (s : State) (g : Nat) (x : Acc) (h : Memory.wf s.hbm = true) :
    Memory.wf (s.beforeAcc g x).hbm = true := by
  unfold State.beforeAcc
  split <;> simp [h]

@[simp] theorem State.noteHint_hbm (s : State) (g : Nat) (x : Acc) (had : Bool) : (s.noteHint g x had).hbm = s.hbm := by
  unfold State.noteHint
  split <;> simp

@[simp] theorem State.readAcc_wf (s : State) (g : Nat) (x : Acc) (h : Memory.wf s.hbm = true) :
    Memory.wf (s.readAcc g x).2.hbm = true := by
  simp only [State.readAcc]
  repeat' split
  all_goals simp [h]

@[simp] theorem State.spoilAcc_hbm (s : State) (g : Nat) (x : Acc) : (s.spoilAcc g x).hbm = s.hbm := by
  simp only [State.spoilAcc]
  (repeat' split) <;> simp

@[simp] theorem State.writeBytes_wf (s : State) (g : Nat) (x : Acc) (nib : Option Bool) (h : Memory.wf s.hbm = true) :
    Memory.wf (s.writeBytes g x nib).hbm = true := by
  simp only [State.writeBytes]
  repeat' split
  all_goals simp [h]

@[simp] theorem State.writeAcc_wf (s : State) (g : Nat) (x : Acc) (nib : Option Bool) (h : Memory.wf s.hbm = true) :
    Memory.wf (s.writeAcc g x nib).hbm = true := by
  simp [State.writeAcc, h]

@[simp] theorem State.beforeAtomic_wf (s : State) (g sc sec : Nat) (h : Memory.wf s.hbm = true) :
    Memory.wf (s.beforeAtomic g sc sec).hbm = true := by
  simp only [State.beforeAtomic]
  repeat' split
  all_goals simp [h]

@[simp] theorem State.atomicAt_wf (s : State) (g : Nat) (x : Acc) (h : Memory.wf s.hbm = true) :
    Memory.wf (s.atomicAt g x).2.hbm = true := by
  simp only [State.atomicAt]
  have hr := State.readPath_wf (s.beforeAtomic g (s.scopeOf g x.op.atomScope) (x.path.pa / 64)) (s.partOf g) x.path x.size
    ((s.beforeAtomic g (s.scopeOf g x.op.atomScope) (x.path.pa / 64)).atomicPath g (s.scopeOf g x.op.atomScope) x.path)
    (State.beforeAtomic_wf s g _ _ h)
  split
  · exact hr
  · exact hr
  · exact (State.modCore_hbm ..).symm ▸ State.writeHeld_wf _ _ _ _ _ hr

@[simp] theorem State.afterOlder_wf (s : State) (g : Nat) (older : List Acc) (x : Acc) (h : Memory.wf s.hbm = true) :
    Memory.wf (s.afterOlder g older x).hbm = true := by
  refine foldl_wf (fun s y h => ?_) _ _ h
  split
  · exact cond_wf h fun h => s.writeAcc_wf g y _ h
  · exact cond_wf h fun h => s.atomicAt_wf g y h
  · exact cond_wf h fun h => s.atomicAt_wf g y h
  · exact h

@[simp] theorem State.remark_hbm (s : State) (g : Nat) : (s.remark g).hbm = s.hbm := by
  simp [State.remark]

/-! What Machine/Ops defines. -/

@[simp] theorem State.queueNote_hbm (s : State) (d : Nat) (t : TrapInfo) : (s.queueNote d t).hbm = s.hbm := by
  unfold State.queueNote
  split <;> simp

@[simp] theorem State.taskDone_hbm (s : State) (g : Nat) : (s.taskDone g).hbm = s.hbm := by
  simp [State.taskDone]

@[simp] theorem State.waitOn_hbm (s : State) (g : Nat) (k : WaitKind) (bound : Option Nat) : (s.waitOn g k bound).hbm = s.hbm := rfl

/-! What Machine/Fetch defines. -/

@[simp] theorem State.unindex_hbm (s : State) (d obj vpc : Nat) : (s.unindex d obj vpc).hbm = s.hbm := rfl

@[simp] theorem State.dropFaulty_hbm (s : State) (a : Agent) (f : CodeFault) : (s.dropFaulty a f).hbm = s.hbm := by
  unfold State.dropFaulty
  split <;> simp

@[simp] theorem State.patchTrap_hbm (s : State) (a : Agent) (n : Nat) (kinds : List Bool) (len : Nat) :
    (s.patchTrap a n kinds len).hbm = s.hbm := by
  unfold State.patchTrap
  split <;> simp

@[simp] theorem State.takePendErr_hbm (s : State) (g seq vpc : Nat) (e : BitVec 6) : (s.takePendErr g seq vpc e).hbm = s.hbm := by
  simp only [State.takePendErr]
  (repeat' split) <;> simp

theorem State.errBoundary_hbm (s : State) (g : Nat) : ∀ u ∈ s.errBoundary g, u.hbm = s.hbm := by
  unfold State.errBoundary
  split <;> simp

/-! What Machine/Queue defines. -/

@[simp] theorem State.checkAddr_hbm (s : State) (g : Nat) (pad : Bool) (a : Int) (n : Nat) (need : Need) :
    (s.checkAddr g pad a n need).2.hbm = s.hbm := by
  simp only [State.checkAddr]
  (repeat' split) <;> simp

@[simp] theorem State.finishLoad_hbm (s : State) (g j : Nat) (x : Acc) (v : Nat) : (s.finishLoad g j x v).hbm = s.hbm := rfl

@[simp] theorem State.accTrap_hbm (s : State) (g j : Nat) (x : Acc) (c : Cause) (kinds : List Bool) :
    (s.accTrap g j x c kinds).hbm = s.hbm := by
  simp [State.accTrap]

@[simp] theorem State.loadPerform_wf (s : State) (g : Nat) (h : Memory.wf s.hbm = true) :
    Memory.wf (s.loadPerform g).hbm = true := by
  simp only [State.loadPerform]
  split
  · exact h
  · split
    · exact h
    next x hx =>
      have hr := s.readAcc_wf g x h
      split
      · exact h
      · split
        · simp [h]
        · split
          · exact h
          · split
            · simp [h]
            · split
              next heq => simp [wf_of_snd heq hr]
              next heq => split <;> simp [wf_of_snd heq hr, h]

@[simp] theorem State.storeLeave_wf (s : State) (g : Nat) (h : Memory.wf s.hbm = true) : Memory.wf (s.storeLeave g).hbm = true := by
  simp only [State.storeLeave]
  repeat' split
  all_goals simp [h]

@[simp] theorem State.writeBackLine_wf (s : State) (sec : Nat) (h : Memory.wf s.hbm = true) :
    Memory.wf (s.writeBackLine sec).hbm = true := by
  simp [State.writeBackLine, h]

@[simp] theorem State.releaseAct_wf (s : State) (g sc : Nat) (h : Memory.wf s.hbm = true) :
    Memory.wf (s.releaseAct g sc).hbm = true := by
  unfold State.releaseAct
  exact cond_wf (cond_wf (cond_wf h fun h => State.writeBackAll_wf _ _ h) fun h => State.writeBackAll_wf _ _ h)
    fun h => (State.modCore_hbm ..).symm ▸ foldl_wf (fun s x h => s.writeBackLine_wf x h) _ _ h

@[simp] theorem State.acquireAct_wf (s : State) (g sc : Nat) (h : Memory.wf s.hbm = true) :
    Memory.wf (s.acquireAct g sc).hbm = true := by
  simp only [State.acquireAct]
  repeat' split
  all_goals simp [h]

@[simp] theorem State.cacheAct_wf (s : State) (g : Nat) (inval : Bool) (sc : Nat) (runs : List (Nat × Nat))
    (h : Memory.wf s.hbm = true) : Memory.wf (s.cacheAct g inval sc runs).hbm = true := by
  have one {s : State} (c : CacheId) (h : Memory.wf s.hbm = true) :
      Memory.wf (((s.cachedSecs c).filter (inRuns runs)).foldl
        (fun s x => if inval && c != .l2 then s.flushSec c x else s.writeBack c x) s).hbm = true :=
    foldl_wf (fun s x h => by split <;> simp [h]) _ s h
  unfold State.cacheAct
  exact cond_wf (cond_wf (cond_wf h fun h => one (.lsc g) h) fun h => one (.rdc (dieOf g)) h) fun h => one .l2 h

@[simp] theorem State.releaseComplete_wf (s : State) (g : Nat) (h : Memory.wf s.hbm = true) :
    Memory.wf (s.releaseComplete g).hbm = true := by
  simp only [State.releaseComplete]
  repeat' split
  all_goals simp [h]

@[simp] theorem State.acquireComplete_wf (s : State) (g : Nat) (h : Memory.wf s.hbm = true) :
    Memory.wf (s.acquireComplete g).hbm = true := by
  simp only [State.acquireComplete]
  repeat' split
  all_goals simp [h]

@[simp] theorem State.atomicPerform_wf (s : State) (g : Nat) (h : Memory.wf s.hbm = true) :
    Memory.wf (s.atomicPerform g).hbm = true := by
  have ha := fun x => s.atomicAt_wf g x h
  unfold State.atomicPerform
  split
  · exact h
  next x xs hacc =>
    simp only
    split
    · split
      · exact h
      · split
        · exact h
        · split
          next heq => split <;> simp [wf_of_snd heq (ha x), h]
          next heq => split <;> simp [wf_of_snd heq (ha x)]
    · split
      · exact h
      · split
        next heq => split <;> simp [wf_of_snd heq (ha x), h]
        next heq => simp [wf_of_snd heq (ha x)]
    · exact h

/-! What Machine/Wait defines. -/

@[simp] theorem State.endWait_hbm (s : State) (g : Nat) : (s.endWait g).hbm = s.hbm := rfl

@[simp] theorem State.endWith_hbm (s : State) (g : Nat) (vs : List Val) : (s.endWith g vs).hbm = s.hbm := rfl

@[simp] theorem State.endTrap_hbm (s : State) (g : Nat) (c : Cause) (kinds : List Bool) : (s.endTrap g c kinds).hbm = s.hbm := by
  simp [State.endTrap]

@[simp] theorem State.waitB_hbm (s : State) (g : Nat) (k : WaitKind) (own dflt : Nat) : (s.waitB g k own dflt).hbm = s.hbm := by
  unfold State.waitB
  split <;> simp

@[simp] theorem State.semStep_hbm (s : State) (g flag n : Nat) (t : Bool) (bound : Nat) :
    (s.semStep g flag n t bound).hbm = s.hbm := by
  simp only [State.semStep]
  (repeat' split) <;> simp

@[simp] theorem State.barRead_wf (s : State) (g sc : Nat) (x : Acc) (h : Memory.wf s.hbm = true) :
    Memory.wf (s.barRead g sc x).2.hbm = true := by
  simp only [State.barRead]
  repeat' split
  all_goals simp [h]

@[simp] theorem State.barStep_wf (s : State) (g : Nat) (x : Acc) (gen : Nat) (t : Bool) (scope bound : Nat)
    (h : Memory.wf s.hbm = true) : Memory.wf (s.barStep g x gen t scope bound).hbm = true := by
  unfold State.barStep
  split
  · simp [h]
  · have hr := s.barRead_wf g (s.scopeOf g scope) x h
    split
    next heq => simp [wf_of_snd heq hr]
    next w t heq =>
      have ht := wf_of_snd heq hr
      simp only
      split
      · simp [ht]
      · split
        · simp [ht]
        · split <;> simp [ht]

@[simp] theorem State.modTeam_hbm (s : State) (p key : Nat) (f : Team → Team) : (s.modTeam p key f).hbm = s.hbm := rfl

@[simp] theorem State.joinStep_hbm (s : State) (g key bound : Nat) : (s.joinStep g key bound).hbm = s.hbm := by
  simp only [State.joinStep]
  (repeat' split) <;> simp

@[simp] theorem State.joinTeam_hbm (s : State) (g key n : Nat) : (s.joinTeam g key n).hbm = s.hbm := by
  simp only [State.joinTeam]
  split <;> simp

@[simp] theorem State.arrive_hbm (s : State) (p g key : Nat) : (s.arrive p g key).hbm = s.hbm := rfl

@[simp] theorem State.acquireNow_wf (s : State) (g sc : Nat) (h : Memory.wf s.hbm = true) :
    Memory.wf (s.acquireNow g sc).hbm = true := by
  unfold State.acquireNow
  split <;> simp [h]

@[simp] theorem State.teamBarStep_wf (s : State) (g key gen scope bound : Nat) (h : Memory.wf s.hbm = true) :
    Memory.wf (s.teamBarStep g key gen scope bound).hbm = true := by
  simp only [State.teamBarStep]
  repeat' split
  all_goals simp [h]

@[simp] theorem State.sleepEnd_hbm (s : State) (g time tag : Nat) (nt : Bool) (late : Nat) :
    (s.sleepEnd g time tag nt late).hbm = s.hbm := by
  simp only [State.sleepEnd]
  (repeat' split) <;> simp

@[simp] theorem State.sleepStep_hbm (s : State) (g time tag : Nat) (nt finishing : Bool) (bound : Nat) :
    (s.sleepStep g time tag nt finishing bound).hbm = s.hbm := by
  simp only [State.sleepStep]
  (repeat' split) <;> simp

@[simp] theorem State.taskRelease_wf (s : State) (g : Nat) (h : Memory.wf s.hbm = true) :
    Memory.wf (s.taskRelease g).hbm = true := by
  unfold State.taskRelease
  split <;> simp [h]

@[simp] theorem State.markTrig_hbm (s : State) (g : Nat) : (s.markTrig g).hbm = s.hbm := by
  simp only [State.markTrig]
  (repeat' split) <;> simp

@[simp] theorem State.trigStep_wf (s : State) (g : Nat) (h : Memory.wf s.hbm = true) : Memory.wf (s.trigStep g).hbm = true := by
  unfold State.trigStep
  split <;> simp [h]

@[simp] theorem State.haltFinish_wf (s : State) (g : Nat) (h : Memory.wf s.hbm = true) : Memory.wf (s.haltFinish g).hbm = true := by
  simp only [State.haltFinish]
  split <;> simp [h]

@[simp] theorem State.haltStep_wf (s : State) (g : Nat) (h : Memory.wf s.hbm = true) : Memory.wf (s.haltStep g).hbm = true := by
  simp only [State.haltStep]
  split
  · simp [h]
  · split
    next hu => exact (s.errBoundary_hbm g _ hu).symm ▸ h
    · split <;> simp [h]

@[simp] theorem State.undoWait_hbm (s : State) (g : Nat) (l : WaitKind) : (s.undoWait g l).hbm = s.hbm := by
  unfold State.undoWait
  split <;> simp

end Sys2Proof.Machine

end

section
/-! PROOFS. Memory stays canonical: the engines and their queues (R183 to R186, R268). -/

namespace Sys2Proof.Machine

/-! What Machine/Engine defines. -/

@[simp] theorem State.pushNow_hbm (s : State) (g : Nat) (q : Eng) (k : Cmd) : (s.pushNow g q k).hbm = s.hbm := by
  simp only [State.pushNow]
  split <;> simp

@[simp] theorem State.tryPush_hbm (s : State) (g : Nat) (q : Eng) (k : Cmd) : (s.tryPush g q k).hbm = s.hbm := by
  simp only [State.tryPush]
  (repeat' split) <;> simp

@[simp] theorem State.finishCmd_hbm (s : State) (g : Nat) (q : Eng) (k : Cmd) (err : Option (BitVec 6)) (outs : List Val) :
    (s.finishCmd g q k err outs).hbm = s.hbm := rfl

@[simp] theorem State.vAdvance_hbm (s : State) (g : Nat) : (s.vAdvance g).hbm = s.hbm := by
  simp only [State.vAdvance]
  (repeat' split) <;> simp

@[simp] theorem State.vComplete_hbm (s : State) (g : Nat) (k : Cmd) : (s.vComplete g k).hbm = s.hbm := rfl

/-! What Machine/Vector defines. -/

@[simp] theorem State.shrinkStore_wf (s : State) (g k : Nat) (h : Memory.wf s.hbm = true) :
    Memory.wf (s.shrinkStore g k).hbm = true := by
  induction k generalizing s with
  | zero => exact h
  | succ n ih =>
    unfold State.shrinkStore
    split
    · exact h
    · exact ih _ (State.evictLine_wf _ _ _ h)

@[simp] theorem State.phaseStep_wf (s : State) (g k : Nat) (h : Memory.wf s.hbm = true) :
    Memory.wf (s.phaseStep g k).hbm = true := by
  simp only [State.phaseStep]
  split <;> simp [h]

/-! What Machine/Matrix defines. -/

@[simp] theorem State.setAccAt_hbm (s : State) (secs : List Nat) (b : Bool) (i j : Nat) (v : BitVec 80) :
    (s.setAccAt secs b i j v).hbm = s.hbm := by
  unfold State.setAccAt
  split <;> simp

@[simp] theorem State.dropLats_hbm (s : State) (secs : List Nat) : (s.dropLats secs).hbm = s.hbm := by
  simp only [State.dropLats]
  rw [foldl_hbm]
  intro s x
  simp

@[simp] theorem State.mmBegin_hbm (s : State) (g : Nat) (secs : List Nat) (x : Mm) : (s.mmBegin g secs x).hbm = s.hbm := by
  simp only [State.mmBegin, State.modCore_hbm]
  split
  · rw [foldl_hbm]
    · simp
    · intro s y
      simp
  · simp

@[simp] theorem State.mmClk_hbm (s : State) (g : Nat) (gang : Option (Nat × Nat)) (secs : List Nat) (x : Mm) (kw kb : Cmd)
    (rows : List (Nat × Nat)) : (s.mmClk g gang secs x kw kb rows).hbm = s.hbm := by
  simp only [State.mmClk]
  rw [foldl_hbm, foldl_hbm]
  · intro s y
    simp
  · intro s r
    rw [foldl_hbm]
    intro s j
    split
    · rfl
    · rw [foldl_hbm]
      intro s k
      split
      · simp
      · rfl

@[simp] theorem State.mmKill_hbm (s : State) (g : Nat) (k : Cmd) (bank : Bool) (e : BitVec 6) :
    (s.mmKill g k bank e).hbm = s.hbm := by
  simp [State.mmKill]

@[simp] theorem State.lockKill_hbm (s : State) (g : Nat) (k : Cmd) (e : BitVec 6) : (s.lockKill g k e).hbm = s.hbm := by
  unfold State.lockKill
  rw [foldl_hbm]
  intro s y
  split <;> simp

@[simp] theorem State.bridles_hbm (s : State) (west : Nat) (x : Mm) (k : Cmd) : (s.bridles west x k).hbm = s.hbm := by
  unfold State.bridles
  split
  · rfl
  · rw [foldl_hbm]
    intro s i
    rfl

@[simp] theorem State.mmEarly_hbm (s : State) (g n : Nat) : (s.mmEarly g n).hbm = s.hbm := by
  simp only [State.mmEarly]
  (repeat' split) <;> simp

@[simp] theorem State.mmAdvance_hbm (s : State) (g : Nat) : (s.mmAdvance g).hbm = s.hbm := by
  have hfold : ∀ (l : List Nat) (f : State × Option (BitVec 6) → Nat → State × Option (BitVec 6))
      (_ : ∀ r y, (f r y).1.hbm = r.1.hbm) (r : State × Option (BitVec 6)), (l.foldl f r).1.hbm = r.1.hbm := by
    intro l f hf
    induction l with
    | nil => exact fun _ => rfl
    | cons y l ih => exact fun r => (ih _).trans (hf r y)
  unfold State.mmAdvance
  split
  · rfl
  · simp only
    split
    · rfl
    · split
      · rfl
      · split
        · simp
        · split
          · rw [hfold]
            · simp
            · intro r y
              split <;> simp
          · rw [State.lockKill_hbm, hfold]
            · simp
            · intro r y
              split <;> simp

@[simp] theorem State.readScale_wf (s : State) (g : Nat) (r : ScaleRef) (n : Nat) (h : Memory.wf s.hbm = true) :
    Memory.wf (s.readScale g r n).2.hbm = true := by
  simp only [State.readScale]
  have ht : Memory.wf (s.translate g (r.base + if r.fmt32 = true then 4 * n else n) Need.load).2.hbm = true :=
    (State.translate_hbm ..).symm ▸ h
  split
  next heq => exact wf_of_snd heq ht
  next p t heq =>
    have hr := t.readPath_wf (t.partOf g) p (if r.fmt32 = true then 4 else 1) (t.pathOf g p) (wf_of_snd heq ht)
    split
    next hq => exact wf_of_snd hq hr
    next hq => exact wf_of_snd hq hr

@[simp] theorem State.drainKill_hbm (s : State) (g : Nat) (k : Cmd) (f : EngF) (e : BitVec 6) :
    (s.drainKill g k f e).hbm = s.hbm := rfl

@[simp] theorem State.drainScale_wf (s : State) (g : Nat) (k : Cmd) (f : EngF) (r : ScaleRef) (n place : Nat)
    (h : Memory.wf s.hbm = true) : Memory.wf (s.drainScale g k f r n place).hbm = true := by
  have hr := s.readScale_wf g r n h
  unfold State.drainScale
  split
  · exact h
  · split <;> rename_i heq
    · split <;> simp [wf_of_snd heq hr]
    · simp [wf_of_snd heq hr]

@[simp] theorem State.drainPut_hbm (s : State) (g : Nat) (k : Cmd) (f : EngF) (q0 : Bool) : (s.drainPut g k f q0).hbm = s.hbm := by
  simp only [State.drainPut]
  (repeat' split) <;> simp

@[simp] theorem State.drainElem_wf (s : State) (g : Nat) (k : Cmd) (f : EngF) (q0 : Bool) (h : Memory.wf s.hbm = true) :
    Memory.wf (s.drainElem g k f q0).hbm = true := by
  simp only [State.drainElem]
  repeat' split
  all_goals simp [h]

@[simp] theorem State.drainAdvance_wf (s : State) (g : Nat) (h : Memory.wf s.hbm = true) :
    Memory.wf (s.drainAdvance g).hbm = true := by
  simp only [State.drainAdvance]
  repeat' split
  all_goals simp [h]

@[simp] theorem State.gangOffStep_hbm (s : State) (g : Nat) (k : Cmd) : (s.gangOffStep g k).hbm = s.hbm := by
  unfold State.gangOffStep
  split
  · simp
  · simp only
    split
    · rw [foldl_hbm]
      · split <;> simp
      · intro s y
        split <;> simp
    · rfl

/-! What Machine/Copy defines. -/

@[simp] theorem State.copyTranslate_hbm (s : State) (g : Nat) (k : Cmd) (va : Nat) (n : Need) :
    (s.copyTranslate g k va n).2.hbm = s.hbm := by
  unfold State.copyTranslate
  split <;> simp

@[simp] theorem State.readElem_wf (s : State) (g : Nat) (k : Cmd) (d : Desc) (byte : Nat) (hi : Option Bool)
    (h : Memory.wf s.hbm = true) : Memory.wf (s.readElem g k d byte hi).2.hbm = true := by
  simp only [State.readElem]
  split
  · split <;> exact h
  · have ht : Memory.wf (s.copyTranslate g k byte Need.load).2.hbm = true := (State.copyTranslate_hbm ..).symm ▸ h
    split
    next heq => exact wf_of_snd heq ht
    next p t heq =>
      split
      · exact wf_of_snd heq ht
      · have hr := (t.beforeNoAlloc g p).readPath_wf ((t.beforeNoAlloc g p).partOf g) p (elemBytes d.fmt)
          ((t.beforeNoAlloc g p).pathNoAlloc g p) (t.beforeNoAlloc_wf g p (wf_of_snd heq ht))
        split
        next hq => exact wf_of_snd hq hr
        next hq => exact wf_of_snd hq hr

@[simp] theorem State.writeElem_wf (s : State) (g : Nat) (k : Cmd) (d : Desc) (byte : Nat) (hi : Option Bool) (v : Nat)
    (h : Memory.wf s.hbm = true) : Memory.wf (s.writeElem g k d byte hi v).2.hbm = true := by
  unfold State.writeElem
  split
  · simp [h]
  · have ht : Memory.wf (s.copyTranslate g k byte Need.store).2.hbm = true := (State.copyTranslate_hbm ..).symm ▸ h
    split
    next heq => exact wf_of_snd heq ht
    next p t heq =>
      have hb := t.beforeNoAlloc_wf g p (wf_of_snd heq ht)
      simp only
      split
      · exact hb
      · split
        · exact hb
        · cases hi <;> simp [hb]

@[simp] theorem State.copyStop_hbm (s : State) (g : Nat) (k : Cmd) (c : Cause) : (s.copyStop g k c).hbm = s.hbm := by
  simp [State.copyStop]

@[simp] theorem State.copyKill_hbm (s : State) (g : Nat) (k : Cmd) (e : BitVec 6) : (s.copyKill g k e).hbm = s.hbm := rfl

@[simp] theorem State.copyWrite_wf (s : State) (g : Nat) (k : Cmd) (d : Desc) (n v : Nat) (f : Cmd → Cmd)
    (h : Memory.wf s.hbm = true) : Memory.wf (s.copyWrite g k d n v f).hbm = true := by
  have hw := s.writeElem_wf g k d (d.place n).1 (d.place n).2 v h
  simp only [State.copyWrite]
  split
  · exact h
  · split <;> rename_i heq <;> simp [wf_of_snd heq hw]

@[simp] theorem State.copyHold_hbm (s : State) (g : Nat) (k : Cmd) (v : Nat) : (s.copyHold g k v).hbm = s.hbm := rfl

@[simp] theorem State.copyRead_wf (s : State) (g : Nat) (k : Cmd) (x : Desc) (b : Nat) (hi : Option Bool)
    (h : Memory.wf s.hbm = true) : Memory.wf (s.copyRead g k x b hi).hbm = true := by
  have hr := s.readElem_wf g k x b hi h
  unfold State.copyRead
  split <;> rename_i heq <;> simp [wf_of_snd heq hr]

@[simp] theorem State.gatherElem_wf (s : State) (g : Nat) (k : Cmd) (f : EngF) (h : Memory.wf s.hbm = true) :
    Memory.wf (s.gatherElem g k f).hbm = true := by
  simp only [State.gatherElem]
  repeat' split
  all_goals simp [h]

@[simp] theorem State.copyElem_wf (s : State) (g : Nat) (k : Cmd) (h : Memory.wf s.hbm = true) :
    Memory.wf (s.copyElem g k).hbm = true := by
  simp only [State.copyElem]
  repeat' split
  all_goals simp [h]

@[simp] theorem State.copyEarly_hbm (s : State) (g n : Nat) (k : Cmd) : (s.copyEarly g n k).hbm = s.hbm := by
  simp only [State.copyEarly]
  (repeat' split) <;> simp

/-! What Machine/Queues defines. -/

@[simp] theorem State.cmdKill_hbm (s : State) (g : Nat) (q : Eng) (k : Cmd) (e : BitVec 6) : (s.cmdKill g q k e).hbm = s.hbm := by
  simp only [State.cmdKill]
  (repeat' split) <;> simp

@[simp] theorem State.inject_hbm (s : State) (g : Nat) (q : Eng) (k : Cmd) : (s.inject g q k).hbm = s.hbm := by
  unfold State.inject
  split <;> simp

@[simp] theorem State.injectAt_hbm (s : State) (g : Nat) (q : Eng) (seq : Nat) : (s.injectAt g q seq).hbm = s.hbm := by
  simp only [State.injectAt]
  (repeat' split) <;> simp

@[simp] theorem State.cmdOpen_hbm (s : State) (g : Nat) (q : Eng) (k : Cmd) : (s.cmdOpen g q k).hbm = s.hbm := by
  simp only [State.cmdOpen]
  (repeat' split) <;> simp

@[simp] theorem State.cmdStart_hbm (s : State) (g : Nat) (q : Eng) (k : Cmd) (f : EngF) : (s.cmdStart g q k f).hbm = s.hbm := by
  simp [State.cmdStart]

@[simp] theorem State.cmdBegin_hbm (s : State) (g : Nat) (q : Eng) (k : Cmd) (f : EngF) : (s.cmdBegin g q k f).hbm = s.hbm := by
  simp [State.cmdBegin]

@[simp] theorem State.cmdSkip_hbm (s : State) (g : Nat) (q : Eng) (k : Cmd) (f : EngF) : (s.cmdSkip g q k f).hbm = s.hbm := by
  simp only [State.cmdSkip]
  split <;> simp

@[simp] theorem State.gangStart_hbm (s : State) (g : Nat) (k : Cmd) (f : EngF) : (s.gangStart g k f).hbm = s.hbm := by
  simp only [State.gangStart]
  split
  · rfl
  · split
    · rw [foldl_hbm, foldl_hbm] <;> simp
    · split
      · rw [foldl_hbm, foldl_hbm] <;> simp
      · rfl

@[simp] theorem State.vStart_hbm (s : State) (g : Nat) : (s.vStart g).hbm = s.hbm := by
  simp only [State.vStart]
  (repeat' split) <;> simp

@[simp] theorem State.engineStart_hbm (s : State) (g : Nat) (q : Eng) : (s.engineStart g q).hbm = s.hbm := by
  simp only [State.engineStart]
  (repeat' split) <;> simp

@[simp] theorem State.cmdComplete_hbm (s : State) (g : Nat) (q : Eng) (k : Cmd) : (s.cmdComplete g q k).hbm = s.hbm := by
  simp only [State.cmdComplete]
  (repeat' split) <;> simp

@[simp] theorem State.engineAdvance_wf (s : State) (g : Nat) (q : Eng) (n : Nat) (h : Memory.wf s.hbm = true) :
    Memory.wf (s.engineAdvance g q n).hbm = true := by
  simp only [State.engineAdvance]
  repeat' split
  all_goals simp [h]

@[simp] theorem State.engineEarly_hbm (s : State) (g : Nat) (q : Eng) (n i : Nat) : (s.engineEarly g q n i).hbm = s.hbm := by
  simp only [State.engineEarly]
  (repeat' split) <;> simp

@[simp] theorem State.expireSeq_hbm (s : State) (g : Nat) : (s.expireSeq g).hbm = s.hbm := by
  simp only [State.expireSeq]
  (repeat' split) <;> simp

@[simp] theorem State.expireHead_hbm (s : State) (g : Nat) (q : Eng) : (s.expireHead g q).hbm = s.hbm := by
  simp only [State.expireHead]
  (repeat' split) <;> simp

end Sys2Proof.Machine

end

section
/-! PROOFS. Memory stays canonical: windows and streams (R93 to R130). -/

namespace Sys2Proof.Machine

/-! What Machine/Window defines. -/

theorem State.drawPb_hbm (s : State) (p : Nat) (home cls : Nat) (ballast : Bool) :
    ∀ u ∈ s.drawPb p home cls ballast, u.2.hbm = s.hbm := by
  simp only [State.drawPb]
  (repeat' split) <;> simp

theorem State.drawPbs_hbm (s : State) (p : Nat) (ballast : Bool) (l : List (Nat × Nat)) :
    ∀ u ∈ s.drawPbs p ballast l, u.2.hbm = s.hbm := by
  induction l generalizing s with
  | nil =>
    intro u hu
    cases hu
    rfl
  | cons x l ih =>
    intro u hu
    unfold State.drawPbs at hu
    split at hu
    · cases hu
    next a t ht =>
      split at hu
      · cases hu
      next hv =>
        cases hu
        exact (ih t _ hv).trans (s.drawPb_hbm p _ _ ballast _ ht)

@[simp] theorem State.freshVirt_hbm (s : State) (p lo n : Nat) : (s.freshVirt p lo n).hbm = s.hbm := by
  unfold State.freshVirt State.overPages
  rw [foldl_hbm]
  intro s i
  split <;> simp

@[simp] theorem State.acquireRuns_wf (s : State) (p sc : Nat) (runs : List (Nat × Nat)) (h : Memory.wf s.hbm = true) :
    Memory.wf (s.acquireRuns p sc runs).hbm = true := by
  have one {s : State} (c : CacheId) (h : Memory.wf s.hbm = true) :
      Memory.wf (((s.cachedSecs c).filter (inRuns runs)).foldl (fun s x => s.flushSec c x) s).hbm = true :=
    foldl_wf (fun s x h => s.flushSec_wf c x h) _ s h
  unfold State.acquireRuns
  exact cond_wf (cond_wf h fun h => foldl_wf (fun _ g h => one (.lsc g) h) _ _ h)
    fun h => foldl_wf (fun _ d h => one (.rdc d) h) _ _ h

@[simp] theorem State.releaseRuns_wf (s : State) (cores : List Nat) (sc : Nat) (runs : List (Nat × Nat))
    (h : Memory.wf s.hbm = true) : Memory.wf (s.releaseRuns cores sc runs).hbm = true := by
  have one {s : State} (c : CacheId) (h : Memory.wf s.hbm = true) :
      Memory.wf (((s.cachedSecs c).filter (inRuns runs)).foldl (fun s x => s.writeBack c x) s).hbm = true :=
    foldl_wf (fun s x h => s.writeBack_wf c x h) _ s h
  unfold State.releaseRuns
  exact cond_wf (cond_wf (cond_wf h fun h => foldl_wf (fun _ g h => one (.lsc g) h) _ _ h)
    fun h => foldl_wf (fun _ d h => one (.rdc d) h) _ _ h) fun h => one .l2 h

@[simp] theorem State.entryAcquire_wf (s : State) (p : Nat) (e : Entry) (h : Memory.wf s.hbm = true) :
    Memory.wf (s.entryAcquire p e).hbm = true := by
  unfold State.entryAcquire
  split <;> simp [h]

@[simp] theorem State.entryRelease_wf (s : State) (p : Nat) (e : Entry) (h : Memory.wf s.hbm = true) :
    Memory.wf (s.entryRelease p e).hbm = true := by
  simp only [State.entryRelease]
  repeat' split
  all_goals simp [h]

@[simp] theorem State.purge_hbm (s : State) (p uid : Nat) : (s.purge p uid).hbm = s.hbm := by
  simp only [State.purge]
  rw [foldl_hbm]
  intro s d
  split <;> simp

@[simp] theorem State.stopTask_hbm (s : State) (g : Nat) (note : Bool) : (s.stopTask g note).hbm = s.hbm := by
  unfold State.stopTask
  split <;> simp

@[simp] theorem State.discard_wf (s : State) (p n : Nat) (note : Bool) (h : Memory.wf s.hbm = true) :
    Memory.wf (s.discard p n note).hbm = true := by
  unfold State.discard
  split
  · exact h
  · have hstop : ∀ (note : Bool) (e : Entry), Memory.wf (State.hbm ((List.range 128).foldl (fun s g =>
        if (s.core g).holdsTask p && ((s.core g).task.map (fun t => t.entry == n && t.uid == e.uid)).getD false
        then s.stopTask g note else s) s)) = true :=
      fun note e => foldl_wf (fun s g h => cond_wf h fun h => (State.stopTask_hbm ..).symm ▸ h) _ s h
    simp only [State.setEntry_hbm, State.modPart_hbm, State.purge_hbm]
    split
    · exact hstop ..
    · exact State.releaseRuns_wf _ _ _ _ (hstop ..)

@[simp] theorem State.discardAll_wf (s : State) (p : Nat) (note : Bool) (ns : List Nat) (h : Memory.wf s.hbm = true) :
    Memory.wf (s.discardAll p note ns).hbm = true :=
  foldl_wf (fun s x h => by simp [h]) _ _ h

@[simp] theorem State.sfeDeliver_hbm (s : State) (p id : Nat) (v : Val) : (s.sfeDeliver p id v).hbm = s.hbm := by
  simp only [State.sfeDeliver]
  rw [foldl_hbm] <;> simp

@[simp] theorem State.endStream_wf (s : State) (p : Nat) (status : Word) (h : Memory.wf s.hbm = true) :
    Memory.wf (s.endStream p status).hbm = true := by
  simp [State.endStream, h]

@[simp] theorem State.postEvent_hbm (s : State) (p typ : Nat) (data : Word) : (s.postEvent p typ data).hbm = s.hbm := by
  unfold State.postEvent
  split <;> simp

@[simp] theorem State.enterHandler_wf (s : State) (p typ : Nat) (bytes : List Byte) (entry : Option Nat) (kind : Nat)
    (h : Memory.wf s.hbm = true) : Memory.wf (s.enterHandler p typ bytes entry kind).hbm = true := by
  simp only [State.enterHandler]
  repeat' split
  all_goals simp [h]

theorem State.handlerBoundary_wf (s : State) (p : Nat) (h : Memory.wf s.hbm = true) :
    ∀ u ∈ s.handlerBoundary p, Memory.wf u.hbm = true := by
  simp only [State.handlerBoundary]
  (repeat' split) <;> simp [h]

@[simp] theorem State.takeStreamTrap_wf (s : State) (p : Nat) (r : StreamRec) (entry : Option Nat)
    (h : Memory.wf s.hbm = true) : Memory.wf (s.takeStreamTrap p r entry).hbm = true := by
  simp only [State.takeStreamTrap]
  split <;> simp [h]

@[simp] theorem State.deliverLog_wf (s : State) (p : Nat) (h : Memory.wf s.hbm = true) : Memory.wf (s.deliverLog p).hbm = true := by
  refine foldl_wf (fun s e h => ?_) _ _ h
  dsimp only
  split
  · split <;> simp [h]
  · simp [h]

@[simp] theorem State.streamTrap_wf (s : State) (p : Nat) (h : Memory.wf s.hbm = true) : Memory.wf (s.streamTrap p).hbm = true := by
  simp only [State.streamTrap]
  repeat' split
  all_goals simp [h]

/-! What Machine/Streams defines. -/

@[simp] theorem State.template32_wf (s : State) (p : Nat) (w : Word) (h : Memory.wf s.hbm = true) :
    Memory.wf (s.template32 p w).2.hbm = true := by
  unfold State.template32
  split
  · exact h
  · split
    · exact h
    next x hx =>
      have hr := s.readPath_wf (some p) x 32 [.l2] h
      split
      next heq => exact wf_of_snd heq hr
      next heq =>
        simp only
        split <;> exact wf_of_snd heq hr

@[simp] theorem State.planOf_wf (s : State) (p : Nat) (i : Instr) (vals : List Word) (h : Memory.wf s.hbm = true) :
    Memory.wf (s.planOf p i vals).2.hbm = true := by
  have ht := s.template32_wf p ((vals[0]?).getD 0) h
  unfold State.planOf
  simp only
  split
  · split
    · exact h
    · split
      next heq => exact wf_of_snd heq ht
      next heq => split <;> exact wf_of_snd heq ht
  · split
    · exact h
    · split
      next heq => exact wf_of_snd heq ht
      next heq => split <;> exact wf_of_snd heq ht
  · split <;> exact h
  · split <;> exact h
  · exact h
  · exact h
  · exact h
  · split <;> exact h
  · split <;> exact h
  · split <;> exact h
  · split <;> exact h
  · split <;> exact h
  · split <;> exact h
  · split <;> exact h
  · exact h
  · exact h

@[simp] theorem State.readTensor_wf (s : State) (p byte : Nat) (hi : Option Bool) (d : Desc) (h : Memory.wf s.hbm = true) :
    Memory.wf (s.readTensor p byte hi d).2.hbm = true := by
  have hr := s.readVirt_wf (s.ptRoot p) (some p) Need.load byte (elemBytes d.fmt) h
  unfold State.readTensor
  split
  next heq => exact wf_of_snd heq hr
  next heq => exact wf_of_snd heq hr

@[simp] theorem State.writeTensor_wf (s : State) (p : Nat) (d : Desc) (n v : Nat) (h : Memory.wf s.hbm = true) :
    Memory.wf (s.writeTensor p d n v).2.hbm = true := by
  simp only [State.writeTensor]
  repeat' split
  all_goals simp [h]

@[simp] theorem State.copyPiece_wf (s : State) (p : Nat) (x : Nat × Nat × Nat) (h : Memory.wf s.hbm = true) :
    Memory.wf (s.copyPiece p x).2.hbm = true := by
  have hr := s.readVirt_wf (s.ptRoot p) (some p) { Need.load with r := false, user := false } x.1 x.2.2 h
  unfold State.copyPiece
  split
  next heq => exact wf_of_snd heq hr
  next heq => exact State.writeVirt_wf _ _ _ _ _ _ (wf_of_snd heq hr)

@[simp] theorem State.readNext_wf (s : State) (p n : Nat) (e : Entry) (h : Memory.wf s.hbm = true) :
    Memory.wf (s.readNext p n e).hbm = true := by
  have hr := fun b hi d => s.readTensor_wf p b hi d h
  simp only [State.readNext]
  split
  · exact h
  · split
    · exact h
    · split
      next heq => simp [wf_of_snd heq (hr ..)]
      next heq =>
        have ht := wf_of_snd heq (hr ..)
        split
        · split <;> simp [ht]
        · simp [ht]

@[simp] theorem State.writeNext_wf (s : State) (p n : Nat) (e : Entry) (d : Desc) (v : Nat) (h : Memory.wf s.hbm = true) :
    Memory.wf (s.writeNext p n e d v).hbm = true := by
  have hw := s.writeTensor_wf p d e.prog v h
  unfold State.writeNext
  split
  · exact h
  · split
    next heq => simp [wf_of_snd heq hw]
    next heq => simp [wf_of_snd heq hw]

@[simp] theorem State.takeMsg_hbm (s : State) (p n : Nat) (e : Entry) (d : Desc) : (s.takeMsg p n e d).hbm = s.hbm := by
  simp only [State.takeMsg]
  (repeat' split) <;> simp

@[simp] theorem State.advance_wf (s : State) (p n : Nat) (write : Bool) (h : Memory.wf s.hbm = true) :
    Memory.wf (s.advance p n write).hbm = true := by
  unfold State.advance
  split
  · exact h
  next e he =>
    have hc := fun x => s.copyPiece_wf p x h
    split
    · exact h
    · simp only
      split
      · split
        · exact h
        · split
          · exact h
          · split
            next heq => simp [wf_of_snd heq (hc _)]
            next heq => simp [wf_of_snd heq (hc _)]
      · split
        · simp [h]
        · split
          · split <;> simp [h]
          · exact h
      · simp [h]
      · simp [h]
      · split
        · simp [h]
        · split <;> simp [h]
      · exact h

@[simp] theorem State.toFault_hbm (s : State) (p n : Nat) (e : Entry) (cause : Nat) (ecode : BitVec 6) :
    (s.toFault p n e cause ecode).hbm = s.hbm := by
  simp [State.toFault]

@[simp] theorem State.toDone_wf (s : State) (p n : Nat) (e : Entry) (h : Memory.wf s.hbm = true) :
    Memory.wf (s.toDone p n e).hbm = true := by
  simp only [State.toDone, State.modEntry_hbm, State.modPart_hbm]
  have ha : Memory.wf (State.hbm (if isTWait e.instr then (if wholeScope e.instr then s else s.entryRelease p e).entryAcquire p e
      else (if wholeScope e.instr then s else s.entryRelease p e))) = true := by
    split <;> split <;> simp [h]
  split
  · split <;> simp [ha]
  · split <;> simp [ha]
  · exact ha

@[simp] theorem State.issue_wf (s : State) (p n : Nat) (h : Memory.wf s.hbm = true) : Memory.wf (s.issue p n).hbm = true := by
  simp only [State.issue]
  repeat' split
  all_goals simp [h]

/-- What the work of an entry leaves has its memory in canonical form. -/
def Work.Wf : Work → Prop
  | .wait => True
  | .done s => Memory.wf s.hbm = true
  | .fault s _ _ => Memory.wf s.hbm = true

/-- A word at the address of a stream, read and written where it is. -/
theorem State.signalAdd_wf (s : State) (p : Nat) (x : Path) (v : Nat) (h : Memory.wf s.hbm = true) :
    Work.Wf (match s.readPath (some p) x 8 [.l2] with
      | (.error e, s) => .fault s cERRBIT e
      | (.ok w, s) => .done (s.writeHeld x 8 ((w + v) % 2 ^ 64) [.l2])) := by
  have hr := s.readPath_wf (some p) x 8 [.l2] h
  split
  next heq => exact wf_of_snd heq hr
  next heq => exact State.writeHeld_wf _ _ _ _ _ (wf_of_snd heq hr)

theorem State.tWait_wf (s : State) (p : Nat) (x : Path) (holds : Nat → Bool) (h : Memory.wf s.hbm = true) :
    Work.Wf (match s.readPath (some p) x 8 [.l2] with
      | (.error e, s) => .fault s cERRBIT e
      | (.ok w, s) => if holds w then .done s else .wait) := by
  have hr := s.readPath_wf (some p) x 8 [.l2] h
  split
  next heq => exact wf_of_snd heq hr
  next heq =>
    split
    · exact wf_of_snd heq hr
    · trivial

theorem State.work_wf (s : State) (p : Nat) (e : Entry) (h : Memory.wf s.hbm = true) : (s.work p e).Wf := by
  unfold State.work
  simp only
  split
  · split
    · exact h
    · trivial
  · split
    · split
      · trivial
      · split
        · exact h
        · split
          · trivial
          · split
            · exact h
            · split
              · exact h
              · trivial
    · split
      · exact h
      · trivial
    · split
      · exact h
      · trivial
    · split
      · exact h
      · have hr := fun b hi d => s.readTensor_wf p b hi d h
        split
        next heq => exact wf_of_snd heq (hr ..)
        next heq => simp [Work.Wf, wf_of_snd heq (hr ..)]
      · simp [Work.Wf, h]
    · split
      · exact h
      · exact s.signalAdd_wf p _ _ h
    · split
      · exact h
      · split
        · exact h
        · exact State.writePath_wf _ _ _ _ _ _ h
    · split
      · exact h
      · split
        · exact h
        · trivial
    · trivial
    · split
      · split
        · exact h
        · trivial
      · split
        · trivial
        · exact h
    · exact h
    · exact h
    · exact h
    · exact h
    · exact h
    · split
      · split
        · exact h
        · exact s.tWait_wf p _ _ h
      · exact h

theorem wf_of_done {w : Work} {t : State} (he : w = .done t) (h : w.Wf) : Memory.wf t.hbm = true := by
  rw [he] at h
  exact h

theorem wf_of_fault {w : Work} {t : State} {c : Nat} {ec : BitVec 6} (he : w = .fault t c ec) (h : w.Wf) :
    Memory.wf t.hbm = true := by
  rw [he] at h
  exact h


@[simp] theorem State.entryDone_wf (s : State) (p n : Nat) (h : Memory.wf s.hbm = true) :
    Memory.wf (s.entryDone p n).hbm = true := by
  unfold State.entryDone
  split
  · exact h
  next e he =>
    split
    · exact h
    · split
      next hw =>
        have ht := wf_of_done hw (s.work_wf p e h)
        split <;> simp [ht]
      · exact h

@[simp] theorem State.entryFault_wf (s : State) (p n : Nat) (h : Memory.wf s.hbm = true) :
    Memory.wf (s.entryFault p n).hbm = true := by
  unfold State.entryFault
  split
  · exact h
  next e he =>
    split
    · split
      · simp [h]
      · split <;> simp [h]
    · split
      · split
        next hw => exact (State.toFault_hbm ..).symm ▸ wf_of_fault hw (s.work_wf p e h)
        · exact h
      · exact h

@[simp] theorem State.entryExpire_hbm (s : State) (p n : Nat) : (s.entryExpire p n).hbm = s.hbm := by
  simp only [State.entryExpire]
  (repeat' split) <;> simp

@[simp] theorem State.entryNow_wf (s : State) (p n : Nat) (h : Memory.wf s.hbm = true) : Memory.wf (s.entryNow p n).hbm = true := by
  simp only [State.entryNow]
  repeat' split
  all_goals simp [h]

@[simp] theorem State.retireEntry_wf (s : State) (p : Nat) (h : Memory.wf s.hbm = true) :
    Memory.wf (s.retireEntry p).hbm = true := by
  simp only [State.retireEntry]
  repeat' split
  all_goals simp [h]

@[simp] theorem State.backTo_hbm (s : State) (p : Nat) (c : Ctx) : (s.backTo p c).hbm = s.hbm := rfl

@[simp] theorem State.completeEntry_hbm (s : State) (p n : Nat) (e : Entry) : (s.completeEntry p n e).hbm = s.hbm := by
  simp [State.completeEntry]

/-- A renamed instruction leaves memory in canonical form. -/
def Rename.Wf : Rename → Prop
  | .entered s => Memory.wf s.hbm = true
  | _ => True

theorem wf_of_entered {r : Rename} {t : State} (he : r = .entered t) (h : r.Wf) : Memory.wf t.hbm = true := by
  rw [he] at h
  exact h

theorem State.readyBuffers_wf (s : State) (p : Nat) (ts : List ETensor) (h : Memory.wf s.hbm = true) :
    Memory.wf (s.readyBuffers p ts).hbm = true := by
  refine foldl_wf (fun s t h => ?_) _ _ h
  split <;> simp [h]

theorem State.renameIn_wf (s : State) (p : Nat) (i : Instr) (vals : List Word) (snap : Ctx) (dest : Nat)
    (h : Memory.wf s.hbm = true) : (s.renameIn p i vals snap dest).Wf := by
  have hplan := s.planOf_wf p i vals h
  rw [State.renameIn_eq]
  generalize s.planOf p i vals = r at hplan
  obtain ⟨pl, u⟩ := r
  dsimp only at hplan ⊢
  split
  · trivial
  · split
    · trivial
    · split
      · split <;> trivial
      next as v hdraw =>
        have hv : v.hbm = u.hbm := by
          split at hdraw
          · cases hdraw
            rfl
          · exact u.drawPbs_hbm p _ _ _ hdraw
        exact State.readyBuffers_wf _ _ _ (hv.symm ▸ hplan)


@[simp] theorem State.restartEntry_wf (s : State) (p n : Nat) (e : Entry) (h : Memory.wf s.hbm = true) :
    Memory.wf (s.restartEntry p n e).hbm = true := by
  have ht : Memory.wf (State.hbm (((s.discard p n false).backTo p e.snap).modPart p (fun q => { q with whead := n, wcount := 0 })))
      = true := by simp [h]
  simp only [State.restartEntry]
  split
  next heq => exact (State.modPart_hbm ..).symm ▸ wf_of_entered heq (State.renameIn_wf _ p e.instr e.args e.snap _ ht)
  next => exact (State.modPart_hbm ..).symm ▸ ht

@[simp] theorem State.takeOn_wf (s : State) (p choice : Nat) (h : Memory.wf s.hbm = true) :
    Memory.wf (s.takeOn p choice).hbm = true := by
  simp only [State.takeOn]
  repeat' split
  all_goals simp [h]

@[simp] theorem State.handlerReturn_wf (s : State) (p : Nat) (v : Option Word) (h : Memory.wf s.hbm = true) :
    Memory.wf (s.handlerReturn p v).hbm = true := by
  simp only [State.handlerReturn]
  repeat' split
  all_goals simp [h]

end Sys2Proof.Machine

end

section
/-! PROOFS. Memory stays canonical: placement, translation, control registers, images, calls, boot and clk. -/

namespace Sys2Proof.Machine

/-! What Machine/Placing defines. -/

@[simp] theorem State.setOwn_hbm (s : State) (p d : Nat) (v : Word) : (s.setOwn p d v).hbm = s.hbm := rfl

theorem State.serve_hbm (s : State) (p : Nat) : ∀ u ∈ s.serve p, u.hbm = s.hbm := by
  simp only [State.serve]
  (repeat' split) <;> simp

@[simp] theorem State.serveFirst_hbm (s : State) (l : List Nat) : (s.serveFirst l).hbm = s.hbm := by
  induction l with
  | nil => rfl
  | cons p ps ih =>
    unfold State.serveFirst
    split
    next t ht => exact s.serve_hbm p t ht
    next => exact ih

@[simp] theorem State.startTask_wf (s : State) (p g n i : Nat) (e : Entry) (h : Memory.wf s.hbm = true) :
    Memory.wf (s.startTask p g n i e).hbm = true := by
  simp only [State.startTask]
  repeat' split
  all_goals simp [h]

/-! What Machine/Translate defines. -/

@[simp] theorem State.xlateEvent_hbm (s : State) (d : Nat) (b : Block) (event : Nat) : (s.xlateEvent d b event).hbm = s.hbm := by
  simp only [State.xlateEvent]
  (repeat' split) <;> simp

@[simp] theorem State.xlateEvents_hbm (s : State) (d event : Nat) (l : List Block) : (s.xlateEvents d event l).hbm = s.hbm := by
  simp only [State.xlateEvents]
  rw [foldl_hbm]
  intro s x
  simp

@[simp] theorem State.discardBlocks_hbm (s : State) (d : Nat) (p : Block → Bool) : (s.discardBlocks d p).hbm = s.hbm := by
  simp [State.discardBlocks]

@[simp] theorem State.sweepHeap_hbm (s : State) (d : Nat) : (s.sweepHeap d).hbm = s.hbm := by
  simp only [State.sweepHeap]
  split <;> simp

@[simp] theorem State.evictGen_hbm (s : State) (d : Nat) : (s.evictGen d).hbm = s.hbm := by
  simp [State.evictGen]

@[simp] theorem State.makeRoom_hbm (s : State) (d z k : Nat) : (s.makeRoom d z k).2.hbm = s.hbm := by
  induction k generalizing s with
  | zero => rfl
  | succ n ih =>
    unfold State.makeRoom
    split
    · rfl
    · exact (ih _).trans (State.evictGen_hbm ..)

@[simp] theorem State.codeReads_wf (s : State) (a : Agent) (h : Memory.wf s.hbm = true) : Memory.wf (s.codeReads a).hbm = true :=
  foldl_wf (fun s x h => by simp [h]) _ _ h

@[simp] theorem State.heapTrap_hbm (s : State) (a : Agent) : (s.heapTrap a).hbm = s.hbm := by
  simp only [State.heapTrap]
  (repeat' split) <;> simp

@[simp] theorem State.heapFault_hbm (s : State) (d : Nat) (b : Block) : (s.heapFault d b).hbm = s.hbm := by
  simp only [State.heapFault]
  rw [foldl_hbm] <;> simp
  intro s x
  split <;> simp

theorem State.writeXheap_hbm (s : State) (d : Nat) (v : Word) : ∀ u ∈ s.writeXheap d v, u.hbm = s.hbm := by
  simp only [State.writeXheap]
  (repeat' split) <;> simp

theorem State.writeSpin_hbm (s : State) (d : Nat) (v : Word) : ∀ u ∈ s.writeSpin d v, u.hbm = s.hbm := by
  simp [State.writeSpin]

@[simp] theorem State.readAs_wf (s : State) (g : Nat) (home : Bool) (va k : Nat) (h : Memory.wf s.hbm = true) :
    Memory.wf (s.readAs g home va k).2.hbm = true := by
  induction k generalizing s va with
  | zero => exact h
  | succ n ih =>
    have ht : Memory.wf (s.translate g va Need.load).2.hbm = true := (State.translate_hbm ..).symm ▸ h
    unfold State.readAs
    split
    · exact h
    · split
      next heq => exact wf_of_snd heq ht
      next p t heq =>
        have hr := t.readPath_wf (t.partOf g) p 1 (if home then [.l2] else t.pathOf g p) (wf_of_snd heq ht)
        split
        next hq => exact wf_of_snd hq hr
        next v u hq =>
          have hu := ih u (va + 1) (wf_of_snd hq hr)
          split
          next hx => exact wf_of_snd hx hu
          next hx => exact wf_of_snd hx hu

@[simp] theorem State.writeAs_wf (s : State) (g va : Nat) (l : List Byte) (h : Memory.wf s.hbm = true) :
    Memory.wf (s.writeAs g va l).2.hbm = true := by
  induction l generalizing s va with
  | nil => exact h
  | cons b bs ih =>
    have ht : Memory.wf (s.translate g va Need.store).2.hbm = true := (State.translate_hbm ..).symm ▸ h
    unfold State.writeAs
    split
    · exact h
    · split
      next heq => exact wf_of_snd heq ht
      next p t heq =>
        split
        · exact wf_of_snd heq ht
        · have hf := State.flushSec_wf _ (.rdc (dieOf g)) (p.pa / 64) (t.flushSec_wf (.lsc g) (p.pa / 64) (wf_of_snd heq ht))
          exact ih _ _ ((State.modCore_hbm ..).symm ▸ State.writePath_wf _ _ _ _ _ _ hf)

@[simp] theorem State.writePinned_wf (s : State) (d va : Nat) (b : Byte) (h : Memory.wf s.hbm = true) :
    Memory.wf (s.writePinned d va b).hbm = true := by
  unfold State.writePinned
  split <;> simp [h]

@[simp] theorem State.extend_hbm (s : State) (d n : Nat) (dg : BitVec 256) : (s.extend d n dg).hbm = s.hbm := rfl

@[simp] theorem State.loadImage_wf (s : State) (d ebase : Nat) (img : List Byte) (h : Memory.wf s.hbm = true) :
    Memory.wf (s.loadImage d ebase img).hbm = true := by
  simp only [State.loadImage, State.extend_hbm, State.discardBlocks_hbm, State.modDie_hbm]
  exact foldl_wf (fun s x h => by simp [h]) _ _ h

@[simp] theorem State.patchLdStep_wf (s : State) (g : Nat) (img : List Byte) (ebase : Nat) (h : Memory.wf s.hbm = true) :
    Memory.wf (s.patchLdStep g img ebase).hbm = true := by
  unfold State.patchLdStep
  split <;> simp [h]

/-! What Machine/Preempt defines. -/

@[simp] theorem State.retryCore_hbm (s : State) (g : Nat) : (s.retryCore g).hbm = s.hbm := rfl

@[simp] theorem State.resumeCore_wf (s : State) (g : Nat) (h : Memory.wf s.hbm = true) : Memory.wf (s.resumeCore g).hbm = true := by
  simp only [State.resumeCore]
  repeat' split
  all_goals simp [h]

@[simp] theorem State.dropWait_wf (s : State) (g : Nat) (h : Memory.wf s.hbm = true) : Memory.wf (s.dropWait g).hbm = true := by
  simp only [State.dropWait]
  repeat' split
  all_goals simp [h]

@[simp] theorem State.drainNow_wf (s : State) (g : Nat) (h : Memory.wf s.hbm = true) : Memory.wf (s.drainNow g).hbm = true := by
  simp [State.drainNow, h]

@[simp] theorem State.drainCore_wf (s : State) (g : Nat) (h : Memory.wf s.hbm = true) : Memory.wf (s.drainCore g).hbm = true := by
  unfold State.drainCore
  split <;> simp [h]

@[simp] theorem State.renameMember_hbm (s : State) (p key a b : Nat) : (s.renameMember p key a b).hbm = s.hbm := rfl

@[simp] theorem State.releaseCore_hbm (s : State) (g : Nat) : (s.releaseCore g).hbm = s.hbm := by
  simp only [State.releaseCore]
  split <;> simp

theorem State.cctl_wf (s : State) (g cmd : Nat) (h : Memory.wf s.hbm = true) : ∀ u ∈ s.cctl g cmd, Memory.wf u.hbm = true := by
  simp only [State.cctl]
  (repeat' split) <;> simp [h]

@[simp] theorem State.resetStream_wf (s : State) (p : Nat) (h : Memory.wf s.hbm = true) :
    Memory.wf (s.resetStream p).hbm = true := by
  simp only [State.resetStream, State.modPart_hbm]
  refine foldl_wf (fun s g h => ?_) _ _ (State.discardAll_wf _ _ _ _ h)
  split
  · simp [h]
  · split
    · simp [h]
    · split <;> simp [h]

@[simp] theorem State.resetDone_wf (s : State) (p : Nat) (h : Memory.wf s.hbm = true) : Memory.wf (s.resetDone p).hbm = true := by
  simp [State.resetDone, h]

theorem State.writeSctl_wf (s : State) (p : Nat) (v : Word) (h : Memory.wf s.hbm = true) :
    ∀ u ∈ s.writeSctl p v, Memory.wf u.hbm = true := by
  simp only [State.writeSctl]
  (repeat' split) <;> simp [h]

@[simp] theorem State.scrubKill_hbm (s : State) (g : Nat) : (s.scrubKill g).hbm = s.hbm := by
  unfold State.scrubKill
  split <;> simp

@[simp] theorem State.scrubEnd_hbm (s : State) (g : Nat) : (s.scrubEnd g).hbm = s.hbm := by
  unfold State.scrubEnd
  split <;> simp

/-! What Machine/Csr defines. -/

@[simp] theorem State.popTrap_hbm (s : State) (d : Nat) : (s.popTrap d).2.hbm = s.hbm := by
  unfold State.popTrap
  split <;> simp

@[simp] theorem State.popEvent_hbm (s : State) (p : Nat) : (s.popEvent p).2.hbm = s.hbm := by
  unfold State.popEvent
  split <;> simp

@[simp] theorem State.evstat_hbm (s : State) (p : Nat) : (s.evstat p).2.hbm = s.hbm := by
  simp only [State.evstat]
  split <;> simp

@[simp] theorem State.shootCore_hbm (s : State) (g : Nat) (range : Option (Nat × Nat)) : (s.shootCore g range).hbm = s.hbm := rfl

@[simp] theorem State.shootdown_hbm (s : State) (d p : Nat) (range : Option (Nat × Nat)) : (s.shootdown d p range).hbm = s.hbm := by
  simp only [State.shootdown]
  rw [foldl_hbm]
  intro s g
  split
  · split <;> simp
  · rfl

theorem State.writeShoot_hbm (s : State) (d : Nat) (v : Word) : ∀ u ∈ s.writeShoot d v, u.hbm = s.hbm := by
  simp only [State.writeShoot]
  (repeat' split) <;> simp

@[simp] theorem State.settleMark_hbm (s : State) (g seq : Nat) : (s.settleMark g seq).hbm = s.hbm := by
  simp only [State.settleMark]
  (repeat' split) <;> simp

@[simp] theorem State.setKey_hbm (s : State) (k : Nat) (mat : Option (List Byte)) : (s.setKey k mat).hbm = s.hbm := by
  simp only [State.setKey]
  split <;> simp

theorem State.writeKeyctl_hbm (s : State) (d : Nat) (v : Word) : ∀ u ∈ s.writeKeyctl d v, u.hbm = s.hbm := by
  simp only [State.writeKeyctl]
  (repeat' split) <;> simp

theorem State.writeErrinj_hbm (s : State) (g : Nat) (v : Word) : ∀ u ∈ s.writeErrinj g v, u.hbm = s.hbm := by
  simp only [State.writeErrinj]
  (repeat' split) <;> simp

theorem State.writePsched_wf (s : State) (p : Nat) (v : Word) (h : Memory.wf s.hbm = true) :
    ∀ u ∈ s.writePsched p v, Memory.wf u.hbm = true := by
  simp only [State.writePsched]
  (repeat' split) <;> simp [h]

@[simp] theorem State.forgetLeaf_hbm (s : State) (g va : Nat) : (s.forgetLeaf g va).hbm = s.hbm := rfl

@[simp] theorem State.pageWalk_hbm (s : State) (g va : Nat) : (s.pageWalk g va).hbm = s.hbm := by
  simp only [State.pageWalk]
  (repeat' split) <;> simp

theorem State.readDieReg_hbm (s : State) (d i : Nat) : ∀ u ∈ s.readDieReg d i, u.2.hbm = s.hbm := by
  unfold State.readDieReg
  split <;> simp

theorem State.readPartReg_hbm (s : State) (d p i : Nat) : ∀ u ∈ s.readPartReg d p i, u.2.hbm = s.hbm := by
  unfold State.readPartReg
  split <;> simp

theorem State.csrRead_hbm (s : State) (here : Nat) (n : Word) : ∀ u ∈ s.csrRead here n, u.2.hbm = s.hbm := by
  intro u hu
  unfold State.csrRead at hu
  split at hu
  · cases hu
  · split at hu
    · exact s.readDieReg_hbm _ _ u hu
    · split at hu
      · obtain ⟨w, -, rfl⟩ := Option.map_eq_some_iff.mp hu
        rfl
      · split at hu
        · obtain ⟨w, -, rfl⟩ := Option.map_eq_some_iff.mp hu
          rfl
        · split at hu
          · exact s.readPartReg_hbm _ _ _ u hu
          · cases hu

theorem State.writeDieReg_hbm (s : State) (d i : Nat) (v : Word) : ∀ u ∈ s.writeDieReg d i v, u.hbm = s.hbm := by
  intro u hu
  unfold State.writeDieReg at hu
  split at hu
  · exact s.writeXheap_hbm d v u hu
  · cases hu
    rfl
  · cases hu
    rfl
  · cases hu
    rfl
  · cases hu
    rfl
  · exact s.writeSpin_hbm d v u hu
  · exact s.writeShoot_hbm d v u hu
  · cases hu
    rfl
  · cases hu
    rfl
  · exact s.writeKeyctl_hbm d v u hu
  · cases hu
    rfl
  · cases hu

theorem State.writeCoreReg_wf (s : State) (g i : Nat) (v : Word) (h : Memory.wf s.hbm = true) :
    ∀ u ∈ s.writeCoreReg g i v, Memory.wf u.hbm = true := by
  intro u hu
  unfold State.writeCoreReg at hu
  split at hu
  · split at hu
    · cases hu
    · exact s.cctl_wf g _ h u hu
  · exact (s.writeErrinj_hbm g v u hu).symm ▸ h
  · split at hu
    · cases hu
      exact h
    · cases hu

theorem State.writePartReg_wf (s : State) (d p i : Nat) (v : Word) (h : Memory.wf s.hbm = true) :
    ∀ u ∈ s.writePartReg d p i v, Memory.wf u.hbm = true := by
  intro u hu
  unfold State.writePartReg at hu
  dsimp only at hu
  split at hu
  · exact s.writePsched_wf p v h u hu
  · cases hu
    exact h
  · split at hu <;> cases hu
    exact h
  · split at hu <;> cases hu
    exact h
  · exact s.writeSctl_wf p v h u hu
  · cases hu
    exact h
  · cases hu
    exact h
  · cases hu
    exact h
  · split at hu <;> cases hu
    simp [h]
  · split at hu <;> cases hu
    exact h

theorem State.csrWrite_wf (s : State) (here : Nat) (n v : Word) (h : Memory.wf s.hbm = true) :
    ∀ u ∈ s.csrWrite here n v, Memory.wf u.hbm = true := by
  intro u hu
  unfold State.csrWrite at hu
  split at hu
  · cases hu
  · split at hu
    · exact (s.writeDieReg_hbm _ _ v u hu).symm ▸ h
    · split at hu
      · exact s.writeCoreReg_wf _ _ v h u hu
      · split at hu
        · exact s.writePartReg_wf _ _ _ v h u hu
        · cases hu

/-! What Machine/Image defines. -/

@[simp] theorem State.feedLatches_hbm (s : State) (x b seg : Nat) : (s.feedLatches x b seg).hbm = s.hbm := by
  simp only [State.feedLatches]
  (repeat' split) <;> simp

@[simp] theorem State.loadLatches_hbm (s : State) (x b seg : Nat) : (s.loadLatches x b seg).hbm = s.hbm := by
  simp [State.loadLatches]

@[simp] theorem State.loadLatch_hbm (s : State) (x seg : Nat) : (s.loadLatch x seg).hbm = s.hbm := by
  simp only [State.loadLatch]
  (repeat' split) <;> simp

@[simp] theorem State.awaitResults_hbm (s : State) (g : Nat) : (s.awaitResults g).hbm = s.hbm := by
  simp only [State.awaitResults]
  split <;> simp

/-! What Machine/Scan defines. -/

@[simp] theorem State.freezeSet_hbm (s : State) (d : Nat) (secs : List Nat) : (s.freezeSet d secs).2.2.hbm = s.hbm := by
  simp only [State.freezeSet]
  rw [foldl_hbm, foldl_hbm] <;> simp

@[simp] theorem State.frzStep_hbm (s : State) (me d mask part : Nat) (at? : Option Nat) (cur : Option (Nat × Nat))
    (left : Nat) : (s.frzStep me d mask part at? cur left).hbm = s.hbm := by
  unfold State.frzStep
  simp only
  split
  · rw [State.endWith_hbm]
    exact State.freezeSet_hbm ..
  · simp

@[simp] theorem frzResume_hbm (s : State) (p : Option Nat → Bool) : (frzResume s p).hbm = s.hbm := by
  simp only [frzResume]
  (repeat' split) <;> simp

@[simp] theorem State.shotFor_hbm (s : State) (k : Nat) (portable : Bool) : (s.shotFor k portable).2.hbm = s.hbm := by
  unfold State.shotFor
  split <;> simp

@[simp] theorem State.adopt_hbm (s : State) (k : Nat) (x : Core) : (s.adopt k x).hbm = s.hbm := by
  unfold State.adopt
  split <;> simp

@[simp] theorem State.loadSeg_hbm (s : State) (k : Nat) (portable : Bool) (shot : Option Shot) (segs : List (Nat × List Byte))
    (n : Nat) : (s.loadSeg k portable shot segs n).hbm = s.hbm := by
  simp only [State.loadSeg]
  (repeat' split) <;> simp

@[simp] theorem State.loadScan_wf (s : State) (k mask : Nat) (hd : ScanHead) (portable : Bool) (segs : List (Nat × List Byte))
    (h : Memory.wf s.hbm = true) : Memory.wf (s.loadScan k mask hd portable segs).hbm = true := by
  unfold State.loadScan
  extract_lets shot idle seg0 owner t1 t2 t3 t4 t5
  have h1 : Memory.wf t1.hbm = true := by
    refine cond_wf h fun h => ?_
    generalize owner = x
    cases x <;> simp [h]
  have h2 : Memory.wf t2.hbm = true := foldl_wf (fun s n h => by simp [h]) _ _ h1
  have h3 : Memory.wf t3.hbm = true := foldl_wf (fun s n h => cond_wf h fun h => by simp [h]) _ _ h2
  have h4 : Memory.wf t4.hbm = true := cond_wf h3 fun h => by simp [h]
  have h5 : Memory.wf t5.hbm = true := cond_wf h4 fun h => by simp [h]
  split <;> simp [h5]

/-! What Machine/Syscalls defines. -/

@[simp] theorem State.answer_wf (s : State) (num : Nat) (w : Word) (h : Memory.wf s.hbm = true) :
    Memory.wf (s.answer num w).hbm = true := by
  simp only [State.answer]
  repeat' split
  all_goals simp [h]

@[simp] theorem State.readUser_wf (s : State) (p va n : Nat) (h : Memory.wf s.hbm = true) :
    Memory.wf (s.readUser p va n).2.hbm = true := by
  have hr := s.readVirt_wf (s.ptRoot p) none Need.load va n h
  unfold State.readUser
  split
  next heq => exact wf_of_snd heq hr
  next heq => exact wf_of_snd heq hr

@[simp] theorem State.writeUser_wf (s : State) (p va : Nat) (need : Need) (l : List Byte) (h : Memory.wf s.hbm = true) :
    Memory.wf (s.writeUser p va need l).2.hbm = true := by
  have hw := s.writeVirt_wf (s.ptRoot p) none need va l h
  unfold State.writeUser
  split
  · exact h
  · split
    next heq => exact wf_of_snd heq hw
    next heq => exact wf_of_snd heq hw

@[simp] theorem State.writePte_wf (s : State) (pa : Nat) (w : Word) (h : Memory.wf s.hbm = true) :
    Memory.wf (s.writePte pa w).hbm = true := by
  simp [State.writePte, h]

@[simp] theorem State.writePtes_wf (s : State) (l : List (Nat × Word)) (h : Memory.wf s.hbm = true) :
    Memory.wf (s.writePtes l).hbm = true :=
  foldl_wf (fun s x h => by simp [h]) _ _ h

@[simp] theorem State.unmap_wf (s : State) (root va n : Nat) (h : Memory.wf s.hbm = true) :
    Memory.wf (s.unmap root va n).hbm = true := by
  refine foldl_wf (fun s i h => ?_) _ _ h
  split <;> simp [h]

@[simp] theorem State.shootNow_hbm (s : State) (p va n : Nat) : (s.shootNow p va n).hbm = s.hbm := by
  simp only [State.shootNow]
  rw [foldl_hbm]
  intro s x
  simp

@[simp] theorem State.shootSettle_hbm (s : State) (p va n : Nat) : (s.shootSettle p va n).hbm = s.hbm := by
  unfold State.shootSettle
  rw [foldl_hbm]
  intro s g
  rw [foldl_hbm]
  intro s q
  simp

@[simp] theorem State.mapWindow_wf (s : State) (g : Nat) (h : Memory.wf s.hbm = true) : Memory.wf (s.mapWindow g).hbm = true := by
  simp only [State.mapWindow]
  split
  · exact h
  · split
    · exact h
    · split
      · split <;> simp [h]
      · exact h

@[simp] theorem State.setAlloc_hbm (s : State) (p va n k : Nat) : (s.setAlloc p va n k).hbm = s.hbm := rfl

/-! What Machine/Launch defines. -/

@[simp] theorem State.fillVirt_wf (s : State) (p va : Nat) (l : List Byte) (h : Memory.wf s.hbm = true) :
    Memory.wf (s.fillVirt p va l).hbm = true := by
  induction l generalizing s va with
  | nil => exact h
  | cons b bs ih =>
    unfold State.fillVirt
    split
    · exact ih _ _ (by simp [h])
    · exact ih _ _ h

@[simp] theorem State.place_wf (s : State) (p bias : Nat) (ps : List Piece) (h : Memory.wf s.hbm = true) :
    Memory.wf (s.place p bias ps).hbm = true := by
  unfold State.place
  exact foldl_wf (fun s x h => s.fillVirt_wf p _ _ h) _ _ (foldl_wf (fun s x h => by simp [h]) _ _ h)

@[simp] theorem State.refuseLaunch_hbm (s : State) (reqid : Word) : (s.refuseLaunch reqid).hbm = s.hbm := rfl

/-! What Machine/Board defines. -/

@[simp] theorem State.refEvent_hbm (s : State) (w : Word) : (s.refEvent w).hbm = s.hbm := by
  simp only [State.refEvent]
  rw [foldl_hbm]
  intro s x
  simp

@[simp] theorem State.stayInRom_hbm (s : State) (d : Nat) (b : BootInfo) : (s.stayInRom d b).hbm = s.hbm := rfl

@[simp] theorem State.loadK0_hbm (s : State) : (s.loadK0).hbm = s.hbm := by
  unfold State.loadK0
  split <;> simp

theorem State.coldState_wf (s : State) : Memory.wf s.coldState.hbm = true := rfl

@[simp] theorem State.spdmSay_hbm (s : State) (d : Nat) (m : List Byte) : (s.spdmSay d m).hbm = s.hbm := rfl

@[simp] theorem State.boardSay_hbm (s : State) (d : Nat) (m : List Byte) : (s.boardSay d m).hbm = s.hbm := rfl

@[simp] theorem State.countSramue_hbm (s : State) (d : Nat) : (s.countSramue d).hbm = s.hbm := rfl

@[simp] theorem State.spoilCache_hbm (s : State) (d : Nat) (c : CacheId) (sec k : Nat) : (s.spoilCache d c sec k).hbm = s.hbm := by
  simp only [State.spoilCache]
  (repeat' split) <;> simp

@[simp] theorem State.spoilQueue_hbm (s : State) (g : Nat) (w : SramWord) : (s.spoilQueue g w).hbm = s.hbm := by
  simp only [State.spoilQueue]
  (repeat' split) <;> simp

theorem State.loseCode_hbm (s : State) (a : Agent) (via : Nat × Nat) : ∀ u ∈ s.loseCode a via, u.hbm = s.hbm := by
  intro u hu
  unfold State.loseCode at hu
  split at hu
  · cases hu
  · obtain ⟨x, -, rfl⟩ := Option.map_eq_some_iff.mp hu
    rfl

theorem State.loseRequest_hbm (s : State) (g : Nat) (via : Nat × Nat) : ∀ u ∈ s.loseRequest g via, u.hbm = s.hbm := by
  unfold State.loseRequest
  simp only
  split
  · split <;> simp
  · split <;> simp
  · split
    · split <;> simp
    · split <;> simp
    · simp
    · exact s.loseCode_hbm _ via

theorem State.loseStreamAcc_hbm (s : State) (p : Nat) (via : Nat × Nat) : ∀ u ∈ s.loseStreamAcc p via, u.hbm = s.hbm := by
  have of : ∀ (i : Instr) (f : ImmF) (need : Need) (kinds : List Bool), ∀ u ∈ (s.readyOps (.sfe p) i).bind (fun vs =>
      match s.streamPath p (immAddr f vs) (sizeOfTy f.ty.toNat) need with
      | .ok x =>
        if usesEdge (hostDie p) x.home via then
          some (s.trap (.sfe p) { code := cPOISON, ecode := 2, addr := wrapNat 64 (immAddr f vs) } kinds 1)
        else none
      | .error _ => none), u.hbm = s.hbm := by
    intro i f need kinds u hu
    obtain ⟨vs, -, hvs⟩ := Option.bind_eq_some_iff.mp hu
    split at hvs
    · split at hvs <;> cases hvs
      simp
    · cases hvs
  unfold State.loseStreamAcc
  simp only
  split
  · simp
  · split
    · exact of _ _ _ _
    · split
      · exact of _ _ _ _
      · simp
    · exact s.loseCode_hbm _ via

theorem State.loseEntry_hbm (s : State) (p : Nat) (via : Nat × Nat) : ∀ u ∈ s.loseEntry p via, u.hbm = s.hbm := by
  simp only [State.loseEntry]
  split
  · simp
  · exact s.loseStreamAcc_hbm p via

@[simp] theorem State.startWarm_hbm (s : State) (d : Nat) : (s.startWarm d).hbm = s.hbm := rfl

@[simp] theorem State.warmWriteBack_wf (s : State) (d : Nat) (h : Memory.wf s.hbm = true) :
    Memory.wf (s.warmWriteBack d).hbm = true := by
  have one {s : State} (c : CacheId) (h : Memory.wf s.hbm = true) :
      Memory.wf (((s.cachedSecs c).filter (fun x => ((s.cached c x).map (·.home)) == some d)).foldl
        (fun s x => s.writeBack c x) s).hbm = true :=
    foldl_wf (fun s x h => s.writeBack_wf c x h) _ s h
  exact one .l2 (foldl_wf (fun _ k h => one (.rdc k) h) _ s h)

@[simp] theorem State.resetCore_hbm (s : State) (g : Nat) : (s.resetCore g).hbm = s.hbm := by
  unfold State.resetCore
  split <;> simp

@[simp] theorem State.warmPushOut_wf (s : State) (d : Nat) (h : Memory.wf s.hbm = true) :
    Memory.wf (s.warmPushOut d).hbm = true := by
  have one {s : State} (c : CacheId) (h : Memory.wf s.hbm = true) :
      Memory.wf (((s.cachedSecs c).filter (fun x => ((s.cached c x).map (·.home)) != some d)).foldl
        (fun s x => s.writeBack c x) s).hbm = true :=
    foldl_wf (fun s x h => s.writeBack_wf c x h) _ s h
  exact one (.rdc d) (foldl_wf (fun _ g h => one (.lsc g) h) _ s h)

/-- What the logic reset of a die leaves in memory: its requests pushed out, its cores and streams reset, its L2 written back. -/
theorem State.logicReset_hbm (s : State) (d : Nat) :
    (s.logicReset d).hbm = (State.warmWriteBack ([d, d + 8].foldl (fun s p => (s.resetStream p).resetDone p)
      (((List.range 16).map (d * 16 + ·)).foldl (fun s g => s.resetCore g) { s.warmPushOut d with warmParts := s.partsOn d })) d).hbm := by
  unfold State.logicReset
  generalize (List.range 16).map (d * 16 + ·) = l
  generalize [d, d + 8] = l'
  rfl


@[simp] theorem State.logicReset_wf (s : State) (d : Nat) (h : Memory.wf s.hbm = true) : Memory.wf (s.logicReset d).hbm = true := by
  rw [State.logicReset_hbm]
  refine State.warmWriteBack_wf _ _ ?_
  generalize [d, d + 8] = l
  generalize (List.range 16).map (d * 16 + ·) = l'
  refine foldl_wf (f := fun s p => (s.resetStream p).resetDone p)
    (fun s p h => (s.resetStream p).resetDone_wf p (s.resetStream_wf p h)) l _ ?_
  rw [foldl_hbm _ State.resetCore_hbm]
  dsimp only
  exact s.warmPushOut_wf d h

/-! What Machine/Control defines. -/

@[simp] theorem State.codeTrap_hbm (s : State) (a : Agent) (f : CodeFault) (len : Nat) : (s.codeTrap a f len).hbm = s.hbm := by
  simp [State.codeTrap]

@[simp] theorem State.goTo_hbm (s : State) (a : Agent) (target : Nat) (vs : List Val) (rets : List RetEntry) :
    (s.goTo a target vs rets).hbm = s.hbm := by
  simp [State.goTo]

@[simp] theorem State.eretNow_hbm (s : State) (a : Agent) (vs : List Val) (again : Bool) (len : Nat) :
    (s.eretNow a vs again len).hbm = s.hbm := by
  simp only [State.eretNow]
  (repeat' split) <;> simp

/-! What Machine/Sched defines. -/

theorem State.boundary_wf (s : State) (a : Agent) (h : Memory.wf s.hbm = true) : ∀ u ∈ s.boundary a, Memory.wf u.hbm = true := by
  intro u hu
  cases a with
  | core g => exact (s.errBoundary_hbm g _ hu).symm ▸ h
  | sfe p => exact s.handlerBoundary_wf p h _ hu
  | _ => cases hu

@[simp] theorem State.tickCore_hbm (s : State) (n g : Nat) : (s.tickCore n g).hbm = s.hbm := rfl

@[simp] theorem State.waitNow_wf (s : State) (g : Nat) (h : Memory.wf s.hbm = true) : Memory.wf (s.waitNow g).hbm = true := by
  simp only [State.waitNow]
  repeat' split
  all_goals simp [h]

@[simp] theorem State.tickPart_hbm (s : State) (n p : Nat) : (s.tickPart n p).hbm = s.hbm := rfl

@[simp] theorem State.count_hbm (s : State) (n : Nat) : (s.count n).hbm = s.hbm := by
  simp only [State.count]
  rw [foldl_hbm, foldl_hbm, foldl_hbm] <;> simp

@[simp] theorem State.ticks_wf (s : State) (n : Nat) (h : Memory.wf s.hbm = true) : Memory.wf (s.ticks n).hbm = true := by
  unfold State.ticks
  exact foldl_wf (fun t p h => foldl_wf (fun t n h => t.entryNow_wf p n h) _ _ h) _ _
    (foldl_wf (fun t g h => t.waitNow_wf g h) _ _ ((State.count_hbm ..).symm ▸ h))

@[simp] theorem State.addPool_hbm (s : State) (p : Nat) (home cls : Nat) (bases : List Nat) :
    (s.addPool p home cls bases).hbm = s.hbm := rfl

@[simp] theorem State.pausePart_wf (s : State) (p : Nat) (on : Bool) (h : Memory.wf s.hbm = true) :
    Memory.wf (s.pausePart p on).hbm = true := by
  simp only [State.pausePart]
  split <;> simp [h]

end Sys2Proof.Machine

end

section
/-! PROOFS. Memory stays canonical: the fronts of the meanings, and each meaning. -/

namespace Sys2Proof.Machine

/-! The shared fronts. -/

theorem withOps_wf {s : State} {cl : Cls} {ops : List (Want × BitVec 8)} {kinds : List Bool} {len : Nat}
    {k : Agent → List Val → Out} (h : Memory.wf s.hbm = true) (hk : ∀ a vs, OutWf (k a vs)) :
    OutWf (withOps s cl ops kinds len k) := by
  simp only [withOps]
  split
  · simp [h]
  · split
    · simp [h]
    · split
      · simp [h]
      · split
        · simp [h]
        · simp [h]
        · exact hk _ _

theorem State.popThen_wf {s : State} {a : Agent} {ops : List (Want × BitVec 8)} {vs : List Val} {len : Nat}
    {k : State → List Val → Out} (h : Memory.wf s.hbm = true) (hk : ∀ t vs, Memory.wf t.hbm = true → OutWf (k t vs)) :
    OutWf (s.popThen a ops vs len k) := by
  unfold State.popThen
  split
  · dsimp only
    split
    · exact hk _ _ h
    · split
      · simp [h]
      · split
        · simp [h]
        · split
          · simp [h]
          · simp [h]
          · split
            · simp [h]
            · exact hk _ _ (by simp [h])
  · exact hk _ _ h

theorem coreOp_wf {s : State} {i : Instr} {k : Nat → List Val → Out} (h : Memory.wf s.hbm = true)
    (hk : ∀ g vs, OutWf (k g vs)) : OutWf (coreOp s i k) := by
  refine withOps_wf h fun a vs => ?_
  split
  · exact hk _ _
  · simp [h]

theorem pureScalar_wf {s : State} {ops : List (Want × BitVec 8)} {f : List Val → Word} (h : Memory.wf s.hbm = true) :
    OutWf (pureScalar s ops f) :=
  withOps_wf h fun a vs => by simp [h]

theorem State.queueAcc_wf {s : State} {g : Nat} {op : AccOp} {pad : Bool} {a : Int} {n : Nat} {need : Need} {data hint : Nat}
    {kinds : List Bool} (h : Memory.wf s.hbm = true) : OutWf (s.queueAcc g op pad a n need data hint kinds) := by
  have ht : Memory.wf (s.checkAddr g pad a n need).2.hbm = true := (State.checkAddr_hbm ..).symm ▸ h
  unfold State.queueAcc
  split
  next heq => simp [wf_of_snd heq ht]
  next heq => split <;> simp [wf_of_snd heq ht, h]

theorem branchOp_wf {i : Instr} {f : BrF} {cond : Bool → Word → Bool} {s : State} (h : Memory.wf s.hbm = true) :
    OutWf (branchOp i f cond s) := by
  unfold branchOp
  refine withOps_wf h fun a vs => ?_
  dsimp only
  split
  · split
    · simp [h]
    · exact State.popThen_wf h fun t vs ht => by simp [ht]
  · exact State.popThen_wf h fun t vs ht => by simp [ht]

theorem withPush_wf {s : State} {i : Instr} {q : Eng} {poison : Bool} {chk : Nat → List Val → Except Cause (List (BitVec 256))}
    (h : Memory.wf s.hbm = true) : OutWf (withPush s i q poison chk) := by
  simp only [withPush]
  split
  · simp [h]
  · split
    · simp [h]
    · split
      · simp [h]
      · split
        · simp [h]
        · simp [h]
        · split <;> simp [h]
    · simp [h]

theorem vecOp_wf {i : Instr} {s : State} (h : Memory.wf s.hbm = true) : OutWf (vecOp i s) := by
  unfold vecOp
  exact withPush_wf h

theorem vputOp_wf {i : Instr} {f : BaseF} {s : State} (h : Memory.wf s.hbm = true) : OutWf (vputOp i f s) := by
  unfold vputOp
  exact withPush_wf h

theorem pushSlots_wf {s : State} {i : Instr} {q : Eng} {slots : List Nat} {chk : Nat → List Val → Except Cause (List (BitVec 256))}
    (h : Memory.wf s.hbm = true) : OutWf (pushSlots s i q slots chk) := by
  unfold pushSlots
  split
  · split
    · simp [h]
    · exact withPush_wf h
  · exact withPush_wf h

theorem portSetOp_wf {i : Instr} {f : BaseF} {isWrite : Bool} {s : State} (h : Memory.wf s.hbm = true) :
    OutWf (portSetOp i f isWrite s) := by
  unfold portSetOp
  dsimp only
  split
  · split
    · simp [h]
    · exact withPush_wf h
  · exact withPush_wf h

theorem codeInvOp_wf {i : Instr} {f : BaseF} {target : List Val → Option (Block → Bool)} {s : State} (h : Memory.wf s.hbm = true) :
    OutWf (codeInvOp i f target s) := by
  refine withOps_wf h fun a vs => ?_
  split
  · simp [h]
  · rw [outWf_next, State.retire_hbm, foldl_hbm]
    · simp [h]
    · simp

theorem onStream_wf {s : State} {k : Nat → State} (h : Memory.wf s.hbm = true) (hk : ∀ p, Memory.wf (k p).hbm = true) :
    OutWf (onStream s k) := by
  unfold onStream
  split <;> simp [hk, h]

theorem onEntry_wf {s : State} {k : Nat → Nat → State} (h : Memory.wf s.hbm = true) (hk : ∀ p n, Memory.wf (k p n).hbm = true) :
    OutWf (onEntry s k) := by
  unfold onEntry
  split <;> simp [hk, h]

theorem onCore_wf {s : State} {k : Nat → State} (h : Memory.wf s.hbm = true) (hk : ∀ g, Memory.wf (k g).hbm = true) :
    OutWf (onCore s k) := by
  unfold onCore
  split
  · split <;> simp [hk, h]
  · simp [h]

theorem callStep_wf {num : Nat} {s : State} {k : Call → Word × State} (h : Memory.wf s.hbm = true)
    (hk : ∀ c, Memory.wf (k c).2.hbm = true) : OutWf (callStep num s k) := by
  unfold callStep
  split
  · simp [h]
  · simp [hk]

theorem cctlStep_wf {cmd : Nat} {s : State} (h : Memory.wf s.hbm = true) : OutWf (cctlStep cmd s) := by
  unfold cctlStep
  split
  next g hf =>
    have hc := s.cctl_wf g cmd h
    split
    · simp [h]
    · cases hu : s.cctl g cmd with
      | none => simp [h]
      | some u => simp [hc u hu]
  next => simp [h]

theorem regStep_wf {s : State} {r : Option State} (h : Memory.wf s.hbm = true) (hr : ∀ u ∈ r, Memory.wf u.hbm = true) :
    OutWf (regStep s r) := by
  unfold regStep
  split
  · simp [hr]
  · simp [h]

/-- The write of a register, and what the unit behind it answers, where the write is one of its kind. -/
theorem regStep_wf_of_hbm {s : State} {r : Option State} (h : Memory.wf s.hbm = true) (hr : ∀ u ∈ r, u.hbm = s.hbm) :
    OutWf (regStep s r) :=
  regStep_wf h fun u hu => (hr u hu).symm ▸ h

theorem outWf_ite {c : Prop} [Decidable c] {a b : Out} (ha : OutWf a) (hb : OutWf b) : OutWf (if c then a else b) := by
  split
  · exact ha
  · exact hb

theorem atomicOp_wf {i : Instr} {f : BaseF} {fn : Nat} {s : State} (h : Memory.wf s.hbm = true) : OutWf (atomicOp i f fn s) := by
  refine withOps_wf h fun a vs => ?_
  split
  · exact State.queueAcc_wf h
  · simp [h]

theorem barArrOp_wf {i : Instr} {f : BaseF} {err : Bool} {s : State} (h : Memory.wf s.hbm = true) : OutWf (barArrOp i f err s) := by
  refine coreOp_wf h fun g vs => ?_
  dsimp only
  split
  · simp [h]
  · exact State.queueAcc_wf h

theorem barWaitOp_wf {i : Instr} {f : BaseF} {t : Bool} {s : State} (h : Memory.wf s.hbm = true) : OutWf (barWaitOp i f t s) := by
  refine coreOp_wf h fun g vs => ?_
  have hc : Memory.wf (s.checkAddr g false (w0 vs).toInt 8 Need.load).2.hbm = true := (State.checkAddr_hbm ..).symm ▸ h
  split
  next heq => simp [wf_of_snd heq hc]
  next heq => simp [wf_of_snd heq hc]

theorem cacheOpOf_wf {i : Instr} {f : BaseF} {inval : Bool} {s : State} (h : Memory.wf s.hbm = true) :
    OutWf (cacheOpOf i f inval s) := by
  refine withOps_wf h fun a vs => ?_
  split
  · dsimp only
    split
    · simp [h]
    · split
      · simp [h]
      · split
        · simp [h]
        · split
          · simp [h]
          · split <;> simp [h]
  · simp [h]

theorem fenceOp_wf {f : BaseF} {rel acq : Bool} {s : State} (h : Memory.wf s.hbm = true) : OutWf (fenceOp f rel acq s) := by
  refine withOps_wf h fun a vs => ?_
  dsimp only
  split
  · split <;> simp [h]
  · split
    · simp [h]
    · rw [outWf_next, State.retire_hbm]
      exact cond_wf h fun h => (State.modPart_hbm ..).symm ▸ foldl_wf (fun s x h => s.writeBackLine_wf x h) _ _ h
  · simp [h]

theorem frzOp_wf {i : Instr} {f : BaseF} {deferred : Bool} {s : State} (h : Memory.wf s.hbm = true) :
    OutWf (frzOp i f deferred s) := by
  refine withOps_wf h fun a vs => ?_
  split
  · split
    · simp [h]
    · dsimp only
      split <;> simp [h]
  · simp [h]

theorem semWaitOp_wf {i : Instr} {f : BaseF} {t : Bool} {s : State} (h : Memory.wf s.hbm = true) : OutWf (semWaitOp i f t s) := by
  refine coreOp_wf h fun g vs => ?_
  dsimp only
  split <;> simp [h]

theorem sleepOp_wf {i : Instr} {f : BaseF} {nt : Bool} {s : State} (h : Memory.wf s.hbm = true) : OutWf (sleepOp i f nt s) := by
  refine coreOp_wf h fun g vs => ?_
  dsimp only
  split <;> simp [h]

theorem streamOp_wf {i : Instr} {s : State} (h : Memory.wf s.hbm = true) : OutWf (streamOp i s) := by
  refine withOps_wf h fun a vs => ?_
  split
  next p =>
    dsimp only
    split
    · simp [h]
    · split
      · simp [h]
      · simp [h]
      next heq => simp [wf_of_entered heq (s.renameIn_wf _ _ _ _ _ h)]
  · simp [h]

theorem spdmStep_wf {code : Nat} {s : State} (h : Memory.wf s.hbm = true) : OutWf (spdmStep code s) := by
  simp [spdmStep, h]

theorem readingStep_wf {s : State} (h : Memory.wf s.hbm = true) : OutWf (readingStep s) := by
  simp [readingStep, h]

/-! What Machine/Engine defines. -/

theorem execQueuePush_wf (s : State) (h : Memory.wf s.hbm = true) : OutWf (execQueuePush s) := by
  simp only [execQueuePush]
  (repeat' split) <;> simp [h]

theorem execChanCfgPerform_wf (s : State) (h : Memory.wf s.hbm = true) : OutWf (execChanCfgPerform s) := by
  simp only [execChanCfgPerform]
  (repeat' split) <;> simp [h]

/-! What Machine/LoadStore defines. -/

theorem execLd_wf (f : ImmF) (s : State) (h : Memory.wf s.hbm = true) : OutWf (execLd f s) := by
  refine outWf_ite (by simp [h]) (withOps_wf h fun a vs => ?_)
  dsimp only
  split
  · exact State.queueAcc_wf h
  next p =>
    split
    · simp [h]
    next x hx =>
      have hr := s.readPath_wf (some p) x (sizeOfTy f.ty.toNat) [.l2] h
      split
      · simp [h]
      · split
        next heq => simp [wf_of_snd heq hr]
        next heq => simp [wf_of_snd heq hr]
  · simp [h]

theorem execSt_wf (f : ImmF) (s : State) (h : Memory.wf s.hbm = true) : OutWf (execSt f s) := by
  refine outWf_ite (by simp [h]) (withOps_wf h fun a vs => ?_)
  dsimp only
  split
  · exact State.queueAcc_wf h
  · split
    · simp [h]
    · split
      · simp [h]
      · split
        · simp [h]
        · split <;> simp [h]
  · simp [h]

theorem execLdD_wf (f : BaseF) (s : State) (h : Memory.wf s.hbm = true) : OutWf (execLdD f s) := by
  refine withOps_wf h fun a vs => ?_
  split
  · dsimp only
    split
    · simp [h]
    · split
      · simp [h]
      · split
        · simp [h]
        · split
          · simp [h]
          · exact State.queueAcc_wf h
        · simp [h]
  · simp [h]

theorem execStD_wf (f : BaseF) (s : State) (h : Memory.wf s.hbm = true) : OutWf (execStD f s) := by
  refine withOps_wf h fun a vs => ?_
  split
  · dsimp only
    split
    · simp [h]
    · split
      · simp [h]
      · split
        · simp [h]
        · split
          · simp [h]
          · exact State.queueAcc_wf h
        · simp [h]
  · simp [h]

theorem execAlign_wf (f : BaseF) (s : State) (h : Memory.wf s.hbm = true) : OutWf (execAlign f s) := by
  refine withOps_wf h fun a vs => ?_
  (repeat' split) <;> simp [h]

theorem execLoadPerform_wf (s : State) (h : Memory.wf s.hbm = true) : OutWf (execLoadPerform s) :=
  onCore_wf h fun g => by simp [h]

theorem execStoreLeaveSq_wf (s : State) (h : Memory.wf s.hbm = true) : OutWf (execStoreLeaveSq s) :=
  onCore_wf h fun g => by simp [h]

theorem execReleaseComplete_wf (s : State) (h : Memory.wf s.hbm = true) : OutWf (execReleaseComplete s) :=
  onCore_wf h fun g => by simp [h]

theorem execAcquireComplete_wf (s : State) (h : Memory.wf s.hbm = true) : OutWf (execAcquireComplete s) :=
  onCore_wf h fun g => by simp [h]

theorem execAtomicPerform_wf (s : State) (h : Memory.wf s.hbm = true) : OutWf (execAtomicPerform s) :=
  onCore_wf h fun g => by simp [h]

theorem execStoreMove_wf (c : CacheId) (sec : Nat) (s : State) (h : Memory.wf s.hbm = true) : OutWf (execStoreMove c sec s) := by
  simp [execStoreMove, h]

theorem execCacheWriteBack_wf (c : CacheId) (sec : Nat) (s : State) (h : Memory.wf s.hbm = true) :
    OutWf (execCacheWriteBack c sec s) := by
  unfold execCacheWriteBack
  split <;> simp [h]

theorem execCacheLineDrop_wf (c : CacheId) (sec : Nat) (s : State) (h : Memory.wf s.hbm = true) :
    OutWf (execCacheLineDrop c sec s) := by
  simp [execCacheLineDrop, h]

/-! What Machine/Sync defines. -/

theorem execSemSig_wf (f : BaseF) (s : State) (h : Memory.wf s.hbm = true) : OutWf (execSemSig f s) := by
  refine coreOp_wf h fun g vs => ?_
  dsimp only
  (repeat' split) <;> simp [h]

theorem execSemSigErr_wf (f : BaseF) (s : State) (h : Memory.wf s.hbm = true) : OutWf (execSemSigErr f s) := by
  refine coreOp_wf h fun g vs => ?_
  dsimp only
  (repeat' split) <;> simp [h]

theorem execSemClr_wf (f : BaseF) (s : State) (h : Memory.wf s.hbm = true) : OutWf (execSemClr f s) := by
  refine coreOp_wf h fun g vs => ?_
  (repeat' split) <;> simp [h]

theorem execSemClrAll_wf (f : BaseF) (s : State) (h : Memory.wf s.hbm = true) : OutWf (execSemClrAll f s) := by
  refine coreOp_wf h fun g vs => ?_
  (repeat' split) <;> simp [h]

theorem execSemWaitSatisfied_wf (s : State) (h : Memory.wf s.hbm = true) : OutWf (execSemWaitSatisfied s) := by
  refine onCore_wf h fun g => ?_
  (repeat' split) <;> simp [h]

theorem execBarWaitPoll_wf (s : State) (h : Memory.wf s.hbm = true) : OutWf (execBarWaitPoll s) := by
  refine onCore_wf h fun g => ?_
  (repeat' split) <;> simp [h]

theorem execTeamJoin_wf (f : BaseF) (s : State) (h : Memory.wf s.hbm = true) : OutWf (execTeamJoin f s) := by
  refine coreOp_wf h fun g vs => ?_
  dsimp only
  (repeat' split) <;> simp [h]

theorem execTeamJoinComplete_wf (s : State) (h : Memory.wf s.hbm = true) : OutWf (execTeamJoinComplete s) := by
  refine onCore_wf h fun g => ?_
  (repeat' split) <;> simp [h]

theorem execTeamLeave_wf (f : BaseF) (s : State) (h : Memory.wf s.hbm = true) : OutWf (execTeamLeave f s) :=
  coreOp_wf h fun g vs => by simp [h]

theorem execTeamBar_wf (f : BaseF) (s : State) (h : Memory.wf s.hbm = true) : OutWf (execTeamBar f s) := by
  refine coreOp_wf h fun g vs => ?_
  dsimp only
  (repeat' split) <;> simp [h]

theorem execTeamBarComplete_wf (p key : Nat) (s : State) (h : Memory.wf s.hbm = true) : OutWf (execTeamBarComplete p key s) := by
  rw [execTeamBarComplete, outWf_next]
  refine foldl_wf (fun s g h => ?_) _ _ h
  split
  · split
    · split <;> simp [h]
    · exact h
  · exact h

theorem execTrig_wf (f : BaseF) (s : State) (h : Memory.wf s.hbm = true) : OutWf (execTrig f s) :=
  coreOp_wf h fun g vs => by simp [h]

theorem execTrigRelease_wf (s : State) (h : Memory.wf s.hbm = true) : OutWf (execTrigRelease s) := by
  refine onCore_wf h fun g => ?_
  (repeat' split) <;> simp [h]

theorem execPromiseTimeReached_wf (s : State) (h : Memory.wf s.hbm = true) : OutWf (execPromiseTimeReached s) := by
  refine onCore_wf h fun g => ?_
  (repeat' split) <;> simp [h]

theorem execHalt_wf (f : BaseF) (s : State) (h : Memory.wf s.hbm = true) : OutWf (execHalt f s) := by
  refine withOps_wf h fun a vs => ?_
  (repeat' split) <;> simp [h]

theorem execHaltDrainEnd_wf (s : State) (h : Memory.wf s.hbm = true) : OutWf (execHaltDrainEnd s) := by
  refine onCore_wf h fun g => ?_
  (repeat' split) <;> simp [h]

/-! What Machine/Vector defines. -/

theorem execVtry_wf (f : BaseF) (s : State) (h : Memory.wf s.hbm = true) : OutWf (execVtry f s) := by
  unfold execVtry
  split
  · exact withPush_wf h
  · exact withPush_wf h
  · exact withOps_wf h fun a vs => (outWf_next s).mpr h

theorem execTdSet_wf (f : BaseF) (s : State) (h : Memory.wf s.hbm = true) : OutWf (execTdSet f s) := by
  refine coreOp_wf h fun g vs => ?_
  dsimp only
  (repeat' split) <;> simp [h]

theorem execTdSetRec_wf (f : BaseF) (s : State) (h : Memory.wf s.hbm = true) : OutWf (execTdSetRec f s) := by
  refine coreOp_wf h fun g vs => ?_
  split
  · simp [h]
  · exact State.queueAcc_wf h

theorem execTdGet_wf (f : BaseF) (s : State) (h : Memory.wf s.hbm = true) : OutWf (execTdGet f s) := by
  refine coreOp_wf h fun g vs => ?_
  dsimp only
  (repeat' split) <;> simp [h]

theorem execPhase_wf (f : BaseF) (s : State) (h : Memory.wf s.hbm = true) : OutWf (execPhase f s) :=
  coreOp_wf h fun g vs => by simp [h]

theorem execPhaseMove_wf (s : State) (h : Memory.wf s.hbm = true) : OutWf (execPhaseMove s) := by
  refine onCore_wf h fun g => ?_
  (repeat' split) <;> simp [h]

/-! What Machine/Matrix defines. -/

theorem execGangFormed_wf (d row : Nat) (s : State) (h : Memory.wf s.hbm = true) : OutWf (execGangFormed d row s) := by
  simp only [execGangFormed]
  split
  · simp [h]
  · rw [outWf_next, foldl_hbm]
    · simp [h]
    · intro s y
      split <;> simp

/-! What Machine/Queues defines. -/

theorem execEngineCommandStart_wf (g : Nat) (q : Eng) (s : State) (h : Memory.wf s.hbm = true) :
    OutWf (execEngineCommandStart g q s) := by
  simp [execEngineCommandStart, h]

theorem execCommandComplete_wf (g : Nat) (q : Eng) (n : Nat) (s : State) (h : Memory.wf s.hbm = true) :
    OutWf (execCommandComplete g q n s) := by
  simp only [execCommandComplete]
  (repeat' split) <;> simp [h]

theorem execCommandKill_wf (g : Nat) (q : Eng) (n : Nat) (ecode : BitVec 6) (s : State) (h : Memory.wf s.hbm = true) :
    OutWf (execCommandKill g q n ecode s) := by
  simp only [execCommandKill]
  (repeat' split) <;> simp [h]

theorem execCopyFault_wf (g n : Nat) (s : State) (h : Memory.wf s.hbm = true) : OutWf (execCopyFault g n s) := by
  simp only [execCopyFault]
  (repeat' split) <;> simp [h]

theorem execWaitBoundExpiry_wf (g : Nat) (site : WaitSite) (s : State) (h : Memory.wf s.hbm = true) :
    OutWf (execWaitBoundExpiry g site s) := by
  unfold execWaitBoundExpiry
  split <;> simp [h]

/-! What Machine/Placing defines. -/

theorem execGlobalDispatch_wf (s : State) (h : Memory.wf s.hbm = true) : OutWf (execGlobalDispatch s) := by
  unfold execGlobalDispatch
  split <;> simp [h]

theorem execBatchArrival_wf (s : State) (h : Memory.wf s.hbm = true) : OutWf (execBatchArrival s) := by
  simp only [execBatchArrival]
  (repeat' split) <;> simp [h]

theorem execTaskStart_wf (s : State) (h : Memory.wf s.hbm = true) : OutWf (execTaskStart s) := by
  simp only [execTaskStart]
  (repeat' split) <;> simp [h]

theorem execOwnWrite_wf (p d : Nat) (v : Word) (s : State) (h : Memory.wf s.hbm = true) : OutWf (execOwnWrite p d v s) := by
  simp only [execOwnWrite]
  (repeat' split) <;> simp [h]

/-! What Machine/Translate defines. -/

theorem execBlockLower_wf (s : State) (h : Memory.wf s.hbm = true) : OutWf (execBlockLower s) := by
  simp only [execBlockLower]
  (repeat' split) <;> simp [h]

theorem execBlockInstall_wf (s : State) (h : Memory.wf s.hbm = true) : OutWf (execBlockInstall s) := by
  have hs : (s.sweepHeap (dieOfAgent s.focus)).hbm = s.hbm := State.sweepHeap_hbm ..
  unfold execBlockInstall
  dsimp only
  split
  · simp [h]
  next b hb =>
    have hm : ∀ (t : State) (d z k : Nat), t.hbm = s.hbm → Memory.wf (t.makeRoom d z k).2.hbm = true := fun t d z k ht => by
      rw [State.makeRoom_hbm, ht]
      exact h
    split
    next heq => simp [wf_of_snd heq (hm _ _ _ _ hs)]
    next heq => simp [wf_of_snd heq (hm _ _ _ _ hs)]

theorem execXheapWrite_wf (d : Nat) (v : Word) (s : State) (h : Memory.wf s.hbm = true) : OutWf (execXheapWrite d v s) :=
  outWf_ite ((outWf_next s).mpr h) (regStep_wf_of_hbm h (s.writeXheap_hbm d v))

theorem execSpinWrite_wf (d : Nat) (v : Word) (s : State) (h : Memory.wf s.hbm = true) : OutWf (execSpinWrite d v s) :=
  outWf_ite ((outWf_next s).mpr h) (regStep_wf_of_hbm h (s.writeSpin_hbm d v))

theorem execPatchLd_wf (f : BaseF) (s : State) (h : Memory.wf s.hbm = true) : OutWf (execPatchLd f s) := by
  refine withOps_wf h fun a vs => ?_
  split
  next g =>
    have hr := fun (s : State) (va n : Nat) (h : Memory.wf s.hbm = true) => s.readAs_wf g false va n h
    dsimp only
    split
    · simp [h]
    · split
      · simp [h]
      · split
        · simp [h]
        · split
          · simp [h]
          · split
            next heq => simp [wf_of_snd heq (hr _ _ _ h)]
            next hb t heq =>
              have ht := wf_of_snd heq (hr _ _ _ h)
              split
              · simp [ht]
              · split
                next hx => simp [wf_of_snd hx (hr _ _ _ ht)]
                next hx => split <;> simp [wf_of_snd hx (hr _ _ _ ht)]
  · simp [h]

/-! What Machine/Preempt defines. -/

theorem execCctlResume_wf (s : State) (h : Memory.wf s.hbm = true) : OutWf (execCctlResume s) := by
  unfold execCctlResume
  refine cctlStep_wf ?_
  split
  · split
    · split <;> simp [h]
    · exact h
  · exact h

theorem execDrainEnd_wf (s : State) (h : Memory.wf s.hbm = true) : OutWf (execDrainEnd s) := by
  simp only [execDrainEnd]
  (repeat' split) <;> simp [h]

theorem execStreamContextReset_wf (s : State) (h : Memory.wf s.hbm = true) : OutWf (execStreamContextReset s) := by
  unfold execStreamContextReset
  split
  next p hf =>
    have hw := s.writeSctl_wf p 1 h
    cases hu : s.writeSctl p 1 with
    | none => exact (outWf_next _).mpr h
    | some u => exact (outWf_next _).mpr (hw u hu)
  · exact (outWf_next s).mpr h

theorem execStreamResetDone_wf (s : State) (h : Memory.wf s.hbm = true) : OutWf (execStreamResetDone s) := by
  simp only [execStreamResetDone]
  (repeat' split) <;> simp [h]

theorem execCtxScrub_wf (f : BaseF) (s : State) (h : Memory.wf s.hbm = true) : OutWf (execCtxScrub f s) := by
  refine withOps_wf h fun a vs => ?_
  dsimp only
  (repeat' split) <;> simp [h]

/-! What Machine/Csr defines. -/

theorem execTqpop_wf (s : State) (h : Memory.wf s.hbm = true) : OutWf (execTqpop s) := by
  simp [execTqpop, h]

theorem execEvpop_wf (s : State) (h : Memory.wf s.hbm = true) : OutWf (execEvpop s) := by
  unfold execEvpop
  split <;> simp [h]

theorem execShootdown_wf (d : Nat) (v : Word) (s : State) (h : Memory.wf s.hbm = true) : OutWf (execShootdown d v s) :=
  outWf_ite ((outWf_next s).mpr h) (regStep_wf_of_hbm h (s.writeShoot_hbm d v))

theorem execShootdownComplete_wf (s : State) (h : Memory.wf s.hbm = true) : OutWf (execShootdownComplete s) := by
  simp only [execShootdownComplete]
  rw [outWf_next, State.modDie_hbm, foldl_hbm]
  · exact h
  · simp

theorem execKeyLoad_wf (d : Nat) (k : BitVec 7) (s : State) (h : Memory.wf s.hbm = true) : OutWf (execKeyLoad d k s) :=
  outWf_ite ((outWf_next s).mpr h) (regStep_wf_of_hbm h (s.writeKeyctl_hbm d _))

theorem execKeyClear_wf (d : Nat) (k : BitVec 7) (s : State) (h : Memory.wf s.hbm = true) : OutWf (execKeyClear d k s) :=
  outWf_ite ((outWf_next s).mpr h) (regStep_wf_of_hbm h (s.writeKeyctl_hbm d _))

theorem execKeyOperationEnd_wf (s : State) (h : Memory.wf s.hbm = true) : OutWf (execKeyOperationEnd s) := by
  simp [execKeyOperationEnd, h]

theorem execErrinjArm_wf (g : Nat) (v : Word) (s : State) (h : Memory.wf s.hbm = true) : OutWf (execErrinjArm g v s) :=
  outWf_ite ((outWf_next s).mpr h) (regStep_wf_of_hbm h (s.writeErrinj_hbm g v))

theorem execErrinjCancel_wf (g : Nat) (v : Word) (s : State) (h : Memory.wf s.hbm = true) : OutWf (execErrinjCancel g v s) :=
  outWf_ite ((outWf_next s).mpr h) (regStep_wf_of_hbm h (s.writeErrinj_hbm g v))

theorem execPartitionSchedule_wf (p : Nat) (v : Word) (s : State) (h : Memory.wf s.hbm = true) :
    OutWf (execPartitionSchedule p v s) :=
  outWf_ite ((outWf_next s).mpr h) (regStep_wf h (s.writePsched_wf p v h))

theorem execPartitionDeschedule_wf (p : Nat) (v : Word) (s : State) (h : Memory.wf s.hbm = true) :
    OutWf (execPartitionDeschedule p v s) :=
  outWf_ite ((outWf_next s).mpr h) (regStep_wf h (s.writePsched_wf p v h))

theorem execSliceExpiry_wf (s : State) (h : Memory.wf s.hbm = true) : OutWf (execSliceExpiry s) := by
  simp only [execSliceExpiry]
  (repeat' split) <;> simp [h]

theorem execEventDelivery_wf (p : Nat) (typ : BitVec 8) (data : Word) (s : State) (h : Memory.wf s.hbm = true) :
    OutWf (execEventDelivery p typ data s) := by
  unfold execEventDelivery
  split <;> simp [h]

theorem execPageWalk_wf (g : Nat) (va : Word) (s : State) (h : Memory.wf s.hbm = true) : OutWf (execPageWalk g va s) := by
  unfold execPageWalk
  split <;> simp [h]

theorem execCsrR_wf (f : BaseF) (s : State) (h : Memory.wf s.hbm = true) : OutWf (execCsrR f s) := by
  refine withOps_wf h fun a vs => ?_
  split
  next w t heq =>
    have ht : t.hbm = s.hbm := ((s.commit a).csrRead_hbm _ _ _ heq).trans (s.commit_hbm a)
    simp [ht, h]
  · simp [h]

theorem execCsrW_wf (f : BaseF) (s : State) (h : Memory.wf s.hbm = true) : OutWf (execCsrW f s) := by
  refine withOps_wf h fun a vs => ?_
  split
  next heq => simp [State.csrWrite_wf _ _ _ _ ((s.commit_hbm a).symm ▸ h) _ heq]
  · simp [h]

/-! What Machine/Scan defines. -/

theorem execScanFreezeDeferred_wf (s : State) (h : Memory.wf s.hbm = true) : OutWf (execScanFreezeDeferred s) := by
  simp [execScanFreezeDeferred, h]

theorem execScanFreezeComplete_wf (s : State) (h : Memory.wf s.hbm = true) : OutWf (execScanFreezeComplete s) := by
  simp [execScanFreezeComplete, h]

theorem execPreemptionHoldEnd_wf (s : State) (h : Memory.wf s.hbm = true) : OutWf (execPreemptionHoldEnd s) := by
  simp only [execPreemptionHoldEnd]
  (repeat' split) <;> simp [h]

theorem execDrainLimitFreeze_wf (s : State) (h : Memory.wf s.hbm = true) : OutWf (execDrainLimitFreeze s) := by
  simp only [execDrainLimitFreeze]
  (repeat' split) <;> simp [h]

theorem execScanRun_wf (f : BaseF) (s : State) (h : Memory.wf s.hbm = true) : OutWf (execScanRun f s) := by
  refine withOps_wf h fun a vs => ?_
  dsimp only
  split
  · simp [h]
  · rw [outWf_next, State.retire_hbm, foldl_hbm, foldl_hbm] <;> simp [h]

theorem execScanOut_wf (f : BaseF) (s : State) (h : Memory.wf s.hbm = true) : OutWf (execScanOut f s) := by
  refine withOps_wf h fun a vs => ?_
  split
  next me =>
    have hw := fun (s : State) (va : Nat) (l : List Byte) (h : Memory.wf s.hbm = true) => s.writeAs_wf me va l h
    dsimp only
    split
    · simp [h]
    · split
      · simp [h]
      · split
        · simp [h]
        · split
          · simp [h]
          · have hs : ∀ k b, Memory.wf (s.shotFor k b).2.hbm = true := fun k b => (s.shotFor_hbm k b).symm ▸ h
            split
            next heq => simp [wf_of_snd heq (hw _ _ _ (hs ..))]
            next u heq =>
              have hu := wf_of_snd heq (hw _ _ _ (hs ..))
              split
              next hx => simp [wf_of_snd hx (hw _ _ _ hu)]
              next hx => simp [wf_of_snd hx (hw _ _ _ hu)]
  · simp [h]

theorem execScanIn_wf (f : BaseF) (s : State) (h : Memory.wf s.hbm = true) : OutWf (execScanIn f s) := by
  refine withOps_wf h fun a vs => ?_
  split
  next me =>
    have hr := fun (s : State) (va n : Nat) (h : Memory.wf s.hbm = true) => s.readAs_wf me true va n h
    refine outWf_ite (by simp [h]) (outWf_ite (by simp [h]) (outWf_ite (by simp [h]) (outWf_ite (by simp [h]) ?_)))
    split
    next heq => simp [wf_of_snd heq (hr _ _ _ h)]
    next hb t heq =>
      have ht := wf_of_snd heq (hr _ _ _ h)
      refine outWf_ite (by simp [ht]) (outWf_ite (by simp [ht]) (outWf_ite (by simp [ht]) (outWf_ite (by simp [ht])
        (outWf_ite (by simp [ht]) (outWf_ite (by simp [ht]) ?_)))))
      split
      next hx => simp [wf_of_snd hx (hr _ _ _ ht)]
      next hx => exact outWf_ite (by simp [wf_of_snd hx (hr _ _ _ ht)]) (by simp [wf_of_snd hx (hr _ _ _ ht)])
  · simp [h]

/-! What Machine/Syscalls defines. -/

theorem execExit_wf (s : State) (h : Memory.wf s.hbm = true) : OutWf (execExit s) := by
  simp only [execExit]
  (repeat' split) <;> simp [h]

theorem execWriteLog_wf (s : State) (h : Memory.wf s.hbm = true) : OutWf (execWriteLog s) := by
  refine callStep_wf h fun c => ?_
  have hr := s.readUser_wf c.part c.a.toNat c.b.toNat h
  split
  · exact h
  · split
    next heq => exact (wf_of_snd heq hr :)
    next heq => exact wf_of_snd heq hr

theorem execMemAlloc_wf (plan : AllocPlan) (s : State) (h : Memory.wf s.hbm = true) : OutWf (execMemAlloc plan s) := by
  refine callStep_wf h fun c => ?_
  dsimp only
  (repeat' split) <;> simp [h]

theorem execMemFree_wf (s : State) (h : Memory.wf s.hbm = true) : OutWf (execMemFree s) := by
  simp only [execMemFree]
  (repeat' split) <;> simp [h]

theorem execViewMap_wf (plan : AllocPlan) (s : State) (h : Memory.wf s.hbm = true) : OutWf (execViewMap plan s) := by
  refine callStep_wf h fun c => ?_
  dsimp only
  (repeat' split) <;> simp [h]

theorem execEndpointOpen_wf (hd : Nat) (s : State) (h : Memory.wf s.hbm = true) : OutWf (execEndpointOpen hd s) := by
  refine callStep_wf h fun c => ?_
  (repeat' split) <;> simp [h]

theorem execEndpointClose_wf (s : State) (h : Memory.wf s.hbm = true) : OutWf (execEndpointClose s) := by
  refine callStep_wf h fun c => ?_
  dsimp only
  (repeat' split) <;> simp [h]

theorem execCtlRecv_wf (s : State) (h : Memory.wf s.hbm = true) : OutWf (execCtlRecv s) := by
  refine callStep_wf h fun c => ?_
  split
  · exact h
  next m ms hin =>
    have hw := s.writeVirt_wf (s.ptRoot c.part) none Need.store c.a.toNat (m.take c.b.toNat) h
    dsimp only
    split
    · exact h
    · split
      next heq => exact (wf_of_snd heq hw :)
      next heq => exact wf_of_snd heq hw

theorem execCtlSend_wf (s : State) (h : Memory.wf s.hbm = true) : OutWf (execCtlSend s) := by
  refine callStep_wf h fun c => ?_
  have hr := s.readUser_wf c.part c.a.toNat c.b.toNat h
  split
  · exact h
  · split
    next heq => exact (wf_of_snd heq hr :)
    next heq => exact wf_of_snd heq hr

theorem execTopologyQuery_wf (s : State) (h : Memory.wf s.hbm = true) : OutWf (execTopologyQuery s) := by
  refine callStep_wf h fun c => ?_
  split
  next heq => exact wf_of_snd heq (s.writeUser_wf _ _ _ _ h)
  next heq => exact wf_of_snd heq (s.writeUser_wf _ _ _ _ h)

theorem execTimeQuery_wf (s : State) (h : Memory.wf s.hbm = true) : OutWf (execTimeQuery s) :=
  callStep_wf h fun c => by simp [h]

theorem execSetStreamHandler_wf (s : State) (h : Memory.wf s.hbm = true) : OutWf (execSetStreamHandler s) := by
  refine callStep_wf h fun c => ?_
  dsimp only
  (repeat' split) <;> simp [h]

theorem execTaskReport_wf (s : State) (h : Memory.wf s.hbm = true) : OutWf (execTaskReport s) := by
  refine callStep_wf h fun c => ?_
  split
  · exact h
  · split
    next heq => exact wf_of_snd heq (s.writeUser_wf _ _ _ _ h)
    next heq => exact wf_of_snd heq (s.writeUser_wf _ _ _ _ h)

theorem execYield_wf (s : State) (h : Memory.wf s.hbm = true) : OutWf (execYield s) :=
  callStep_wf h fun c => by simp [h]

theorem execPatchQuery_wf (s : State) (h : Memory.wf s.hbm = true) : OutWf (execPatchQuery s) := by
  refine callStep_wf h fun c => ?_
  dsimp only
  split
  next heq => exact wf_of_snd heq (s.writeUser_wf _ _ _ _ h)
  next heq => exact wf_of_snd heq (s.writeUser_wf _ _ _ _ h)

theorem execEventPost_wf (s : State) (h : Memory.wf s.hbm = true) : OutWf (execEventPost s) := by
  refine callStep_wf h fun c => ?_
  (repeat' split) <;> simp [h]

theorem execEndpointMessageArrival_wf (hd : Nat) (msg : List Byte) (s : State) (h : Memory.wf s.hbm = true) :
    OutWf (execEndpointMessageArrival hd msg s) := by
  unfold execEndpointMessageArrival
  split <;> simp [h]

/-! What Machine/Launch defines. -/

theorem execLaunchRecord_wf (msg : List Byte) (plan : LoadPlan) (s : State) (h : Memory.wf s.hbm = true) :
    OutWf (execLaunchRecord msg plan s) := by
  simp only [execLaunchRecord]
  (repeat' split) <;> simp [h]

/-! What Machine/Board defines. -/

theorem execRefclkLoss_wf (s : State) (h : Memory.wf s.hbm = true) : OutWf (execRefclkLoss s) := by
  unfold execRefclkLoss
  split <;> simp [h]

theorem execRefclkReturn_wf (s : State) (h : Memory.wf s.hbm = true) : OutWf (execRefclkReturn s) := by
  unfold execRefclkReturn
  split <;> simp [h]

theorem execGtcCorrection_wf (s : State) (h : Memory.wf s.hbm = true) : OutWf (execGtcCorrection s) := by
  simp only [execGtcCorrection]
  (repeat' split) <;> simp [h]

theorem execSupplyDroop_wf (s : State) (h : Memory.wf s.hbm = true) : OutWf (execSupplyDroop s) := by
  simp [execSupplyDroop, h]

theorem execColdReset_wf (d : Nat) (boot : BootInfo) (s : State) (h : Memory.wf s.hbm = true) : OutWf (execColdReset d boot s) := by
  unfold execColdReset
  split
  · exact (outWf_next s).mpr h
  · extract_lets t clear u v w
    have ht : Memory.wf t.hbm = true := by
      dsimp only [t]
      split
      · exact s.coldState_wf
      · exact h
    split
    · simp [u, ht]
    · split
      · simp [v, u, ht]
      · split <;> simp [w, v, u, ht]

theorem execDieAdmission_wf (s : State) (h : Memory.wf s.hbm = true) : OutWf (execDieAdmission s) := by
  simp only [execDieAdmission]
  (repeat' split) <;> simp [h]

theorem execCalibrationEnd_wf (s : State) (h : Memory.wf s.hbm = true) : OutWf (execCalibrationEnd s) := by
  rw [execCalibrationEnd, outWf_next, foldl_hbm]
  · exact h
  · simp

theorem execGetVersion_wf (s : State) (h : Memory.wf s.hbm = true) : OutWf (execGetVersion s) := by
  simp [execGetVersion, h]

theorem execNegotiateAlgorithms_wf (s : State) (h : Memory.wf s.hbm = true) : OutWf (execNegotiateAlgorithms s) := by
  simp [execNegotiateAlgorithms, h]

theorem execGetMeasurements_wf (d : Nat) (idx : BitVec 8) (s : State) (h : Memory.wf s.hbm = true) :
    OutWf (execGetMeasurements d idx s) := by
  simp [execGetMeasurements, h]

theorem execSpdmUnsupportedRequest_wf (d : Nat) (code : BitVec 8) (s : State) (h : Memory.wf s.hbm = true) :
    OutWf (execSpdmUnsupportedRequest d code s) := by
  simp [execSpdmUnsupportedRequest, h]

theorem execReadReliabilityRecord_wf (s : State) (h : Memory.wf s.hbm = true) : OutWf (execReadReliabilityRecord s) := by
  simp [execReadReliabilityRecord, h]

theorem execSramCorrectedError_wf (s : State) (h : Memory.wf s.hbm = true) : OutWf (execSramCorrectedError s) := by
  simp [execSramCorrectedError, h]

theorem execSramUncorrectedError_wf (w : SramWord) (s : State) (h : Memory.wf s.hbm = true) :
    OutWf (execSramUncorrectedError w s) := by
  simp only [execSramUncorrectedError]
  (repeat' split) <;> simp [h]

theorem execHbmUncorrectedError_wf (sec : Nat) (s : State) (h : Memory.wf s.hbm = true) :
    OutWf (execHbmUncorrectedError sec s) := by
  simp [execHbmUncorrectedError, h]

theorem execUcieFlitRetry_wf (s : State) (h : Memory.wf s.hbm = true) : OutWf (execUcieFlitRetry s) := by
  simp [execUcieFlitRetry, h]

theorem execUcieFlitFailure_wf (d e g : Nat) (s : State) (h : Memory.wf s.hbm = true) : OutWf (execUcieFlitFailure d e g s) := by
  have hcut : ∀ (r : Option State) (es : List (Nat × Nat)), (∀ u ∈ r, u.hbm = s.hbm) →
      Memory.wf ({ r.getD s with edges := es } : State).hbm = true := by
    intro r es hr
    cases r with
    | none => exact h
    | some u => exact (hr u rfl).symm ▸ h
  unfold execUcieFlitFailure
  dsimp only
  split
  · simp [h]
  · rw [outWf_next, State.modDie_hbm]
    refine hcut _ _ ?_
    split
    · split
      · simp
      · exact s.loseRequest_hbm g _
    · split
      · exact s.loseEntry_hbm _ _
      · simp

theorem execLinkRetrainEnd_wf (d e : Nat) (s : State) (h : Memory.wf s.hbm = true) : OutWf (execLinkRetrainEnd d e s) := by
  simp [execLinkRetrainEnd, h]

theorem execTimingReplay_wf (g : Nat) (q : Eng × Nat) (trips : Nat) (s : State) (h : Memory.wf s.hbm = true) :
    OutWf (execTimingReplay g q trips s) := by
  simp only [execTimingReplay]
  (repeat' split) <;> simp [h]

theorem execWarmReset_wf (s : State) (h : Memory.wf s.hbm = true) : OutWf (execWarmReset s) := by
  simp only [execWarmReset]
  (repeat' split) <;> simp [h]

theorem execWarmResetWriteBack_wf (s : State) (h : Memory.wf s.hbm = true) : OutWf (execWarmResetWriteBack s) := by
  unfold execWarmResetWriteBack
  split <;> simp [h]

theorem execWarmResetLogicReset_wf (s : State) (h : Memory.wf s.hbm = true) : OutWf (execWarmResetLogicReset s) := by
  simp only [execWarmResetLogicReset]
  (repeat' split) <;> simp [h]

theorem execWarmResetReadmit_wf (boot : BootInfo) (s : State) (h : Memory.wf s.hbm = true) :
    OutWf (execWarmResetReadmit boot s) := by
  unfold execWarmResetReadmit
  split
  · dsimp only
    have hfold : ∀ t : State, t.hbm = s.hbm → ∀ (l : List Nat) (w : Word),
        (l.foldl (fun s p => s.postEvent p 5 w) t).hbm = s.hbm := fun t ht l w => by
      rw [foldl_hbm, ht]
      simp
    split
    · rw [outWf_next]
      dsimp only
      rw [hfold _ (by dsimp only; split <;> simp)]
      exact h
    · rw [outWf_next, State.startWarm_hbm]
      dsimp only
      rw [hfold _ (by dsimp only; split <;> simp)]
      exact h
  · simp [h]

/-! What Machine/Control defines. -/

theorem execBr_wf (f : BrF) (s : State) (h : Memory.wf s.hbm = true) : OutWf (execBr f s) := branchOp_wf h

theorem execBrZ_wf (f : BrF) (s : State) (h : Memory.wf s.hbm = true) : OutWf (execBrZ f s) := branchOp_wf h

theorem execCall_wf (f : BrF) (s : State) (h : Memory.wf s.hbm = true) : OutWf (execCall f s) := by
  refine withOps_wf h fun a vs => ?_
  dsimp only
  split
  · simp [h]
  · split
    · simp [h]
    · simp [h]
    · exact State.popThen_wf h fun t vs ht => by simp [ht]

theorem execRet_wf (f : BrF) (s : State) (h : Memory.wf s.hbm = true) : OutWf (execRet f s) := by
  refine withOps_wf h fun a vs => ?_
  dsimp only
  split
  · simp [h]
  · split
    · simp [h]
    · exact State.popThen_wf h fun t vs ht => by simp [ht]
  · split <;> simp [h]

theorem execTrap_wf (f : ImmF) (s : State) (h : Memory.wf s.hbm = true) : OutWf (execTrap f s) :=
  withOps_wf h fun a vs => by simp [h]

theorem execSvc_wf (f : ImmF) (s : State) (h : Memory.wf s.hbm = true) : OutWf (execSvc f s) := by
  refine withOps_wf h fun a vs => ?_
  dsimp only
  (repeat' split) <;> simp [h]

theorem execEret_wf (f : BaseF) (carry : List (BitVec 8)) (s : State) (h : Memory.wf s.hbm = true) :
    OutWf (execEret f carry s) := by
  refine withOps_wf h fun a vs => ?_
  split
  · simp [h]
  · exact State.popThen_wf h fun t vs ht => by simp [ht]

theorem execEretRetry_wf (f : BaseF) (s : State) (h : Memory.wf s.hbm = true) : OutWf (execEretRetry f s) :=
  withOps_wf h fun a vs => by simp [h]

theorem execTranslationFault_wf (f : CodeFault) (s : State) (h : Memory.wf s.hbm = true) : OutWf (execTranslationFault f s) := by
  simp only [execTranslationFault]
  (repeat' split) <;> simp [h]

theorem execEmulateCall_wf (slot : Nat) (w : Word) (s : State) (h : Memory.wf s.hbm = true) : OutWf (execEmulateCall slot w s) := by
  simp only [execEmulateCall]
  (repeat' split) <;> simp [h]

theorem execClaimedInstruction_wf (w : Word) (s : State) (h : Memory.wf s.hbm = true) : OutWf (execClaimedInstruction w s) := by
  simp only [execClaimedInstruction]
  (repeat' split) <;> simp [h]

/-! What Machine/Scalar defines. -/

theorem execLi64_wf (f : BaseF) (lit : BitVec 56) (s : State) (h : Memory.wf s.hbm = true) : OutWf (execLi64 f lit s) :=
  withOps_wf h fun a vs => by simp [h]

theorem execNop_wf (f : BaseF) (s : State) (h : Memory.wf s.hbm = true) : OutWf (execNop f s) :=
  withOps_wf h fun a vs => by simp [h]

theorem execKeep_wf (f : BaseF) (s : State) (h : Memory.wf s.hbm = true) : OutWf (execKeep f s) :=
  withOps_wf h fun a vs => by simp [h]

theorem execEnter_wf (f : BaseF) (s : State) (h : Memory.wf s.hbm = true) : OutWf (execEnter f s) :=
  withOps_wf h fun a vs => by simp [h]

/-! What Machine/StreamOps defines. -/

theorem execEntryIssue_wf (s : State) (h : Memory.wf s.hbm = true) : OutWf (execEntryIssue s) :=
  onEntry_wf h fun p n => by simp [h]

theorem execEntryDone_wf (s : State) (h : Memory.wf s.hbm = true) : OutWf (execEntryDone s) :=
  onEntry_wf h fun p n => by simp [h]

theorem execEntryFault_wf (s : State) (h : Memory.wf s.hbm = true) : OutWf (execEntryFault s) :=
  onEntry_wf h fun p n => by simp [h]

theorem execEntryRetire_wf (s : State) (h : Memory.wf s.hbm = true) : OutWf (execEntryRetire s) :=
  onStream_wf h fun p => by simp [h]

theorem execTWaitPoll_wf (s : State) (h : Memory.wf s.hbm = true) : OutWf (execTWaitPoll s) := by
  refine onEntry_wf h fun p n => ?_
  (repeat' split) <;> simp [h]

theorem execWindowWaitBoundPassed_wf (s : State) (h : Memory.wf s.hbm = true) : OutWf (execWindowWaitBoundPassed s) :=
  onEntry_wf h fun p n => by simp [h]

theorem execSendDeliveryComplete_wf (p n : Nat) (ok : Bool) (s : State) (h : Memory.wf s.hbm = true) :
    OutWf (execSendDeliveryComplete p n ok s) := by
  simp only [execSendDeliveryComplete]
  (repeat' split) <;> simp [h]

theorem execStreamEnd_wf (s : State) (h : Memory.wf s.hbm = true) : OutWf (execStreamEnd s) := by
  refine onStream_wf h fun p => ?_
  (repeat' split) <;> simp [h]

theorem execStreamTrap_wf (s : State) (h : Memory.wf s.hbm = true) : OutWf (execStreamTrap s) :=
  onStream_wf h fun p => by simp [h]

theorem execStreamComplete_wf (s : State) (h : Memory.wf s.hbm = true) : OutWf (execStreamComplete s) := by
  refine onStream_wf h fun p => ?_
  (repeat' split) <;> simp [h]

theorem execStreamRestart_wf (s : State) (h : Memory.wf s.hbm = true) : OutWf (execStreamRestart s) := by
  refine onStream_wf h fun p => ?_
  (repeat' split) <;> simp [h]

theorem execStreamKill_wf (s : State) (h : Memory.wf s.hbm = true) : OutWf (execStreamKill s) := by
  refine onStream_wf h fun p => ?_
  (repeat' split) <;> simp [h]

end Sys2Proof.Machine

end

section
/-! PROOFS. Memory stays canonical: one step. -/

namespace Sys2Proof.Machine

/-- The meaning of every instruction and event leaves memory in canonical form. -/
theorem exec_wf {s : State} (h : Memory.wf s.hbm = true) (i : Instr) : OutWf (exec i s) :=
  match i with
  | .launchRecord _ _ => execLaunchRecord_wf _ _ _ h
  | .translationFault _ => execTranslationFault_wf _ _ h
  | .emulateCall _ _ => execEmulateCall_wf _ _ _ h
  | .engineCommandStart _ _ => execEngineCommandStart_wf _ _ _ h
  | .commandComplete _ _ _ => execCommandComplete_wf _ _ _ _ h
  | .commandKill _ _ _ _ => execCommandKill_wf _ _ _ _ _ h
  | .gangFormed _ _ => execGangFormed_wf _ _ _ h
  | .copyFault _ _ => execCopyFault_wf _ _ _ h
  | .waitBoundExpiry _ _ => execWaitBoundExpiry_wf _ _ _ h
  | .teamBarComplete _ _ => execTeamBarComplete_wf _ _ _ h
  | .storeMove _ _ => execStoreMove_wf _ _ _ h
  | .cacheWriteBack _ _ => execCacheWriteBack_wf _ _ _ h
  | .cacheLineDrop _ _ => execCacheLineDrop_wf _ _ _ h
  | .pageWalk _ _ => execPageWalk_wf _ _ _ h
  | .shootdown _ _ => execShootdown_wf _ _ _ h
  | .eventDelivery _ _ _ => execEventDelivery_wf _ _ _ _ h
  | .partitionSchedule _ _ => execPartitionSchedule_wf _ _ _ h
  | .partitionDeschedule _ _ => execPartitionDeschedule_wf _ _ _ h
  | .ownWrite _ _ _ => execOwnWrite_wf _ _ _ _ h
  | .xheapWrite _ _ => execXheapWrite_wf _ _ _ h
  | .spinWrite _ _ => execSpinWrite_wf _ _ _ h
  | .keyLoad _ _ => execKeyLoad_wf _ _ _ h
  | .keyClear _ _ => execKeyClear_wf _ _ _ h
  | .errinjArm _ _ => execErrinjArm_wf _ _ _ h
  | .errinjCancel _ _ => execErrinjCancel_wf _ _ _ h
  | .memAlloc _ => execMemAlloc_wf _ _ h
  | .viewMap _ => execViewMap_wf _ _ h
  | .endpointOpen _ => execEndpointOpen_wf _ _ h
  | .endpointMessageArrival _ _ => execEndpointMessageArrival_wf _ _ _ h
  | .sendDeliveryComplete _ _ _ => execSendDeliveryComplete_wf _ _ _ _ h
  | .getMeasurements _ _ => execGetMeasurements_wf _ _ _ h
  | .spdmUnsupportedRequest _ _ => execSpdmUnsupportedRequest_wf _ _ _ h
  | .warmResetReadmit _ => execWarmResetReadmit_wf _ _ h
  | .coldReset _ _ => execColdReset_wf _ _ _ h
  | .ucieFlitFailure _ _ _ => execUcieFlitFailure_wf _ _ _ _ h
  | .linkRetrainEnd _ _ => execLinkRetrainEnd_wf _ _ _ h
  | .sramUncorrectedError _ => execSramUncorrectedError_wf _ _ h
  | .hbmUncorrectedError _ => execHbmUncorrectedError_wf _ _ h
  | .timingReplay _ _ _ => execTimingReplay_wf _ _ _ _ h
  | .claimedInstruction _ => execClaimedInstruction_wf _ _ h
  | .enter _ => execEnter_wf _ _ h
  | .br _ => execBr_wf _ _ h
  | .brZ _ => execBrZ_wf _ _ h
  | .call _ => execCall_wf _ _ h
  | .ret _ => execRet_wf _ _ h
  | .halt _ => execHalt_wf _ _ h
  | .nop _ => execNop_wf _ _ h
  | .keep _ => execKeep_wf _ _ h
  | .trap _ => execTrap_wf _ _ h
  | .svc _ => execSvc_wf _ _ h
  | .add f => (pureScalar_wf h : OutWf (execAdd f s))
  | .sub f => (pureScalar_wf h : OutWf (execSub f s))
  | .mul f => (pureScalar_wf h : OutWf (execMul f s))
  | .mulh f => (pureScalar_wf h : OutWf (execMulh f s))
  | .div f => (pureScalar_wf h : OutWf (execDiv f s))
  | .rem f => (pureScalar_wf h : OutWf (execRem f s))
  | .min f => (pureScalar_wf h : OutWf (execMin f s))
  | .max f => (pureScalar_wf h : OutWf (execMax f s))
  | .abs f => (pureScalar_wf h : OutWf (execAbs f s))
  | .neg f => (pureScalar_wf h : OutWf (execNeg f s))
  | .and f => (pureScalar_wf h : OutWf (execAnd f s))
  | .or f => (pureScalar_wf h : OutWf (execOr f s))
  | .xor f => (pureScalar_wf h : OutWf (execXor f s))
  | .andn f => (pureScalar_wf h : OutWf (execAndn f s))
  | .not f => (pureScalar_wf h : OutWf (execNot f s))
  | .shl f => (pureScalar_wf h : OutWf (execShl f s))
  | .shr f => (pureScalar_wf h : OutWf (execShr f s))
  | .sar f => (pureScalar_wf h : OutWf (execSar f s))
  | .rot f => (pureScalar_wf h : OutWf (execRot f s))
  | .clz f => (pureScalar_wf h : OutWf (execClz f s))
  | .ffs f => (pureScalar_wf h : OutWf (execFfs f s))
  | .popc f => (pureScalar_wf h : OutWf (execPopc f s))
  | .ext f => (pureScalar_wf h : OutWf (execExt f s))
  | .cmpEq f => (pureScalar_wf h : OutWf (execCmpEq f s))
  | .cmpNe f => (pureScalar_wf h : OutWf (execCmpNe f s))
  | .cmpLt f => (pureScalar_wf h : OutWf (execCmpLt f s))
  | .cmpLe f => (pureScalar_wf h : OutWf (execCmpLe f s))
  | .cmpGt f => (pureScalar_wf h : OutWf (execCmpGt f s))
  | .cmpGe f => (pureScalar_wf h : OutWf (execCmpGe f s))
  | .sel f => (pureScalar_wf h : OutWf (execSel f s))
  | .li f => (pureScalar_wf h : OutWf (execLi f s))
  | .liZ f => (pureScalar_wf h : OutWf (execLiZ f s))
  | .li64 _ _ => execLi64_wf _ _ _ h
  | .ld _ => execLd_wf _ _ h
  | .st _ => execSt_wf _ _ h
  | .ldD _ => execLdD_wf _ _ h
  | .stD _ => execStD_wf _ _ h
  | .amoAdd f => (atomicOp_wf h : OutWf (execAmoAdd f s))
  | .amoMin f => (atomicOp_wf h : OutWf (execAmoMin f s))
  | .amoMax f => (atomicOp_wf h : OutWf (execAmoMax f s))
  | .amoAnd f => (atomicOp_wf h : OutWf (execAmoAnd f s))
  | .amoOr f => (atomicOp_wf h : OutWf (execAmoOr f s))
  | .amoXor f => (atomicOp_wf h : OutWf (execAmoXor f s))
  | .amoSwap f => (atomicOp_wf h : OutWf (execAmoSwap f s))
  | .cas f => (atomicOp_wf h : OutWf (execCas f s))
  | .fenceAcq f => (fenceOp_wf h : OutWf (execFenceAcq f s))
  | .fenceRel f => (fenceOp_wf h : OutWf (execFenceRel f s))
  | .fenceAr f => (fenceOp_wf h : OutWf (execFenceAr f s))
  | .align _ => execAlign_wf _ _ h
  | .cwb f => (cacheOpOf_wf h : OutWf (execCwb f s))
  | .cinv f => (cacheOpOf_wf h : OutWf (execCinv f s))
  | .semSig _ => execSemSig_wf _ _ h
  | .semSigErr _ => execSemSigErr_wf _ _ h
  | .semWait f => (semWaitOp_wf h : OutWf (execSemWait f s))
  | .semWaitT f => (semWaitOp_wf h : OutWf (execSemWaitT f s))
  | .semClr _ => execSemClr_wf _ _ h
  | .semClrAll _ => execSemClrAll_wf _ _ h
  | .barArr f => (barArrOp_wf h : OutWf (execBarArr f s))
  | .barArrErr f => (barArrOp_wf h : OutWf (execBarArrErr f s))
  | .barWait f => (barWaitOp_wf h : OutWf (execBarWait f s))
  | .barWaitT f => (barWaitOp_wf h : OutWf (execBarWaitT f s))
  | .teamJoin _ => execTeamJoin_wf _ _ h
  | .teamLeave _ => execTeamLeave_wf _ _ h
  | .teamBar _ => execTeamBar_wf _ _ h
  | .trig _ => execTrig_wf _ _ h
  | .sleepGt f => (sleepOp_wf h : OutWf (execSleepGt f s))
  | .sleepGtNt f => (sleepOp_wf h : OutWf (execSleepGtNt f s))
  | .vsemSig f => (withPush_wf h : OutWf (execVsemSig f s))
  | .vsemSigErr f => (withPush_wf h : OutWf (execVsemSigErr f s))
  | .vsemWait f => (withPush_wf h : OutWf (execVsemWait f s))
  | .tdSet _ => execTdSet_wf _ _ h
  | .tdSetRec _ => execTdSetRec_wf _ _ h
  | .tdGet _ => execTdGet_wf _ _ h
  | .portSet f => (portSetOp_wf h : OutWf (execPortSet f s))
  | .portSetW f => (portSetOp_wf h : OutWf (execPortSetW f s))
  | .portRst f => (withPush_wf h : OutWf (execPortRst f s))
  | .portRstOff f => (withPush_wf h : OutWf (execPortRstOff f s))
  | .chanCfg f => (withPush_wf h : OutWf (execChanCfg f s))
  | .phase _ => execPhase_wf _ _ h
  | .vadd f => (vecOp_wf h : OutWf (execVadd f s))
  | .vsub f => (vecOp_wf h : OutWf (execVsub f s))
  | .vmul f => (vecOp_wf h : OutWf (execVmul f s))
  | .vmin f => (vecOp_wf h : OutWf (execVmin f s))
  | .vmax f => (vecOp_wf h : OutWf (execVmax f s))
  | .vabs f => (vecOp_wf h : OutWf (execVabs f s))
  | .vneg f => (vecOp_wf h : OutWf (execVneg f s))
  | .vfma f => (vecOp_wf h : OutWf (execVfma f s))
  | .vfms f => (vecOp_wf h : OutWf (execVfms f s))
  | .vfnma f => (vecOp_wf h : OutWf (execVfnma f s))
  | .vfnms f => (vecOp_wf h : OutWf (execVfnms f s))
  | .vand f => (vecOp_wf h : OutWf (execVand f s))
  | .vor f => (vecOp_wf h : OutWf (execVor f s))
  | .vxor f => (vecOp_wf h : OutWf (execVxor f s))
  | .vandn f => (vecOp_wf h : OutWf (execVandn f s))
  | .vnot f => (vecOp_wf h : OutWf (execVnot f s))
  | .vshl f => (vecOp_wf h : OutWf (execVshl f s))
  | .vshr f => (vecOp_wf h : OutWf (execVshr f s))
  | .vsar f => (vecOp_wf h : OutWf (execVsar f s))
  | .vclz f => (vecOp_wf h : OutWf (execVclz f s))
  | .vffs f => (vecOp_wf h : OutWf (execVffs f s))
  | .vpopc f => (vecOp_wf h : OutWf (execVpopc f s))
  | .vcmpEq f => (vecOp_wf h : OutWf (execVcmpEq f s))
  | .vcmpNe f => (vecOp_wf h : OutWf (execVcmpNe f s))
  | .vcmpLt f => (vecOp_wf h : OutWf (execVcmpLt f s))
  | .vcmpLe f => (vecOp_wf h : OutWf (execVcmpLe f s))
  | .vcmpGt f => (vecOp_wf h : OutWf (execVcmpGt f s))
  | .vcmpGe f => (vecOp_wf h : OutWf (execVcmpGe f s))
  | .vsel f => (vecOp_wf h : OutWf (execVsel f s))
  | .vmulh f => (vecOp_wf h : OutWf (execVmulh f s))
  | .vbc f => (vecOp_wf h : OutWf (execVbc f s))
  | .vbcLane f => (vecOp_wf h : OutWf (execVbcLane f s))
  | .vext f => (vecOp_wf h : OutWf (execVext f s))
  | .vins f => (vecOp_wf h : OutWf (execVins f s))
  | .vperm f => (vecOp_wf h : OutWf (execVperm f s))
  | .vrot f => (vecOp_wf h : OutWf (execVrot f s))
  | .vredSum f => (vecOp_wf h : OutWf (execVredSum f s))
  | .vredMin f => (vecOp_wf h : OutWf (execVredMin f s))
  | .vredMax f => (vecOp_wf h : OutWf (execVredMax f s))
  | .vredAnd f => (vecOp_wf h : OutWf (execVredAnd f s))
  | .vredOr f => (vecOp_wf h : OutWf (execVredOr f s))
  | .vredXor f => (vecOp_wf h : OutWf (execVredXor f s))
  | .vscanSum f => (vecOp_wf h : OutWf (execVscanSum f s))
  | .vscanMin f => (vecOp_wf h : OutWf (execVscanMin f s))
  | .vscanMax f => (vecOp_wf h : OutWf (execVscanMax f s))
  | .vput f => (vputOp_wf h : OutWf (execVput f s))
  | .vputNb f => (vputOp_wf h : OutWf (execVputNb f s))
  | .vtry _ => execVtry_wf _ _ h
  | .vcvt f => (vecOp_wf h : OutWf (execVcvt f s))
  | .vwid f => (vecOp_wf h : OutWf (execVwid f s))
  | .vnar f => (vecOp_wf h : OutWf (execVnar f s))
  | .vexp2 f => (vecOp_wf h : OutWf (execVexp2 f s))
  | .vlog2 f => (vecOp_wf h : OutWf (execVlog2 f s))
  | .vrcp f => (vecOp_wf h : OutWf (execVrcp f s))
  | .vrsq f => (vecOp_wf h : OutWf (execVrsq f s))
  | .vsqrt f => (vecOp_wf h : OutWf (execVsqrt f s))
  | .vtanh f => (vecOp_wf h : OutWf (execVtanh f s))
  | .mm f => (pushSlots_wf h : OutWf (execMm f s))
  | .mmDrain f => (pushSlots_wf h : OutWf (execMmDrain f s))
  | .mmDrainQ0 f => (pushSlots_wf h : OutWf (execMmDrainQ0 f s))
  | .mmGang f => (withPush_wf h : OutWf (execMmGang f s))
  | .mmGangOff f => (withPush_wf h : OutWf (execMmGangOff f s))
  | .cp f => (pushSlots_wf h : OutWf (execCp f s))
  | .cpQ2 f => (pushSlots_wf h : OutWf (execCpQ2 f s))
  | .cpQ3 f => (pushSlots_wf h : OutWf (execCpQ3 f s))
  | .cpFill f => (pushSlots_wf h : OutWf (execCpFill f s))
  | .cpGather f => (pushSlots_wf h : OutWf (execCpGather f s))
  | .tlbInv f => (withPush_wf h : OutWf (execTlbInv f s))
  | .tlbInvAll f => (withPush_wf h : OutWf (execTlbInvAll f s))
  | .tNew f => (streamOp_wf h : OutWf (execTNew f s))
  | .tFree f => (streamOp_wf h : OutWf (execTFree f s))
  | .tView f => (streamOp_wf h : OutWf (execTView f s))
  | .tMap n f tl args => (streamOp_wf h : OutWf (execTMap n f tl args s))
  | .tCopy n f => (streamOp_wf h : OutWf (execTCopy n f s))
  | .tFill f => (streamOp_wf h : OutWf (execTFill f s))
  | .tRead f => (streamOp_wf h : OutWf (execTRead f s))
  | .tFence f => (streamOp_wf h : OutWf (execTFence f s))
  | .tSync f => (streamOp_wf h : OutWf (execTSync f s))
  | .tSignalAdd f => (streamOp_wf h : OutWf (execTSignalAdd f s))
  | .tSignalStore f => (streamOp_wf h : OutWf (execTSignalStore f s))
  | .tSvc f => (streamOp_wf h : OutWf (execTSvc f s))
  | .tSend f => (streamOp_wf h : OutWf (execTSend f s))
  | .tRecv f => (streamOp_wf h : OutWf (execTRecv f s))
  | .tWaitEq f => (streamOp_wf h : OutWf (execTWaitEq f s))
  | .tWaitNe f => (streamOp_wf h : OutWf (execTWaitNe f s))
  | .tWaitGe f => (streamOp_wf h : OutWf (execTWaitGe f s))
  | .eret _ _ => execEret_wf _ _ _ h
  | .eretRetry _ => execEretRetry_wf _ _ h
  | .csrR _ => execCsrR_wf _ _ h
  | .csrW _ => execCsrW_wf _ _ h
  | .codeInv f => (codeInvOp_wf h : OutWf (execCodeInv f s))
  | .codeInvObj f => (codeInvOp_wf h : OutWf (execCodeInvObj f s))
  | .codeInvAll f => (codeInvOp_wf h : OutWf (execCodeInvAll f s))
  | .scanFrz f => (frzOp_wf h : OutWf (execScanFrz f s))
  | .scanFrzAt f => (frzOp_wf h : OutWf (execScanFrzAt f s))
  | .scanOut _ => execScanOut_wf _ _ h
  | .scanIn _ => execScanIn_wf _ _ h
  | .scanRun _ => execScanRun_wf _ _ h
  | .patchLd _ => execPatchLd_wf _ _ h
  | .ctxScrub _ => execCtxScrub_wf _ _ h
  | .streamEnd => execStreamEnd_wf _ h
  | .entryIssue => execEntryIssue_wf _ h
  | .entryDone => execEntryDone_wf _ h
  | .entryFault => execEntryFault_wf _ h
  | .entryRetire => execEntryRetire_wf _ h
  | .streamTrap => execStreamTrap_wf _ h
  | .streamComplete => execStreamComplete_wf _ h
  | .streamRestart => execStreamRestart_wf _ h
  | .streamKill => execStreamKill_wf _ h
  | .globalDispatch => execGlobalDispatch_wf _ h
  | .batchArrival => execBatchArrival_wf _ h
  | .taskStart => execTaskStart_wf _ h
  | .haltDrainEnd => execHaltDrainEnd_wf _ h
  | .blockLower => execBlockLower_wf _ h
  | .blockInstall => execBlockInstall_wf _ h
  | .queuePush => execQueuePush_wf _ h
  | .promiseTimeReached => execPromiseTimeReached_wf _ h
  | .semWaitSatisfied => execSemWaitSatisfied_wf _ h
  | .barWaitPoll => execBarWaitPoll_wf _ h
  | .tWaitPoll => execTWaitPoll_wf _ h
  | .teamJoinComplete => execTeamJoinComplete_wf _ h
  | .trigRelease => execTrigRelease_wf _ h
  | .chanCfgPerform => execChanCfgPerform_wf _ h
  | .phaseMove => execPhaseMove_wf _ h
  | .loadPerform => execLoadPerform_wf _ h
  | .storeLeaveSq => execStoreLeaveSq_wf _ h
  | .releaseComplete => execReleaseComplete_wf _ h
  | .acquireComplete => execAcquireComplete_wf _ h
  | .atomicPerform => execAtomicPerform_wf _ h
  | .shootdownComplete => execShootdownComplete_wf _ h
  | .tqpop => execTqpop_wf _ h
  | .evpop => execEvpop_wf _ h
  | .sliceExpiry => execSliceExpiry_wf _ h
  | .cctlRetry => (cctlStep_wf h : OutWf (execCctlRetry s))
  | .cctlResume => execCctlResume_wf _ h
  | .cctlKill => (cctlStep_wf h : OutWf (execCctlKill s))
  | .cctlDrain => (cctlStep_wf h : OutWf (execCctlDrain s))
  | .cctlRelease => (cctlStep_wf h : OutWf (execCctlRelease s))
  | .cctlStart => (cctlStep_wf h : OutWf (execCctlStart s))
  | .drainEnd => execDrainEnd_wf _ h
  | .drainLimitFreeze => execDrainLimitFreeze_wf _ h
  | .preemptionHoldEnd => execPreemptionHoldEnd_wf _ h
  | .streamContextReset => execStreamContextReset_wf _ h
  | .streamResetDone => execStreamResetDone_wf _ h
  | .keyOperationEnd => execKeyOperationEnd_wf _ h
  | .scanFreezeDeferred => execScanFreezeDeferred_wf _ h
  | .scanFreezeComplete => execScanFreezeComplete_wf _ h
  | .exit => execExit_wf _ h
  | .writeLog => execWriteLog_wf _ h
  | .memFree => execMemFree_wf _ h
  | .endpointClose => execEndpointClose_wf _ h
  | .ctlRecv => execCtlRecv_wf _ h
  | .ctlSend => execCtlSend_wf _ h
  | .topologyQuery => execTopologyQuery_wf _ h
  | .timeQuery => execTimeQuery_wf _ h
  | .setStreamHandler => execSetStreamHandler_wf _ h
  | .taskReport => execTaskReport_wf _ h
  | .yield => execYield_wf _ h
  | .patchQuery => execPatchQuery_wf _ h
  | .eventPost => execEventPost_wf _ h
  | .getVersion => execGetVersion_wf _ h
  | .getCapabilities => (spdmStep_wf h : OutWf (execGetCapabilities s))
  | .negotiateAlgorithms => execNegotiateAlgorithms_wf _ h
  | .getDigests => (spdmStep_wf h : OutWf (execGetDigests s))
  | .getCertificate => (spdmStep_wf h : OutWf (execGetCertificate s))
  | .challenge => (spdmStep_wf h : OutWf (execChallenge s))
  | .readTemperature => (readingStep_wf h : OutWf (execReadTemperature s))
  | .readPower => (readingStep_wf h : OutWf (execReadPower s))
  | .readReliabilityRecord => execReadReliabilityRecord_wf _ h
  | .warmReset => execWarmReset_wf _ h
  | .warmResetWriteBack => execWarmResetWriteBack_wf _ h
  | .warmResetLogicReset => execWarmResetLogicReset_wf _ h
  | .dieAdmission => execDieAdmission_wf _ h
  | .calibrationEnd => execCalibrationEnd_wf _ h
  | .refclkLoss => execRefclkLoss_wf _ h
  | .refclkReturn => execRefclkReturn_wf _ h
  | .gtcCorrection => execGtcCorrection_wf _ h
  | .supplyDroop => execSupplyDroop_wf _ h
  | .ucieFlitRetry => execUcieFlitRetry_wf _ h
  | .sramCorrectedError => execSramCorrectedError_wf _ h
  | .windowWaitBoundPassed => execWindowWaitBoundPassed_wf _ h

theorem exec_focus_wf {s : State} (a : Agent) (i : Instr) (h : Memory.wf s.hbm = true) : OutWf (exec i { s with focus := a }) :=
  exec_wf (s := { s with focus := a }) h i

theorem runAgent_wf {s : State} (a : Agent) (h : Memory.wf s.hbm = true) : OutWf (runAgent a s) := by
  have hb := State.boundary_wf { s with focus := a } a h
  unfold runAgent
  dsimp only
  split
  · exact (outWf_next _).mpr h
  · split
    next u hu => exact (outWf_next u).mpr (hb u hu)
    next =>
      split
      · exact exec_focus_wf _ _ h
      · exact exec_focus_wf _ _ h
      · exact exec_focus_wf _ _ h
      · simp [h]
      · simp [h]
      · simp [h]
      · exact exec_focus_wf _ _ h

theorem doAction_wf {s : State} (x : Action) (h : Memory.wf s.hbm = true) : OutWf (doAction x s) := by
  unfold doAction
  split
  · split
    · exact runAgent_wf _ h
    · simp
  · split
    · simp
    · split
      · exact exec_focus_wf _ _ h
      · simp
  · split <;> simp [h]
  · split <;> simp [h]
  · split <;> simp [h]
  · simp [h]
  · split <;> simp [h]
  · split <;> simp [h]
  · split <;> simp [h]
  · split <;> simp [h]
  · split <;> simp [h]
  · split <;> simp [h]
  · split <;> simp [h]
  · split <;> simp [h]

theorem step_wf {s : State} (h : Memory.wf s.hbm = true) : OutWf (step s) := by
  unfold step
  split
  · exact doAction_wf _ h
  · exact doAction_wf _ h

end Sys2Proof.Machine

section
open Sys2Proof Sys2Proof.Machine

/-- Settles O60: memory is written by `hbmWrite` and by the clearing of a page alone, and every step that reaches them keeps the form. -/
theorem memoryStaysCanonical : Obligations.MemoryStaysCanonical := by
  unfold Obligations.MemoryStaysCanonical
  intro s t h hstep
  exact step_wf h t hstep

end
end
